-- ==== Sys2Proof/Word.lean ====
section
/-! DEFINITION. The word types of the TB-2048 model and their plainest conversions (spec/00_scope.md R4, R6, R7, R8). -/

namespace Sys2Proof

/-- A register word (R8). -/
abbrev Word := BitVec 32

/-- A byte of a memory structure (R7). -/
abbrev Byte := BitVec 8

/-- A word whose value is `n` modulo 2^32. -/
abbrev word (n : Nat) : Word := BitVec.ofNat 32 n

/-- A byte whose value is `n` modulo 2^8. -/
abbrev byte (n : Nat) : Byte := BitVec.ofNat 8 n

/-- A table of `n` like things, indexed by `Fin n`. -/
abbrev Tab (α : Type) (n : Nat) := Vector α n

/-- The entry of a table. -/
def Tab.get {α : Type} {n : Nat} (t : Tab α n) (i : Fin n) : α := t[i.val]

/-- The table with one entry replaced. -/
def Tab.put {α : Type} {n : Nat} (t : Tab α n) (i : Fin n) (a : α) : Tab α n := t.set i.val a

/-- The table with one entry changed by `f`. -/
def Tab.upd {α : Type} {n : Nat} (t : Tab α n) (i : Fin n) (f : α → α) : Tab α n := t.put i (f (t.get i))

/-- The bits `hi:lo` of a word, as a number (R6). -/
def bits (w : Word) (hi lo : Nat) : Nat := (w.toNat / 2 ^ lo) % 2 ^ (hi + 1 - lo)

/-- Bit `n` of a word (R6). -/
def bit (w : Word) (n : Nat) : Bool := w.getLsbD n

end Sys2Proof
end

