-- ==== Sys2Proof/Machine/Sparse.lean ====
section
/-! DEFINITION. Sparse memories in one canonical form: a list of (address, value) pairs, addresses strictly rising, no value
equal to what an unlisted address reads as. Equal memories are equal lists. -/

namespace Sys2Proof.Machine

/-- A sparse memory of values of type α. -/
abbrev Sparse (α : Type) := List (Nat × α)

/-- The value at an address; `d` is what an unlisted address reads as. -/
def Sparse.get {α : Type} (d : α) : Sparse α → Nat → α
  | [], _ => d
  | (b, v) :: m, a => if b = a then v else if a < b then d else Sparse.get d m a

/-- The memory with one value replaced; a value equal to `d` is not listed. -/
def Sparse.put {α : Type} [DecidableEq α] (d : α) : Sparse α → Nat → α → Sparse α
  | [], a, v => if v = d then [] else [(a, v)]
  | (b, w) :: m, a, v =>
    if b = a then (if v = d then m else (a, v) :: m)
    else if a < b then (if v = d then (b, w) :: m else (a, v) :: (b, w) :: m)
    else (b, w) :: Sparse.put d m a v

/-- The addresses from `a` on rise strictly and no value is `d`. -/
def Sparse.wfFrom {α : Type} [DecidableEq α] (d : α) : Nat → Sparse α → Bool
  | _, [] => true
  | a, (b, v) :: m => decide (a ≤ b) && decide (v ≠ d) && Sparse.wfFrom d (b + 1) m

/-- The canonical form holds. -/
def Sparse.wf {α : Type} [DecidableEq α] (d : α) (m : Sparse α) : Bool := Sparse.wfFrom d 0 m

/-- The memory with everything from `lo` below `hi` unlisted. -/
def Sparse.clear {α : Type} (m : Sparse α) (lo hi : Nat) : Sparse α := m.filter fun x => x.1 < lo || hi ≤ x.1

/-- Values written from address `a` on. -/
def Sparse.putList {α : Type} [DecidableEq α] (d : α) (m : Sparse α) : Nat → List α → Sparse α
  | _, [] => m
  | a, v :: vs => Sparse.putList d (Sparse.put d m a v) (a + 1) vs

/-! ### Byte memories -/

/-- A byte memory; an unlisted byte reads as 0. -/
abbrev Memory := List Host.Cell

def Memory.read (m : Memory) (a : Nat) : Byte := Sparse.get 0#8 m a
def Memory.write (m : Memory) (a : Nat) (v : Byte) : Memory := Sparse.put 0#8 m a v
def Memory.writeList (m : Memory) (a : Nat) (vs : List Byte) : Memory := Sparse.putList 0#8 m a vs
def Memory.readList (m : Memory) (a n : Nat) : List Byte := (List.range n).map fun i => m.read (a + i)
def Memory.wf (m : Memory) : Bool := Sparse.wf 0#8 m

end Sys2Proof.Machine
end

