-- ==== Sys2Proof/Machine/MgmtPower.lean ====
section
/-! DEFINITION. Management, the log, firmware slots, the Alcove, power domains and fences as data
(spec/17_management_update_alcove.md R447–R471, spec/18_power_reset_faults.md R472–R490, spec/19_electrical_and_package.md R496). -/

namespace Sys2Proof.Machine

/-! ### What flash and fuses hold -/

/-- The output rates Fo (R64, R310). -/
inductive OutRate where
  | r44100 | r48000 | r88200 | r96000 | r176400 | r192000
  deriving DecidableEq, Repr

def OutRate.hz : OutRate → Nat
  | .r44100 => 44100 | .r48000 => 48000 | .r88200 => 88200 | .r96000 => 96000 | .r176400 => 176400 | .r192000 => 192000

/-- P and Q: Fo/Fe in lowest terms (R291). -/
def OutRate.ratio (fo : OutRate) (fe : Nat) : Nat × Nat := (fo.hz / Nat.gcd fo.hz fe, fe / Nat.gcd fo.hz fe)

/-- The configuration record (R47, R48, R73, R193, R291, R300, R481). DESIGN CHOICE (assumption log 4). -/
structure CfgRec where
  frame16  : Bool
  fe882    : Bool
  fo       : OutRate
  track    : Bool
  tdm      : Word                        -- TDM_CFG
  supPort  : Option (Fin 2)
  rv       : Nat
  nHe      : Nat
  hb       : Nat
  hs       : Nat
  hd       : Nat
  quota    : Nat
  mask     : BitVec 64
  ringLen  : Nat
  kaMs     : Nat
  modCount : Nat
  modTime  : Nat
  autoRestart : Bool
  anaUnused : Bool
  galOn    : Nat                         -- bit g: gallery g is powered at start-up
  roles    : List (Nat × Nat × Nat)      -- role, rate, address of SER0–SER3
  ranges   : List Nat                    -- output ranges of the DAC channels
  consolePar : Nat
  deriving DecidableEq, Repr

/-- Life-cycle states (R467). -/
inductive LifeCycle where
  | blank | provisioned | field | service | retired
  deriving DecidableEq, Repr

def LifeCycle.code : LifeCycle → Nat
  | .blank => 0 | .provisioned => 1 | .field => 2 | .service => 3 | .retired => 4

def LifeCycle.ofCode : Nat → Option LifeCycle
  | 0 => some .blank | 1 => some .provisioned | 2 => some .field | 3 => some .service | 4 => some .retired | _ => none

/-- Classes of log entries (R454). -/
inductive LogClass where
  | info | warn | crit
  deriving DecidableEq, Repr

/-- A log entry (R454). -/
structure LogEnt where
  num  : Nat
  boot : Nat
  time : Nat
  code : Nat
  cls  : LogClass
  hall : Option Nat
  data : List Byte
  deriving DecidableEq, Repr

/-- A firmware slot: the image a unit ships with, firmware 3.4 (R508), or what an update has written. -/
inductive FwSlot where
  | shipped
  | written (bs : List Byte)
  deriving DecidableEq, Repr

/-- An entry of the key store: none, the library key that a unit ships with (R508), a key wrapped under the unit key (R465). -/
inductive KeyEnt where
  | none
  | library
  | wrapped (bs : List Byte)
  deriving DecidableEq, Repr

/-- A copy of the calibration record (R307, R448, R450): whether it passes its integrity check, the identifier it names, its
version, the certified pace readings of the ten monitors at either engine rate, the segment trims of the sixteen channels.
DESIGN CHOICE (assumption log 5). -/
structure CalCopy where
  intact  : Bool
  uid     : Nat
  ver     : Nat
  pace96  : List Nat
  pace882 : List Nat
  trims   : List (List Nat)
  deriving DecidableEq, Repr

/-- A flash sector: where its contents stand, and in seconds of powered time when it was last written and last read (R457).
DESIGN CHOICE (assumption log 104). -/
structure Sector where
  place   : Nat
  written : Nat
  read    : Nat
  deriving DecidableEq, Repr

/-- What no reset changes (R480): flash, fuses, the log number and boot count, the identifier and grade. -/
structure Nv where
  a16       : Bool
  uid       : Nat
  cfg       : CfgRec
  cal       : Tab CalCopy 2
  sectors   : Tab Sector 224             -- the sectors below the spare region
  spares    : List Nat                   -- erased sectors of the spare region, the next to be used first
  powered   : Nat                        -- seconds of powered time before the last reset
  slots     : Tab FwSlot 2
  committed : Nat
  trial     : Option Nat                 -- the slot marked for trial
  fails     : Nat
  selected  : Option Nat                 -- the slot that UPD_ROLLBACK selected
  fuses     : Nat
  life      : LifeCycle
  keys      : Tab KeyEnt 8               -- device keys
  serviceKey : Bool                      -- the service key is held
  retired   : List Nat                   -- retired pages, up to 64 (R270)
  logNext   : Nat
  boots     : Nat
  flashLog  : List LogEnt                -- oldest first
  logPos    : Nat                        -- where in its ring the flash log is written next
  deriving DecidableEq, Repr

/-- The calibration record: the first copy that is intact and names this unit (R450). -/
def Nv.calRec (n : Nv) : Option CalCopy := n.cal.toList.find? fun c => c.intact && c.uid == n.uid
def Nv.calValid (n : Nv) : Bool := n.calRec.isSome
def Nv.calVer (n : Nv) : Nat := match n.calRec with | some c => c.ver | none => 0
/-- The certified pace readings at the engine rate (R448). -/
def Nv.paceCert (n : Nv) (fe882 : Bool) : List Nat :=
  match n.calRec with
  | some c => if fe882 then c.pace882 else c.pace96
  | none => []

/-- Steps of R451. -/
inductive Therm where
  | normal | warn | shed | halt
  deriving DecidableEq, Repr

def Therm.code : Therm → Nat
  | .normal => 0 | .warn => 1 | .shed => 2 | .halt => 3

/-- An update in progress (R459–R461, R466). -/
structure Upd where
  len  : Nat
  slot : Fin 2
  done : Nat
  deriving DecidableEq, Repr

/-- Reset sources (PWR_RST_CAUSE). -/
inductive RstCause where
  | por | pin | brownout | fwStop | update | trial | jtag
  deriving DecidableEq, Repr

def RstCause.code : RstCause → Nat
  | .por => 0 | .pin => 1 | .brownout => 2 | .fwStop => 3 | .update => 4 | .trial => 5 | .jtag => 6

/-- What the flash does (R459, R460): the slot of an update is erased, or data are programmed; for the command that waits, or for
a console line of a serial port. -/
inductive FlashJob where
  | erase (len : Nat) (slot : Fin 2) (con : Option (Fin 4))
  | program (data : List Byte) (con : Option (Fin 4))
  deriving DecidableEq, Repr

/-- The management processor's volatile state. -/
structure Mgmt where
  volLog   : List LogEnt                 -- the 128 most recent, oldest first
  tokens   : Nat
  withheld : Nat
  temps    : Tab Int 10                  -- 1/16 °C
  volts    : Tab Nat 16
  vmonOut  : Tab Bool 16                 -- sticky
  vmonBad  : Tab Bool 16                 -- outside now
  vmonSum  : Nat                         -- outside since the last summary
  pace     : Tab Nat 10
  paceLow  : Tab (Option Nat) 10         -- lowest since the last summary
  therm    : Therm
  fwOk     : Bool
  stopped  : Bool                        -- declared stopped (R453)
  recovery : Bool
  pulse    : Bool
  tamper   : Word
  alcRet   : Bool
  alcove   : Memory
  pkgIn    : List Nat                    -- the halls whose unwrapped package key stands in the Alcove (R259, R468)
  wiped    : Bool
  noKeys   : Bool                        -- a tamper wipe, or a return to FIELD: no keys until reset
  keysIn   : Bool
  slot     : Fin 2
  onTrial  : Bool
  upd      : Option Upd
  flash    : Option FlashJob
  rst      : Option RstCause             -- a restart that is to follow the completions posted (R461)
  chal     : Option (Fin 4 × List Byte)  -- the challenge printed last, and where
  session  : Option (Fin 4 × Nat)        -- the console session: its port, its last input in REFCLK edges
  answer   : List Byte                   -- the console's last answer
  sumSeq   : Nat
  shed     : Bool                        -- POWER_POLICY's thermal shed
  deriving DecidableEq, Repr

/-- DESIGN CHOICE (assumption log 7, 11). -/
def Mgmt.reset : Mgmt :=
  { volLog := [], tokens := 256, withheld := 0, temps := Vector.replicate 10 0, volts := Vector.replicate 16 0,
    vmonOut := Vector.replicate 16 false, vmonBad := Vector.replicate 16 false, vmonSum := 0, pace := Vector.replicate 10 0,
    paceLow := Vector.replicate 10 none, therm := .normal, fwOk := false, stopped := false, recovery := false, pulse := false,
    tamper := 0#32, alcRet := false, alcove := [], pkgIn := [], wiped := false, noKeys := false, keysIn := false,
    slot := 0, onTrial := false, upd := none, flash := none, rst := none, chal := none, session := none, answer := [], sumSeq := 0, shed := false }

/-- Tj (R447): the highest reading. -/
def Mgmt.tj (m : Mgmt) : Int := m.temps.toList.foldl max (m.temps.get 0)

/-! ### Power domains -/

/-- Domain states (PWRd_STAT.state). -/
inductive DomSt where
  | off | waking | on | retained | goingOff
  deriving DecidableEq, Repr

def DomSt.code : DomSt → Nat
  | .off => 0 | .waking => 1 | .on => 2 | .retained => 3 | .goingOff => 4

/-- A power domain. -/
structure Domain where
  st     : DomSt
  ret    : Bool
  wake   : Nat
  since  : Nat                           -- when the wake under way began, in REFCLK edges
  fromRet : Bool                         -- it began in RETAINED
  swCnt  : Word
  deriving DecidableEq, Repr

/-- The PWR block. -/
structure Pwr where
  dom     : Tab Domain 16
  policy  : Word
  err     : Word
  errAddr : Word
  cause   : Word
  rstCnt  : Word
  deriving DecidableEq, Repr

/-- The PWR block after a reset: PD_AO on, retention chosen for the galleries; the causes and the count are given. -/
def Pwr.reset (cause cnt : Word) : Pwr :=
  { dom := Vector.ofFn fun d => { st := if d.val = 0 then .on else .off, ret := decide (4 ≤ d.val ∧ d.val ≤ 11), wake := 0,
                                  since := 0, fromRet := false, swCnt := 0#32 },
    policy := 0x000003E8#32, err := 0#32, errAddr := 0#32, cause := cause, rstCnt := cnt }

def pdCtrl : Fin 16 := 1
def pdFoyer : Fin 16 := 2
def pdSerial : Fin 16 := 3
def pdGal (g : Fin 8) : Fin 16 := Fin.ofNat 16 (g.val + 4)
def pdSpec : Fin 16 := 12
def pdMem : Fin 16 := 13
def pdOut : Fin 16 := 14
def pdAna : Fin 16 := 15

def Pwr.is (p : Pwr) (d : Fin 16) (s : DomSt) : Bool := (p.dom.get d).st == s
def Pwr.on (p : Pwr) (d : Fin 16) : Bool := p.is d .on
/-- A block of the domain answers accesses (R473). -/
def Pwr.answers (p : Pwr) (d : Fin 16) : Bool := p.is d .on || p.is d .retained

/-! ### Fences (R482–R490) -/

/-- A record of the FENCE block. -/
structure FenceRec where
  kind     : Nat
  cause    : Nat
  index    : Nat
  halls    : Nat
  standing : Bool
  lifted   : Bool
  refused  : Bool
  seq      : Nat
  deriving DecidableEq, Repr

/-- What a lift or fence request waits for (FENCE_RESULT.busy): a self-test, a frame boundary, OUT's next bus frame. -/
inductive FenceBusy where
  | selftest (e : Nat)
  | frame (f : Nat)
  | bus
  deriving DecidableEq, Repr

/-- The FENCE block: its slots, the next record number, the counts, the last request. -/
structure FenceBlk where
  recs   : Tab (Option FenceRec) 160
  next   : Nat
  cnt    : Tab Word 8
  busy   : Option FenceBusy
  code   : Nat
  deriving DecidableEq, Repr

def FenceBlk.reset : FenceBlk :=
  { recs := Vector.replicate 160 none, next := 0, cnt := Vector.replicate 8 0#32, busy := none, code := 0 }

/-- Kinds of which one record at most stands for a unit, 150 in all (R490): engines, galleries, halls, ports, serial receivers, output
channels. -/
def oneStands (kind : Nat) : Bool := decide (1 ≤ kind ∧ kind ≤ 5) || kind == 7

/-- The record may not be displaced: a standing fence of kinds 1 to 5 and 7 (R490). -/
def FenceRec.kept (r : FenceRec) : Bool := r.standing && oneStands r.kind

/-- The slot that a new record takes (R490). -/
def FenceBlk.slotFor (b : FenceBlk) : Option (Fin 160) :=
  match (List.finRange 160).find? fun i => (b.recs.get i).isNone with
  | some i => some i
  | none =>
    ((List.finRange 160).foldl (fun (best : Option (Nat × Fin 160)) i =>
      match b.recs.get i with
      | some r => if r.kept then best else
          (match best with
           | some x => if r.seq < x.1 then some (r.seq, i) else best
           | none => some (r.seq, i))
      | none => best) none).map (·.2)

/-- Every standing record of a unit is changed. -/
def FenceBlk.mark (b : FenceBlk) (kind index : Nat) (f : FenceRec → FenceRec) : FenceBlk :=
  { b with recs := b.recs.map fun x => x.map fun r => if r.kind = kind ∧ r.index = index ∧ r.standing = true then f r else r }

/-- A new record (R482, R490). -/
def FenceBlk.add (b : FenceBlk) (kind cause index halls : Nat) : FenceBlk :=
  let b := if oneStands kind then b.mark kind index fun r => { r with standing := false } else b
  let r : FenceRec := { kind := kind, cause := cause, index := index, halls := halls, standing := true, lifted := false,
                        refused := false, seq := b.next }
  { b with recs := match b.slotFor with | some i => b.recs.put i (some r) | none => b.recs,
           next := b.next + 1,
           cnt := b.cnt.upd (Fin.ofNat 8 kind) fun w => if w = 0xFFFFFFFF#32 then w else w + 1#32 }

/-- A fence ends (R482). -/
def FenceBlk.lift (b : FenceBlk) (kind index : Nat) : FenceBlk :=
  b.mark kind index fun r => { r with standing := false, lifted := true }

/-- A voice's fence ends with the voice (Kinds of fence). DEDUCED (assumption log 100). -/
def FenceBlk.endVoice (b : FenceBlk) (num : Nat) : FenceBlk := b.mark 0 num fun r => { r with standing := false }

/-- The standing record of a unit. -/
def FenceBlk.standing? (b : FenceBlk) (kind index : Nat) : Option FenceRec :=
  (b.recs.toList.filterMap id).find? fun r => r.kind == kind && r.index == index && r.standing

/-- A standing record of a unit is such that `f`. -/
def FenceBlk.standsFor (b : FenceBlk) (kind index : Nat) (f : FenceRec → Bool) : Bool :=
  b.recs.toList.any fun x => x.any fun r => r.kind == kind && r.index == index && r.standing && f r

/-- The records held, in ascending record number. -/
def FenceBlk.list (b : FenceBlk) : List FenceRec :=
  (b.recs.toList.filterMap id).foldl (fun acc r =>
    (acc.takeWhile fun x => decide (x.seq < r.seq)) ++ r :: (acc.dropWhile fun x => decide (x.seq < r.seq))) []

/-- The 8 bytes of a record. -/
def FenceRec.bytes (r : FenceRec) : List Byte :=
  [byte r.kind, byte r.cause, byte r.index, byte (r.index / 256), byte r.halls,
   byte ((if r.standing then 1 else 0) + (if r.lifted then 2 else 0) + (if r.refused then 4 else 0)), byte r.seq, byte (r.seq / 256)]

/-! ### Pins -/

/-- The I/O banks (R496). -/
inductive Bank where
  | ha | hb | ser | tdm | sys
  deriving DecidableEq, Repr

/-- The instructions of the JTAG port (R479, R503). -/
inductive TapInstr where
  | idcode | bypass | sample | extest | highz | clamp | debug | reset
  deriving DecidableEq, Repr

/-- What an instruction acts as: debug instructions and the JTAG reset only in SERVICE, elsewhere as BYPASS; the others everywhere
(R503). -/
def TapInstr.acts (i : TapInstr) (life : LifeCycle) : TapInstr :=
  match i with
  | .debug => if life = .service then .debug else .bypass
  | .reset => if life = .service then .reset else .bypass
  | i => i

/-- IDCODE (R503). -/
def idCode : Word := 0x220480F3#32

/-- The states of the JTAG port's controller, as IEEE 1149.1 has them (R503). PRESUMED (assumption log 112). -/
inductive TapState where
  | logicReset | idle | selectDr | captureDr | shiftDr | exit1Dr | pauseDr | exit2Dr | updateDr
  | selectIr | captureIr | shiftIr | exit1Ir | pauseIr | exit2Ir | updateIr
  deriving DecidableEq, Repr

/-- The controller's next state at a rising edge of TCK. PRESUMED (assumption log 112). -/
def TapState.next (t : TapState) (tms : Bool) : TapState :=
  match t with
  | .logicReset => if tms then .logicReset else .idle
  | .idle => if tms then .selectDr else .idle
  | .selectDr => if tms then .selectIr else .captureDr
  | .captureDr => if tms then .exit1Dr else .shiftDr
  | .shiftDr => if tms then .exit1Dr else .shiftDr
  | .exit1Dr => if tms then .updateDr else .pauseDr
  | .pauseDr => if tms then .exit2Dr else .pauseDr
  | .exit2Dr => if tms then .updateDr else .shiftDr
  | .updateDr => if tms then .selectDr else .idle
  | .selectIr => if tms then .logicReset else .captureIr
  | .captureIr => if tms then .exit1Ir else .shiftIr
  | .shiftIr => if tms then .exit1Ir else .shiftIr
  | .exit1Ir => if tms then .updateIr else .pauseIr
  | .pauseIr => if tms then .exit2Ir else .pauseIr
  | .exit2Ir => if tms then .updateIr else .shiftIr
  | .updateIr => if tms then .selectDr else .idle

/-- What a digital pin carries. -/
inductive Level where
  | low | high | z
  deriving DecidableEq, Repr

/-- The digital pins that the device drives; MUTE_n is in no boundary cell (R503, R506). -/
inductive DPin where
  | rdy (p : Fin 2) | irq (p : Fin 2) | hd (p : Fin 2) (l : Fin 4) | pulse | tx (n : Fin 4) | de (n : Fin 4) | bclk | fsync | wclkOut
  | tdmo (l : Fin 4)
  deriving DecidableEq, Repr

/-- The digital pins that the device only reads, those of the JTAG port apart (R503, R506). -/
inductive IPin where
  | clk (p : Fin 2) | cs (p : Fin 2) | rx (n : Fin 4) | tdmi (l : Fin 2) | wclkIn | refclk | trig (t : Fin 8) | resetN | tamperN
  deriving DecidableEq, Repr

/-- The pins that no block holds: RESET_n low, the banks whose VDDIO is absent, TAMPER_n, the JTAG port with the instruction in force,
its two registers and what its boundary cells drive, and the codewords that will fail the next memory test (R270). DESIGN CHOICE (assumption log 12, 102, 112). -/
structure Pins where
  tamper   : Bool                 -- TAMPER_n is asserted
  tap      : TapInstr
  tapSt    : TapState
  ir       : List Bool            -- the instruction register, the bit at TDO first
  dr       : List Bool            -- the data register, the bit at TDO first
  cells    : List (DPin × Level)  -- what the boundary cells drive
  resetLow : Bool
  brown    : Bool                 -- held by a brownout (R478)
  absent   : List Bank
  memBad   : List (Fin 4194304)
  deriving DecidableEq, Repr

/-- DESIGN CHOICE (assumption log 11, 12). -/
def Pins.reset : Pins := { tamper := false, tap := .idcode, tapSt := .logicReset, ir := [], dr := [], cells := [], resetLow := true, brown := false, absent := [], memBad := [] }

/-- The pins of bank `b` are powered (R496). -/
def Pins.bank (p : Pins) (b : Bank) : Bool := !p.absent.contains b

end Sys2Proof.Machine
end

