-- ==== Sys2Proof/Config.lean ====
section
/-! DEFINITION. What the spec leaves open and an implementation fixes: uninterpreted constants, none of which has a body.
A claim about any of them holds whatever its value is. -/

namespace Sys2Proof

/-- What the translation of a PF3 image gives (R104, R105): a PF4 image, or why there is none. -/
inductive Pf3Result where
  | image (bs : List Byte)
  | unsupported (off : Nat)
  | malformed (off : Nat)
  deriving DecidableEq, Repr, Inhabited

namespace Config

/-- The translation of a PF3 image (R105): a function of the image, whose PF3 byte layout the spec does not give.
DESIGN CHOICE (assumption log 20). -/
opaque pf3Translate : List Byte → Pf3Result

/-- The class of a log entry by its code: 0 INFO, 1 WARN, otherwise CRIT. The spec classes no code but those it names.
DESIGN CHOICE (assumption log 17). -/
opaque logClass : Nat → Nat

/-- The code of the CRIT entry that a wake timeout writes (R475): no table gives it. DESIGN CHOICE (assumption log 17). -/
opaque wakeLogCode : Nat

/-- The code of the entry that logs the host_id of a HELLO: no table gives it. DESIGN CHOICE (assumption log 17). -/
opaque helloLogCode : Nat

/-- The seq that is recorded for a transaction whose second byte was not taken in (R335, R325).
DESIGN CHOICE (assumption log 18). -/
opaque unframedSeq : Nat → Nat

/-- OUT's estimate of Q/P in tracking mode, in 2^−32 of a bus sample (R296): a measurement of WCLK_IN.
DESIGN CHOICE (assumption log 19). -/
opaque trackEstimate : Nat → Int

/-- Whether the write-back of a pinned sum whose exc has come back to 0 is the most positive value, or the most negative: a function of
acc (R136, R137). DESIGN CHOICE (assumption log 139). -/
opaque pinnedUp : Int → Bool

/-- A word of the boot ROM: the spec does not give its contents. DESIGN CHOICE (assumption log 15). -/
opaque bootRom : Nat → Word

/-- A word of the Foyer SRAM outside the rings, the index blocks, the summary and the staging buffers, as one read finds it: held
notices and mailbox words in a form internal to the firmware, and its working space (R347). DESIGN CHOICE (assumption log 16). -/
opaque firmwareSram : Nat → Nat → Word

/-- The build number of the firmware 3.4 that a unit ships with (SYS_FW_VER.build). DESIGN CHOICE (assumption log 23). -/
opaque fwBuild : Nat

/-- The Ed25519 public keys of the boot ROM under which images are signed (R458), and their use for factory authentication.
DESIGN CHOICE (assumption log 23). -/
opaque signKey : Nat → List Byte

/-- Mladtex's library key, which a unit shipped in FIELD holds in slot 0 (R508). DESIGN CHOICE (assumption log 23). -/
opaque libraryKey : List Byte

/-- The service public key of the key store (R465, R468). DESIGN CHOICE (assumption log 23). -/
opaque serviceKey : List Byte

/-- The factory public key with which the console authenticates in BLANK (Life-cycle states). DESIGN CHOICE (assumption log 23). -/
opaque factoryKey : List Byte

/-- The unit key (R465, R467). DESIGN CHOICE (assumption log 23). -/
opaque unitKey : List Byte

/-- The 8-byte challenge of a console AUTH (R465). DESIGN CHOICE (assumption log 22). -/
opaque challenge : Nat → BitVec 64

/-- The payload that the 3.x command of a TB-320 mailbox command has (R342): a function of its code, its length and its argument
words; the TB-320 field layouts are not in the spec. DESIGN CHOICE (assumption log 21). -/
opaque tb320Payload : Nat → Nat → List (BitVec 16) → List Byte

/-- The result of a TB-320 command in its own layout (R341). DESIGN CHOICE (assumption log 21). -/
opaque tb320Result : Nat → List Byte → List Byte

/-- The µs that a domain took to wake at start-up (PWRd_WAKE): the spec bounds it only. DESIGN CHOICE (assumption log 12). -/
opaque startWake : Nat → Nat

/-- The key of a console session (R468): the spec says neither how it is made nor what it is used for.
DESIGN CHOICE (assumption log 113). -/
opaque sessionKey : Nat → List Byte

/-- How much later than 200 µs after a request its RDM response begins, in µs below 201 (R408). DESIGN CHOICE (assumption log 111). -/
opaque rdmDelay : Nat → Nat

/-- The length in µs of the break and of the mark before an RDM response (R408). DESIGN CHOICE (assumption log 111). -/
opaque rdmBreak : Nat → Nat

/-- REFCLK still has edges where its monitor clears refclk_ok (R419). DESIGN CHOICE (assumption log 29). -/
opaque refclkStill : Nat → Bool

/-- TAMPER_n, once asserted, is still asserted at a start-up. DESIGN CHOICE (assumption log 11). -/
opaque tamperHeld : Nat → Bool

/-- The codewords that fail the fill and test of a start-up (R270). DESIGN CHOICE (assumption log 12). -/
opaque memBad : Nat → List (Fin 4194304)

/-- What Capture-IR loads, and so how long the instruction register is (R503). DESIGN CHOICE (assumption log 112). -/
opaque tapCapture : List Bool

/-- The instruction behind a value of the instruction register (R503). DESIGN CHOICE (assumption log 112). -/
opaque tapCode : List Bool → Nat

/-- The level of the `k`-th input cell's pin where the state holds none. DESIGN CHOICE (assumption log 112). -/
opaque inputLevel : Nat → Nat → Bool

/-- SPn_TX while a port in the DMX role transmits: how the stretch divides into break, mark and characters is not in the state.
DESIGN CHOICE (assumption log 112). -/
opaque dmxLevel : Nat → Bool

/-- How many busy bytes a response phase drives before its answer is ready (R326). DESIGN CHOICE (assumption log 117). -/
opaque busyBytes : Nat → Nat

/-- The text of a console answer before its last line (R465): by the command, from the facts that it shows.
DESIGN CHOICE (assumption log 22). -/
opaque consoleText : Nat → List Nat → List Byte

end Config
end Sys2Proof
end

