-- ==== Sys2Proof/Machine/Arith.lean ====
section
/-! DEFINITION. The arithmetic of RV1 that every stage shares: convergent rounding (spec/04_oscillators_and_wave_playback.md,
Notation), the wrapping accumulator and its write-back (spec/05_filters_and_arithmetic.md R134–R139), the tables EXP2, QS and
c[φ][k] (R107, R119, R125), the generators of R130–R131, CRC-32 (R93). -/

namespace Sys2Proof.Machine

/-- 2^n as an integer. -/
def p2 (n : Nat) : Int := ((2 ^ n : Nat) : Int)

/-- `v` shifted right by `n`, arithmetic (rounded towards minus infinity). -/
def asr (v : Int) (n : Nat) : Int := v / p2 n

/-- `v` read modulo 2^n, from 0 up. -/
def wrapU (n : Nat) (v : Int) : Int := v % p2 n

/-- `v` read modulo 2^n as a signed n-bit value. -/
def wrapS (n : Nat) (v : Int) : Int := (v + p2 (n - 1)) % p2 n - p2 (n - 1)

/-- rnd(v, n): v / 2^n rounded to the nearest integer, ties to even; the identity for n = 0 (R137). -/
def rnd (v : Int) : Nat → Int
  | 0 => v
  | m + 1 =>
    let q := asr v (m + 1)
    let r := v - q * p2 (m + 1)
    if r > p2 m ∨ (r = p2 m ∧ q % 2 = 1) then q + 1 else q

/-- rdiv(a, b), b > 0: a / b rounded to the nearest integer, ties to even (R147). DEDUCED (assumption log 43). -/
def rdiv (a b : Int) : Int :=
  let q := a / b
  let r := a - q * b
  if 2 * r > b ∨ (2 * r = b ∧ q % 2 = 1) then q + 1 else q

/-- `v` limited to `lo … hi`. -/
def clamp (lo hi v : Int) : Int := if v < lo then lo else if v > hi then hi else v

/-- `v` limited to the range of a signed `w`-bit value. -/
def sat (w : Nat) (v : Int) : Int := clamp (- p2 (w - 1)) (p2 (w - 1) - 1) v

/-- sat24 of the oscillator chapter's notation. -/
def sat24 (v : Int) : Int := sat 24 v

/-- The largest 24-bit value, 0x7F_FFFF. -/
def max24 : Int := 8388607

/-! ### The wrapping accumulator (R134–R137) -/

/-- The accumulator of R134: the 56-bit register, the excursion counter and the pin state of R136. -/
structure Acc where
  acc : Int
  exc : Int
  pin : Bool
  deriving DecidableEq, Repr

/-- Both parts are zero at the start of each sum (R134). -/
def Acc.zero : Acc := { acc := 0, exc := 0, pin := false }

/-- One term is added modulo 2^56 and the excursion counter follows (R134), saturating at +31 and −32 and setting the pin
state (R136). -/
def Acc.add (a : Acc) (t : Int) : Acc :=
  let v := a.acc + t
  let e := if v > p2 55 - 1 then a.exc + 1 else if v < - p2 55 then a.exc - 1 else a.exc
  { acc := wrapS 56 v, exc := clamp (-32) 31 e, pin := a.pin || decide (e > 31) || decide (e < -32) }

/-- The exact value of the sum while it is not pinned (R135). -/
def Acc.value (a : Acc) : Int := a.acc + a.exc * p2 56

/-- The sum of a list of terms. -/
def Acc.sum (ts : List Int) : Acc := ts.foldl Acc.add Acc.zero

/-- What the write-backs of a computation have recorded (R137, R145, R136): excursions, range saturations, a section state's
saturation, a pin. -/
structure Stat where
  excN : Nat
  satN : Nat
  stSat : Bool
  pin : Bool
  deriving DecidableEq, Repr

def Stat.none : Stat := { excN := 0, satN := 0, stSat := false, pin := false }

/-- Two records together. -/
def Stat.join (a b : Stat) : Stat :=
  { excN := a.excN + b.excN, satN := a.satN + b.satN, stSat := a.stSat || b.stSat, pin := a.pin || b.pin }

/-- Towards which end a write-back saturates: that of the sign of exc (R136, R137), and for a pinned sum whose exc has come back to 0
either. DESIGN CHOICE (assumption log 139). -/
def Acc.up (a : Acc) : Bool := if a.exc = 0 then Config.pinnedUp a.acc else decide (a.exc > 0)

/-- wb(V, n, W) of R137, with what it records. -/
def Acc.wb (a : Acc) (n w : Nat) (st : Stat) : Int × Stat :=
  if a.exc ≠ 0 ∨ a.pin = true then
    (if a.up = true then p2 (w - 1) - 1 else - p2 (w - 1),
     { st with excN := st.excN + 1, pin := st.pin || a.pin })
  else
    let r := rnd a.acc n
    if r > p2 (w - 1) - 1 ∨ r < - p2 (w - 1) then (sat w r, { st with satN := st.satN + 1 }) else (r, st)

/-- The write-back of a sum of terms. -/
def wb (ts : List Int) (n w : Nat) (st : Stat) : Int × Stat := (Acc.sum ts).wb n w st

/-- The write-back of a sum of terms to 24 bits, the width where no other is named (R137). -/
def wb24 (ts : List Int) (n : Nat) (st : Stat) : Int × Stat := wb ts n 24 st

/-! ### Interpolation across a control period -/

/-- v_k + (((v_{k+1} − v_k) × j) >> 3): the core-rate reading of R108, R147, R166. -/
def lerp8 (a b : Int) (j : Nat) : Int := a + asr ((b - a) * j) 3

/-- v_k + (((v_{k+1} − v_k) × j) >> 2): the Fe-rate reading of R155, R160, R166. -/
def lerp4 (a b : Int) (j : Nat) : Int := a + asr ((b - a) * j) 2

/-! ### Exponential and sine tables -/

/-- 2^(2^i / 12288) scaled by 2^64, i = 0 … 13. -/
def exp2Steps : List Nat :=
  [18447784655519446309, 18448825296028615993, 18450906753158025440, 18455070371953850836, 18463400428435494055,
   18480071822896993503, 18513459785359009090, 18580416785452817952, 18715058144768436340, 18987274933859323061,
   19543644557186313405, 20705770137614810476, 23241441160490167842, 29282380947994691627]

/-- The product of the steps that the bits of `r` select. -/
def exp2Prod : List Nat → Nat → Nat → Nat
  | [], _, a => a
  | e :: es, r, a => exp2Prod es (r / 2) (if r % 2 = 1 then a * e / 2 ^ 64 else a)

/-- EXP2[r] of R107: 2^(r/12288) × 2^30 rounded to the nearest integer. Computed to more than the 40 bits the rule asks for. -/
def exp2T (r : Nat) : Nat := (exp2Prod exp2Steps r (2 ^ 64) / 2 ^ 33 + 1) / 2

/-- rnd(EXP2[r] × base, n0 − o) limited above by `cap`, o and r of p (R107, R117, R181). -/
def expInc (base : Nat) (n0 : Int) (cap : Int) (p : Int) : Int :=
  let o := p / 12288
  let r := (p % 12288).toNat
  let n := n0 - o
  if n < 1 then cap else min cap (rnd ((exp2T r * base : Nat) : Int) n.toNat)

/-- π scaled by 2^64. -/
def pi64 : Nat := 57952155664616982739

/-- One step of the sine series: 1 − x²·a / (2k(2k+1)), scaled by 2^64. -/
def sinStep (x2 : Int) (k : Nat) (a : Int) : Int := p2 64 - (x2 * a / p2 64) / ((2 * k * (2 * k + 1) : Nat) : Int)

/-- sin(π · num / den) scaled by 2^64, for 0 ≤ num / den ≤ 1/2. -/
def sinQ (num den : Nat) : Int :=
  let x : Int := ((pi64 * num / den : Nat) : Int)
  let x2 := x * x / p2 64
  let a := [12, 11, 10, 9, 8, 7, 6, 5, 4, 3, 2, 1].foldl (fun a k => sinStep x2 k a) (p2 64)
  x * a / p2 64

/-- sin(π · num / den) scaled by 2^64. -/
def sinPi (num : Int) (den : Nat) : Int :=
  let n := (num % ((2 * den : Nat) : Int)).toNat
  let m := if n ≥ den then n - den else n
  let q := if 2 * m > den then den - m else m
  if n ≥ den then - sinQ q den else sinQ q den

/-- cos(π · num / den) scaled by 2^64. -/
def cosPi (num : Int) (den : Nat) : Int := sinPi (2 * num + den) (2 * den)

/-- QS[i] of R125: round(8,388,607 × sin(πi/8192)), i = 0 … 4096. -/
def qs (i : Nat) : Int := (sinQ i 8192 * 16777214 + p2 64) / p2 65

/-- sine(t) of R125, t taken modulo 2^32. -/
def sine (t0 : Int) : Int :=
  let t := (wrapU 32 t0).toNat
  let quad := t / 2 ^ 30
  let idx := t / 2 ^ 18 % 4096
  let fr : Int := ((t / 4 % 65536 : Nat) : Int)
  let a := if quad % 2 = 1 then qs (4096 - idx) else qs idx
  let b := if quad % 2 = 1 then qs (4095 - idx) else qs (idx + 1)
  let y := a + rnd ((b - a) * fr) 16
  if quad ≥ 2 then - y else y

/-! ### The interpolation kernel of sample playback -/

/-- v(x) = sinc(x) · w(x) at x = a / 1024, scaled by 2^64 (R119). -/
def kernelV (a : Int) : Int :=
  let sinc := if a = 0 then p2 64 else if a % 1024 = 0 then 0 else sinPi a 1024 * 1024 * p2 64 / ((pi64 : Int) * a)
  let w := (42 * p2 64 + 50 * cosPi a 4096 + 8 * cosPi a 2048) / 100
  sinc * w / p2 64

/-- The index of the largest value, the lowest on a tie. -/
def argMax (vs : List Int) : Nat :=
  (vs.zipIdx.foldl (fun (best : Option (Int × Nat)) x =>
    match best with
    | some b => if x.1 > b.1 then some x else some b
    | none => some x) none).elim 0 Prod.snd

/-- Row φ of the kernel c[φ][k] of R119: each tap rounded, the residual on the tap whose real value is largest. -/
def kernelRow (phi : Nat) : List Int :=
  let vs := (List.range 8).map fun (k : Nat) => kernelV (((k : Int) - 3) * 1024 - phi)
  let t := vs.foldl (· + ·) 0
  let c := vs.map fun v => (2 * 65536 * v + t) / (2 * t)
  let res := 65536 - c.foldl (· + ·) 0
  c.modify (argMax vs) (· + res)

/-! ### Generators -/

/-- The finaliser of R130. -/
def finaliser (x : BitVec 32) : BitVec 32 :=
  let x := (x ^^^ (x >>> 16)) * 0x85EBCA6B#32
  let x := (x ^^^ (x >>> 13)) * 0xC2B2AE35#32
  let x := x ^^^ (x >>> 16)
  if x = 0#32 then 0x6D6C6478#32 else x

/-- The seed of R130 from the tag, the hall, the generator's index and the requested event-time word. -/
def seed (tag hall q evt : Nat) : BitVec 32 :=
  finaliser (BitVec.ofNat 32 tag ^^^ BitVec.ofNat 32 (hall * 65536) ^^^ BitVec.ofNat 32 (q * 524288) ^^^ BitVec.ofNat 32 (evt / 512))

/-- A draw of R131 advances the state. -/
def drawState (x : BitVec 32) : BitVec 32 :=
  let x := x ^^^ (x <<< 13)
  let x := x ^^^ (x >>> 17)
  x ^^^ (x <<< 5)

/-- The value that a draw yields from the advanced state (R131). -/
def drawValue (x : BitVec 32) : Int := asr x.toInt 8

/-! ### Check codes -/

/-- One bit of a reflected CRC. -/
def crcBit (poly : Nat) (c : Nat) : Nat := if c % 2 = 1 then (c / 2) ^^^ poly else c / 2

/-- One byte of a reflected CRC. -/
def crcByteR (poly : Nat) (c : Nat) (b : Byte) : Nat := (List.range 8).foldl (fun c _ => crcBit poly c) (c ^^^ b.toNat)

/-- CRC-32 as used by IEEE 802.3 (R93). -/
def crc32 (bs : List Byte) : Nat := (bs.foldl (crcByteR 0xEDB88320) 0xFFFFFFFF) ^^^ 0xFFFFFFFF

/-- The number whose bytes are `bs`, least significant first (R7). -/
def leNat : List Byte → Nat
  | [] => 0
  | b :: bs => b.toNat + 256 * leNat bs

/-- The number whose bytes are `bs`, most significant first. -/
def beNat (bs : List Byte) : Nat := leNat bs.reverse

/-- `n` as `k` bytes, least significant first (R7). -/
def leBytes : Nat → Nat → List Byte
  | 0, _ => []
  | k + 1, n => byte n :: leBytes k (n / 256)

/-- A `k`-byte two's-complement number read as signed. -/
def signed (bits : Nat) (n : Nat) : Int := wrapS bits n

/-- The word that holds `v` modulo 2^32. -/
def ofInt32 (v : Int) : Word := BitVec.ofInt 32 v

/-- A counter that holds at 0xFFFF_FFFF. -/
def satInc (w : Word) (n : Nat) : Word := if w.toNat + n ≥ 4294967295 then 0xFFFFFFFF#32 else w + BitVec.ofNat 32 n

end Sys2Proof.Machine
end

