-- ==== Sys2Proof/Machine/HostPort.lean ====
section
/-! DEFINITION. A host port as data and the CRC of its transactions (spec/12_host_ports_and_mailboxes.md R323–R342). -/

namespace Sys2Proof.Machine

/-- Port states (HPp_STAT.state). -/
inductive PortSt where
  | down | opened | uhp3 | uhp2 | fenced
  deriving DecidableEq, Repr

def PortSt.code : PortSt → Nat
  | .down => 0 | .opened => 1 | .uhp3 => 2 | .uhp2 => 3 | .fenced => 4

/-- A host port. -/
structure Port where
  st       : PortSt
  width    : Nat
  version  : Nat
  asleep   : Bool
  irq      : Bool
  rdy      : Bool
  err      : Word
  crcCnt   : Word
  crcRun   : Nat
  txnCnt   : Word
  refuse   : Word
  fenceCnt : Word
  lastCode : Nat
  lastSeq  : Nat
  lastRes  : Nat
  hostLo   : Word
  hostHi   : Word
  bufs     : Tab Bool 2            -- staging buffers in use
  helloed  : Bool                  -- a HELLO answer has been given since reset
  helloFlags : Nat                 -- bits 1 and 2 of the last HELLO answer
  answer   : List Byte             -- what the port drove in the last response phase
  mbxStat  : BitVec 16
  mbxArg   : Tab (BitVec 16) 32
  mbxRsp   : Tab (BitVec 16) 32
  rdData   : List (BitVec 16)      -- the words of the last UHP-2 RD
  deriving DecidableEq, Repr

def Port.reset : Port :=
  { st := .down, width := 1, version := 0, asleep := false, irq := false, rdy := false, err := 0#32, crcCnt := 0#32,
    crcRun := 0, txnCnt := 0#32, refuse := 0#32, fenceCnt := 0#32, lastCode := 0, lastSeq := 0, lastRes := 0, hostLo := 0#32,
    hostHi := 0#32, bufs := Vector.replicate 2 false, helloed := false, helloFlags := 0, answer := [], mbxStat := 0,
    mbxArg := Vector.replicate 32 0, mbxRsp := Vector.replicate 32 0, rdData := [] }

/-- HA_IRQ_n as a port leaves its state: what MBX_STAT asserted in UHP2 is no assertion of R350, which then begins anew (R340, R350). -/
def Port.irqLeft (q : Port) : Port := { q with irq := q.irq && q.st != .uhp2 }

/-- MBX_STAT.busy. -/
def Port.mbxBusy (q : Port) : Bool := q.mbxStat.getLsbD 15

/-- One bit of CRC-16/CCITT (R332). -/
def crc16Bit (c : Nat) : Nat := if c ≥ 32768 then ((c * 2) % 65536) ^^^ 0x1021 else c * 2

/-- CRC-16/CCITT of R332. -/
def crc16 (bs : List Byte) : Nat :=
  bs.foldl (fun c b => (List.range 8).foldl (fun c _ => crc16Bit c) (c ^^^ (b.toNat * 256))) 0xFFFF

/-- Port results. -/
inductive PortRes where
  | ok | crc | unknownCode | badLength | tooLong | denied | notReady | notNegotiated | indexRange | slotPosted | version
  | fenced | aborted | notAttached
  deriving DecidableEq, Repr

def PortRes.code : PortRes → Nat
  | .ok => 0 | .crc => 1 | .unknownCode => 2 | .badLength => 3 | .tooLong => 4 | .denied => 5 | .notReady => 6
  | .notNegotiated => 7 | .indexRange => 8 | .slotPosted => 9 | .version => 10 | .fenced => 11 | .aborted => 12
  | .notAttached => 13

/-- The bit of HPp_ERR that a result sets. -/
def PortRes.errBit : PortRes → Option Nat
  | .crc => some 0 | .unknownCode => some 1 | .notNegotiated => some 1 | .badLength => some 2 | .tooLong => some 2
  | .denied => some 3 | .notAttached => some 3 | .notReady => some 4 | .indexRange => some 5 | .slotPosted => some 5
  | .aborted => some 7 | .ok => none | .version => none | .fenced => none

/-- The version that a HELLO chooses (R337). -/
def chooseVersion (lo hi : Nat) : Option Nat := [0x0302, 0x0301, 0x0300].find? fun v => decide (lo ≤ v ∧ v ≤ hi)

/-- The width that a HELLO grants (R337). -/
def grantWidth (version asked : Nat) : Nat :=
  if asked = 4 then (if version = 0x0300 then 2 else 4) else if asked = 2 then 2 else 1

/-- The version defines the code (UHP-3 transaction codes). -/
def codeDefined (version code : Nat) : Bool :=
  if code = 0x36 then decide (version ≥ 0x0301) else decide (0x30 ≤ code ∧ code ≤ 0x37) || code == 0x3E || code == 0x3F

end Sys2Proof.Machine
end

