-- ==== Sys2Proof/Machine/SerPort.lean ====
section
/-! DEFINITION. A serial show port: its receiver and what each role makes of the characters that CP1 reads
(spec/14_serial_show_ports.md R390–R415). -/

namespace Sys2Proof.Machine

/-- Receiver states (SERn_STAT.state). -/
inductive RxSt where
  | none | hunting | receiving | brk | fenced | asleep | autobaud
  deriving DecidableEq, Repr

def RxSt.code : RxSt → Nat
  | .none => 0 | .hunting => 1 | .receiving => 2 | .brk => 3 | .fenced => 4 | .asleep => 5 | .autobaud => 6

/-- A character with its tags and time-stamp (R393). -/
structure RxChar where
  data : Byte
  fe   : Bool
  pe   : Bool
  ovr  : Bool
  brk  : Bool
  idle : Bool                      -- the line had been high for 2 character times before its start edge (R410)
  ts   : Nat
  deriving DecidableEq, Repr

def RxChar.tagged (c : RxChar) : Bool := c.fe || c.pe || c.ovr || c.brk

/-- How a character ended (R392). -/
inductive CharEnd where
  | stopHigh | earlyEdge | stopLow
  deriving DecidableEq, Repr

/-- The majority of the samples at phases 7, 8 and 9 (R391). -/
def majority : List Bool → Bool
  | [a, b, c] => (a && b) || (a && c) || (b && c)
  | _ => false

/-- The sampler within a character: the bit period (0 the start bit) and the phase in it, the last sample, the samples at phases 7
to 9 so far, the bits decided, how many samples have come since the start edge, the run of high ones at their end, whether all of them
were low, and how the character has ended; `bad` says that it is none. -/
structure Sampler where
  bit   : Nat
  ph    : Nat
  prev  : Bool
  votes : List Bool
  got   : List Bool
  count : Nat
  high  : Nat
  low   : Bool
  fin   : Option CharEnd
  bad   : Bool
  deriving DecidableEq, Repr

/-- The start edge: a low sample after a high one, at phase 0 (R391). -/
def Sampler.start : Sampler :=
  { bit := 0, ph := 0, prev := false, votes := [], got := [], count := 0, high := 0, low := true, fin := none, bad := false }

/-- One sample of the data or parity bits (R391). An edge at phase 8, as near to the one bit period as to the next, belongs to the
period it is in. DESIGN CHOICE (assumption log 110). -/
def Sampler.dataBit (m : Sampler) (x : Bool) : Sampler :=
  let votes := if 7 ≤ m.ph ∧ m.ph ≤ 9 then m.votes ++ [x] else m.votes
  let m := { m with votes := votes }
  let m := if m.ph = 9 then { m with got := m.got ++ [majority votes], votes := [] } else m
  if m.prev = true ∧ x = false then
    (if m.ph ≤ 8 then { m with ph := 0, votes := [] } else { m with bit := m.bit + 1, ph := 0 })
  else m

/-- One sample of the stop bit (R391, R392). -/
def Sampler.stopBit (m : Sampler) (x : Bool) : Sampler :=
  if m.prev = true ∧ x = false ∧ 1 ≤ m.ph ∧ m.ph < 8 then { m with fin := some .earlyEdge }
  else if m.ph = 8 then { m with fin := some (if x then .stopHigh else .stopLow) }
  else m

/-- One sample of a character of `n` data and parity bits. -/
def Sampler.step (n : Nat) (m : Sampler) (x : Bool) : Sampler :=
  if m.fin.isSome = true ∨ m.bad = true then m else
  let m := { m with bit := if m.ph = 15 then m.bit + 1 else m.bit, ph := (m.ph + 1) % 16, count := m.count + 1,
                    high := if x then m.high + 1 else 0, low := m.low && !x }
  let r := if m.bit = 0 then { m with bad := decide (m.ph = 8) && x }
    else if m.bit ≤ n then m.dataBit x else m.stopBit x
  { r with prev := x }

/-- What a receiver makes of the samples of a character. -/
def sampled (n : Nat) : List Bool → Sampler
  | [] => { Sampler.start with bad := true }
  | x :: xs => if x then { Sampler.start with bad := true } else xs.foldl (Sampler.step n) Sampler.start

/-- The byte of the eight data bits, the least significant first. -/
def dataBits (got : List Bool) : Byte := byte ((got.take 8).zipIdx.foldl (fun a x => if x.1 then a + 2 ^ x.2 else a) 0)

/-- A parity bit that does not match (R393): `par` is 1 for even, 2 for odd. -/
def parityBad (par : Nat) (got : List Bool) : Bool :=
  let ones := ((got.take 8).filter id).length
  match par, got[8]? with
  | 1, some p => (ones + (if p then 1 else 0)) % 2 == 1
  | 2, some p => (ones + (if p then 1 else 0)) % 2 == 0
  | _, _ => false

/-- A complete MIDI message: its time-stamp, status, data. -/
structure MidiMsg where
  ts     : Nat
  status : Nat
  d1     : Nat
  d2     : Nat
  deriving DecidableEq, Repr

/-- The MIDI parser (R401). -/
structure Midi where
  running : Option Nat
  sysex   : Bool
  data    : List Nat
  ready   : List MidiMsg
  msb     : Sparse Nat             -- the last value of control changes 1 to 31
  prog    : Sparse Nat             -- the program index of each channel
  deriving DecidableEq, Repr

def Midi.reset : Midi := { running := none, sysex := false, data := [], ready := [], msb := [], prog := [] }

/-- Data bytes of a channel message. -/
def midiLen (status : Nat) : Nat := if status / 16 = 12 ∨ status / 16 = 13 then 1 else 2

/-- One character of the MIDI role (R401). PRESUMED (assumption log 25). -/
def Midi.char (m : Midi) (c : RxChar) : Midi :=
  let b := c.data.toNat
  if c.tagged then { m with running := none, sysex := false, data := [] }
  else if b ≥ 0xF8 then m
  else if b = 0xF0 then { m with running := none, sysex := true, data := [] }
  else if b ≥ 0xF1 then { m with running := none, sysex := false, data := [] }
  else if b ≥ 0x80 then { m with running := some b, sysex := false, data := [] }
  else if m.sysex then m
  else match m.running with
    | none => m
    | some st =>
      let data := m.data ++ [b]
      if data.length = midiLen st then
        { m with data := [], ready := m.ready ++ [{ ts := c.ts, status := st, d1 := data.getD 0 0, d2 := data.getD 1 0 }] }
      else { m with data := data }

/-- c7, c14 and c16 (R401, R404). -/
def c7 (v : Nat) : Int := ((v * 65536) ||| (v * 512) ||| (v * 4) ||| (v / 32) : Nat)
def c14 (w : Nat) : Int := ((w * 512) ||| (w / 32) : Nat)
def c16 (u : Nat) : Int := ((u * 128) ||| (u / 512) : Nat)

/-- An entry of a DMX patch (R404). -/
structure Patch where
  hall   : Nat
  first  : Nat
  wide   : Bool
  ctl    : Nat
  smooth : Nat
  deriving DecidableEq, Repr

/-- What the DMX receiver is in the middle of (R403). -/
inductive DmxSt where
  | idle | start | dimmer | rdm | ignore
  deriving DecidableEq, Repr

/-- The DMX role's state. -/
structure Dmx where
  st      : DmxSt
  data    : List Byte
  ready   : List (Nat × List Byte)  -- dimmer packets complete and not yet applied: reception time, slots
  rdm     : List (Nat × List Byte)  -- RDM packets, start code included
  slots   : Sparse Byte             -- at the slot's number
  inLast  : Nat                     -- data slots in the last dimmer packet
  last    : Nat                     -- ET of the last dimmer packet
  loss    : Bool
  patch   : List Patch
  start   : Nat
  foot    : Nat
  label   : List Byte
  muted   : Bool
  ident   : Bool
  deriving DecidableEq, Repr

def Dmx.reset : Dmx :=
  { st := .idle, data := [], ready := [], rdm := [], slots := [], inLast := 0, last := 0, loss := false, patch := [], start := 0,
    foot := 0, label := [], muted := false, ident := false }

/-- A dimmer packet is complete. -/
def Dmx.complete (d : Dmx) (ts : Nat) : Dmx := { d with st := .idle, data := [], ready := d.ready ++ [(ts, d.data)] }

/-- One character of the DMX role (R403); `edge` is the start edge of a break, and a break entry that has replaced an unread slot
discards the packet that the slot was of. An RDM packet's length stands in its second data slot, its checksum behind it; one that a
break cuts short is handed on as far as it came, for its length fails (R407). DEDUCED (assumption log 85). -/
def Dmx.char (d : Dmx) (edge : Nat) (c : RxChar) : Dmx :=
  if c.brk then
    let d := if d.st = .dimmer ∧ c.ovr = false then d.complete edge
      else if d.st = .rdm then { d with rdm := d.rdm ++ [(edge, d.data)] } else d
    { d with st := .start, data := [] }
  else if c.fe || c.pe || c.ovr then { d with st := .idle, data := [] }
  else match d.st with
    | .idle => d
    | .ignore => d
    | .start =>
      if c.data = 0x00#8 then { d with st := .dimmer, data := [] }
      else if c.data = 0xCC#8 then { d with st := .rdm, data := [c.data] }
      else { d with st := .ignore, data := [] }
    | .dimmer =>
      let d := { d with data := d.data ++ [c.data] }
      if d.data.length = 512 then d.complete c.ts else d
    | .rdm =>
      let d := { d with data := d.data ++ [c.data] }
      if d.data.length ≥ 3 ∧ d.data.length ≥ (d.data.getD 2 0#8).toNat + 2
      then { d with st := .idle, data := [], rdm := d.rdm ++ [(c.ts, d.data)] } else d

/-- A tagged character discards the packet in progress (R403). -/
def Dmx.spoils (d : Dmx) (c : RxChar) : Bool :=
  (c.fe || c.pe || c.ovr) && (d.st == .start || d.st == .dimmer || d.st == .rdm)

/-- The value of a patched entry (R404). -/
def Dmx.value (d : Dmx) (p : Patch) : Int :=
  let a := d.start + p.first - 1
  let v (k : Nat) : Nat := (Sparse.get 0#8 d.slots k).toNat
  if p.wide then c16 (v a * 256 + v (a + 1)) else c16 (v a * 257)

/-- A peer of the show bus (R412). -/
structure Peer where
  uid  : Nat
  addr : Nat
  ver  : Nat
  seen : Nat
  told : Bool                       -- its address conflict has been logged
  deriving DecidableEq, Repr

/-- What the show-bus receiver is in the middle of (R410). -/
inductive TsbSt where
  | hunt | frame | waitIdle
  deriving DecidableEq, Repr

/-- The TSB role's state. -/
structure Tsb where
  st    : TsbSt
  data  : List Byte
  ready : List (Nat × List Byte)    -- whole frames from ver to crc, with the arrival of the last character
  peers : List Peer
  seq   : Nat
  gen   : BitVec 32
  coll  : Nat                       -- k of R413
  tx    : List (List Byte)          -- frames to send
  going : Bool                      -- the first of them is on the line
  back  : Option Nat                -- r of a back-off under way
  nextBeacon : Nat
  deriving DecidableEq, Repr

def Tsb.reset : Tsb :=
  { st := .hunt, data := [], ready := [], peers := [], seq := 0, gen := 0#32, coll := 0, tx := [], going := false, back := none, nextBeacon := 0 }

/-- The length of a frame from ver to crc, once its header is there. -/
def tsbLen (bs : List Byte) : Option Nat :=
  let at_ (k : Nat) : Nat := (bs.getD k 0#8).toNat
  if at_ 0 = 1 then (if bs.length ≥ 5 then some (5 + at_ 4 + 2) else none)
  else (if bs.length ≥ 6 then some (6 + at_ 4 + 256 * at_ 5 + 2) else none)

/-- One character of the show bus (R410): the state, the discards counted as a failed CRC, and those counted as strangers. A
character that breaks the preamble restarts the hunt, and so does one that follows an idle gap: what came before the gap delays no
frame after it. -/
def Tsb.char (t : Tsb) (c : RxChar) : Tsb × Nat × Nat :=
  let bad := c.fe || c.pe || c.ovr || c.brk
  let t := if c.idle then { t with st := .hunt, data := [] } else t
  match t.st with
  | .waitIdle => (t, 0, 0)
  | .hunt =>
    let b := c.data
    let fit := if bad then false else match t.data.length with
      | 0 => b == 0x55#8
      | 1 => b == 0x55#8
      | _ => b == 0x7E#8
    if fit then (if t.data.length = 2 then ({ t with st := .frame, data := [] }, 0, 0) else ({ t with data := t.data ++ [b] }, 0, 0))
    else
      let keep : List Byte := if !bad && b == 0x55#8 then [b] else []
      ({ t with data := keep }, 0, if t.data = [] then 0 else 1)
  | .frame =>
    if bad then ({ t with st := .waitIdle, data := [] }, 0, 1) else
    let data := t.data ++ [c.data]
    let ver := (data.getD 0 0#8).toNat
    if ver ≠ 1 ∧ ver ≠ 2 then ({ t with st := .waitIdle, data := [] }, 0, 1) else
    match tsbLen data with
    | none => ({ t with data := data }, 0, 0)
    | some n =>
      if n > (if ver = 1 then 5 + 128 + 2 else 6 + 256 + 2) then ({ t with st := .waitIdle, data := [] }, 0, 1)
      else if data.length < n then ({ t with data := data }, 0, 0)
      else if crc16 (data.take (n - 2)) = beNat (data.drop (n - 2)) then
        ({ t with st := .hunt, data := [], ready := t.ready ++ [(c.ts, data)] }, 0, 0)
      else ({ t with st := .hunt, data := [] }, 1, 0)

/-- A frame to send: preamble, version, header, payload, crc. -/
def tsbFrame (ver src dst type : Nat) (payload : List Byte) : List Byte :=
  let body := [byte ver, byte src, byte dst, byte type] ++
    (if ver = 1 then leBytes 1 payload.length else leBytes 2 payload.length) ++ payload
  let c := crc16 body
  [0x55#8, 0x55#8, 0x7E#8] ++ body ++ [byte (c / 256), byte c]

/-- A serial port. -/
structure Ser where
  cfg      : Word
  baud     : Word
  ctrl     : Word                  -- auto_lift and sleep_ok
  err      : Word
  stuck    : Word
  feCnt    : Word
  peCnt    : Word
  ovrCnt   : Word
  brkCnt   : Word
  wakeLost : Word
  fenceCnt : Word
  msgCnt   : Word
  dropCnt  : Word
  pktCnt   : Word
  crcCnt   : Word
  strangerCnt : Word
  collCnt  : Word
  tsbDrop  : Word
  rx       : RxSt
  line     : Bool
  waitHigh : Bool                  -- a high sample must come before the receiver hunts again (R392, R394)
  hold     : Option RxChar
  ts       : Nat                   -- the latched stamp
  xoffRx   : Bool
  xoffTx   : Bool
  locked   : Bool
  feRun    : Nat
  mapped   : Nat                   -- messages mapped since SER_ROLE (R400)
  addr     : Nat                   -- universe or TSB address
  txHeld   : List Byte             -- characters that a received XOFF holds back
  sent     : List Byte             -- what the last transmission put on the line
  de       : Bool                  -- SPn_DE as the console role has it
  txFrom   : Nat                   -- the stretch over which a transmission asserts SPn_DE, in 1/64 of half a REFCLK period
  txTo     : Nat
  high     : Option Nat            -- since when the line is high, in the same unit
  gap      : Bool                  -- the line has been high for 2 character times since the last entry stored (R410)
  pend     : Option RxChar         -- a character all low, which a break may yet be (R392, R394)
  midi     : Midi
  dmx      : Dmx
  tsb      : Tsb
  lineBuf  : List Byte             -- the console's line buffer
  lines    : List (List Byte)      -- complete lines
  deriving DecidableEq, Repr

def Ser.reset : Ser :=
  { cfg := 0#32, baud := 0#32, ctrl := 0x80000000#32, err := 0#32, stuck := 0x00000064#32, feCnt := 0#32, peCnt := 0#32,
    ovrCnt := 0#32, brkCnt := 0#32, wakeLost := 0#32, fenceCnt := 0#32, msgCnt := 0#32, dropCnt := 0#32, pktCnt := 0#32,
    crcCnt := 0#32, strangerCnt := 0#32, collCnt := 0#32, tsbDrop := 0#32, rx := .none, line := true, waitHigh := false, hold := none, ts := 0,
    xoffRx := false, xoffTx := false, locked := false, feRun := 0, mapped := 0, addr := 0, txHeld := [], sent := [], de := false,
    txFrom := 0, txTo := 0, high := some 0, gap := false, pend := none,
    midi := Midi.reset, dmx := Dmx.reset, tsb := Tsb.reset, lineBuf := [], lines := [] }

/-- The role (SERn_CFG.role). -/
def Ser.role (p : Ser) : Nat := bits p.cfg 31 29

/-- SERn_BAUD.div: a bit lasts div / 64 of 1/512 es (R390). -/
def Ser.div (p : Ser) : Nat := bits p.baud 23 0

/-- Bits of the configured character: start, data, parity, stop (R390). -/
def Ser.charBits (p : Ser) : Nat := 10 + (if bits p.cfg 5 4 = 0 then 0 else 1) + (if bit p.cfg 3 then 1 else 0)

/-- The start edge of the low period whose break was stored at `t` (R394). -/
def Ser.breakEdge (p : Ser) (t : Nat) : Nat := (64 * t - 2 * p.charBits * p.div) / 64

/-- The state in which a receiver with a role hunts afresh: auto-baud where it is armed and nothing is measured yet (R395, R396). -/
def Ser.freshRx (p : Ser) : RxSt := if p.role = 0 then .none else if bit p.baud 31 = true ∧ p.locked = false then .autobaud else .hunting

/-- Error bits are set; the answer says whether this raises the port's error source (R415). -/
def Ser.setErr (p : Ser) (mask : Nat) : Ser × Bool :=
  ({ p with err := p.err ||| word mask }, decide (p.err = 0#32 ∧ mask % 1024 ≠ 0))

/-- Whether the line, low since `since` sixteenths of a bit, had been high for 2 character times before, now or since the last entry
(R410). -/
def Ser.idleBefore (p : Ser) (since now : Nat) : Bool :=
  p.gap || (match p.high with
    | some h => decide (16 * h + 16 * 2 * p.charBits * p.div + since * p.div ≤ 16 * now)
    | none => false)

/-- SPn_DE at the instant `now` (role table of R399, R408, R413). -/
def Ser.deAt (p : Ser) (now : Nat) : Bool :=
  match p.role with
  | 4 => p.de
  | 2 => decide (p.txFrom ≤ now ∧ now < p.txTo)
  | 3 => decide (p.txFrom ≤ now ∧ now < p.txTo)
  | _ => false

/-- SPn_DE is released and nothing more is driven (R413, R491). -/
def Ser.release (p : Ser) (now : Nat) : Ser := { p with de := false, txTo := min p.txTo now }

/-- A port in the TSB or DMX role stops transmitting at its fence, what it had begun or was about to send included; a TSB frame under
way is sent again after the lift (R489). DESIGN CHOICE (assumption log 86). -/
def Ser.silence (p : Ser) (now : Nat) : Ser :=
  if p.role = 2 ∨ p.role = 3 then { p.release now with tsb := { p.tsb with going := false } } else p

/-- A port transmits characters, unless a received XOFF holds them back (R397). DESIGN CHOICE (assumption log 86). -/
def Ser.transmit (p : Ser) (bs : List Byte) : Ser :=
  if p.xoffRx then { p with txHeld := p.txHeld ++ bs } else { p with sent := bs }

/-- One character of the console role (R397, R414). -/
def Ser.consoleChar (p : Ser) (c : RxChar) : Ser :=
  let b := if c.tagged then 0x3F#8 else c.data
  if b = 0x0D#8 ∨ b = 0x0A#8 then
    let p := if p.lineBuf = [] then p else { p with lines := p.lines ++ [p.lineBuf], lineBuf := [] }
    if p.xoffTx then { p with xoffTx := false, sent := [0x11#8] } else p
  else
    let buf := if p.lineBuf.length < 255 then p.lineBuf ++ [b] else p.lineBuf
    let p := ({ p with lineBuf := buf } : Ser).transmit [b]
    if buf.length ≥ 192 ∧ p.xoffTx = false then { p with xoffTx := true, sent := p.sent ++ [0x13#8] } else p

/-- What the role makes of a character that CP1 has read from the holding register (R399–R414): the port, and the error bits of
SERn_ERR that follow. -/
def Ser.roleChar (p : Ser) (c : RxChar) : Ser × Nat :=
  match p.role with
  | 1 => ({ p with midi := p.midi.char c }, if c.tagged = true ∧ p.midi.data ≠ [] then 64 else 0)
  | 2 => ({ p with dmx := p.dmx.char (p.breakEdge c.ts) c }, if p.dmx.spoils c then 64 else 0)
  | 3 =>
    let (t, nc, ns) := p.tsb.char c
    ({ p with tsb := t, crcCnt := satInc p.crcCnt nc, strangerCnt := satInc p.strangerCnt ns }, if nc + ns = 0 then 0 else 64)
  | 4 => (p.consoleChar c, 0)
  | _ => (p, 0)

end Sys2Proof.Machine
end

