-- ==== Sys2Proof/Machine/Prog.lean ====
section
/-! DEFINITION. Voice programs and the PF4 image (spec/03_voice_programs.md R80–R105): the program as data, the image's
fields, checks 4 to 13 of R102, the step cost and the stored form. -/

namespace Sys2Proof.Machine

/-- Oscillator kinds (TOPO, oscillator descriptor). -/
inductive OscKind where
  | off | wavetable | sample | pm | va | noise
  deriving DecidableEq, Repr

/-- An oscillator descriptor; a slot or table reference that is 0xFF or 0xFFFF is `none` (R95). -/
structure Osc where
  kind  : OscKind
  mode  : Nat
  pitch : Option Nat
  level : Option Nat
  table : Option Nat
  shape : Option Nat
  pmIn  : Nat
  deriving DecidableEq, Repr

/-- A filter section descriptor. -/
structure Sect where
  preset : Nat
  cutoff : Option Nat
  q      : Option Nat
  gain   : Option Nat
  table  : Option Nat
  deriving DecidableEq, Repr

/-- Slot formats (R96). -/
inductive Fmt where
  | bipolar | unipolar | pitch | time | index
  deriving DecidableEq, Repr

/-- What a slot is bound to (SLOTS, bind). -/
inductive Bind where
  | none
  | attr (k : Nat)
  | ctl (k : Nat)
  deriving DecidableEq, Repr

/-- A parameter slot (R96). -/
structure Slot where
  dflt    : Int
  fmt     : Fmt
  hostSet : Bool
  bind    : Bind
  deriving DecidableEq, Repr

/-- A modulation source (ROUTES, source codes). -/
inductive Src where
  | env (k : Nat)
  | lfo (k : Nat)
  | rand (k : Nat)
  | note (k : Nat)
  | hctl (k : Nat)
  | det (k : Nat)
  | one
  deriving DecidableEq, Repr

/-- A modulation route (R97). -/
structure Route where
  src   : Src
  dest  : Nat
  depth : Int
  scale : Option Src
  curve : Nat
  uni   : Bool
  deriving DecidableEq, Repr

/-- A segment of an envelope. -/
structure EnvSeg where
  level   : Int
  curve   : Int
  time    : Nat
  timeMod : Option Nat
  deriving DecidableEq, Repr

/-- An envelope: its segments, its loop, the segment entered at release, tempo mode. -/
structure EnvDef where
  segs    : List EnvSeg
  loop    : Option (Nat × Nat)
  release : Nat
  tempo   : Bool
  deriving DecidableEq, Repr

/-- An LFO. -/
structure LfoDef where
  shape : Nat
  tempo : Bool
  reset : Bool
  once  : Bool
  rate  : Option Nat
  fade  : Option Nat
  phase : Nat
  deriving DecidableEq, Repr

/-- A send: to a mix bus or to a SPEC input, after or before the delay line. -/
structure SendDef where
  spec   : Bool
  target : Nat
  level  : Option Nat
  pre    : Bool
  deriving DecidableEq, Repr

/-- A sample reference (R100): packed 24-bit or 16-bit, root pitch, recorded rate, where the samples lie, the loop. -/
structure SampleRef where
  wide  : Bool
  root  : Int
  rate  : Nat
  page  : Nat
  start : Nat
  len   : Nat
  loop  : Option (Nat × Nat)
  deriving DecidableEq, Repr

/-- A table: a wavetable (its frames and the word of the stored form where it begins), a sample reference, a waveshape curve
or coefficient sets. -/
inductive Table where
  | wave (frames : Nat) (at_ : Nat)
  | sample (r : SampleRef)
  | curve (pts : List Int)
  | coefs (sets : List (List Int))
  deriving DecidableEq, Repr

/-- A voice program (R80). -/
structure Prog where
  cost     : Nat            -- steps per es (R101)
  prio     : Nat            -- default_priority
  delayMax : Nat
  progId   : Nat
  compiler : Nat
  fromPf3  : Bool
  osc      : List Osc       -- four positions
  shpKind  : Nat
  shpDrive : Option Nat
  shpMix   : Option Nat
  shpTable : Option Nat
  parallel : Bool
  flt0     : List Sect
  flt1     : List Sect
  ampLevel : Option Nat
  ampPan   : Option Nat
  dlyEn    : Bool
  dlyTime  : Option Nat
  dlyFb    : Option Nat
  dlyMix   : Option Nat
  slots    : List Slot
  routes   : List Route
  envs     : List EnvDef
  lfos     : List LfoDef
  sends    : List SendDef
  tables   : List Table
  deriving DecidableEq, Repr

/-! ### The image -/

abbrev Image := Array Byte

def Image.u8 (im : Image) (o : Nat) : Nat := (im.getD o 0#8).toNat
def Image.slice (im : Image) (o n : Nat) : List Byte := (List.range n).map fun i => im.getD (o + i) 0#8
def Image.u16 (im : Image) (o : Nat) : Nat := leNat (im.slice o 2)
def Image.u24 (im : Image) (o : Nat) : Nat := leNat (im.slice o 3)
def Image.u32 (im : Image) (o : Nat) : Nat := leNat (im.slice o 4)

/-- Why a load fails: the status, the reason code and the image offset of the first byte at fault (R102). -/
structure LoadErr where
  status : Nat
  reason : Nat
  off    : Nat
  deriving DecidableEq, Repr

/-- One condition of a check, and the byte at fault where it does not hold. -/
abbrev Cond := Bool × Nat

/-- The lowest byte at fault of a check, if any condition fails. -/
def firstFault (cs : List Cond) : Option Nat :=
  cs.foldl (fun f c => if c.1 then f else some (match f with | some g => min g c.2 | none => c.2)) none

/-- `n` reserved bytes from `o`, all zero (R92). -/
def zeros (im : Image) (o n : Nat) : List Cond := (List.range n).map fun i => (im.u8 (o + i) == 0, o + i)

/-- A slot reference byte: 0xFF is none (R95). -/
def slotRef (b : Nat) : Option Nat := if b = 255 then none else some b

/-- A table reference: 0xFFFF is none (R95). -/
def tableRef (w : Nat) : Option Nat := if w = 65535 then none else some w

/-- Check 5: the header (R91). -/
def chkHeader (im : Image) (named : Nat) : List Cond :=
  [(im.u16 6 == 64, 6), (im.u32 8 == named, 8)] ++ zeros im 0x11 1 ++ zeros im 0x17 1 ++ zeros im 0x24 28

/-- A directory entry: type, flags, offset, length. -/
structure DirEnt where
  type  : Nat
  flags : Nat
  off   : Nat
  len   : Nat
  deriving DecidableEq, Repr

/-- The directory (R91). -/
def directory (im : Image) : List DirEnt :=
  (List.range (im.u16 0x12)).map fun i =>
    let o := 0x40 + 16 * i
    { type := im.u16 o, flags := im.u16 (o + 2), off := im.u32 (o + 4), len := im.u32 (o + 8) }

/-- Check 8: count, bounds, alignment, overlap (R91). -/
def chkDirectory (im : Image) (named : Nat) : List Cond :=
  let n := im.u16 0x12
  if n < 3 ∨ n > 32 ∨ 0x40 + 16 * n > named then [(false, 0x12)] else
  let ds := (directory im).zipIdx
  ds.flatMap fun (d, i) =>
    [(d.off % 16 == 0 && decide (d.off ≥ 0x40 + 16 * n) && decide (d.off + d.len ≤ named)
        && ds.all (fun (e, j) => decide (j ≥ i) || decide (e.len = 0) || decide (d.len = 0)
            || decide (e.off + e.len ≤ d.off) || decide (d.off + d.len ≤ e.off)), 0x44 + 16 * i)]

/-- The first section of a type, with its directory index. -/
def findSec (im : Image) (ty : Nat) : Option (DirEnt × Nat) := (directory im).zipIdx.find? fun (d, _) => d.type == ty

/-- Where the entries of a section begin, and how many of `size` bytes it holds (absent: none, R94). -/
def secBase (im : Image) (ty : Nat) : Nat := ((findSec im ty).map (·.1.off)).getD 0
def secCount (im : Image) (ty size : Nat) : Nat := ((findSec im ty).map (·.1.len)).getD 0 / size

/-- Check 9: required, duplicate and unknown sections (R94); unknown optional sections are ignored even where two have one type.
DESIGN CHOICE (assumption log 127). -/
def chkSections (im : Image) : List Cond :=
  let ds := (directory im).zipIdx
  ([1, 2, 3].map fun t => (ds.any (fun (d, _) => d.type == t), 0)) ++
  ds.flatMap fun (d, i) =>
    let o := 0x40 + 16 * i
    let known := decide (1 ≤ d.type ∧ d.type ≤ 8)
    let opt := d.flags % 2 == 1
    [ (known || opt, o),
      (!known || ds.all (fun (e, j) => decide (j ≥ i) || e.type != d.type), o),
      (!(decide (1 ≤ d.type ∧ d.type ≤ 3) && opt), o + 2),
      (!(d.type == 8 && !opt), o + 2) ]

/-- Check 10: the length of a section against its entry size and maximum count (section types, R98, R99). What bytes a NAME holds no
check asks. DESIGN CHOICE (assumption log 129). Every failure names the length field of the section's directory entry. DEDUCED
(assumption log 64). -/
def chkLengths (im : Image) : List Cond :=
  (directory im).zipIdx.map fun (d, i) =>
    let fit (size most : Nat) : Bool := d.len % size == 0 && decide (d.len / size ≤ most)
    let kinds := (List.range (d.len / 4)).map fun k => im.u8 (d.off + 4 * k)
    let ok := match d.type with
      | 1 => d.len == 144
      | 2 => fit 8 64
      | 3 => fit 8 32
      | 4 => fit 72 6
      | 5 => fit 8 4
      | 6 => fit 4 6 && decide (kinds.count 0 ≤ 4) && decide (kinds.count 1 ≤ 2)
      | 7 => decide (16 ≤ d.len) && decide (im.u32 d.off ≤ 16) && decide (16 + 32 * im.u32 d.off ≤ d.len)
      | 8 => decide (1 ≤ d.len ∧ d.len ≤ 64)
      | _ => true
    (ok, 0x48 + 16 * i)

/-! ### Decoding the sections -/

def oscKind (k : Nat) : OscKind :=
  match k with
  | 1 => .wavetable | 2 => .sample | 3 => .pm | 4 => .va | 5 => .noise | _ => .off

def readOsc (im : Image) (o : Nat) : Osc :=
  { kind := oscKind (im.u8 o), mode := im.u8 (o + 1), pitch := slotRef (im.u8 (o + 2)), level := slotRef (im.u8 (o + 3)),
    table := tableRef (im.u16 (o + 4)), shape := slotRef (im.u8 (o + 6)), pmIn := im.u8 (o + 7) }

def readSect (im : Image) (o : Nat) : Sect :=
  { preset := im.u8 o, cutoff := slotRef (im.u8 (o + 1)), q := slotRef (im.u8 (o + 2)), gain := slotRef (im.u8 (o + 3)),
    table := tableRef (im.u16 (o + 4)) }

def readFilter (im : Image) (o : Nat) : List Sect :=
  (List.range (min (im.u8 o) 4)).map fun s => readSect im (o + 8 + 8 * s)

def fmtOf (k : Nat) : Fmt :=
  match k with
  | 1 => .unipolar | 2 => .pitch | 3 => .time | 4 => .index | _ => .bipolar

/-- The range of a slot format (SLOTS, slot formats). -/
def Fmt.range : Fmt → Int × Int
  | .bipolar => (-8388608, max24)
  | .unipolar => (0, max24)
  | .pitch => (-8388608, max24)
  | .time => (0, max24)
  | .index => (0, 255)

/-- A value limited to the range of a format. -/
def Fmt.lim (f : Fmt) (v : Int) : Int := clamp f.range.1 f.range.2 v

def readSlot (im : Image) (o : Nat) : Slot :=
  let b := im.u8 (o + 6)
  { dflt := signed 32 (im.u32 o), fmt := fmtOf (im.u8 (o + 4)), hostSet := im.u8 (o + 5) % 2 == 1,
    bind := match b / 64 with
      | 1 => .attr (b % 64)
      | 2 => .ctl (b % 64)
      | _ => .none }

/-- A source code (R97), none where the code is reserved. -/
def srcOf (c : Nat) : Option Src :=
  if c ≤ 5 then some (.env c)
  else if 8 ≤ c ∧ c ≤ 11 then some (.lfo (c - 8))
  else if 16 ≤ c ∧ c ≤ 19 then some (.rand (c - 16))
  else if 24 ≤ c ∧ c ≤ 31 then some (.note (c - 24))
  else if 32 ≤ c ∧ c ≤ 63 then some (.hctl (c - 32))
  else if 64 ≤ c ∧ c ≤ 71 then some (.det (c - 64))
  else if c = 128 then some .one
  else none

def readRoute (im : Image) (o : Nat) : Route :=
  { src := (srcOf (im.u8 o)).getD .one, dest := im.u8 (o + 1), depth := signed 16 (im.u16 (o + 2)),
    scale := if im.u8 (o + 4) = 255 then none else srcOf (im.u8 (o + 4)), curve := im.u8 (o + 5),
    uni := im.u8 (o + 6) % 2 == 1 }

def readSeg (im : Image) (o : Nat) : EnvSeg :=
  { level := signed 24 (im.u24 o), curve := signed 8 (im.u8 (o + 3)), time := im.u24 (o + 4),
    timeMod := slotRef (im.u8 (o + 7)) }

def readEnv (im : Image) (o : Nat) : EnvDef :=
  { segs := (List.range (im.u8 o)).map fun i => readSeg im (o + 8 + 8 * i),
    loop := if im.u8 (o + 1) = 255 then none else some (im.u8 (o + 1), im.u8 (o + 2)),
    release := im.u8 (o + 3), tempo := im.u8 (o + 4) % 2 == 1 }

def readLfo (im : Image) (o : Nat) : LfoDef :=
  let f := im.u8 (o + 1)
  { shape := im.u8 o, tempo := f % 2 == 1, reset := f / 2 % 2 == 1, once := f / 4 % 2 == 1, rate := slotRef (im.u8 (o + 2)),
    fade := slotRef (im.u8 (o + 3)), phase := im.u16 (o + 4) }

def readSend (im : Image) (o : Nat) : SendDef :=
  { spec := im.u8 o == 1, target := im.u8 (o + 1), level := slotRef (im.u8 (o + 2)), pre := im.u8 (o + 3) % 2 == 1 }

/-- `n` values of a table's data: three bytes each in format 0, two in format 1 and then multiplied by `up`. -/
def readVals (im : Image) (o n fmt : Nat) (up : Int) : List Int :=
  (List.range n).map fun i =>
    if fmt = 0 then signed 24 (im.u24 (o + 3 * i)) else signed 16 (im.u16 (o + 2 * i)) * up

def chunk5 : List Int → List (List Int)
  | a :: b :: c :: d :: e :: r => [a, b, c, d, e] :: chunk5 r
  | _ => []

/-- A table entry at `o`; `t` is where TABLES begins, `w` the word of the stored form where a wavetable would begin. -/
def readTable (im : Image) (t o w : Nat) : Table :=
  let fmt := im.u8 (o + 1)
  let data := t + im.u32 (o + 4)
  let cnt := im.u16 (o + 12)
  match im.u8 o with
  | 0 => .wave cnt w
  | 1 => .sample { wide := fmt == 1, root := signed 32 (im.u32 (o + 4)), rate := im.u32 (o + 8), page := cnt,
                   start := im.u32 (o + 16), len := im.u32 (o + 20),
                   loop := if im.u32 (o + 24) = 0xFFFFFFFF then none else some (im.u32 (o + 24), im.u32 (o + 28)) }
  | 2 => .curve (readVals im data 1025 fmt 256)
  | _ => .coefs (chunk5 (readVals im data (5 * cnt) fmt 128))

/-- The tables in directory order, wavetables laid out one behind the other in the stored form after its first 4096 bytes. -/
def readTables (im : Image) (t : Nat) : List Nat → Nat → List Table
  | [], _ => []
  | j :: js, w =>
    let o := t + 16 + 32 * j
    readTable im t o w :: readTables im t js (if im.u8 o = 0 then w + im.u16 (o + 12) * 4096 else w)

/-- The step cost of R101. -/
def oscCost : OscKind → Nat
  | .off => 0 | .wavetable => 12 | .sample => 20 | .pm => 14 | .va => 12 | .noise => 4

def stepCost (p : Prog) : Nat :=
  22 + (p.osc.map fun o => oscCost o.kind).foldl (· + ·) 0
    + (if p.shpKind = 1 then 6 else if p.shpKind = 2 then 8 else 0)
    + 6 * (p.flt0.length + p.flt1.length) + 3 * p.envs.length + p.lfos.length + p.routes.length + 2 * p.sends.length
    + (if p.dlyEn then 12 else 0)

/-- The program that an image whose checks hold describes. -/
def readProg (im : Image) (pf3 : Bool) : Prog :=
  let t := secBase im 1
  let entries (ty size : Nat) : List Nat := (List.range (secCount im ty size)).map fun k => secBase im ty + size * k
  { cost := im.u16 0x14, prio := im.u8 0x16, delayMax := im.u32 0x18, progId := im.u32 0x1C, compiler := im.u32 0x20,
    fromPf3 := pf3,
    osc := (List.range 4).map fun i => readOsc im (t + 8 * i),
    shpKind := im.u8 (t + 0x20), shpDrive := slotRef (im.u8 (t + 0x21)), shpMix := slotRef (im.u8 (t + 0x22)),
    shpTable := tableRef (im.u16 (t + 0x24)), parallel := im.u8 (t + 0x28) == 1,
    flt0 := readFilter im (t + 0x30), flt1 := readFilter im (t + 0x58),
    ampLevel := slotRef (im.u8 (t + 0x80)), ampPan := slotRef (im.u8 (t + 0x81)),
    dlyEn := im.u8 (t + 0x88) == 1, dlyTime := slotRef (im.u8 (t + 0x89)), dlyFb := slotRef (im.u8 (t + 0x8A)),
    dlyMix := slotRef (im.u8 (t + 0x8B)),
    slots := (entries 2 8).map (readSlot im), routes := (entries 3 8).map (readRoute im),
    envs := (entries 4 72).map (readEnv im), lfos := (entries 5 8).map (readLfo im), sends := (entries 6 4).map (readSend im),
    tables := if (findSec im 7).isSome then readTables im (secBase im 7) (List.range (im.u32 (secBase im 7))) 1024 else [] }

/-! ### Check 11: fields and reserved bytes -/

/-- A slot reference byte is 0 to 63, or 0xFF for none (R95). -/
def fldSlotRef (im : Image) (o : Nat) : Cond := (decide (im.u8 o < 64) || im.u8 o == 255, o)

/-- The modes of an oscillator kind. -/
def oscModes (k : Nat) : Nat :=
  match k with
  | 0 => 1 | 1 => 2 | 2 => 4 | 3 => 1 | 4 => 3 | 5 => 2 | _ => 0

def fldOsc (im : Image) (o : Nat) : List Cond :=
  let k := im.u8 o
  let m := im.u8 (o + 1)
  [ (decide (k ≤ 5), o), (decide (k > 5) || decide (m < oscModes k), o + 1),
    (k == 1 || k == 2 || im.u16 (o + 4) == 0xFFFF, o + 4),
    (k == 1 || k == 3 || (k == 4 && m == 1) || im.u8 (o + 6) == 0xFF, o + 6),
    (if k = 3 then decide (im.u8 (o + 7) < 16) else im.u8 (o + 7) == 0, o + 7) ] ++ [o + 2, o + 3, o + 6].map (fldSlotRef im)

def fldSect (im : Image) (o : Nat) : List Cond :=
  let p := im.u8 o
  [ (decide (p ≤ 8), o), (!(p == 5 || p == 6 || p == 8) || im.u8 (o + 2) == 0xFF, o + 2),
    (p == 4 || p == 5 || p == 6 || im.u8 (o + 3) == 0xFF, o + 3), (p == 8 || im.u16 (o + 4) == 0xFFFF, o + 4) ]
  ++ zeros im (o + 6) 2 ++ [o + 1, o + 2, o + 3].map (fldSlotRef im)

def fldFilter (im : Image) (o : Nat) : List Cond :=
  (decide (im.u8 o ≤ 4), o) :: zeros im (o + 1) 7 ++
  (List.range 4).flatMap fun s => if s < im.u8 o then fldSect im (o + 8 + 8 * s) else zeros im (o + 8 + 8 * s) 8

def fldTopo (im : Image) (t : Nat) : List Cond :=
  ((List.range 4).flatMap fun i => fldOsc im (t + 8 * i)) ++
  [ (decide (im.u8 (t + 0x20) ≤ 2), t + 0x20), (im.u8 (t + 0x20) == 1 || im.u16 (t + 0x24) == 0xFFFF, t + 0x24),
    (decide (im.u8 (t + 0x28) ≤ 1), t + 0x28), (decide (im.u8 (t + 0x88) ≤ 1), t + 0x88),
    ((im.u8 (t + 0x88) == 0) == (im.u32 0x18 == 0), 0x18) ] ++
  [0x21, 0x22, 0x80, 0x81, 0x89, 0x8A, 0x8B].map (fun d => fldSlotRef im (t + d)) ++ zeros im (t + 0x23) 1 ++
    zeros im (t + 0x26) 2 ++ zeros im (t + 0x29) 7 ++ zeros im (t + 0x82) 6 ++ zeros im (t + 0x8C) 4 ++
  fldFilter im (t + 0x30) ++ fldFilter im (t + 0x58)

def fldSlot (im : Image) (o : Nat) : List Cond :=
  let b := im.u8 (o + 6)
  let r := (fmtOf (im.u8 (o + 4))).range
  let d := signed 32 (im.u32 o)
  [ (decide (im.u8 (o + 4) ≤ 4), o + 4), (decide (r.1 ≤ d ∧ d ≤ r.2), o), (decide (im.u8 (o + 5) ≤ 1), o + 5),
    (b == 0 || (b / 64 == 1 && decide (b % 64 ≤ 7)) || (b / 64 == 2 && decide (b % 64 ≤ 31)), o + 6) ] ++ zeros im (o + 7) 1

def fldRoute (im : Image) (o : Nat) : List Cond :=
  [ ((srcOf (im.u8 o)).isSome, o), (decide (im.u8 (o + 1) < 64), o + 1), (im.u8 (o + 4) == 255 || (srcOf (im.u8 (o + 4))).isSome, o + 4),
    (decide (im.u8 (o + 5) ≤ 3), o + 5), (decide (im.u8 (o + 6) ≤ 1), o + 6) ] ++ zeros im (o + 7) 1

def fldEnv (im : Image) (o : Nat) : List Cond :=
  let n := im.u8 o
  let a := im.u8 (o + 1)
  let b := im.u8 (o + 2)
  [ (decide (1 ≤ n ∧ n ≤ 8), o), ((a == 255 && b == 255) || decide (a ≤ b ∧ b < n), o + 1),
    (decide (im.u8 (o + 3) < n), o + 3), (decide (im.u8 (o + 4) ≤ 1), o + 4) ] ++ zeros im (o + 5) 3 ++
  (List.range 8).flatMap fun i =>
    let g := o + 8 + 8 * i
    if i < n then [(im.u8 (g + 3) != 128, g + 3), (decide (im.u24 (g + 4) ≤ 8388607), g + 4), fldSlotRef im (g + 7)]
    else zeros im g 8

def fldLfo (im : Image) (o : Nat) : List Cond :=
  [(decide (im.u8 o ≤ 6), o), (decide (im.u8 (o + 1) ≤ 7), o + 1), fldSlotRef im (o + 2), fldSlotRef im (o + 3)] ++ zeros im (o + 6) 2

def fldSend (im : Image) (base k : Nat) : List Cond :=
  let o := base + 4 * k
  [ (decide (im.u8 o ≤ 1), o), (decide (im.u8 (o + 1) ≤ (if im.u8 o = 0 then 63 else 7)), o + 1),
    fldSlotRef im (o + 2), (decide (im.u8 (o + 3) ≤ 1), o + 3),
    ((List.range k).all (fun j => im.u16 (base + 4 * j) != im.u16 o), o) ]

/-- A sample table with one of loop_start and loop_end alone equal to 0xFFFF_FFFF is rejected: such a table neither has a loop nor
names none. Data of a table may lie anywhere in the section, over its head or another table's data. DESIGN CHOICE (assumption log 119,
128). -/
def fldTable (im : Image) (t len o : Nat) : List Cond :=
  let k := im.u8 o
  let cnt := im.u16 (o + 12)
  let w := if im.u8 (o + 1) = 0 then 3 else 2
  let dlen := im.u32 (o + 8)
  let size := if k = 0 then cnt * 2048 * w else if k = 2 then 1025 * w else cnt * 5 * w
  let ls := im.u32 (o + 24)
  let le := im.u32 (o + 28)
  let _ := t
  [(decide (k ≤ 3), o), (decide (im.u8 (o + 1) ≤ 1), o + 1)] ++ zeros im (o + 2) 2 ++ zeros im (o + 14) 2 ++
  if k = 1 then
    [ (decide (-8388608 ≤ signed 32 (im.u32 (o + 4)) ∧ signed 32 (im.u32 (o + 4)) ≤ max24), o + 4),
      (decide (8000 ≤ dlen ∧ dlen ≤ 192000), o + 8), (decide (cnt ≤ 4095), o + 12), (decide (1 ≤ im.u32 (o + 20)), o + 20),
      ((ls == 0xFFFFFFFF && le == 0xFFFFFFFF) || (decide (ls < le) && le != 0xFFFFFFFF), o + 24),
      (le == 0xFFFFFFFF || decide (le ≤ im.u32 (o + 20)), o + 28) ]
  else
    [ (decide (im.u32 (o + 4) + dlen ≤ len), o + 4), (dlen == size, o + 8),
      (if k = 2 then cnt == 0 else decide (1 ≤ cnt ∧ cnt ≤ 256), o + 12) ] ++ zeros im (o + 16) 16

def fldTables (im : Image) : List Cond :=
  match findSec im 7 with
  | none => []
  | some (d, _) => zeros im (d.off + 4) 12 ++
      (List.range (im.u32 d.off)).flatMap fun j => fldTable im d.off d.len (d.off + 16 + 32 * j)

/-- Check 11 of R102. DEDUCED (assumption log 64). -/
def chkFields (im : Image) : List Cond :=
  let each (ty size : Nat) (f : Nat → List Cond) : List Cond :=
    (List.range (secCount im ty size)).flatMap fun k => f (secBase im ty + size * k)
  ((directory im).zipIdx.flatMap fun (d, i) =>
    (decide (d.flags ≤ 1), 0x42 + 16 * i) :: zeros im (0x4C + 16 * i) 4) ++
  [(decide (im.u32 0x18 ≤ 65536), 0x18)] ++ fldTopo im (secBase im 1) ++ each 2 8 (fldSlot im) ++ each 3 8 (fldRoute im) ++
  each 4 72 (fldEnv im) ++ each 5 8 (fldLfo im) ++
  ((List.range (secCount im 6 4)).flatMap fun k => fldSend im (secBase im 6) k) ++ fldTables im

/-! ### Check 12: references -/

/-- A slot reference that names an existing slot, of a format where one is asked for, or none (R95). -/
def refSlot (p : Prog) (f : Option Fmt) (r : Option Nat) : Bool :=
  match r with
  | none => true
  | some k =>
    match p.slots[k]? with
    | none => false
    | some s => match f with
      | none => true
      | some f => s.fmt == f

def Prog.table? (p : Prog) (r : Option Nat) : Option Table := r.bind fun k => p.tables[k]?

def refSrc (p : Prog) : Src → Bool
  | .env k => decide (k < p.envs.length)
  | .lfo k => decide (k < p.lfos.length)
  | _ => true

def refOsc (p : Prog) (o : Osc) (b : Nat) : List Cond :=
  [ (refSlot p (some .pitch) o.pitch, b + 2), (refSlot p none o.level, b + 3),
    (match o.kind, p.table? o.table with
     | .wavetable, some (.wave ..) => true
     | .wavetable, _ => false
     | .sample, some (.sample r) => if o.mode = 0 then r.loop.isNone else r.loop.isSome
     | .sample, _ => false
     | _, _ => true, b + 4),
    (refSlot p none o.shape, b + 6),
    ((List.range 4).all fun j => o.pmIn / 2 ^ j % 2 == 0
        || (match p.osc[j]? with | some x => x.kind == .pm | none => false), b + 7) ]

/-- A section's references. Cutoff, delay time and gain may name a slot of any format, that of preset 8 an INDEX.
DESIGN CHOICE (assumption log 121). -/
def refSect (p : Prog) (s : Sect) (b : Nat) : List Cond :=
  [ (refSlot p (if s.preset = 8 then some .index else none) s.cutoff, b + 1), (refSlot p none s.q, b + 2),
    (refSlot p none s.gain, b + 3),
    (s.preset != 8 || (match p.table? s.table with | some (.coefs _) => true | _ => false), b + 4) ]

/-- Check 12 of R102. DEDUCED (assumption log 64). -/
def chkRefs (im : Image) (p : Prog) : List Cond :=
  let t := secBase im 1
  let at_ (ty size k : Nat) : Nat := secBase im ty + size * k
  (p.osc.zipIdx.flatMap fun (o, i) => refOsc p o (t + 8 * i)) ++
  [ (refSlot p none p.shpDrive, t + 0x21), (refSlot p none p.shpMix, t + 0x22),
    (p.shpKind != 1 || (match p.table? p.shpTable with | some (.curve _) => true | _ => false), t + 0x24),
    (refSlot p none p.ampLevel, t + 0x80), (refSlot p none p.ampPan, t + 0x81), (refSlot p none p.dlyTime, t + 0x89),
    (refSlot p none p.dlyFb, t + 0x8A), (refSlot p none p.dlyMix, t + 0x8B) ] ++
  (p.flt0.zipIdx.flatMap fun (s, i) => refSect p s (t + 0x38 + 8 * i)) ++
  (p.flt1.zipIdx.flatMap fun (s, i) => refSect p s (t + 0x60 + 8 * i)) ++
  (p.routes.zipIdx.flatMap fun (r, k) =>
    [ (refSrc p r.src, at_ 3 8 k),
      (match p.slots[r.dest]? with | some s => s.fmt != .index | none => false, at_ 3 8 k + 1),
      (match r.scale with | some x => refSrc p x | none => true, at_ 3 8 k + 4) ]) ++
  (p.envs.zipIdx.flatMap fun (e, k) => e.segs.zipIdx.map fun (g, i) =>
    (refSlot p none g.timeMod, at_ 4 72 k + 0x0F + 8 * i)) ++
  (p.lfos.zipIdx.flatMap fun (l, k) =>
    [(refSlot p none l.rate, at_ 5 8 k + 2), (refSlot p (some .time) l.fade, at_ 5 8 k + 3)]) ++
  (p.sends.zipIdx.map fun (s, k) => (refSlot p none s.level, at_ 6 4 k + 2))

/-! ### The checks of the image alone -/

/-- Checks 5 to 13 of R102, on an image that begins with the PF4 magic. -/
def parsePf4 (bad : Nat) (version : Nat) (rv : Nat) (im : Image) (pf3 : Bool) : Except LoadErr Prog :=
  let n := im.size
  let fail (reason : Nat) (cs : List Cond) : Option LoadErr :=
    (firstFault cs).map fun o => { status := bad, reason := reason, off := o }
  if n < 64 then .error { status := bad, reason := 2, off := 0 } else
  match fail 2 (chkHeader im n) with
  | some e => .error e
  | none =>
  if crc32 (im.toList.set 12 0 |>.set 13 0 |>.set 14 0 |>.set 15 0) ≠ im.u32 12 then
    .error { status := bad, reason := 3, off := 0 } else
  if im.u8 0x10 ≠ rv then .error { status := version, reason := 0, off := 0x10 } else
  match fail 4 (chkDirectory im n) with
  | some e => .error e
  | none =>
  match fail 5 (chkSections im) with
  | some e => .error e
  | none =>
  match fail 6 (chkLengths im) with
  | some e => .error e
  | none =>
  match fail 7 (chkFields im) with
  | some e => .error e
  | none =>
  let p := readProg im pf3
  match fail 8 (chkRefs im p) with
  | some e => .error e
  | none =>
  if stepCost p ≠ p.cost then .error { status := bad, reason := 9, off := 0x14 } else .ok p

/-- The PM operators are FM pairs (R105): modulators without a pm_in, and for each of them one carrier whose pm_in is its position. -/
def Prog.fmPairs (p : Prog) : Bool :=
  let pm := p.osc.zipIdx.filter fun x => x.1.kind == .pm
  let carriers (m : Nat) : Nat := (pm.filter fun c => c.1.pmIn == 2 ^ m).length
  pm.all fun x =>
    if x.1.pmIn = 0 then carriers x.2 == 1 else pm.any fun m => m.1.pmIn == 0 && x.1.pmIn == 2 ^ m.2

/-- The program is one that the translation table gives (R105): no delay line, one filter of at most two sections, at most 4 envelopes
of at most 5 segments, 2 LFOs, 16 routes and 2 sends to buses 0 to 15, wavetables of 128 frames, PM operators in FM pairs. -/
def Prog.ofPf3 (p : Prog) : Bool :=
  p.fmPairs &&
  !p.dlyEn && p.delayMax == 0 && decide (p.flt0.length ≤ 2) && p.flt1.isEmpty && decide (p.envs.length ≤ 4) &&
    p.envs.all (fun e => decide (e.segs.length ≤ 5)) && decide (p.lfos.length ≤ 2) && decide (p.routes.length ≤ 16) &&
    decide (p.sends.length ≤ 2) && p.sends.all (fun z => !z.spec && decide (z.target ≤ 15)) &&
    p.tables.all fun t => match t with
      | .wave f _ => f == 128
      | .sample _ => true
      | .curve _ => true
      | .coefs _ => true

/-- Every table of coefficient sets is of format 1 (R105). -/
def coefs16 (im : Image) : Bool :=
  match findSec im 7 with
  | none => true
  | some (d, _) => (List.range (im.u32 d.off)).all fun j => im.u8 (d.off + 16 + 32 * j) != 3 || im.u8 (d.off + 17 + 32 * j) == 1

/-- The translation of a PF3 image (R104, R105): a PF4 image with rv 1, to which checks 5 to 14 then apply, or why there is none. One that
passes 5 to 13 has what the table gives each element. What the table does not give is free. DESIGN CHOICE (assumption log 20). -/
def translatePf3 (bs : List Byte) : Pf3Result :=
  match Config.pf3Translate bs with
  | .image x =>
    (match x.take 4 == [0x50#8, 0x46#8, 0x34#8, 0x00#8], parsePf4 0x15 0x30 1 x.toArray true with
     | true, .ok p => if p.ofPf3 && coefs16 x.toArray then .image x else .malformed 0
     | true, .error e => if e.status = 0x30 then .malformed 0 else .image x
     | false, _ => .malformed 0)
  | .unsupported o => .unsupported o
  | .malformed o => .malformed o

/-- The first byte of a magic that is neither of the two (R102). -/
def magicFault (m : List Byte) : Nat :=
  if m[0]? ≠ some 0x50#8 then 0 else if m[1]? ≠ some 0x46#8 then 1
  else if m[2]? ≠ some 0x34#8 ∧ m[2]? ≠ some 0x33#8 then 2 else 3

/-- Checks 4 to 13 of R102: the PF4 magic, or a PF3 image translated first (R104). DEDUCED (assumption log 64). -/
def parseImage (bad version rv : Nat) (im : Image) : Except LoadErr Prog :=
  let magic := im.slice 0 4
  if im.size < 4 then .error { status := bad, reason := 1, off := 0 }
  else if magic = [0x50#8, 0x46#8, 0x34#8, 0x00#8] then parsePf4 bad version rv im false
  else if magic = [0x50#8, 0x46#8, 0x33#8, 0x00#8] then
    if rv ≠ 1 then .error { status := version, reason := 0, off := 0 }
    else match translatePf3 im.toList with
      | .image bs => parsePf4 bad version rv bs.toArray true
      | .unsupported o => .error { status := bad, reason := 0x0B, off := o }
      | .malformed o => .error { status := bad, reason := 0x0C, off := o }
  else .error { status := bad, reason := 1, off := magicFault magic }

/-! ### The stored form -/

/-- Delay words that a voice of the program reserves (R81). -/
def Prog.words (p : Prog) : Nat := (p.delayMax + 63) / 64 * 64

/-- The size in bytes of the stored form (R86). -/
def Prog.storedBytes (p : Prog) : Nat :=
  4096 + (p.tables.map fun t =>
    match t with
    | .wave f _ => 2 * f * 2048 * 4
    | .curve _ => 1025 * 4
    | .coefs ss => ss.length * 5 * 4
    | .sample _ => 0).foldl (· + ·) 0

/-- The pages of the stored form (R86). -/
def Prog.storedPages (p : Prog) : Nat := (p.storedBytes + 65535) / 65536

/-- The bytes of a sample. -/
def SampleRef.bytes (r : SampleRef) : Nat := if r.wide then 3 else 2
/-- The pages that a sample reference spans (R100): those of its samples. Pages between first_page and the first sample are not among
them. DESIGN CHOICE (assumption log 120). -/
def SampleRef.pages (r : SampleRef) : List Nat :=
  let lo := r.page * 65536 + r.start * r.bytes
  let hi := r.page * 65536 + (r.start + r.len) * r.bytes - 1
  (List.range (hi / 65536 + 1 - lo / 65536)).map (· + lo / 65536)

def Prog.samplePages (p : Prog) : List Nat :=
  p.tables.flatMap fun t => match t with | .sample r => r.pages | _ => []

/-- The symmetric half-band kernel of R113, k = 0 … 7. -/
def mipKernel : List Int := [65536, 39188, 0, -8830, 0, 3030, 0, -620]

/-- Level m + 1 from level m (R113). -/
def mipNext (l : Array Int) : Array Int :=
  let n := l.size
  ((List.range (n / 2)).map fun (i : Nat) =>
    let s := (List.range 15).foldl (fun (s : Int) (kk : Nat) =>
      let k : Int := (kk : Int) - 7
      s + mipKernel.getD k.natAbs 0 * l.getD ((2 * (i : Int) - k) % (n : Int)).toNat 0) 0
    sat24 (rnd s 17)).toArray

/-- The ten mip levels of a frame, one behind the other: 4092 words (R113). -/
def mips : Nat → Array Int → List Int
  | 0, l => l.toList
  | k + 1, l => l.toList ++ mips k (mipNext l)

/-- Where level m begins in a frame's 4096 words: the ten levels in succession. DESIGN CHOICE (assumption log 122). -/
def mipStart (m : Nat) : Nat := 4096 - 4096 / 2 ^ m

/-- The words of a wavetable's stored form: 4096 for each frame, the last four of them zero. DESIGN CHOICE (assumption log 122). -/
def waveWords (im : Image) (t o : Nat) : List Int :=
  (List.range (im.u16 (o + 12))).flatMap fun f =>
    let w := if im.u8 (o + 1) = 0 then 3 else 2
    mips 9 (readVals im (t + im.u32 (o + 4) + f * 2048 * w) 2048 (im.u8 (o + 1)) 256).toArray ++ [0, 0, 0, 0]

/-- The bytes of the stored form's wavetable part, which begins 4096 bytes into the stored pages. -/
def storedWaves (im : Image) : List Byte :=
  match findSec im 7 with
  | none => []
  | some (d, _) => (List.range (im.u32 d.off)).flatMap fun j =>
      let o := d.off + 16 + 32 * j
      if im.u8 o = 0 then (waveWords im d.off o).flatMap fun v => leBytes 4 (wrapU 32 v).toNat else []

end Sys2Proof.Machine
end

