-- ==== Sys2Proof/Machine/Mod.lean ====
section
/-! DEFINITION. Envelopes, LFOs and the modulation matrix (spec/06_envelopes_and_modulation.md R164–R192). Times are in
1/512 es; control point k lies at 2048k. -/

namespace Sys2Proof.Machine

/-! ### Base values that events set and ramp (R168–R174) -/

/-- What sets or ramps a value: an event, a DMX patch, an analyser (R174, R247). -/
inductive LineSrc where
  | event | dmx | track
  deriving DecidableEq, Repr

/-- A set or ramp of a value: `key` orders it among the value's events, `t` is its applied time. -/
structure LineEv where
  src  : LineSrc
  key  : Nat
  t    : Nat
  ramp : Bool
  v    : Int
  dur  : Nat
  deriving DecidableEq, Repr

/-- What governs a value at an instant: nothing set it yet, a set value, a ramp in progress or complete. -/
inductive LineSeg where
  | free
  | const (v : Int)
  | ramp (b0 v : Int) (t d : Nat)
  deriving DecidableEq, Repr

/-- The key of a change that precedes every HALL_CTRL that takes effect at its control point: DMX first, resynthesis second (R174, R247).
DEDUCED (assumption log 41). -/
def cpKey (t rank : Nat) : Nat := (t - 2047) * 8 * 2 ^ 64 - 2 + rank

/-- The value that a segment gives at time `tau`, at or after the ramp's start (R170). -/
def LineSeg.at (init : Nat → Int) (tau : Nat) : LineSeg → Int
  | .free => init tau
  | .const v => v
  | .ramp b0 v t d => if tau ≥ t + d then v else if tau ≤ t then b0 else b0 + rdiv ((v - b0) * ((tau : Int) - t)) d

/-- The first control point at or after `t`, as a time (R169). -/
def ceilCp (t : Nat) : Nat := (t + 2047) / 2048 * 2048

/-- A value's segment and the changes that wait for their control points, in order. -/
abbrev LineSt := LineSeg × List LineEv

/-- A waiting change takes effect: a ramp of a DMX patch, or a value (R169, R170). -/
def LineSeg.take (init : Nat → Int) (g : LineSeg) (e : LineEv) : LineSeg :=
  if e.ramp ∧ e.dur ≠ 0 then .ramp (g.at init e.t) e.v e.t e.dur else .const e.v

/-- The waiting changes whose control points have come take effect. -/
def LineSt.settle (init : Nat → Int) (tau : Nat) (s : LineSt) : LineSt :=
  ((s.2.filter fun e => ceilCp e.t ≤ tau).foldl (LineSeg.take init) s.1, s.2.filter fun e => tau < ceilCp e.t)

/-- One event, in order (R169–R172). Events at or before `imm` act at once: those that precede a voice's start. What a DMX patch or an
analyser changes acts at its control point, before the HALL_CTRLs that take effect there, and a ramp's B0 is the value that governs at
its own time (R174). DEDUCED (assumption log 40, 41). -/
def LineSt.step (init : Nat → Int) (imm : Nat) (s : LineSt) (e : LineEv) : LineSt :=
  if e.src ≠ .event then
    let s := s.settle init (e.t - 1)
    (s.1, s.2 ++ [e])
  else
    let s := s.settle init e.t
    if e.ramp ∧ e.dur ≠ 0 then (.ramp (s.1.at init e.t) e.v e.t e.dur, [])
    else if e.t ≤ imm ∨ ceilCp e.t = e.t then (.const e.v, [])
    else (s.1, s.2 ++ [e])

/-- The value at `tau` of a line of events in order, over the values `init` that hold while nothing has set it.
DEDUCED (assumption log 40). -/
def lineAt (init : Nat → Int) (imm : Nat) (evs : List LineEv) (tau : Nat) : Int :=
  let s := ((evs.filter fun e => e.t ≤ tau).foldl (LineSt.step init imm) (.free, [])).settle init tau
  s.1.at init tau

/-- Whether the value, from `tau` on, is fed by a DMX patch: what it gave governs, will govern, or is where a ramp still under way began
(R76, condition 6). -/
def dmxFed (tau : Nat) (evs : List LineEv) : Bool :=
  evs.foldl (fun fed e => e.src == .dmx ||
    fed && decide (tau < if e.ramp ∧ e.dur ≠ 0 then e.t + e.dur else ceilCp e.t)) false

/-- Whether an event has set or ramped the value by `tau` (R168). -/
def lineTouched (evs : List LineEv) (tau : Nat) : Bool := evs.any fun e => e.t ≤ tau

/-- An event is put in its place: after those whose key is no greater. -/
def lineInsert (e : LineEv) : List LineEv → List LineEv
  | [] => [e]
  | f :: fs => if f.key ≤ e.key then f :: lineInsert e fs else e :: f :: fs

/-- What a voice reads of its hall while it renders a frame: the controllers' and the tempo's events with the values they
began from, the detector inputs at the end of bus frames F − 4 and F − 5 (R188). -/
structure ModEnv where
  fe882   : Bool
  ctl     : List (Int × List LineEv)
  tempo   : Int × List LineEv
  det     : List Int
  detPrev : List Int
  deriving DecidableEq, Repr

/-- Fe in Hz. -/
def feHz (fe882 : Bool) : Nat := if fe882 then 88200 else 96000

/-- Controller `k` of the hall at time `tau` (R174). -/
def ModEnv.ctlAt (m : ModEnv) (k tau : Nat) : Int :=
  match m.ctl[k]? with
  | some (b, evs) => lineAt (fun _ => b) 0 evs tau
  | none => 0

/-- The hall's tempo at `tau` (R175). -/
def ModEnv.tempoAt (m : ModEnv) (tau : Nat) : Int := lineAt (fun _ => m.tempo.1) 0 m.tempo.2 tau

/-! ### Envelopes -/

inductive EnvMode where
  | run | hold | done
  deriving DecidableEq, Repr

/-- The state of an envelope (R178). -/
structure EnvSt where
  mode     : EnvMode
  seg      : Nat
  l0       : Int
  s0       : Nat
  n        : Nat
  relPend  : Option Nat
  released : Bool
  lastLoop : Option Nat
  deriving DecidableEq, Repr

def EnvDef.seg? (d : EnvDef) (i : Nat) : EnvSeg := d.segs.getD i { level := 0, curve := 0, time := 0, timeMod := none }

/-- The value of an optional slot in a list of slot values, `dflt` where it is unconnected. -/
def slotVal (vs : List Int) (r : Option Nat) (dflt : Int) : Int :=
  match r with
  | some k => vs.getD k dflt
  | none => dflt

/-- The length of a segment entered at `t` (R176); `prev` are the slot values that time_mod reads. -/
def segLen (m : ModEnv) (d : EnvDef) (i : Nat) (prev : List Int) (t : Nat) : Nat :=
  let g := d.seg? i
  let te := clamp 0 max24 (g.time + slotVal prev g.timeMod 0)
  (if d.tempo then rdiv (te * feHz m.fe882 * 32000) (m.tempoAt t) else rdiv (te * feHz m.fe882 * 4) 125).toNat

/-- Segment `i` is entered at `t`. -/
def EnvSt.enter (m : ModEnv) (d : EnvDef) (prev : List Int) (e : EnvSt) (i t : Nat) : EnvSt :=
  { e with mode := .run, seg := i, s0 := t, n := segLen m d i prev t }

/-- The level at `tau` (R177). -/
def EnvSt.level (d : EnvDef) (e : EnvSt) (tau : Nat) : Int :=
  match e.mode with
  | .run =>
    if e.n = 0 then (d.seg? e.seg).level else
    let f : Int := ((min 65536 ((tau - e.s0) * 65536 / e.n) : Nat) : Int)
    let g := f + rdiv ((d.seg? e.seg).curve * f * (65536 - f)) (127 * 65536)
    e.l0 + rnd (((d.seg? e.seg).level - e.l0) * g) 16
  | _ => e.l0

/-- A loop exists and is open: not released, or it starts at or after the release segment (R178). -/
def EnvSt.loopOpen (d : EnvDef) (e : EnvSt) : Bool :=
  match d.loop with
  | some (a, _) => !e.released || decide (a ≥ d.release)
  | none => false

/-- One pass of the loop of R178 at `tk`; none when the evaluation is complete. -/
def EnvSt.pass (m : ModEnv) (d : EnvDef) (prev : List Int) (tk : Nat) (e : EnvSt) : Option EnvSt :=
  let tEnd : Option Nat := match e.mode with | .run => some (e.s0 + e.n) | _ => none
  let relNow : Option Nat := match e.relPend with
    | some r => if decide (r ≤ tk) && (match tEnd with | some x => decide (r ≤ x) | none => true) then some r else none
    | none => none
  match relNow with
  | some r =>
    some (EnvSt.enter m d prev { e with l0 := e.level d r, relPend := none, released := true } d.release r)
  | none =>
    match tEnd with
    | none => none
    | some x =>
      if x > tk then none else
      let e := { e with l0 := (d.seg? e.seg).level }
      let nx := e.seg + 1
      if (match d.loop with | some (_, b) => e.seg == b | none => false) && e.loopOpen d then
        if e.lastLoop = some x then some { e with mode := .hold }
        else some (EnvSt.enter m d prev { e with lastLoop := some x } ((d.loop.map (·.1)).getD 0) x)
      else if e.released = false ∧ nx = d.release then some { e with mode := .hold }
      else if nx ≥ d.segs.length then some { e with mode := .done }
      else some (EnvSt.enter m d prev e nx x)

/-- The passes at one control point. A period holds at most one boundary of a segment of non-zero length (R179), so 64 passes
reach the end. -/
def EnvSt.eval (m : ModEnv) (d : EnvDef) (prev : List Int) (tk : Nat) : Nat → EnvSt → EnvSt
  | 0, e => e
  | n + 1, e => match e.pass m d prev tk with
    | none => e
    | some e' => EnvSt.eval m d prev tk n e'

/-- An envelope at voice start (R178): segment 0 entered at T_start, or HOLD where release is 0. -/
def EnvSt.start (m : ModEnv) (d : EnvDef) (pre : List Int) (t : Nat) (rel : Option Nat) : EnvSt :=
  let e : EnvSt := { mode := .hold, seg := 0, l0 := 0, s0 := t, n := 0, relPend := rel, released := false, lastLoop := none }
  if d.release = 0 then e else EnvSt.enter m d pre e 0 t

/-! ### LFOs -/

/-- The state of an LFO (R181–R184). -/
structure LfoSt where
  phis  : Nat
  phase : Nat
  adv   : Nat
  held  : Bool
  gen   : BitVec 32
  a     : Int
  b     : Int
  nf    : Nat
  deriving DecidableEq, Repr

/-- The naive triangle of R129. -/
def triNaive (t : Int) : Int := if t < p2 31 then asr t 7 - 8388608 else 8388608 - asr (t - p2 31) 7

/-- The output of an LFO shape at its phase (LFO shapes), before the fade. -/
def LfoSt.raw (d : LfoDef) (l : LfoSt) : Int :=
  let t : Int := l.phase
  match d.shape with
  | 0 => sine t
  | 1 => sat24 (triNaive (wrapU 32 (t + 1073741824)))
  | 2 => asr t 8 - 8388608
  | 3 => max24 - asr t 8
  | 4 => if t < p2 31 then max24 else -8388608
  | 5 => l.b
  | _ => l.a + rnd ((l.b - l.a) * asr t 16) 16

/-- The output at time `tk` of a voice that started at `t0` (R184). -/
def LfoSt.out (d : LfoDef) (l : LfoSt) (t0 tk : Nat) : Int :=
  if l.nf = 0 then l.raw d else rnd (l.raw d * ((min 65536 ((tk - t0) * 65536 / l.nf) : Nat) : Int)) 16

/-- The base of an LFO increment (R181). DEDUCED (assumption log 42). -/
def lfoBase (m : ModEnv) (d : LfoDef) (tau : Nat) : Nat :=
  if d.tempo then (rdiv (m.tempoAt tau * p2 40) (6000 * ((feHz m.fe882 / 4 : Nat) : Int))).toNat
  else if m.fe882 then 49864473 else 45812984

/-- linc (R181) from the rate slot's value, with the tempo at `tau`. -/
def linc (m : ModEnv) (d : LfoDef) (p : Int) (tau : Nat) : Int := expInc (lfoBase m d tau) 38 0x7FFFFFFF p

/-- The phase after an advance, with the draw that a wrap makes (R182, R183); the advance that completes a one-cycle LFO makes none
(DESIGN CHOICE, assumption log 130). DEDUCED (assumption log 42). -/
def LfoSt.advance (d : LfoDef) (l : LfoSt) (by_ : Nat) : LfoSt :=
  if l.held then l else
  let adv := l.adv + by_
  if d.once = true ∧ adv ≥ 2 ^ 32 then { l with phase := l.phis, adv := adv, held := true } else
  let p := l.phase + by_
  let l := { l with phase := p % 2 ^ 32, adv := adv }
  if p ≥ 2 ^ 32 ∧ d.shape ≥ 5 then
    let g := drawState l.gen
    { l with gen := g, a := l.b, b := drawValue g }
  else l

/-- An LFO at voice start (R182–R184); `pre` are the pre-start values. DEDUCED (assumption log 42). -/
def LfoSt.start (m : ModEnv) (d : LfoDef) (pre : List Int) (t : Nat) (gen : BitVec 32) : LfoSt :=
  let phi0 := d.phase * 65536
  let inc := linc m d (slotVal pre d.rate 0) t
  let phis := if d.reset then phi0 else (wrapU 32 ((phi0 : Int) + rnd (inc * t) 11)).toNat
  let g1 := drawState gen
  let g2 := drawState g1
  { phis := phis, phase := phis, adv := 0, held := false, gen := if d.shape ≥ 5 then g2 else gen,
    a := if d.shape ≥ 5 then drawValue g1 else 0, b := if d.shape ≥ 5 then drawValue g2 else 0,
    nf := (rdiv (slotVal pre d.fade 0 * feHz m.fe882 * 4) 125).toNat }

/-! ### The matrix (R189–R190) -/

/-- What a point's routes read. -/
structure SrcVals where
  env  : List Int
  lfo  : List Int
  rand : List Int
  note : List Int
  ctl  : List Int
  det  : List Int
  deriving DecidableEq, Repr

def SrcVals.get (s : SrcVals) : Src → Int
  | .env k => s.env.getD k 0
  | .lfo k => s.lfo.getD k 0
  | .rand k => s.rand.getD k 0
  | .note k => s.note.getD k 0
  | .hctl k => s.ctl.getD k 0
  | .det k => s.det.getD k 0
  | .one => p2 23

/-- The route curves (R189). -/
def routeCurve (c : Nat) (u : Int) : Int :=
  match c with
  | 0 => u
  | 1 => rnd (u * (u.natAbs : Int)) 23
  | 2 => rnd (u * u * u) 46
  | _ =>
    let e := (rnd ((u.natAbs : Int) * 98304) 23).toNat
    let y := rdiv (((exp2T (e % 12288) * 2 ^ (e / 12288) : Nat) : Int) - p2 30) 32640
    if u < 0 then - y else y

/-- The term of a route (R189). -/
def Route.term (r : Route) (s : SrcVals) : Int :=
  let x := s.get r.src
  let u := if r.uni then asr (x + 8388608) 1 else x
  let y := routeCurve r.curve u
  (match r.scale with | none => y | some z => rnd (y * s.get z) 23) * r.depth

/-- S of R190. -/
def Fmt.shift : Fmt → Nat
  | .pitch => 8
  | .time => 8
  | _ => 0

/-- The value of slot `k` over its base (R190), with what the write-back records. -/
def slotValue (p : Prog) (s : SrcVals) (k : Nat) (sl : Slot) (base : Int) (st : Stat) : Int × Stat :=
  let n := 14 + sl.fmt.shift
  let terms := (p.routes.filter fun r => r.dest == k).map fun r => r.term s
  let (v, st) := wb24 (base * p2 n :: terms) n st
  (sl.fmt.lim v, st)

/-- The values of all slots in ascending order (R191). -/
def slotValues (p : Prog) (s : SrcVals) (base : Nat → Int) (st : Stat) : List Int × Stat :=
  p.slots.zipIdx.foldl (fun (acc : List Int × Stat) (x : Slot × Nat) =>
    let (v, st) := slotValue p s x.2 x.1 (base x.2) acc.2
    (acc.1 ++ [v], st)) ([], st)

/-! ### The modulation state of a voice -/

/-- The modulation state (R192), with the events that reach the voice: parameter events by slot, pressure, release. -/
structure VMod where
  hall    : Nat
  tStart  : Nat
  attrs   : List Int                 -- the eight attributes of VOICE_START (R186)
  params  : List (Nat × LineEv)      -- by slot, in order
  press   : List LineEv
  release : Option (Nat × Int)       -- T_rel, release velocity (R173)
  envs    : List EnvSt
  lfos    : List LfoSt
  rand    : List Int
  vals    : List Int                 -- v_k of every slot at the opening point of the next period
  deriving DecidableEq, Repr

/-- The base of slot `k` at `tau` (R168–R172). -/
def VMod.base (m : ModEnv) (p : Prog) (v : VMod) (tau k : Nat) : Int :=
  match p.slots[k]? with
  | none => 0
  | some sl =>
    let init (t : Nat) : Int := match sl.bind with
      | .none => sl.dflt
      | .attr i => v.attrs.getD i 0
      | .ctl i => m.ctlAt i (max t v.tStart)
    lineAt init v.tStart ((v.params.filter fun x => x.1 == k).map (·.2)) tau

/-- Note attributes read live at `tau` (R173, R186). -/
def VMod.notes (v : VMod) (tau : Nat) : List Int :=
  let a2 := match v.release with
    | some (t, vel) => if tau ≥ (if t ≤ v.tStart then v.tStart else ceilCp t) then vel else 0
    | none => 0
  let a3 := lineAt (fun _ => v.attrs.getD 3 0) v.tStart v.press tau
  (v.attrs.set 2 a2).set 3 a3

/-- The sources at `tau`. -/
def VMod.srcs (m : ModEnv) (p : Prog) (v : VMod) (tau : Nat) (det : List Int) : SrcVals :=
  { env := List.zipWith (fun d e => EnvSt.level d e tau) p.envs v.envs,
    lfo := List.zipWith (fun d l => LfoSt.out d l v.tStart tau) p.lfos v.lfos,
    rand := v.rand, note := v.notes tau, ctl := (List.range 32).map fun k => m.ctlAt k tau, det := det }

/-- The draws of a voice's constants RAND0–RAND3 (R185). -/
def randVals (tag hall evt : Nat) : List Int :=
  (List.range 4).map fun n => drawValue (drawState (seed tag hall (8 + n) evt))

/-- The voice's modulation at its start: the pre-start values, the envelopes and LFOs set up from them, the start values (R165).
`k0First` says that the opening point is the first of its frame, whose detector values are those of the frame before. An envelope
stands in segment 0; what follows a segment 0 of zero length, and a release at or before T_start, is entered when the first point is
evaluated, from the start values (R176, R178). Of the saturations only those of the start values are recorded (DESIGN CHOICE, assumption
log 131). DEDUCED (assumption log 123). -/
def VMod.start (m : ModEnv) (p : Prog) (v : VMod) (tag evt : Nat) (k0First : Bool) (st : Stat) : VMod × Stat :=
  let t := v.tStart
  let det := if k0First then m.detPrev else m.det
  let zero : SrcVals := { env := [], lfo := [], rand := v.rand, note := v.notes t,
                          ctl := (List.range 32).map fun k => m.ctlAt k t, det := det }
  let (pre, _) := slotValues p zero (v.base m p t) Stat.none
  let rel := v.release.map fun x => max x.1 t
  let v := { v with envs := p.envs.map fun d => EnvSt.start m d pre t rel,
                    lfos := p.lfos.zipIdx.map fun (d, n) => LfoSt.start m d pre t (seed tag v.hall (12 + n) evt) }
  let (vs, st) := slotValues p (v.srcs m p t det) (v.base m p t) st
  ({ v with vals := vs }, st)

/-- The LFOs at a later point: linc from the rate slot's value at the point before; the first evaluated point has the linc of the start
(R165, R181, R182). -/
def VMod.lfosAt (m : ModEnv) (p : Prog) (v : VMod) (rates : List Int) (tk span : Nat) : List LfoSt :=
  let tau := if tk = v.tStart + span then v.tStart else tk
  List.zipWith (fun (d : LfoDef) (l : LfoSt) =>
    let inc := linc m d (slotVal rates d.rate 0) tau
    LfoSt.advance d l (if span = 2048 then inc.toNat else (rnd (inc * span) 11).toNat)) p.lfos v.lfos

/-- The pre-start values (R165), which the first evaluated point's LFO increments read. -/
def VMod.preVals (m : ModEnv) (p : Prog) (v : VMod) (k0First : Bool) : List Int :=
  let t := v.tStart
  (slotValues p { env := [], lfo := [], rand := v.rand, note := v.notes t, ctl := (List.range 32).map fun k => m.ctlAt k t,
                  det := if k0First then m.detPrev else m.det } (v.base m p t) Stat.none).1

/-- A control point at `tk` (R192). `rates` are the slot values that the LFO increments read, `span` the time since the last
evaluated instant. -/
def VMod.point (m : ModEnv) (p : Prog) (v : VMod) (tk : Nat) (rates : List Int) (span : Nat) (st : Stat) : VMod × Stat :=
  let prev := v.vals
  let rel (e : EnvSt) : EnvSt := match v.release with
    | some (t, _) => if e.released || e.relPend.isSome then e else { e with relPend := some (max t v.tStart) }
    | none => e
  let v := { v with envs := List.zipWith (fun d e => (rel e).eval m d prev tk 64) p.envs v.envs,
                    lfos := v.lfosAt m p rates tk span }
  let (vs, st) := slotValues p (v.srcs m p tk m.det) (v.base m p tk) st
  ({ v with vals := vs }, st)

/-- The voice ends at the control point `tk` (R180). -/
def VMod.ended (p : Prog) (v : VMod) (tk : Nat) : Bool :=
  match v.release with
  | none => false
  | some (t, _) => decide (max t v.tStart ≤ tk) &&
      (match p.envs, v.envs with
       | [], _ => true
       | _, e :: _ => e.mode == .done
       | _, [] => true)

end Sys2Proof.Machine
end

