-- ==== Sys2Proof/Machine/Osc.lean ====
section
/-! DEFINITION. The oscillators of RV1 (spec/04_oscillators_and_wave_playback.md R106–R133). Wave memory is read through `rd`,
the corrected byte at an address, zero where its codeword is poisoned; what a position touches is reported beside its output. -/

namespace Sys2Proof.Machine

/-- The state of an oscillator position. -/
structure OscSt where
  phase : Nat          -- 32-bit phase (R109)
  u     : Nat          -- sample position, 28.20 (R117)
  rel   : Bool         -- the release has taken effect (R121)
  gen   : BitVec 32    -- noise state (R130)
  rows  : List Int     -- pink rows (R132)
  nc    : Nat          -- core sample counter (R132)
  prev  : Int          -- y_prev (R124)
  deriving DecidableEq, Repr

/-- BASE of R107. -/
def pitchBase (fe882 : Bool) : Nat := if fe882 then 2742546010 else 2519714147

/-- SBASE of R117: round(Fs × 2^32 / Fc). DEDUCED (assumption log 43). -/
def sampleBase (fe882 : Bool) (rate : Nat) : Nat := (rdiv ((rate * 2 ^ 32 : Nat) : Int) ((2 * feHz fe882 : Nat) : Int)).toNat

/-- The increment of a position at a control point whose slot values are `vs` (R107, R112, R117). -/
def oscInc (fe882 : Bool) (p : Prog) (o : Osc) (vs : List Int) : Int :=
  match o.kind, p.table? o.table with
  | .sample, some (.sample r) => expInc (sampleBase fe882 r.rate) 42 0x01000000 (slotVal vs o.pitch r.root - r.root)
  | .sample, _ => 0
  | .off, _ => 0
  | .noise, _ => 0
  | _, _ => expInc (pitchBase fe882) 38 0x7FFFFFFF (slotVal vs o.pitch 0)

/-- The mip level of a control period (R114). -/
def mipLevel (inc : Int) : Nat :=
  (List.range 10).find? (fun m => decide (m = 9) || decide (inc < p2 (21 + m))) |>.getD 9

/-- Where a wave-memory byte of a stored form lies: its pages need not be consecutive. -/
def storedAddr (pages : List Nat) (b : Nat) : Nat := pages.getD (b / 65536) 0 * 65536 + b % 65536

/-- The address of word `i` of level `m` of frame `f` of a wavetable whose stored words begin at `w`. -/
def waveAddr (pages : List Nat) (w f m i : Nat) : Nat := storedAddr pages (4 * (w + f * 4096 + mipStart m + i))

/-- A stored word read as a signed 24-bit value. -/
def waveWord (rd : Nat → Byte) (a : Nat) : Int := signed 32 (leNat [rd a, rd (a + 1), rd (a + 2), rd (a + 3)])

/-- A wavetable read (R115), with the addresses it touches. -/
def waveRead (rd : Nat → Byte) (pages : List Nat) (w f m : Nat) (t : Nat) : Int × List Nat :=
  let n := 2048 / 2 ^ m
  let idx := t / 2 ^ (21 + m)
  let frac : Int := ((t / 2 ^ (5 + m) % 65536 : Nat) : Int)
  let aa := waveAddr pages w f m idx
  let ba := waveAddr pages w f m ((idx + 1) % n)
  let a := waveWord rd aa
  let b := waveWord rd ba
  (a + rnd ((b - a) * frac) 16, [aa, ba])

/-- A wavetable position's output (R116). -/
def waveOut (rd : Nat → Byte) (pages : List Nat) (w frames mode m t : Nat) (s : Int) : Int × List Nat :=
  let x := (max s 0).toNat * (frames - 1)
  let f0 := x / 2 ^ 23
  let g : Int := ((x / 128 % 65536 : Nat) : Int)
  let r0 := waveRead rd pages w f0 m t
  if mode = 0 then r0 else
  let r1 := waveRead rd pages w (min (f0 + 1) (frames - 1)) m t
  (r0.1 + rnd ((r1.1 - r0.1) * g) 16, r0.2 ++ r1.2)

/-- The index of the sample that v(i) is, none where v(i) is zero (virtual sample sequence by mode). -/
def virt (r : SampleRef) (mode : Nat) (rel : Bool) (i : Int) : Option Nat :=
  if i < 0 then none else
  let n := i.toNat
  match r.loop with
  | some (ls, le) =>
    if mode = 0 ∨ (mode = 3 ∧ rel = true) then (if n < r.len then some n else none)
    else if n < le then some n
    else
      let l := le - ls
      if mode = 2 then
        if l = 1 then some ls else
        let j := (n - le) % (2 * l - 2)
        if j < l - 1 then some (le - 2 - j) else some (ls + 1 + j - (l - 1))
      else some (ls + (n - le) % l)
  | none => if n < r.len then some n else none

/-- The address of sample `i` of a reference (sample playback). -/
def SampleRef.addr (r : SampleRef) (i : Nat) : Nat := r.page * 65536 + (r.start + i) * r.bytes

/-- Sample `i` as a 24-bit value; a sample any of whose bytes is in a poisoned codeword reads as zero (R123). -/
def sampleAt (rd : Nat → Byte) (bad : Nat → Bool) (r : SampleRef) (i : Nat) : Int :=
  let a := r.addr i
  if (List.range r.bytes).any fun k => bad (a + k) then 0
  else if r.wide then signed 24 (leNat [rd a, rd (a + 1), rd (a + 2)])
  else signed 16 (leNat [rd a, rd (a + 1)]) * 256

/-- A one-shot, or a mode 3 position after release, is finished (R122). -/
def sampleDone (r : SampleRef) (mode : Nat) (rel : Bool) (n : Nat) : Bool :=
  (mode == 0 || (mode == 3 && rel)) && decide (n ≥ r.len + 4)

/-- A sample position's output (R118). -/
def sampleOut (rd : Nat → Byte) (bad : Nat → Bool) (r : SampleRef) (mode : Nat) (rel : Bool) (u : Nat) :
    Int × List Nat :=
  let n := u / 2 ^ 20
  if sampleDone r mode rel n then (0, []) else
  let row := kernelRow (u / 1024 % 1024)
  let taps := (List.range 8).map fun (k : Nat) => virt r mode rel ((n : Int) - 3 + k)
  let terms := List.zipWith (fun (c : Int) (x : Option Nat) =>
    match x with | some i => c * sampleAt rd bad r i | none => 0) row taps
  (sat24 (rnd (Acc.sum terms).value 16),
   taps.flatMap fun x => match x with
     | some i => [r.addr i, r.addr i + r.bytes - 1]
     | none => [])

/-- The position after an advance, reduced by whole periods while it lies beyond the loop (R120). -/
def sampleAdvance (r : SampleRef) (mode : Nat) (rel : Bool) (u : Nat) : Nat :=
  match r.loop with
  | none => u
  | some (ls, le) =>
    if mode = 0 ∨ (mode = 3 ∧ rel = true) then u else
    let l := le - ls
    let p := if mode = 2 then max 1 (2 * l - 2) else max 1 l
    let n := u / 2 ^ 20
    if n < le + p + 8 then u else u - ((n - (le + p + 8)) / p + 1) * p * 2 ^ 20

/-- The release of mode 3 takes effect (R121). -/
def sampleRelease (r : SampleRef) (u : Nat) : Nat :=
  match r.loop with
  | none => u
  | some (ls, le) =>
    let n := u / 2 ^ 20
    if n ≥ le then (ls + (n - le) % (le - ls)) * 2 ^ 20 + u % 2 ^ 20 else u

/-- Where the phase stands against a discontinuity (R126): after it or before it, with x, or out of reach. -/
inductive BlepPos where
  | after (x : Int)
  | before (x : Int)
  | far
  deriving DecidableEq, Repr

/-- DEDUCED (assumption log 44). -/
def blepPos (t phiD inc : Int) : BlepPos :=
  if inc = 0 then .far else
  let tau := wrapU 32 (t - phiD)
  if tau < inc then .after (tau * 65536 / inc)
  else if tau ≥ p2 32 - inc then .before ((p2 32 - tau) * 65536 / inc)
  else .far

/-- The step weight e of R126. DEDUCED (assumption log 44). -/
def stepWeight (x : Int) : Int := rnd ((65536 - x) * (65536 - x)) 16
/-- The corner weight q of R126. DEDUCED (assumption log 44). -/
def cornerWeight (x : Int) : Int := rnd ((65536 - x) * (65536 - x) * (65536 - x)) 32

/-- The corrected saw before its saturation (R127). -/
def sawS (t inc : Int) : Int :=
  let naive := asr t 8 - 8388608
  match blepPos t 0 inc with
  | .after x => naive + 128 * stepWeight x
  | .before x => naive - 128 * stepWeight x
  | .far => naive

/-- The pulse (R128). -/
def pulse (t inc s : Int) : Int :=
  let w := clamp 0x04000000 0xFC000000 (clamp 0 max24 s * 512)
  sat24 (sawS t inc - sawS (wrapU 32 (t - w)) inc - (asr w 8 - 8388608))

/-- The correction of a corner (R129). -/
def corner (t phiD inc : Int) : Int :=
  match blepPos t phiD inc with
  | .after x => rnd (inc * cornerWeight x * 21845) 38
  | .before x => rnd (inc * cornerWeight x * 21845) 38
  | .far => 0

/-- The triangle (R129). -/
def triangle (t inc : Int) : Int := sat24 (triNaive t + corner t 0 inc - corner t (p2 31) inc)

/-- A noise position's output and its state after (R131, R132). -/
def noiseOut (mode : Nat) (o : OscSt) : Int × OscSt :=
  let g := drawState o.gen
  let w := drawValue g
  if mode = 0 then (w, { o with gen := g, nc := o.nc + 1 }) else
  let j := (List.range 12).find? fun j => o.nc % 2 ^ (j + 1) ≠ 0
  let (g, rows) := match (if o.nc = 0 then none else j) with
    | some j => let g2 := drawState g; (g2, o.rows.set j (drawValue g2))
    | none => (g, o.rows)
  (sat24 (rnd ((w + rows.foldl (· + ·) 0) * 5041) 16), { o with gen := g, rows := rows, nc := o.nc + 1 })

/-- A position at c0 (R110, R111, R130, R132): `d` is the offset of R60, `inc` the increment at c0. -/
def OscSt.start (o : Osc) (q : Nat) (tag hall evt : Nat) (d : Nat) (inc : Int) : OscSt :=
  let adv := (rnd ((d : Int) * inc) 8)
  let g0 := seed tag hall q evt
  let draws := (List.range 12).foldl (fun (x : BitVec 32 × List Int) _ =>
    let g := drawState x.1
    (g, x.2 ++ [drawValue g])) (g0, [])
  let pink := o.kind == .noise && o.mode == 1
  { phase := (wrapU 32 adv).toNat, u := adv.toNat, rel := false, gen := if pink then draws.1 else g0,
    rows := if pink then draws.2 else [], nc := 0, prev := 0 }

/-- The output of a position at one core sample, before any advances (R106): `inc` the increment there, `m` the mip level of
the period, `shape` the shape slot's value there, `ys` the outputs of the previous core sample. -/
def oscOut (p : Prog) (pages : List Nat) (rd : Nat → Byte) (bad : Nat → Bool) (o : Osc) (s : OscSt) (m : Nat)
    (inc shape : Int) (ys : List Int) : (Int × List Nat) × OscSt :=
  match o.kind with
  | .off => ((0, []), s)
  | .wavetable =>
    match p.table? o.table with
    | some (.wave frames w) => (waveOut rd pages w frames o.mode m s.phase shape, s)
    | _ => ((0, []), s)
  | .sample =>
    match p.table? o.table with
    | some (.sample r) => (sampleOut rd bad r o.mode s.rel s.u, s)
    | _ => ((0, []), s)
  | .pm =>
    let msum := ys.zipIdx.foldl (fun (a : Int) x => if o.pmIn / 2 ^ x.2 % 2 = 1 then a + x.1 else a) 0
    ((sine (s.phase + rnd (msum * shape) 12), []), s)
  | .va =>
    ((match o.mode with
      | 0 => sat24 (sawS s.phase inc)
      | 1 => pulse s.phase inc shape
      | _ => triangle s.phase inc, []), s)
  | .noise => let (y, s) := noiseOut o.mode s; ((y, []), s)

/-- The advance of a position (R109, R117, R120); that of a SAMPLE that has finished stands. DESIGN CHOICE (assumption log 137). -/
def OscSt.advance (p : Prog) (o : Osc) (s : OscSt) (inc : Int) : OscSt :=
  match o.kind, p.table? o.table with
  | .sample, some (.sample r) =>
    if sampleDone r o.mode s.rel (s.u / 2 ^ 20) then s else { s with u := sampleAdvance r o.mode s.rel (s.u + inc.toNat) }
  | .sample, _ => s
  | _, _ => { s with phase := (s.phase + inc.toNat) % 2 ^ 32 }

/-- The value of an unconnected shape input (R112). -/
def shapeDflt (o : Osc) : Int := if o.kind = .va then 0x400000 else 0

end Sys2Proof.Machine
end

