-- ==== Sys2Proof/Machine/Flight.lean ====
section
/-! DEFINITION. The flight of a voice: shaper, filters, amplifier, core decimator, delay line, pan and sends
(spec/05_filters_and_arithmetic.md R139–R162), and the rendering of a voice over a frame (R58–R61, R164–R167). -/

namespace Sys2Proof.Machine

/-! ### Shaper (R141–R144) -/

def shaperDrive (s : Int) : Int := p2 20 + asr (max s 0 * 15) 3

def waveshape (pts : List Int) (xd : Int) : Int :=
  let u := (xd + 8388608).toNat
  let i := u / 2 ^ 14
  let f : Int := ((u % 2 ^ 14 : Nat) : Int)
  let a := pts.getD i 0
  a + rnd ((pts.getD (i + 1) 0 - a) * f) 14

def fold (w : Int) : Int :=
  let v := (w + 8388608) % p2 25
  if v < p2 24 then v - 8388608 else 0x1800000 - 1 - v

def shaper (p : Prog) (drive mix x : Int) (st : Stat) : Int × Stat :=
  if p.shpKind = 0 then (x, st) else
  let w := rnd (x * shaperDrive drive) 20
  let s := if p.shpKind = 2 then fold w else
    match p.table? p.shpTable with
    | some (.curve pts) => waveshape pts (sat24 w)
    | _ => x
  let m := if mix = max24 then p2 23 else max mix 0
  wb24 [x * p2 23, (s - x) * m] 23 st

/-! ### Filters (R145–R152) -/

/-- b0, b1, b2, a1, a2. -/
structure Coefs where
  b0 : Int
  b1 : Int
  b2 : Int
  a1 : Int
  a2 : Int
  deriving DecidableEq, Repr

def unity23 : Int := p2 23

/-- sat24(rdiv(num × 2^21, den)) (R151). -/
def coefOf (num den : Int) : Int := sat24 (rdiv (num * p2 21) den)

/-- A and R of R150 from an exponent e. -/
def gainAmp (e : Int) : Int := rnd (exp2T (e % 12288).toNat) (7 - e / 12288).toNat

/-- The coefficients of a preset from cutoff, Q and gain values (R148–R151). -/
def presetCoefs (fe882 : Bool) (preset : Nat) (cutoff q g : Int) : Coefs :=
  let inc := clamp 0x00001000 0x70000000 (expInc (pitchBase fe882) 38 0x7FFFFFFF cutoff)
  let sn := sine inc
  let cs := sine (inc + 0x40000000)
  let u := unity23
  let al := rdiv (sn * 2048) (2048 + asr (max q 0 * 127) 12)
  let e := rnd (g * 12246) 23
  let a := gainAmp e
  let r := gainAmp (asr e 1)
  let ala := rnd (al * a) 23
  let alda := rdiv (al * u) a
  let as_ := rnd (sn * 5931642) 23
  let k1 := (a + u) * u
  let k2 := (a - u) * cs
  let k3 := 2 * r * as_
  let k4 := (a - u) * u
  let k5 := (a + u) * cs
  let std (b0 b1 b2 half : Int) : Coefs :=
    { b0 := coefOf b0 ((u + al) * half), b1 := coefOf b1 (u + al), b2 := coefOf b2 ((u + al) * half),
      a1 := coefOf (-2 * cs) (u + al), a2 := coefOf (u - al) (u + al) }
  match preset with
  | 0 => std (u - cs) (u - cs) (u - cs) 2
  | 1 => std (u + cs) (-(u + cs)) (u + cs) 2
  | 2 => std al 0 (-al) 1
  | 3 => std u (-2 * cs) u 1
  | 4 =>
    { b0 := coefOf (u + ala) (u + alda), b1 := coefOf (-2 * cs) (u + alda), b2 := coefOf (u - ala) (u + alda),
      a1 := coefOf (-2 * cs) (u + alda), a2 := coefOf (u - alda) (u + alda) }
  | 5 =>
    let a0 := k1 + k2 + k3
    { b0 := coefOf (a * (k1 - k2 + k3)) (a0 * u), b1 := coefOf (2 * a * (k4 - k5)) (a0 * u),
      b2 := coefOf (a * (k1 - k2 - k3)) (a0 * u), a1 := coefOf (-2 * (k4 + k5)) a0, a2 := coefOf (k1 + k2 - k3) a0 }
  | 6 =>
    let a0 := k1 - k2 + k3
    { b0 := coefOf (a * (k1 + k2 + k3)) (a0 * u), b1 := coefOf (-2 * a * (k4 + k5)) (a0 * u),
      b2 := coefOf (a * (k1 + k2 - k3)) (a0 * u), a1 := coefOf (2 * (k4 - k5)) a0, a2 := coefOf (k1 - k2 - k3) a0 }
  | _ => std (u - al) (-2 * cs) (u + al) 1

/-- The coefficients of a section at a control point. Preset 8 without a cutoff slot takes set 0.
DESIGN CHOICE (assumption log 118). -/
def sectCoefs (fe882 : Bool) (p : Prog) (s : Sect) (vs : List Int) : Coefs :=
  if s.preset = 8 then
    match p.table? s.table with
    | some (.coefs sets) =>
      let c := sets.getD (clamp 0 ((sets.length : Int) - 1) (slotVal vs s.cutoff 0)).toNat []
      { b0 := c.getD 0 0, b1 := c.getD 1 0, b2 := c.getD 2 0, a1 := c.getD 3 0, a2 := c.getD 4 0 }
    | _ => { b0 := 0, b1 := 0, b2 := 0, a1 := 0, a2 := 0 }
  else presetCoefs fe882 s.preset (slotVal vs s.cutoff 0) (slotVal vs s.q 27350) (slotVal vs s.gain 0)

def Coefs.lerp (c d : Coefs) (j : Nat) : Coefs :=
  { b0 := lerp8 c.b0 d.b0 j, b1 := lerp8 c.b1 d.b1 j, b2 := lerp8 c.b2 d.b2 j, a1 := lerp8 c.a1 d.a1 j, a2 := lerp8 c.a2 d.a2 j }

/-- A section at one core sample: the output and the states s1, s2 (R145); also the section of the output EQ (R289). -/
def section5 (c : Coefs) (s : Int × Int) (x : Int) (st : Stat) : Int × (Int × Int) × Stat :=
  let (y, st) := wb24 [c.b0 * x, s.1] 21 st
  let (s1, st1) := wb [c.b1 * x, - (c.a1 * y), s.2] 0 48 Stat.none
  let (s2, st2) := wb [c.b2 * x, - (c.a2 * y)] 0 48 Stat.none
  let j := st1.join st2
  (y, (s1, s2), st.join { j with stSat := decide (j.excN + j.satN > 0) })

/-- A cascade of sections. -/
def cascade : List Coefs → List (Int × Int) → Int → Stat → Int × List (Int × Int) × Stat
  | c :: cs, s :: ss, x, st =>
    let (y, s', st) := section5 c s x st
    let (z, ss', st) := cascade cs ss y st
    (z, s' :: ss', st)
  | _, ss, x, st => (x, ss, st)

/-- The filter block (R145, R146): `cs` and `ss` hold filter 0's sections, then filter 1's. -/
def filterBlock (p : Prog) (cs : List Coefs) (ss : List (Int × Int)) (x : Int) (st : Stat) : Int × List (Int × Int) × Stat :=
  let n := p.flt0.length
  if p.parallel = false then cascade cs ss x st else
  let (y0, s0, st) := cascade (cs.take n) (ss.take n) x st
  let (y1, s1, st) := cascade (cs.drop n) (ss.drop n) x st
  let (y, st) := wb24 [if n = 0 then 0 else y0, if p.flt1.length = 0 then 0 else y1] 0 st
  (y, s0 ++ s1, st)

/-! ### Values converted at control points -/

/-- What is converted at a control point and then interpolated (R165). -/
structure Conv where
  incs  : List Int
  coefs : List Coefs
  dt    : Int
  gL    : Int
  gR    : Int
  deriving DecidableEq, Repr

/-- The conversions at a control point whose slot values are `vs` (R107, R147, R155, R160). -/
def Conv.of (fe882 : Bool) (p : Prog) (vs : List Int) : Conv :=
  let t := (slotVal vs p.ampPan 0 + 8388608) * 64
  { incs := p.osc.map fun o => oscInc fe882 p o vs,
    coefs := (p.flt0 ++ p.flt1).map fun s => sectCoefs fe882 p s vs,
    dt := if p.dlyEn then rdiv (slotVal vs p.dlyTime 0 * feHz fe882 * 65536) 16000 else 0,
    gL := sine (t + 0x40000000), gR := sine t }

/-! ### The delay line (R155–R159) -/

/-- N of R158 from dt. -/
def dlyLen (p : Prog) (dt : Int) : Nat :=
  let c := ((dt + 65535) / 65536).toNat
  max 64 (min p.words ((c + 1 + 63) / 64 * 64))

/-- One engine sample of the line: the line, the write index, the output (R156). -/
def dlyStep (buf : Array Int) (w : Nat) (dt0 d fb wet : Int) (st : Stat) : (Array Int × Nat × Int) × Stat :=
  let n := buf.size
  let dt := clamp 65536 ((n : Int) * 65536 - 1) dt0
  let i := (dt / 65536).toNat
  let p := buf.getD ((w + n - i) % n) 0
  let q := buf.getD ((w + n + n - i - 1) % n) 0
  let yd := p + rnd ((q - p) * (dt % 65536)) 16
  let (x, st) := wb24 [d * p2 23, yd * fb] 23 st
  let (o, st) := wb24 [d * p2 23, yd * wet] 23 st
  ((buf.setIfInBounds w x, (w + 1) % n, o), st)

/-- A change of length (R159). -/
def dlyResize (buf : Array Int) (w n : Nat) : Array Int × Nat :=
  ((buf.toList.take n ++ List.replicate (n - buf.size) 0).toArray, w % n)

/-! ### A voice's flight state -/

/-- The state of a voice in an engine: oscillators, filters, decimator, delay line, opening values. -/
structure VFlight where
  osc  : List OscSt
  flt  : List (Int × Int)
  amp  : List Int          -- a of the last three core samples, newest first
  buf  : Array Int
  w    : Nat
  conv : Conv              -- converted values at the opening point of the next period
  deriving DecidableEq, Repr

def VFlight.empty : VFlight :=
  { osc := [], flt := [], amp := [0, 0, 0], buf := #[], w := 0,
    conv := { incs := [], coefs := [], dt := 0, gL := 0, gR := 0 } }

/-- The slot values and conversions between which a control period interpolates. -/
structure Period where
  va : List Int
  vb : List Int
  ca : Conv
  cb : Conv
  deriving DecidableEq, Repr

/-- A slot read directly at the core rate (R166); a slot of format INDEX is not interpolated. -/
def Period.core (p : Prog) (q : Period) (r : Option Nat) (dflt : Int) (j : Nat) : Int :=
  match r with
  | none => dflt
  | some k =>
    let a := q.va.getD k 0
    if ((p.slots[k]?).map (·.fmt)) = some Fmt.index then a else lerp8 a (q.vb.getD k 0) j

/-- A slot read directly at Fe (R166). -/
def Period.fe (p : Prog) (q : Period) (r : Option Nat) (dflt : Int) (j : Nat) : Int :=
  match r with
  | none => dflt
  | some k =>
    let a := q.va.getD k 0
    if ((p.slots[k]?).map (·.fmt)) = some Fmt.index then a else lerp4 a (q.vb.getD k 0) j

/-- What rendering gives besides the state: write-backs recorded, codewords touched. -/
structure RenderLog where
  stat : Stat
  cws  : List Nat
  deriving DecidableEq, Repr

def RenderLog.touch (l : RenderLog) (as_ : List Nat) : RenderLog :=
  { l with cws := as_.foldl (fun cs a => if cs.contains (a / 64) then cs else (a / 64) :: cs) l.cws }

/-- One core sample of the flight: the amplifier's output (R139, R140). -/
def coreSample (p : Prog) (pages : List Nat) (rd : Nat → Byte) (bad : Nat → Bool) (q : Period) (j : Nat) (f : VFlight)
    (l : RenderLog) : VFlight × Int × RenderLog :=
  let ys := f.osc.map (·.prev)
  let outs := (p.osc.zip f.osc).zipIdx.map fun ((o, s), i) =>
    let ia := q.ca.incs.getD i 0
    let ib := q.cb.incs.getD i 0
    let inc := lerp8 ia ib j
    let r := oscOut p pages rd bad o s (mipLevel (max ia ib)) inc (q.core p o.shape (shapeDflt o) j) ys
    (r.1.1, r.1.2, ({ r.2 with prev := r.1.1 } : OscSt).advance p o inc)
  let l := outs.foldl (fun l x => l.touch x.2.1) l
  let (x, st) := wb24 (List.zipWith (fun (o : Osc) (r : Int × List Nat × OscSt) => r.1 * q.core p o.level max24 j) p.osc outs)
    23 l.stat
  let (x, st) := shaper p (q.core p p.shpDrive 0 j) (q.core p p.shpMix max24 j) x st
  let (y, flt, st) := filterBlock p (List.zipWith (fun a b => Coefs.lerp a b j) q.ca.coefs q.cb.coefs) f.flt x st
  let (a, st) := wb24 [y * q.core p p.ampLevel max24 j] 23 st
  ({ f with osc := outs.map (·.2.2), flt := flt, amp := a :: f.amp.take 2 }, a, { l with stat := st })

/-- A send's exact term at one engine sample (R161). -/
def sendTerm (p : Prog) (q : Period) (j : Nat) (s : SendDef) (d o xL xR dL dR : Int) : Int :=
  let x := if s.spec then (if s.pre then d else o)
    else if s.target % 2 = 0 then (if s.pre then dL else xL) else (if s.pre then dR else xR)
  x * q.fe p s.level max24 j

/-- The part of an engine sample at Fe: decimator, delay, pan, sends (R154–R161). `a1` and `a0` are the amplifier's outputs at
the second and the first core sample. -/
def feSample (p : Prog) (q : Period) (j : Nat) (f : VFlight) (a1 a0 am1 am3 : Int) (l : RenderLog) :
    VFlight × List Int × RenderLog :=
  let (d, st) := wb24 [3 * a1, 8 * a0, 6 * am1, - am3] 4 l.stat
  let ((buf, w, o), st) :=
    if p.dlyEn then dlyStep f.buf f.w (lerp4 q.ca.dt q.cb.dt j) d (q.fe p p.dlyFb 0 j) (q.fe p p.dlyMix max24 j) st
    else ((f.buf, f.w, d), st)
  let gL := lerp4 q.ca.gL q.cb.gL j
  let gR := lerp4 q.ca.gR q.cb.gR j
  let (xL, st) := wb24 [o * gL] 23 st
  let (xR, st) := wb24 [o * gR] 23 st
  let needL := p.sends.any fun s => !s.spec && s.pre && s.target % 2 == 0
  let needR := p.sends.any fun s => !s.spec && s.pre && s.target % 2 == 1
  let (dL, st) := if needL then wb24 [d * gL] 23 st else (0, st)
  let (dR, st) := if needR then wb24 [d * gR] 23 st else (0, st)
  ({ f with buf := buf, w := w }, p.sends.map fun s => sendTerm p q j s d o xL xR dL dR, { l with stat := st })

end Sys2Proof.Machine
end

