-- ==== Sys2Proof/Machine/OutChain.lean ====
section
/-! DEFINITION. An output channel: EQ, integer delay, detectors, resampler, synchronising reset
(spec/10_output_chain.md R282–R303), as a function of the bus samples it processes. -/

namespace Sys2Proof.Machine

/-! ### The resampler's kernels (R292–R294) -/

/-- r[k] of R294 for a conversion from a rate to P/Q times it. -/
def kernelRaw (minPh : Bool) (P Q : Int) (ph k : Nat) : Int :=
  let A : Int := if minPh then 8 else 15
  let fc := rdiv (7608468 * min P Q) Q
  let lam := max P Q
  let x : Int := 128 * ((k : Int) - A) - ph
  let ax : Int := (x.natAbs : Int)
  let span : Int := if minPh then (if x ≥ 0 then 3 else 9) else 16
  if ax * lam ≥ 128 * Q * span then 0 else
  let v := if x = 0 then rdiv (3294199 * fc) 32768
    else if x > 0 then rdiv (sine (2 * fc * x) * 4096) x
    else rdiv (- (sine (2 * fc * x) * 4096)) ax
  let tu := rdiv (ax * lam * 16777216) (Q * span)
  let w := 3523215 + rnd (sine (tu + 0x40000000)) 1 + rdiv (2 * sine (2 * tu + 0x40000000)) 25
  rnd (v * w) 23

/-- Row `ph` of the kernel c[ph][k] (R294). -/
def kernelRow22 (minPh : Bool) (P Q : Int) (ph : Nat) : List Int :=
  let r := (List.range (if minPh then 12 else 32)).map fun k => kernelRaw minPh P Q ph k
  let t := r.foldl (· + ·) 0
  let c := r.map fun v => if t > 0 then rdiv (v * 4194304) t else rdiv (- (v * 4194304)) (max 1 (- t))
  let res := 4194304 - c.foldl (· + ·) 0
  c.modify (argMax r) (· + res)

/-- y of R293 from the integer part `i` and the 23 bits `th` of a position; `x` are the input samples.
DEDUCED (assumption log 46). -/
def resample (minPh : Bool) (P Q : Int) (x : Int → Int) (i : Int) (th : Nat) (st : Stat) : Int × Stat :=
  let ph := th / 65536
  let g : Int := ((th % 65536 : Nat) : Int)
  let A : Int := if minPh then 8 else 15
  let w := List.zipWith (fun a b => a + rnd ((b - a) * g) 16) (kernelRow22 minPh P Q ph) (kernelRow22 minPh P Q (ph + 1))
  wb24 (w.zipIdx.map fun (c, k) => c * x (i - A + k)) 22 st

/-! ### A channel's state -/

/-- A change of the channel's delay: from bus sample `start` (R288). -/
structure DlySet where
  start : Nat
  dInt  : Nat
  dFrac : Nat
  deriving DecidableEq, Repr

/-- A change that governs the outputs from `m` on, and the delay it replaced (R288). -/
structure Took where
  m     : Int
  dInt  : Nat
  dFrac : Nat
  set   : DlySet
  deriving DecidableEq, Repr

/-- The three values of a frame-end set (R290). -/
structure DetSet where
  frame : Nat
  peak  : Int
  rms   : Int
  env   : Int
  deriving DecidableEq, Repr

/-- An output channel. -/
structure OutCh where
  ctrl     : Word
  minPh    : Bool                  -- the kernel in use: CTRL.min_phase as the last synchronising reset took it
  bankA    : List Coefs
  bankB    : List Coefs
  active   : Bool                  -- true: bank B
  fade     : Option (Nat × Nat)    -- n1 and XF of the cross-fade (R286); it leads to the active bank
  queued   : Option Nat            -- XF of the queued swap (R287)
  swaps    : List (Nat × Nat)      -- n0 and XF of swaps applied and not yet reached
  loads    : List (Nat × List Coefs) -- EQ_LOADs waiting for the boundary (R285): hall, bank
  view     : Bool
  eqSt     : List (Int × Int)
  satRun   : Nat
  satNew   : Bool                  -- a write-back has saturated since OUT_ERR last heard of it
  line     : Sparse Int            -- e by bus sample modulo 4096
  dl       : Sparse Int            -- the last dl samples by bus sample
  delayReg : Word
  delays   : List DlySet           -- changes the line has not reached
  outDlys  : List DlySet           -- changes the outputs have not reached
  dInt     : Nat                   -- D_int of the line
  oInt     : Nat                   -- D_int and D_frac of the next output
  oFrac    : Nat
  took     : List Took             -- the changes that outputs have reached, newest first
  apk      : Word
  arms     : Word
  aatt     : Word
  arel     : Word
  aEff     : Int × Int × Int × Int -- a_pk, a_rms, a_att, a_rel in use
  detP     : Int
  detE     : Int
  detM     : Int
  sets     : List DetSet           -- frame-end sets, newest first
  satCnt   : Word
  syncs    : List Nat              -- synchronising resets to come: s0
  syncNext : List Nat              -- resets done whose first output is not yet formed: s0
  syncDone : List (Nat × Int)      -- s0 and m_s of those that outputs have reached, newest first
  fenced   : Option Nat            -- the bus sample from which the channel is fenced
  silent   : List (Int × Int)      -- bus samples, from the first to below the second, over which a lifted fence stood
  fenceReq : Bool                  -- a fence that takes effect at the next bus frame
  liftReq  : Bool                  -- a lift that takes effect at the next bus frame
  nextM    : Int
  outs     : List (Int × Int)      -- outputs formed and not yet taken: edge and value
  deriving DecidableEq, Repr

/-- A unity section (R284). -/
def Coefs.unity : Coefs := { b0 := 2097152, b1 := 0, b2 := 0, a1 := 0, a2 := 0 }

def OutCh.reset : OutCh :=
  { ctrl := 0#32, minPh := false, bankA := List.replicate 8 Coefs.unity, bankB := List.replicate 8 Coefs.unity,
    active := false, fade := none, queued := none, swaps := [], loads := [], view := false,
    eqSt := List.replicate 8 (0, 0), satRun := 0, satNew := false, line := [], dl := [], delayReg := 0#32, delays := [], outDlys := [],
    dInt := 0, oInt := 0, oFrac := 0, took := [], apk := 0#32, arms := 0#32, aatt := 0#32, arel := 0#32, aEff := (0, 0, 0, 0),
    detP := 0, detE := 0, detM := 0, sets := [], satCnt := 0#32, syncs := [], syncNext := [], syncDone := [], fenced := none,
    silent := [], fenceReq := false, liftReq := false, nextM := 0, outs := [] }

/-! ### EQ banks and swaps (R284–R287) -/

/-- A cross-fade runs at bus sample `n`. -/
def OutCh.fading (c : OutCh) (n : Nat) : Bool :=
  match c.fade with
  | some (n1, xf) => decide (n < n1 + xf)
  | none => false

/-- The bank that is active becomes the other one, with a fade of `xf` from bus sample `n` (R286). -/
def OutCh.swapNow (c : OutCh) (n xf : Nat) : OutCh :=
  { c with active := !c.active, fade := if xf = 0 then none else some (n, xf) }

/-- A fade that has ended by bus sample `n` ends, and a queued swap takes effect (R287). DEDUCED (assumption log 53). -/
def OutCh.fadeEnd (c : OutCh) (n : Nat) : OutCh :=
  match c.fade with
  | none => c
  | some (n1, xf) =>
    if n < n1 + xf then c else
    let c := { c with fade := none }
    match c.queued with
    | some x => { c with queued := none }.swapNow (n1 + xf) x
    | none => c

/-- A swap lands on bus sample `n` (R286, R287): the swaps counted while a fade runs leave one queued where their count is odd. -/
def OutCh.swapAt (c : OutCh) (n xf : Nat) : OutCh :=
  if c.fading n then { c with queued := if c.queued.isSome then none else some xf } else c.swapNow n xf

/-- The fades that end by `n` and the swaps that land on `n`. A queued fade of length 0 ends where it begins. -/
def OutCh.swapsAt (c : OutCh) (n : Nat) : OutCh :=
  let c := c.fadeEnd n
  let now := c.swaps.filter fun s => decide (s.1 ≤ n)
  let c := { c with swaps := c.swaps.filter fun s => decide (n < s.1) }
  now.foldl (fun c s => c.swapAt n s.2) c

/-- The banks as the boundary at bus sample `n` finds them: swaps that lie before it have acted, and so has a queued swap that is
due by it (R285, R287). -/
def OutCh.settled (c : OutCh) (n : Nat) : OutCh :=
  (if c.swaps.any fun s => decide (s.1 < n) then c.swapsAt (n - 1) else c).fadeEnd n

def OutCh.bank (c : OutCh) (b : Bool) : List Coefs := if b then c.bankB else c.bankA

/-- The coefficients of bus sample `n` (R286). -/
def OutCh.coefs (c : OutCh) (n : Nat) : List Coefs :=
  match c.fade with
  | none => c.bank c.active
  | some (n1, xf) =>
    let mix (a b : Int) : Int := a + rdiv ((b - a) * ((n - n1 + 1 : Nat) : Int)) xf
    List.zipWith (fun (a b : Coefs) =>
      { b0 := mix a.b0 b.b0, b1 := mix a.b1 b.b1, b2 := mix a.b2 b.b2, a1 := mix a.a1 b.a1, a2 := mix a.a2 b.a2 })
      (c.bank (!c.active)) (c.bank c.active)

/-- An EQ_LOAD at the boundary `n` (R285): the bank is written, or BUSY where a fade runs or a swap is pending. -/
def OutCh.load (c : OutCh) (n : Nat) (bank : List Coefs) : OutCh × Bool :=
  let c := c.settled n
  if c.fading n || c.queued.isSome then (c, false)
  else if c.active then ({ c with bankA := bank }, true) else ({ c with bankB := bank }, true)

/-! ### Detectors (R289, R290) -/

/-- isqrt, rounded down: bit by bit from 2^31. -/
def isqrt (v : Nat) : Nat :=
  (List.range 32).foldl (fun r k => let t := r + 2 ^ (31 - k); if t * t ≤ v then t else r) 0

def OutCh.detect (c : OutCh) (x : Int) : OutCh :=
  let (apk, arms, aatt, arel) := c.aEff
  let r := min max24 (x.natAbs : Int)
  let R := r * 65536
  { c with
    detP := max R (c.detP - rnd (c.detP * apk) 24),
    detE := c.detE + rnd ((R - c.detE) * (if R > c.detE then aatt else arel)) 24,
    detM := c.detM + rnd ((r * r * 65536 - c.detM) * arms) 24 }

/-- The values of the detectors (R289); zero while the channel is fenced (R302). -/
def OutCh.detSet (c : OutCh) (frame : Nat) : DetSet :=
  if c.fenced.isSome then { frame := frame, peak := 0, rms := 0, env := 0 }
  else { frame := frame, peak := min max24 (rnd c.detP 16), rms := min max24 ((isqrt (c.detM / 65536).toNat : Nat) : Int),
         env := min max24 (rnd c.detE 16) }

/-- What the channel holds at the end of a bus frame: the last set formed by then, where the frame itself was discarded (R290, R296);
zero where none has been formed. -/
def OutCh.setOf (c : OutCh) (frame : Nat) : DetSet :=
  (c.sets.find? fun s => decide (s.frame ≤ frame)).getD { frame := frame, peak := 0, rms := 0, env := 0 }

/-- The sets, newest first, that hold at the end of frame `f` or of a later one. -/
def setsFrom (f : Nat) : List DetSet → List DetSet
  | [] => []
  | d :: ds => if d.frame ≤ f then [d] else d :: setsFrom f ds

/-! ### Bus samples -/

/-- A synchronising reset at bus sample `s0` (R297). -/
def OutCh.syncReset (c : OutCh) (s0 : Nat) : OutCh :=
  { c with eqSt := List.replicate 8 (0, 0), line := [], detP := 0, detE := 0, detM := 0, satRun := 0,
           minPh := bit c.ctrl 0, syncNext := c.syncNext ++ [s0] }

/-- A fence is lifted at the boundary `s0` (R303): what lies before it stays silent in the outputs (R302, R511). -/
def OutCh.lift (c : OutCh) (s0 : Nat) : OutCh :=
  let was := match c.fenced with | some f => [((f : Int), (s0 : Int))] | none => []
  { c with liftReq := false, fenced := none, silent := c.silent ++ was }.syncReset s0

/-- The changes that take effect at the start of the bus frame of bus sample `s0` (R288, R297, R302, R303, R511). -/
def OutCh.boundary (c : OutCh) (s0 : Nat) : OutCh :=
  let c := if c.liftReq then c.lift s0 else c
  let c := if c.syncs.any fun s => decide (s ≤ s0) then { c with syncs := c.syncs.filter fun s => decide (s0 < s) }.syncReset s0
    else c
  let c := if c.fenceReq then { c with fenceReq := false, fenced := some s0 } else c
  let c := { c with aEff := ((bits c.apk 23 0 : Nat), (bits c.arms 23 0 : Nat), (bits c.aatt 23 0 : Nat), (bits c.arel 23 0 : Nat)) }
  let due := c.delays.filter fun d => decide (d.start ≤ s0)
  { c with delays := c.delays.filter (fun d => decide (s0 < d.start)), dInt := (due.getLast?.map (·.dInt)).getD c.dInt }

/-- One bus sample through the EQ, the delay and the detectors (R282). -/
def OutCh.sample (c : OutCh) (n : Nat) (x : Int) : OutCh :=
  let c := c.swapsAt n
  let (e, ss, st) := cascade (c.coefs n) c.eqSt x Stat.none
  let line := Sparse.put 0 c.line (n % 4096) e
  let d := if c.dInt ≤ n then Sparse.get 0 line ((n - c.dInt) % 4096) else 0
  let run := if st.stSat then c.satRun + 1 else 0
  let c := { c with eqSt := ss, line := line, dl := Sparse.clear (Sparse.put 0 c.dl n d) 0 (n - 255),
                    satRun := if run ≥ 64 then 0 else run, satNew := c.satNew || decide (st.excN + st.satN > 0),
                    satCnt := satInc c.satCnt (st.excN + st.satN),
                    fenceReq := c.fenceReq || (decide (run ≥ 64) && c.fenced.isNone) }
  c.detect d

/-! ### Outputs (R291–R293, R296, R297, R302) -/

/-- A stretch of tracking under one estimate (R296): from output `m0` at position `t0`, advancing by `est`, in units of 2^−32 bus
samples. -/
structure Leg where
  m0  : Int
  t0  : Int
  est : Int
  deriving DecidableEq, Repr

/-- Tracking (R296): the present stretch, and those before it, newest first, as far as edges to come still need them. -/
structure Track where
  now  : Leg
  past : List Leg
  deriving DecidableEq, Repr

def Track.legs (t : Track) : List Leg := t.now :: t.past

/-- t_m before any delay, in units of 2^−32 bus samples: by the stretch that holds m, and by the nominal ratio before the first
(R296). -/
def Track.pos (P Q : Int) (t : Track) (m : Int) : Int :=
  match t.legs.find? fun l => decide (l.m0 ≤ m) with
  | some l => l.t0 + (m - l.m0) * l.est
  | none => rdiv (m * Q * p2 32) P

/-- The estimate changes at output `m` (R296). -/
def Track.turn (P Q : Int) (t : Option Track) (m est : Int) : Track :=
  match t with
  | some t => { now := { m0 := m, t0 := t.pos P Q m, est := est }, past := t.legs.take 16 }
  | none => { now := { m0 := m, t0 := rdiv (m * Q * p2 32) P, est := est }, past := [] }

/-- The output whose nominal position is the first at or after that of output `m` under tracking. DEDUCED (assumption log 50). -/
def Track.nominal (P Q : Int) (t : Track) (m : Int) : Int := - ((- (t.pos P Q m * P)) / (Q * p2 32))

/-- The integer part and the 23 fraction bits of t_m (R292, R296). -/
def outPos (P Q : Int) (trk : Option Track) (m : Int) (dFrac : Nat) : Int × Nat :=
  match trk with
  | none =>
    let pos := 64 * m * Q - dFrac * P
    let i := pos / (64 * P)
    (i, ((pos - i * 64 * P) * 8388608 / (64 * P)).toNat)
  | some t =>
    let p := t.pos P Q m - (dFrac : Int) * 67108864
    (p / 4294967296, ((p % 4294967296) / 512).toNat)

/-- G of R291. -/
def OutCh.g (c : OutCh) : Int := if c.minPh then 6 else 24

/-- The channel takes the delay that governs output `m`: of the changes, in the order of their frames, the last whose own position
for `m` has reached its frame (R288); one that a later change has overtaken governs no output. DEDUCED (assumption log 46). -/
def OutCh.adopt (P Q : Int) (trk : Option Track) (m : Int) (c : OutCh) : List DlySet → OutCh
  | [] => c
  | d :: ds =>
    OutCh.adopt P Q trk m
      (if (outPos P Q trk m d.dFrac).1 - d.dInt ≥ d.start then
        { c with oInt := d.dInt, oFrac := d.dFrac, outDlys := ds,
                 took := ({ m := m, dInt := c.oInt, dFrac := c.oFrac, set := d } :: c.took).take 64 }
      else c) ds

/-- Outputs from `m` on are to be formed again: the changes that only later outputs reached have not been reached (R288). -/
def OutCh.untake (m : Int) (c : OutCh) : List Took → OutCh
  | [] => { c with took := [] }
  | k :: ks =>
    if m < k.m then OutCh.untake m { c with oInt := k.dInt, oFrac := k.dFrac, outDlys := k.set :: c.outDlys } ks
    else { c with took := k :: ks }

/-- The synchronising reset that governs output `m`: the last whose m_s is not after it (R297). -/
def OutCh.syncAt (c : OutCh) (m : Int) : Option (Nat × Int) := c.syncDone.find? fun x => decide (x.2 ≤ m)

/-- Output `m` of the channel (R293, R297, R302): the edge that presents it and its value. -/
def OutCh.output (P Q : Int) (trk : Option Track) (c : OutCh) : OutCh :=
  let m := c.nextM
  let (i, th) := outPos P Q trk m c.oFrac
  let bus := i - c.oInt
  let c := match (c.syncNext.filter fun (s0 : Nat) => decide (bus ≥ s0)).getLast? with
    | some s0 => { c with syncDone := ((s0, m) :: c.syncDone).take 16, syncNext := c.syncNext.filter fun (s : Nat) => decide (bus < s) }
    | none => c
  let sync := c.syncAt m
  let since : Int := match sync with
    | some (s0, _) => s0
    | none => 0
  let (y, st) := resample c.minPh P Q (fun j => if j < since then 0 else Sparse.get 0 c.dl j.toNat) i th Stat.none
  let y := match sync with
    | some (_, ms) => if m - ms < 64 then 0 else if m - ms < 128 then rnd (y * (m - ms - 63)) 6 else y
    | none => y
  let y := match c.fenced with
    | some n => if bus ≥ n then 0 else y
    | none => y
  let y := if c.silent.any fun z => decide (z.1 ≤ bus ∧ bus < z.2) then 0 else y
  let e := m + c.g + 2
  { c with nextM := m + 1, outs := c.outs.filter (fun o => o.1 != e) ++ [(e, y)], satNew := c.satNew || decide (st.excN + st.satN > 0),
           satCnt := satInc c.satCnt (st.excN + st.satN), silent := c.silent.filter fun z => decide (bus < z.2 + 8192) }

/-- How far ahead of a position, in input samples, the last tap of a weight other than zero may lie (R294).
DEDUCED (assumption log 46). -/
def aheadTaps (minPh : Bool) (P Q : Int) : Int :=
  let a : Int := if minPh then 3 else 16
  (a * Q + max P Q - 1) / max P Q

/-- Every output whose samples have been processed, bus samples up to `last` being there. DEDUCED (assumption log 46). -/
def OutCh.outputs (P Q : Int) (trk : Option Track) (last : Int) : Nat → OutCh → OutCh
  | 0, c => c
  | n + 1, c =>
    let c := OutCh.adopt P Q trk c.nextM c c.outDlys
    let (i, _) := outPos P Q trk c.nextM c.oFrac
    if i + aheadTaps c.minPh P Q ≤ last then OutCh.outputs P Q trk last n (c.output P Q trk) else c

/-- A channel in the zero or fade outputs of a synchronising reset (OUTn_STAT.sync). -/
def OutCh.syncing (c : OutCh) : Bool :=
  !c.syncNext.isEmpty || (match c.syncAt c.nextM with | some (_, ms) => decide (c.nextM - ms < 128) | none => false)

/-- A bus frame through the channel: its boundary, its samples, its frame-end set, the outputs (R282, R290). -/
def OutCh.frame (P Q : Int) (trk : Option Track) (len f : Nat) (xs : List Int) (c : OutCh) : OutCh :=
  let c := xs.zipIdx.foldl (fun (c : OutCh) (x : Int × Nat) => c.sample (f * len + x.2) x.1) (c.boundary (f * len))
  let c := { c with sets := c.detSet f :: c.sets }
  OutCh.outputs P Q trk (f * len + xs.length - 1) 4096 c

/-- A bus frame without samples: its changes and swaps take effect, and nothing is processed (R286, R296). The detectors keep what they
hold, or report the zero of a fence (R290, R302). -/
def OutCh.skip (fl F : Nat) (c : OutCh) : OutCh :=
  let c := (List.range fl).foldl (fun (c : OutCh) j => c.swapsAt (F * fl + j)) (c.boundary (F * fl))
  if c.fenced.isSome then { c with sets := c.detSet F :: c.sets } else c

/-- The DAC code of a value (R282). -/
def dacCode (y : Int) : Int := sat 20 (rnd y 4)

end Sys2Proof.Machine
end

