-- ==== Sys2Proof/Machine/SpecUnit.lean ====
section
/-! DEFINITION. The spectral unit: the transform, the convolution block and the resynthesis block of RV1
(spec/08_spectral_unit.md R224–R250), as functions of their inputs, and the unit's state. -/

namespace Sys2Proof.Machine

/-! ### Values that change at frame boundaries -/

/-- Values by the frame from which each governs, newest first. DEDUCED (assumption log 45). -/
abbrev Stepped (α : Type) := List (Nat × α)

def Stepped.at {α : Type} (d : α) (l : Stepped α) (f : Nat) : α := ((l.find? fun x => decide (x.1 ≤ f)).map (·.2)).getD d
def Stepped.now {α : Type} (d : α) (l : Stepped α) : α := (l.head?.map (·.2)).getD d
/-- DEDUCED (assumption log 52). -/
def Stepped.set {α : Type} (l : Stepped α) (f : Nat) (v : α) : Stepped α := ((f, v) :: l.filter fun x => decide (x.1 < f)).take 8

/-- g_old + ((g_new − g_old) × j >> log2 FRAME_LEN) (R237). -/
def glide (len : Nat) (a b : Int) (j : Nat) : Int := a + asr ((b - a) * j) (if len = 16 then 4 else 5)

/-! ### The transform (R226–R229) -/

abbrev Cx := Int × Int

/-- TW[n] of R227. -/
def twiddle (n : Nat) : Cx := (rnd (cosPi (2 * n) 8192) 42, - rnd (sinPi (2 * n) 8192) 42)

/-- The headroom of a block (R228). -/
def headroom (d : Array Cx) : Nat :=
  let most := d.foldl (fun (m : Int) v => max m (max (if v.1 < 0 then - v.1 - 1 else v.1) (if v.2 < 0 then - v.2 - 1 else v.2))) 0
  ((List.range 24).reverse.find? fun hd => decide (most < p2 (23 - hd))).getD 0

/-- One pass of span `L` and radix `r` with shift `s` (R229). -/
def fftPass (inv : Bool) (L r s : Nat) (d : Array Cx) : Array Cx :=
  let st := L / r
  ((List.range (d.size / L)).flatMap fun g => (List.range st).map fun j => (g, j)).foldl (fun (d : Array Cx) gj =>
    let at_ (q : Nat) : Nat := gj.1 * L + gj.2 + q * st
    let a (q : Nat) : Cx := d.getD (at_ q) (0, 0)
    let add (x y : Cx) : Cx := (x.1 + y.1, x.2 + y.2)
    let sub (x y : Cx) : Cx := (x.1 - y.1, x.2 - y.2)
    let ys : List Cx := if r = 4 then
        let t0 := add (a 0) (a 2)
        let t1 := sub (a 0) (a 2)
        let t2 := add (a 1) (a 3)
        let u := sub (a 1) (a 3)
        let t3 : Cx := if inv then (- u.2, u.1) else (u.2, - u.1)
        [add t0 t2, add t1 t3, sub t0 t2, sub t1 t3]
      else [add (a 0) (a 1), sub (a 0) (a 1)]
    ys.zipIdx.foldl (fun (d : Array Cx) (y : Cx × Nat) =>
      let w0 := twiddle (y.2 * gj.2 * 8192 / L)
      let w : Cx := if inv then (w0.1, - w0.2) else w0
      d.setIfInBounds (at_ y.2)
        ((wb24 [y.1.1 * w.1, - (y.1.2 * w.2)] (22 + s) Stat.none).1, (wb24 [y.1.1 * w.2, y.1.2 * w.1] (22 + s) Stat.none).1)) d) d

/-- The passes from span `L` down (R226, R228); `n` bounds their number. -/
def fftPasses (inv : Bool) : Nat → Nat → Int → Array Cx → Int × Array Cx
  | 0, _, e, d => (e, d)
  | n + 1, L, e, d =>
    if L < 2 then (e, d) else
    let r := if L ≥ 4 then 4 else 2
    let s := (if r = 4 then 3 else 2) - headroom d
    fftPasses inv n (L / r) (e + s) (fftPass inv L r s d)

/-- Where bin `k` stands after the passes of an `N`-point transform. -/
def binPos : Nat → Nat → Nat → Nat
  | 0, _, _ => 0
  | n + 1, L, k => if L < 2 then 0 else let r := if L ≥ 4 then 4 else 2; (k % r) * (L / r) + binPos n (L / r) (k / r)

/-- A transform of 2^lam points: the block exponent and the values in natural bin order. -/
def fft (inv : Bool) (lam : Nat) (e : Int) (d : Array Cx) : Int × Array Cx :=
  let (e, d) := fftPasses inv 14 (2 ^ lam) e d
  (if inv then e - lam else e, ((List.range (2 ^ lam)).map fun k => d.getD (binPos 14 (2 ^ lam) k) (0, 0)).toArray)

/-! ### The stored form of a channel (R232–R234) -/

/-- Its size in pages. -/
def convPages (p : Nat) : Nat := (2560 * p + 2 * 64 * ((p + 63) / 64) + 65535) / 65536

def offSpec (j : Nat) : Nat := 1024 * j
def offHist (p s : Nat) : Nat := 1024 * p + 1536 * s
def offExpH (p j : Nat) : Nat := 2560 * p + j
def offExpX (p s : Nat) : Nat := 2560 * p + 64 * ((p + 63) / 64) + s

/-- A tap of the staged data, as 24 bits. -/
def convTap (byteAt : Nat → Byte) (fmt m : Nat) : Int :=
  if fmt = 0 then signed 24 (leNat [byteAt (3 * m), byteAt (3 * m + 1), byteAt (3 * m + 2)])
  else signed 16 (leNat [byteAt (2 * m), byteAt (2 * m + 1)]) * 256

/-- The 257 bins as 256 words: word 0 holds the real parts of bins 0 and 256 (R233). -/
def packBins (d : Array Cx) : List Cx :=
  ((d.getD 0 (0, 0)).1, (d.getD 256 (0, 0)).1) :: (List.range 255).map fun k => d.getD (k + 1) (0, 0)

/-- The spectrum of a partition (R232): its exponent and its 1024 bytes. -/
def partSpectrum (taps : List Int) (g : Int) : Int × List Byte :=
  let (e, d) := fft false 9 0 ((List.range 512).map fun i => (taps.getD i 0, 0)).toArray
  let ws := packBins d
  let bins : List Int := ((List.range 257).map fun k => d.getD k (0, 0)).flatMap fun v => [v.1, v.2]
  let n := ((List.range 32).find? fun n => bins.all fun v => decide ((v.natAbs : Int) ≤ p2 (14 + n))).getD 31
  let qs := ws.map fun v => (rnd v.1 n, rnd v.2 n)
  (if qs.all fun v => v.1 == 0 && v.2 == 0 then -128 else e + n + g - 23,
   qs.flatMap fun v => leBytes 2 (wrapU 16 v.1).toNat ++ leBytes 2 (wrapU 16 v.2).toNat)

/-- A history slot's 1536 bytes. -/
def packHist (ws : List Cx) : List Byte := ws.flatMap fun v => leBytes 3 (wrapU 24 v.1).toNat ++ leBytes 3 (wrapU 24 v.2).toNat

/-- What a channel's block gives (R236): its output, the history slot written and its exponent, the addresses read, the samples
saturated, and whether a bin's sum left the range of its mantissa. -/
structure ConvOut where
  y    : List Int
  hist : List Byte
  ex   : Int
  read : List Nat
  sats : Nat
  wbSat : Bool
  deriving DecidableEq, Repr

/-- Block `b` of a channel of `p` partitions whose stored form lies in `addr`; `x` is its input. DEDUCED (assumption log 57). -/
def convBlock (rd : Nat → Byte) (addr : Nat → Nat) (p b : Nat) (x : Int → Int) : ConvOut :=
  let (ex, d) := fft false 9 0 ((List.range 512).map fun (i : Nat) => (x (256 * ((b : Int) - 1) + i), 0)).toArray
  let xs := packBins d
  let ex := if xs.all fun v => v.1 == 0 && v.2 == 0 then -128 else ex
  let byteAt (o : Nat) : Byte := rd (addr o)
  let parts := (List.range p).filterMap fun j =>
    let eh := signed 8 (byteAt (offExpH p j)).toNat
    let s := (b + p - j) % p
    let e := if j = 0 then ex else signed 8 (byteAt (offExpX p s)).toNat
    if eh = -128 ∨ e = -128 then none else some (j, s, eh + e)
  let reads := (List.range p).flatMap (fun j => [addr (offExpH p j), addr (offExpX p j)]) ++
    parts.flatMap fun (j, s, _) => ((List.range 16).map fun i => addr (offSpec j + 64 * i)) ++
      (if j = 0 then [] else (List.range 24).map fun i => addr (offHist p s + 64 * i))
  match parts with
  | [] => { y := List.replicate 256 0, hist := packHist xs, ex := ex, read := reads, sats := 0, wbSat := false }
  | q :: qs =>
    let emax := qs.foldl (fun m t => max m t.2.2) q.2.2
    let scale (v : Int) (e : Int) : Int := let dd := (emax - e).toNat; if dd ≤ 6 then v * p2 (6 - dd) else rnd v (dd - 6)
    let h16 (j k h : Nat) : Int := let o := offSpec j + 4 * k + 2 * h; signed 16 (leNat [byteAt o, byteAt (o + 1)])
    let x24 (j s k h : Nat) : Int :=
      if j = 0 then (let v := xs.getD k (0, 0); if h = 0 then v.1 else v.2)
      else let o := offHist p s + 6 * k + 3 * h; signed 24 (leNat [byteAt o, byteAt (o + 1), byteAt (o + 2)])
    let sums := (List.range 256).map fun k =>
      let ts := parts.map fun (j, s, e) =>
        let xr := x24 j s k 0
        let xi := x24 j s k 1
        let hr := h16 j k 0
        let hi := h16 j k 1
        if k = 0 then (scale (xr * hr) e, scale (xi * hi) e)
        else (scale (xr * hr - xi * hi) e, scale (xr * hi + xi * hr) e)
      (Acc.sum (ts.map (·.1)), Acc.sum (ts.map (·.2)))
    let fits (n : Nat) (a : Acc) : Bool := a.exc != 0 || decide ((a.acc.natAbs : Int) ≤ p2 (22 + n))
    let n := ((List.range 40).find? fun n => sums.all fun s => fits n s.1 && fits n s.2).getD 40
    let ys := sums.map fun s => ((s.1.wb n 24 Stat.none).1, (s.2.wb n 24 Stat.none).1)
    let y0 := ys.getD 0 (0, 0)
    let full := (List.range 512).map fun k =>
      if k = 0 then (y0.1, 0) else if k = 256 then (y0.2, 0)
      else if k < 256 then ys.getD k (0, 0) else let v := ys.getD (512 - k) (0, 0); (v.1, - v.2)
    let (eo, t) := fft true 9 (emax - 6 + n) full.toArray
    let rs := (List.range 256).map fun i => (t.getD (256 + i) (0, 0)).1
    { y := rs.map fun r => if eo ≥ 0 then sat24 (r * p2 eo.toNat) else rnd r (- eo).toNat,
      hist := packHist xs, ex := ex, read := reads,
      sats := if eo ≥ 0 then (rs.filter fun r => r * p2 eo.toNat != sat24 (r * p2 eo.toNat)).length else 0,
      wbSat := sums.any fun s => (s.1.wb n 24 Stat.none).2 != Stat.none || (s.2.wb n 24 Stat.none).2 != Stat.none }

/-! ### Resynthesis (R243–R247) -/

/-- A track of an analyser. -/
structure Partial_ where
  active : Bool
  inc    : Int
  pitch  : Int
  amp    : Int
  deriving DecidableEq, Repr

/-- The smallest PITCH value whose increment is at least `it` (R245). -/
def pitchFor (fe882 : Bool) (it : Int) : Int :=
  let f (p : Int) : Bool := decide (expInc (pitchBase fe882) 38 0x7FFFFFFF p ≥ it)
  if f max24 = false then max24 else
  (List.range 24).foldl (fun (lo : Int) k =>
    let t := lo + p2 (23 - k)
    if t ≤ max24 ∧ f (t - 1) = false then t else lo) (-8388608)

/-- A peak: m, k, increment, amplitude. -/
structure Peak where
  m   : Int
  k   : Nat
  inc : Int
  amp : Int
  deriving DecidableEq, Repr

/-- The peaks of a block (R244, R245), in descending order of m, the lower k first. -/
def peaks (lam : Nat) (aMin : Int) (x : Nat → Int) : List Peak :=
  let N := 2 ^ lam
  let win (i : Nat) : Int := (p2 22 * (p2 64 - cosPi (2 * i) N) + p2 64) / p2 65
  let (e, d) := fft false lam 0 ((List.range N).map fun i => (rnd (x i * win i) 22, 0)).toArray
  let ms := (d.toList.map fun v => v.1 * v.1 + v.2 * v.2).toArray
  let m (k : Nat) : Int := ms.getD k 0
  let ps := (List.range (N / 2)).filterMap fun k =>
    let r : Int := (isqrt (m k).toNat : Nat)
    let w : Int := e + 2 - lam
    let amp := min max24 (if w ≥ 0 then r * p2 w.toNat else rnd r (- w).toNat)
    if k < 2 ∨ k > N / 2 - 2 ∨ m k ≤ m (k - 1) ∨ m k < m (k + 1) ∨ amp < aMin then none else
    let num := (m (k + 1) - m (k - 1)) * 16384
    let dl := clamp (-16384) 16384 (rdiv num (2 * m k - m (k - 1) - m (k + 1)))
    some { m := m k, k := k, inc := rdiv (((k : Int) * 32768 + dl) * 65536) N, amp := amp }
  ps.foldl (fun (acc : List Peak) p => (acc.takeWhile fun q => decide (q.m ≥ p.m)) ++ p :: (acc.dropWhile fun q => decide (q.m ≥ p.m))) []

/-- The nearest unmatched track that was active (R246). -/
def nearest (inc : Int) (prev : List Partial_) (used : List Nat) : Option Nat :=
  (prev.zipIdx.foldl (fun (best : Option (Int × Nat)) x =>
    if x.1.active = false ∨ used.contains x.2 = true then best else
    let d : Int := ((inc - x.1.inc).natAbs : Int)
    match best with
    | some b => if d < b.1 then some (d, x.2) else some b
    | none => some (d, x.2)) none).map (·.2)

/-- The tracks after a block (R246). DEDUCED (assumption log 56). -/
def matchTracks (fe882 : Bool) (count : Nat) (ps : List Peak) (prev : List Partial_) : List Partial_ :=
  let start := prev.map fun t => if t.active then { t with active := false, amp := 0 } else t
  ((ps.take count).foldl (fun (acc : List Partial_ × List Nat) p =>
    let accept := match nearest p.inc prev acc.2 with
      | some t => if ((p.inc - (prev.getD t { active := false, inc := 0, pitch := 0, amp := 0 }).inc).natAbs : Int) * 32
          ≤ (prev.getD t { active := false, inc := 0, pitch := 0, amp := 0 }).inc then some t else none
      | none => none
    let free := (List.range count).find? fun t =>
      !(prev.getD t { active := false, inc := 0, pitch := 0, amp := 0 }).active && !acc.2.contains t
    match accept.orElse (fun _ => free) with
    | some t => (acc.1.set t { active := true, inc := p.inc, pitch := pitchFor fe882 p.inc, amp := p.amp }, acc.2 ++ [t])
    | none => acc) (start, [])).1

/-! ### The unit's state -/

/-- The registers of a channel that the host sets: SRC, RET, LVL. -/
structure ChCfg where
  src : Word
  ret : Word
  lvl : Word
  deriving DecidableEq, Repr

def ChCfg.zero : ChCfg := { src := 0#32, ret := 0#32, lvl := 0#32 }

/-- A build under way (R240): taps, gain, format, the staged pages, the pages taken. -/
structure Build where
  taps   : Nat
  gain   : Int
  fmt    : Nat
  staged : List Nat
  pages  : List Nat
  deriving DecidableEq, Repr

def Build.parts (b : Build) : Nat := (b.taps + 255) / 256

/-- A convolution channel. Its register SPEC_CHk_CFG is `owner`, `hallFld` and `p`. -/
structure SpecCh where
  owner : Option Nat
  hallFld : Nat                    -- the field hall of SPEC_CHk_CFG while owned is 0
  p     : Nat
  pages : List Nat
  cfg   : Stepped ChCfg
  build : Option Build
  swap  : Option (Nat × Build)     -- an impulse built, and the block from which on it governs (R240)
  closed : Option (Stepped (BitVec 64)) -- its hall has closed since: the write mask that the hall had then
  x     : Sparse Int               -- its input by engine sample
  y     : List (Nat × List Int)    -- its last output blocks, newest first
  fade  : Option Nat               -- the first engine sample of the fade of R242
  leaving : Bool                   -- released: free once the fade has ended
  deriving DecidableEq, Repr

def SpecCh.reset : SpecCh :=
  { owner := none, hallFld := 0, p := 0, pages := [], cfg := [], build := none, swap := none, closed := none, x := [], y := [],
    fade := none, leaving := false }

/-- An analyser. -/
structure Analyser where
  cfg    : Word
  src    : Word
  from_  : Nat                     -- the frame from which it runs
  x      : Sparse Int
  tracks : List Partial_
  next   : Nat                     -- the next block
  out    : List (Nat × List (Nat × Int)) -- results not yet written: block, controllers and values
  deriving DecidableEq, Repr

def Analyser.reset : Analyser := { cfg := 0#32, src := 0#32, from_ := 0, x := [], tracks := [], next := 0, out := [] }

/-- What a working-memory error struck (R249). -/
inductive WmUnit where
  | ch (k : Fin 8)
  | an (a : Fin 2)
  deriving DecidableEq, Repr

/-- The spectral unit. -/
structure Spec where
  halted : Bool
  err    : Word
  ueCnt  : Word
  miss   : Word
  satCnt : Word
  ch     : Tab SpecCh 8
  an     : Tab Analyser 2
  next   : Nat                     -- the next block of the channels
  struck : List WmUnit             -- errors of the block under way
  ueAt   : List Nat                -- ETs of the last working-memory errors
  deriving DecidableEq, Repr

def Spec.reset : Spec :=
  { halted := false, err := 0#32, ueCnt := 0#32, miss := 0#32, satCnt := 0#32, ch := Vector.replicate 8 SpecCh.reset,
    an := Vector.replicate 2 Analyser.reset, next := 0, struck := [], ueAt := [] }

def Spec.setErr (s : Spec) (n : Nat) : Spec × Bool := ({ s with err := s.err ||| (1#32 <<< n) }, s.err == 0#32)

/-- Partitions that a channel is admitted with: those of a build in place of the old (R240). -/
def SpecCh.admitted (c : SpecCh) : Nat :=
  match c.build with
  | some b => b.parts
  | none => match c.swap with | some x => x.2.parts | none => c.p

/-- The pages of a channel: those of its impulse, and of one built whose block has not come. -/
def SpecCh.allPages (c : SpecCh) : List Nat := c.pages ++ (match c.swap with | some x => x.2.pages | none => [])

/-- Rounds of a channel and of an analyser (R224). -/
def convRounds (p : Nat) : Nat := if p = 0 then 0 else 64 * p + 1536
def anLam (cfg : Word) : Nat := 10 + bits cfg 25 24
def anRounds (cfg : Word) : Nat := if bit cfg 31 then ((anLam cfg + 1) / 2 + 2) * 2 ^ anLam cfg / 4 else 0

def Spec.rounds (s : Spec) : Nat :=
  (s.ch.toList.map fun c => convRounds c.admitted).foldl (· + ·) 0 + (s.an.toList.map fun a => anRounds a.cfg).foldl (· + ·) 0

def Spec.parts (s : Spec) : Nat := (s.ch.toList.map SpecCh.admitted).foldl (· + ·) 0

/-- No work is configured (R225). -/
def Spec.idle (s : Spec) : Bool := (s.ch.toList.all fun c => c.owner.isNone) && s.an.toList.all fun a => !bit a.cfg 31

/-- y[n] of a channel, zero before its blocks (R236, R237). -/
def SpecCh.yAt (c : SpecCh) (n : Int) : Int :=
  if n < 0 then 0 else
  match c.y.find? fun b => b.1 == n.toNat / 256 with
  | some b => b.2.getD (n.toNat % 256) 0
  | none => 0

end Sys2Proof.Machine
end

