-- ==== Sys2Proof/Syntax.lean ====
section
/-! DEFINITION. The commands of the block: one constructor per row of spec/opcode_table.json, in the table's order. A command is
what a host, a processor, a pin or the environment does to the device, or an instant that the spec names. -/

namespace Sys2Proof

/-- Who makes a register access (R33, R35, R37): a processor, or the supervisor's register window. -/
inductive Initiator where
  | cp0 | cp1 | mp | window
  deriving DecidableEq, Repr

/-- What a host does about the response phase of a transaction (R326, R333): it raises the select at once, clocks the whole
answer, or cuts the answer short. -/
inductive Phase where
  | none | whole | cut
  deriving DecidableEq, Repr

/-- Symbol errors that have appeared in stored codewords: codeword, symbol, value (R261). -/
abbrev Upsets := List (Nat × Nat × Nat)

/-- The causes of MUTE_n (R313). -/
inductive MuteSrc where
  | ana | vref | wclk | thermal | fwStop | request
  deriving DecidableEq, Repr

/-- A character as it comes down the line (R391, R392, R396): the samples of SPn_RX from the one that is the start edge on; while
auto-baud measures, the edges after the start edge up to the one that begins the stop bit, in periods of 8 × REFCLK; and whether it
ends in the second half of its REFCLK period (R45). -/
structure SerChar where
  samples : List Bool
  edges   : List Nat
  half    : Bool
  deriving DecidableEq, Repr

/-- A break comes to a port; whether it ends in the second half of its REFCLK period (R45, R394). -/
structure LineBreak where
  port : Fin 4
  half : Bool
  deriving DecidableEq, Repr

/-- A falling edge wakes a port: how many more characters begin before it is ready, and whether the line is low then (R398). -/
structure LineWake where
  port : Fin 4
  more : Nat
  low  : Bool
  deriving DecidableEq, Repr

/-- The commands. -/
inductive Instr where
  | wrongWidthAccess (i : Initiator) (addr : Word) (write : Bool)
  | unmappedAccess (i : Initiator) (addr : Word) (write : Bool)
  | deniedAccess (i : Initiator) (addr : Word) (write : Bool)
  | offDomainAccess (i : Initiator) (addr : Word) (write : Bool)
  | registerWrite (i : Initiator) (addr : Word) (v : Word)
  | pairLoRead (i : Initiator) (addr : Word)
  | pairHiWrite (i : Initiator) (addr : Word) (v : Word)
  | pairLoWrite (i : Initiator) (addr : Word) (v : Word)
  | schedCfgWrite (i : Initiator) (v : Word)
  | renderBringup
  | measCtrlWrite (i : Initiator) (v : Word)
  | mbRecompute
  | eventListClose
  | eventApply
  | frameBoundary
  | engineRenderFrame (e : Fin 64) (upsets : Upsets)
  | engineStall (e : Fin 64)
  | engineSramError (e : Fin 64)
  | galleryVmonFence (g : Fin 8)
  | mezzanineFrameComplete
  | outTakeFrame
  | eqFadeEnd (n : Fin 64)
  | dacLatch
  | rangeSettleEnd (n : Fin 16)
  | muteCause (c : MuteSrc)
  | muteLeadElapsed
  | muteRelease
  | muteLeadHoldEnd (n : Fin 16)
  | dacMuteReqWrite (i : Initiator) (v : Word)
  | dacEnWrite (i : Initiator) (n : Fin 16) (v : Word)
  | dacSineWrite (i : Initiator) (n : Fin 16) (v : Word)
  | dacRangeWrite (i : Initiator) (n : Fin 16) (v : Word)
  | dacSelWrite (i : Initiator) (n : Fin 16) (v : Word)
  | tdmOutputFrame
  | tdmInputFrame (lanes : List (List Word))
  | lockLost
  | wclkRelock (phi : Nat) (edge : Int)
  | wclkLost
  | wclkReturn (phi : Nat)
  | specBlock (upsets : Upsets)
  | resynBlock (a : Fin 2)
  | resynCtrlWrite (a : Fin 2)
  | convSwitch (k : Fin 8)
  | specWmError (u : Machine.WmUnit)
  | specRestart (i : Initiator) (v : Word)
  | arbiterDecision (c : Fin 4) (present : List (Fin 12)) (withdrew : Bool)
  | resSwap (i : Initiator) (c : Fin 4) (v : Word)
  | prioWrite (i : Initiator) (c : Fin 4) (which : Bool) (v : Word)
  | scrubPatrolRead (c : Fin 4) (upsets : Upsets)
  | scrubWriteBack (c : Fin 4) (upsets : Upsets)
  | pageScrubEnd (c : Fin 4) (upsets : Upsets)
  | sealedLoadDone (h : Fin 8)
  | progLoadDone (h : Fin 8)
  | read (p : Fin 2) (seq : Byte) (addr : Word) (len : BitVec 16) (ph : Phase)
  | write (p : Fin 2) (seq : Byte) (addr : Word) (payload : List Byte) (ph : Phase)
  | doorbell (p : Fin 2) (seq : Byte) (addr : Word) (payload : List Byte) (ph : Phase)
  | cplAck (p : Fin 2) (seq : Byte) (addr : Word) (payload : List Byte) (ph : Phase)
  | regRead (p : Fin 2) (seq : Byte) (addr : Word) (len : BitVec 16) (ph : Phase)
  | regWrite (p : Fin 2) (seq : Byte) (addr : Word) (payload : List Byte) (ph : Phase)
  | bulk (p : Fin 2) (seq : Byte) (addr : Word) (payload : List Byte) (ph : Phase)
  | status (p : Fin 2) (seq : Byte) (addr : Word) (len : BitVec 16) (ph : Phase)
  | byeTransaction (p : Fin 2) (seq : Byte) (addr : Word) (payload : List Byte) (ph : Phase)
  | hello (p : Fin 2) (seq : Byte) (addr : Word) (payload : List Byte) (ph : Phase)
  | portCrcError (p : Fin 2) (code seq : Byte) (ph : Phase)
  | incompleteTransaction (p : Fin 2) (code seq : Byte)
  | shortSelection (p : Fin 2)
  | unframeableFirstByte (p : Fin 2) (code : Byte)
  | notReadyTransaction (p : Fin 2) (code seq : Byte)
  | portReady (p : Fin 2)
  | nop (p : Fin 2)
  | wr (p : Fin 2) (addr : BitVec 16) (words : List (BitVec 16))
  | rd (p : Fin 2) (addr : BitVec 16) (count : Byte)
  | uhp2Bye (p : Fin 2)
  | mbxGo (p : Fin 2)
  | hallDbWrite (i : Initiator) (h : Fin 8) (v : Word)
  | hppLift (i : Initiator) (p : Fin 2) (v : Word)
  | hppClose (i : Initiator) (p : Fin 2) (v : Word)
  | irqModTimeout (h : Fin 8)
  | keepaliveLapse (h : Fin 8)
  | keepaliveKill (h : Fin 8)
  | helloEcho (h : Fin 8)
  | getInfo (h : Fin 8)
  | bye (h : Fin 8)
  | keepalive (h : Fin 8)
  | portSleep (h : Fin 8)
  | modSet (h : Fin 8)
  | hallCreate (h : Fin 8)
  | hallResize (h : Fin 8)
  | hallBind (h : Fin 8)
  | hallClose (h : Fin 8)
  | progLoad (h : Fin 8)
  | progFree (h : Fin 8)
  | progInfo (h : Fin 8)
  | pageAlloc (h : Fin 8)
  | pageFree (h : Fin 8)
  | waveWrite (h : Fin 8)
  | waveLoadSealed (h : Fin 8)
  | voiceStart (h : Fin 8)
  | voiceRelease (h : Fin 8)
  | voiceKill (h : Fin 8)
  | paramSet (h : Fin 8)
  | paramRamp (h : Fin 8)
  | hallCtrl (h : Fin 8)
  | inRoute (h : Fin 8)
  | inFree (h : Fin 8)
  | tdmDest (h : Fin 8)
  | dacDest (h : Fin 8)
  | sync (h : Fin 8)
  | eqLoad (h : Fin 8)
  | eqSwap (h : Fin 8)
  | delaySet (h : Fin 8)
  | detectorCfg (h : Fin 8)
  | convLoad (h : Fin 8)
  | convRoute (h : Fin 8)
  | resynCfg (h : Fin 8)
  | timeGet (h : Fin 8)
  | triggerMap (h : Fin 8)
  | stats (h : Fin 8)
  | fenceStatus (h : Fin 8)
  | fenceStatusLift (h : Fin 8)
  | logRead (h : Fin 8)
  | updBegin (h : Fin 8)
  | updChunk (h : Fin 8)
  | updCommit (h : Fin 8)
  | updRollback (h : Fin 8)
  | lifecycle (h : Fin 8)
  | powerPolicy (h : Fin 8)
  | galleryPark (h : Fin 8)
  | galleryUnpark (h : Fin 8)
  | serRole (h : Fin 8)
  | dmxPatch (h : Fin 8)
  | rdmIdent (h : Fin 8)
  | flashEraseDone
  | flashProgramDone
  | serialCharacter (s : Fin 4) (ch : SerChar)
  | serialBreak (e : LineBreak)
  | serialStuck (s : Fin 4)
  | serialAutoLift (s : Fin 4)
  | serLift (i : Initiator) (s : Fin 4) (v : Word)
  | serRearm (i : Initiator) (s : Fin 4) (v : Word)
  | serialSleep (s : Fin 4)
  | serialWake (e : LineWake)
  | serRxRead (i : Initiator) (s : Fin 4)
  | serTxWrite (i : Initiator) (s : Fin 4) (v : Word)
  | midiMessage (s : Fin 4)
  | dmxPacket (s : Fin 4)
  | dmxLoss (s : Fin 4)
  | rdmRequest (s : Fin 4)
  | tsbFrame (s : Fin 4)
  | tsbBeacon (s : Fin 4)
  | tsbPeerTimeout (s : Fin 4)
  | tsbCollision (s : Fin 4)
  | tsbBackoffEnd (s : Fin 4)
  | consoleVer (s : Fin 4)
  | consoleStat (s : Fin 4)
  | consoleLog (s : Fin 4)
  | consoleAuth (s : Fin 4)
  | consoleResp (s : Fin 4)
  | consoleUpdBegin (s : Fin 4)
  | consoleUpdD (s : Fin 4)
  | consoleUpdCommit (s : Fin 4)
  | consoleRollback (s : Fin 4)
  | consoleLc (s : Fin 4)
  | consoleKey (s : Fin 4)
  | consoleSessionTimeout
  | resetRelease
  | startup
  | resetAssert
  | internalReset
  | jtagReset
  | powerOnReset
  | brownout
  | refclkLost
  | refclkRestored
  | timeGo (i : Initiator) (v : Word)
  | timerOverflow (n : Fin 16)
  | timerCompareMatch (n : Fin 16)
  | timerCountRead (i : Initiator) (n : Fin 16)
  | debugHalt (cp : Fin 2)
  | triggerEdge (t : Fin 8) (rising : Bool) (ns : Nat) (half : Bool)
  | triggerTsRead (i : Initiator) (t : Fin 8)
  | irqRaise (n : Fin 256)
  | irqfDbWrite (i : Initiator) (t : Fin 3) (v : Word)
  | irqAck (i : Initiator) (t : Fin 3)
  | irqEoi (i : Initiator) (t : Fin 3) (v : Word)
  | irqfCfgWrite (i : Initiator) (v : Word)
  | routeChange (i : Initiator) (n : Fin 256) (v : Word)
  | tempSample (temps : List Int)
  | thermalStepExit
  | voltageSample (mv : List Nat)
  | paceReading (k : Fin 10) (reading : Nat)
  | healthReport
  | firmwareStop
  | autoRestart
  | logTokenRefill
  | flashRefresh (sector : Fin 224) (bits : List Nat)
  | trialConfirm
  | trialFail
  | tamper
  | glitchDetect
  | alcoveWipe (i : Initiator) (v : Word)
  | alcoveRetention (i : Initiator) (v : Word)
  | summaryWrite
  | pwrOnWrite (i : Initiator) (d : Fin 16) (v : Word)
  | pwrRetWrite (i : Initiator) (d : Fin 16) (v : Word)
  | domainReady (d : Fin 16)
  | wakeTimeout (d : Fin 16)
  | wakeRetry
  | autoPark
  | fenceCtrlLift (i : Initiator) (v : Word)
  | fenceCtrlFence (i : Initiator) (v : Word)
  | selftestDone (e : Fin 64) (pass : Bool)
  | foyerParityError (h : Fin 8)
  | queueParityError (h : Fin 8)
  | reservedTransactionCode (p : Fin 2) (code seq : Byte) (addr : Word) (payload : List Byte) (ph : Phase)
  | undefinedOpcode (h : Fin 8)
  | falseStart (s : Fin 4)
  | breakLineHigh (s : Fin 4)
  | domainSwitchedOff (d : Fin 16)
  | brownoutSupplyRestored
  | debugHaltReleased (cp : Fin 2)
  | vrefInRange
  | bankVddioLost (b : Machine.Bank)
  | bankVddioRestored (b : Machine.Bank)
  deriving DecidableEq, Repr

end Sys2Proof
end

