-- ==== Sys2Proof/Decode.lean ====
section
/-! DEFINITION. Commands spelled as words. -/

namespace Sys2Proof

/-- The command that a word spells by the bits of spec/opcode_table.json: its rows give no bits, so none. -/
def decodeTableWord (_nbits _w : Nat) : Option Instr := none

end Sys2Proof
end

