-- ==== Sys2Proof/Machine/Aes.lean ====
section
/-! DEFINITION. AES-256, AES Key Wrap and AES-256-GCM, which the sealed packages name (spec/09_wave_memory.md, Sealed packages;
R258): the standards' functions (assumption log). Blocks are lists of bytes as numbers, first byte first. -/

namespace Sys2Proof.Machine

def natsOf (bs : List Byte) : List Nat := bs.map BitVec.toNat
def bytesOf (ns : List Nat) : List Byte := ns.map byte

/-! ### The block cipher -/

/-- Multiplication in GF(2^8) modulo x^8 + x^4 + x^3 + x + 1. -/
def aesMul (a b : Nat) : Nat :=
  ((List.range 8).foldl (fun (x : Nat × Nat) i =>
    (if b.testBit i then x.1 ^^^ x.2 else x.1, if x.2 ≥ 128 then (2 * x.2) ^^^ 0x11B else 2 * x.2)) (0, a)).1

/-- The inverse, 0 for 0: the 254th power. -/
def aesInv (a : Nat) : Nat := (List.range 253).foldl (fun x _ => aesMul x a) a

def rotl8 (x n : Nat) : Nat := (x * 2 ^ n % 256) ||| (x / 2 ^ (8 - n))

/-- The substitution, as a table. -/
def aesSbox : Array Nat :=
  ((List.range 256).map fun x => let v := aesInv x; v ^^^ rotl8 v 1 ^^^ rotl8 v 2 ^^^ rotl8 v 3 ^^^ rotl8 v 4 ^^^ 0x63).toArray

/-- Its inverse. -/
def aesSboxInv : Array Nat := (List.range 256).foldl (fun (t : Array Nat) x => t.setIfInBounds (aesSbox.getD x 0) x) (Array.replicate 256 0)

def aesSub (x : Nat) : Nat := aesSbox.getD x 0
def aesUnsub (x : Nat) : Nat := aesSboxInv.getD x 0

def xorList (a b : List Nat) : List Nat := List.zipWith (· ^^^ ·) a b

/-- The round constants of a 256-bit key. -/
def aesRcon (i : Nat) : Nat := (List.range i).foldl (fun x _ => aesMul x 2) 1

/-- The 60 words of the key schedule, four bytes each. -/
def aesKeys (key : List Nat) : List (List Nat) :=
  let first := (List.range 8).map fun i => (key.drop (4 * i)).take 4
  ((List.range 52).foldl (fun (ws : List (List Nat)) k =>
    let i := k + 8
    let prev := ws.headD []
    let t := if i % 8 = 0 then xorList ((prev.drop 1 ++ prev.take 1).map aesSub) [aesRcon (i / 8 - 1), 0, 0, 0]
      else if i % 8 = 4 then prev.map aesSub else prev
    xorList (ws.getD 7 []) t :: ws) first.reverse).reverse

/-- The round key of round `r`. -/
def roundKey (ws : List (List Nat)) (r : Nat) : List Nat := ((ws.drop (4 * r)).take 4).flatten

def shiftRows (s : List Nat) : List Nat := (List.range 16).map fun i => s.getD ((i + 4 * (i % 4)) % 16) 0
def unshiftRows (s : List Nat) : List Nat := (List.range 16).map fun i => s.getD ((i + 16 - 4 * (i % 4)) % 16) 0

/-- A column by a matrix row of four factors, rotated. -/
def mixWith (f : List Nat) (s : List Nat) : List Nat :=
  (List.range 16).map fun i =>
    (List.range 4).foldl (fun x k => x ^^^ aesMul (f.getD k 0) (s.getD (i / 4 * 4 + (i + k) % 4) 0)) 0

/-- PRESUMED (assumption log 24). -/
def aesEncrypt (ws : List (List Nat)) (b : List Nat) : List Nat :=
  let s := (List.range 13).foldl (fun s r => xorList (mixWith [2, 3, 1, 1] (shiftRows (s.map aesSub))) (roundKey ws (r + 1)))
    (xorList b (roundKey ws 0))
  xorList (shiftRows (s.map aesSub)) (roundKey ws 14)

/-- PRESUMED (assumption log 24). -/
def aesDecrypt (ws : List (List Nat)) (b : List Nat) : List Nat :=
  let s := (List.range 13).foldl (fun s r =>
    mixWith [14, 11, 13, 9] (xorList ((unshiftRows s).map aesUnsub) (roundKey ws (13 - r)))) (xorList b (roundKey ws 14))
  xorList ((unshiftRows s).map aesUnsub) (roundKey ws 0)

/-! ### Key unwrapping (RFC 3394) -/

/-- `n` bytes of a number, most significant first. -/
def beList (n v : Nat) : List Nat := (List.range n).map fun i => v / 256 ^ (n - 1 - i) % 256
def beVal (bs : List Nat) : Nat := bs.foldl (fun a b => a * 256 + b) 0

/-- The key wrapped in `w`, five blocks of eight bytes; none where the integrity check fails. PRESUMED (assumption log 24). -/
def keyUnwrap (kek w : List Nat) : Option (List Nat) :=
  let ws := aesKeys kek
  let rs := (List.range 4).map fun i => (w.drop (8 * (i + 1))).take 8
  let r := (List.range 24).foldl (fun (x : List Nat × List (List Nat)) k =>
    let t := 24 - k
    let i := (t - 1) % 4
    let b := aesDecrypt ws (xorList x.1 (beList 8 t) ++ x.2.getD i [])
    (b.take 8, x.2.set i (b.drop 8))) (w.take 8, rs)
  if r.1 = List.replicate 8 0xA6 then some r.2.flatten else none

/-! ### GCM (SP 800-38D) -/

/-- Multiplication in GF(2^128), the first bit the highest. -/
def gcmMul (x y : Nat) : Nat :=
  ((List.range 128).foldl (fun (a : Nat × Nat) i =>
    (if x.testBit (127 - i) then a.1 ^^^ a.2 else a.1, if a.2 % 2 = 1 then (a.2 / 2) ^^^ (0xE1 * 2 ^ 120) else a.2 / 2)) (0, y)).1

/-- A list cut into blocks of 16, the last filled with zeros. -/
def blocks16 : Nat → List Nat → List (List Nat)
  | 0, _ => []
  | n + 1, bs => if bs = [] then [] else (bs.take 16 ++ List.replicate (16 - bs.length) 0) :: blocks16 n (bs.drop 16)

def ghash (h : Nat) (bs : List (List Nat)) : Nat := bs.foldl (fun y b => gcmMul (y ^^^ beVal b) h) 0

/-- The key stream of counters from `c` on. -/
def gcmCtr (ws : List (List Nat)) (iv : List Nat) (c : Nat) (bs : List Nat) : List Nat :=
  ((blocks16 bs.length bs).zipIdx.flatMap fun x => xorList x.1 (aesEncrypt ws (iv ++ beList 4 ((c + x.2) % 2 ^ 32)))).take bs.length

/-- The plaintext, none where the tag does not verify. PRESUMED (assumption log 24). -/
def gcmOpen (key iv aad ct tag : List Nat) : Option (List Nat) :=
  let ws := aesKeys key
  let h := beVal (aesEncrypt ws (List.replicate 16 0))
  let s := ghash h (blocks16 aad.length aad ++ blocks16 ct.length ct ++ [beList 8 (8 * aad.length) ++ beList 8 (8 * ct.length)])
  if xorList (beList 16 s) (aesEncrypt ws (iv ++ [0, 0, 0, 1])) = tag then some (gcmCtr ws iv 2 ct) else none

end Sys2Proof.Machine
end

