-- ==== Sys2Proof/Machine/DacUnit.lean ====
section
/-! DEFINITION. The DAC channels and MUTE_n (spec/11_analog_outputs.md R305–R322). Edges are numbered as in R291. -/

namespace Sys2Proof.Machine

/-- Phases of a channel (DACn_STAT.seq). -/
inductive Seq where
  | idle | down | settle | up | lead | zero
  deriving DecidableEq, Repr

def Seq.code : Seq → Nat
  | .idle => 0 | .down => 1 | .settle => 2 | .up => 3 | .lead => 4 | .zero => 5

/-- A timed destination change (R283): the ET (in 1/512 es) from which it governs edges, and what it sets. -/
structure DestSet where
  time : Nat
  sel  : Nat
  selEn : Bool
  range : Option Nat
  en   : Option Bool
  deriving DecidableEq, Repr

/-- What an AOUT pin carries (R306, R312): high impedance, a voltage in units of 1/8 nV, a current out of the pin in units of
1/4 pA. -/
inductive AOut where
  | highZ
  | volts (v : Int)
  | amps (i : Int)
  deriving DecidableEq, Repr

/-- A DAC channel. -/
structure DacCh where
  ctrl   : Word                  -- en, sine_en, target range, sel_en, sel
  ftw    : Word
  amp    : Word
  stage  : Nat                   -- the range the output stage is switched to
  k      : Nat
  seq    : Seq
  ranging : Bool                 -- a range sequence is running (R316)
  switch : Bool                  -- the stage is switched at the next edge
  left   : Nat                   -- edges of settling left
  lead   : Nat                   -- edges of the mute_lead hold left (R315)
  hold   : Bool                  -- holds its last value until mute_lead has elapsed (R314)
  sineOn : Bool
  sineT  : Nat
  queue  : List (Int × Int)      -- edge and code
  fill   : Int                   -- the next edge that OUT writes an entry for
  last   : Int                   -- the last value latched from the queue or the generator
  code   : Int
  ufCnt  : Word
  dests  : List DestSet
  src    : Bool × Nat            -- sel_en and sel as OUT takes them for entries (R309)
  heldAt : Nat                   -- the REFCLK edge since which it holds its last value (R314)
  trims  : List Nat              -- the trims of the 63 segments (R307)
  held   : Option (AOut × Nat)   -- what the deglitcher holds since an edge, and that edge's REFCLK edge (R307)
  deriving DecidableEq, Repr

def DacCh.reset : DacCh :=
  { ctrl := 0#32, ftw := 0#32, amp := 0#32, stage := 0, k := 0, seq := .idle, ranging := false, switch := false, left := 0,
    lead := 0, hold := false, sineOn := false, sineT := 0, queue := [], fill := 0, last := 0, code := 0, ufCnt := 0#32, dests := [],
    src := (false, 0), heldAt := 0, trims := [], held := none }

/-- The DAC block. -/
structure Dac where
  ctrl    : Word
  err     : Word
  ufCnt   : Word
  cal     : Word
  nr      : Nat
  vrefOk  : Bool
  wclkOk  : Bool
  thermal : Bool
  fwStop  : Bool
  ready   : Bool
  mute    : Bool
  edge    : Int                  -- the next word-clock edge
  ch      : Tab DacCh 16
  deriving DecidableEq, Repr

def Dac.reset : Dac :=
  { ctrl := 0x00000005#32, err := 0#32, ufCnt := 0#32, cal := 0#32, nr := 0, vrefOk := false, wclkOk := false, thermal := false,
    fwStop := true, ready := false, mute := true, edge := 0, ch := Vector.replicate 16 DacCh.reset }

def DacCh.en (c : DacCh) : Bool := bit c.ctrl 31
def DacCh.target (c : DacCh) : Nat := bits c.ctrl 29 28

/-- A field of a word replaced by `v`. -/
def setBits (w : Word) (hi lo v : Nat) : Word :=
  word (w.toNat - bits w hi lo * 2 ^ lo + v % 2 ^ (hi + 1 - lo) * 2 ^ lo)

/-- A cause that asserts MUTE_n is present (R313); `ana` says that PD_ANA is powered. -/
def Dac.cause (d : Dac) (ana : Bool) : Bool :=
  !ana || !d.vrefOk || !d.wclkOk || d.thermal || d.fwStop || bit d.ctrl 31

/-- An error bit is set; the answer says whether it raises the DAC error source (R322). -/
def Dac.setErr (d : Dac) (n : Nat) : Dac × Bool := ({ d with err := d.err ||| (1#32 <<< n) }, d.err == 0#32)

/-! ### Ramps and sequences (R310–R317) -/

/-- A ramp down begins, or zero code is held where k is 0 already. -/
def DacCh.rampDown (c : DacCh) : DacCh := { c with seq := if c.k = 0 then .zero else .down }

/-- A channel at zero code goes on: up where it may, held where it may not (R312, R315, R316). -/
def DacCh.goOn (mute : Bool) (c : DacCh) : DacCh :=
  if c.en = true ∧ mute = false then { c with seq := if c.lead = 0 then .up else .lead } else { c with seq := .zero, ranging := false }

/-- Setting or clearing en (R312). -/
def DacCh.enChanged (mute : Bool) (c : DacCh) : DacCh :=
  if c.en then (if c.ranging = true ∨ mute = true then c else { c with seq := .up })
  else if c.ranging = true ∧ c.seq ≠ .up then c else { c with ranging := false }.rampDown

/-- A new target range (R316, R317); the target it has already is not a new one. -/
def DacCh.startRange (c : DacCh) (r : Nat) : DacCh :=
  if r = c.target then c else
  let c := { c with ctrl := setBits c.ctrl 29 28 r }
  if c.ranging = false ∧ r = c.stage then c
  else if c.ranging = false ∨ c.seq = .up ∨ c.seq = .lead then { c with ranging := true, seq := .down, switch := false }
  else if c.seq = .settle then { c with switch := true } else c

/-- The settling has ended (R316). -/
def DacCh.settleEnd (mute : Bool) (c : DacCh) : DacCh :=
  if c.seq = .settle ∧ c.switch = false ∧ c.left = 0 then c.goOn mute else c

/-- The mute_lead hold has ended (R315). -/
def DacCh.leadEnd (mute : Bool) (c : DacCh) : DacCh :=
  if c.seq = .lead ∧ c.lead = 0 then c.goOn mute else c

/-- The gain at one edge: the k that is applied, and the channel after it. -/
def DacCh.gain (nr : Nat) (mute : Bool) (c : DacCh) : Nat × DacCh :=
  let c := { c with lead := c.lead - 1 }
  match c.seq with
  | .idle => if c.k = 0 then (0, c.goOn mute) else (c.k, c)
  | .zero => (0, { c with k := 0 })
  | .lead => (0, c)
  | .down =>
    let k := c.k - 1
    if k = 0 then (0, if c.ranging then { c with k := 0, seq := .settle, switch := true } else { c with k := 0, seq := .zero })
    else (k, { c with k := k })
  | .settle =>
    if c.switch then (0, { c with switch := false, stage := c.target, left := nr - 1 }) else (0, { c with left := c.left - 1 })
  | .up =>
    let k := min nr (c.k + 1)
    (c.k, if k = nr then { c with k := nr, seq := .idle, ranging := false } else { c with k := k })

/-- A channel is muted at REFCLK edge `now` (R314): a ramp down from the next edge, or a hold where no word clock runs. A range
sequence goes on. -/
def DacCh.muteOn (wclk : Bool) (now : Nat) (c : DacCh) : DacCh :=
  let c := { c with lead := 0 }
  if wclk then (if c.ranging = true ∧ c.seq ≠ .up then c else { c with ranging := false }.rampDown)
  else { c with hold := true, heldAt := if c.hold then c.heldAt else now }

/-- A channel drives zero code at once, and its pin with it; a range sequence that has come to its second phase, or stands before it,
goes on there. -/
def DacCh.zeroNow (c : DacCh) : DacCh :=
  let c := { c with hold := false, k := 0, code := 0, lead := 0, held := none }
  if c.seq = .settle then c
  else if c.ranging = true ∧ c.seq = .down then { c with seq := .settle, switch := true }
  else { c with ranging := false, seq := .zero }

/-- mute_lead has elapsed, by `past`, for a channel that holds (R314). -/
def DacCh.leadElapsed (past : Nat → Bool) (c : DacCh) : DacCh :=
  if c.hold = true ∧ past c.heldAt = true then c.zeroNow else c

/-- A channel whose PD_ANA is off (R312): it drives nothing, and stands at zero code in its target range when power comes back. -/
def DacCh.dark (c : DacCh) : DacCh :=
  { c with k := 0, code := 0, lead := 0, left := 0, hold := false, ranging := false, switch := false, seq := .zero, stage := c.target,
           held := none }

/-- The channels when the last cause has cleared (R315): `m` edges of zero code for the enabled ones. A range sequence in its first
phase stands at k = 0 with it and goes to its second, one in its second stays there, and one in its third, settled already, ramps up
after the `m` edges (R316). DEDUCED (assumption log 48). -/
def DacCh.muteOff (m : Nat) (c : DacCh) : DacCh :=
  let c := { c with hold := false, k := 0 }
  if c.ranging = true ∧ c.seq = .settle then { c with lead := m }
  else if c.ranging = true ∧ c.seq = .down then { c with lead := m, seq := .settle, switch := true }
  else if c.en then { c with lead := m, seq := if m = 0 then .up else .lead } else { c with seq := .zero, ranging := false }

/-- MUTE_n is asserted (R313, R314); already asserted, only a loss of the word clock changes what the channels do. -/
def Dac.assertMute (now : Nat) (d : Dac) : Dac :=
  if d.mute = true ∧ d.wclkOk = true then { d with ready := false }
  else { d with mute := true, ready := false, ch := d.ch.map (DacCh.muteOn d.wclkOk now) }

/-- MUTE_n is asserted by VREF: zero code (R313). -/
def Dac.assertZero (d : Dac) : Dac := { d with mute := true, ready := false, ch := d.ch.map DacCh.zeroNow }

/-- N_r and M of R310 and R315 for a ratio P/Q. -/
def nrOf (fe882 : Bool) (P Q : Nat) : Nat := (rdiv ((feHz fe882 * P : Nat) : Int) ((500 * Q : Nat) : Int)).toNat
def leadEdges (fe882 : Bool) (P Q lead : Nat) : Nat := (rdiv ((lead * feHz fe882 * P : Nat) : Int) ((1000 * Q : Nat) : Int)).toNat

/-- MUTE_n is deasserted where no cause is present (R315). DEDUCED (assumption log 48). -/
def Dac.muteRelease (fe882 : Bool) (P Q : Nat) (ana : Bool) (d : Dac) : Dac :=
  if d.mute = true ∧ d.cause ana = false then
    { d with mute := false, ready := true, ch := d.ch.map (DacCh.muteOff (leadEdges fe882 P Q (bits d.ctrl 3 0))) }
  else d

/-! ### Codes -/

/-- QD[i] of R319. -/
def qd (i : Nat) : Int := if i = 4096 then 524287 else (sinQ i 8192 * 1048574 + p2 64) / p2 65

/-- sd(t) of R319. -/
def sineD (t : Nat) : Int :=
  let quad := t / 2 ^ 30
  let idx := t / 2 ^ 18 % 4096
  let fr : Int := ((t / 4 % 65536 : Nat) : Int)
  let a := if quad % 2 = 1 then qd (4096 - idx) else qd idx
  let b := if quad % 2 = 1 then qd (4095 - idx) else qd (idx + 1)
  let y := a + rnd ((b - a) * fr) 16
  if quad ≥ 2 then - y else y

/-- The generator's code (R319). -/
def DacCh.sineCode (c : DacCh) : Int := rnd (sineD c.sineT * ((min 524288 (bits c.amp 19 0) : Nat) : Int)) 19

/-- A change that a write through the register window made: DACn_CTRL holds it already (R9). -/
def DestSet.direct (d : DestSet) : Bool := d.range.isNone

/-- The destination changes that govern edges at or before ET `t` are made (R283). DACn_CTRL takes those of BUS_ROUTE; what was
written to it after one of them stays (R9). -/
def DacCh.applyDests (t : Nat) (c : DacCh) : DacCh :=
  let due := c.dests.filter fun d => decide (d.time ≤ t)
  let ctrl := match (c.dests.reverse.takeWhile fun d => !d.direct).find? fun d => decide (d.time ≤ t) with
    | some d => setBits (setBits c.ctrl 21 16 d.sel) 23 23 (if d.selEn then 1 else 0)
    | none => c.ctrl
  { c with dests := c.dests.filter (fun d => decide (t < d.time)), ctrl := ctrl,
           src := (due.getLast?.map fun d => (d.selEn, d.sel)).getD c.src }

/-- The range and enable parts of destination changes, at the edge they name. -/
def DacCh.applyRanges (mute : Bool) (t : Nat) (c : DacCh) : DacCh :=
  (c.dests.filter fun d => decide (d.time ≤ t)).foldl (fun c d =>
    let c := match d.range with
      | some r => c.startRange r
      | none => c
    match d.en with
    | some b =>
      if b = c.en then c else { c with ctrl := setBits c.ctrl 31 31 (if b then 1 else 0) }.enChanged mute
    | none => c) c

/-- The source of the entry for an edge at ET `t`: the last change that governs it, or the one in force (R283, R309). -/
def DacCh.source (c : DacCh) (t : Nat) : Bool × Nat :=
  match (c.dests.filter fun d => decide (d.time ≤ t)).getLast? with
  | some d => (d.selEn, d.sel)
  | none => c.src

/-- sel and sel_en written through the register window at ET `now`: an assignment whose applied time is the write (R283, R309). What
DACn_CTRL holds already is written again where a change still waits for its edge, and stays after it (R9).
DEDUCED (assumption log 109). -/
def DacCh.selWrite (now len3 : Nat) (v : Word) (c : DacCh) : DacCh :=
  if bits v 23 23 = bits c.ctrl 23 23 ∧ bits v 21 16 = bits c.ctrl 21 16 ∧ c.dests = [] then c else
  { c with ctrl := setBits (setBits c.ctrl 23 23 (bits v 23 23)) 21 16 (bits v 21 16),
           dests := c.dests ++ [{ time := now + len3, sel := bits v 21 16, selEn := bit v 23, range := none, en := none }] }

/-! ### The converter and its pin (R305–R307, R312) -/

/-- u of a code (R305), its unary segments that are on and its ladder. -/
def offsetCode (c : Int) : Nat := (c + 524288).toNat
def unarySegments (c : Int) : Nat := bits (word (offsetCode c)) 19 14
def ladderCode (c : Int) : Nat := bits (word (offsetCode c)) 13 0

/-- What the stage gives for the code that the converter has (R306); the code is zero in every hold of zero code (R312). -/
def DacCh.stageOut (c : DacCh) : AOut :=
  match c.stage with
  | 0 => .volts (20000000000 + c.code * 15625)
  | 1 => .volts (20000000000 + c.code * 31250)
  | _ => .amps (c.code * 15625)

/-- The pin with PD_ANA powered or not (R312). -/
def DacCh.pin (powered : Bool) (c : DacCh) : AOut := if powered then c.stageOut else .highZ

/-- The pin at REFCLK edge `now`, REFCLK at `hz` hertz: for 150 ns from a word-clock edge the deglitcher holds what it drove before
(R307); a powered pin is never high impedance (R312). DEDUCED (assumption log 136). -/
def DacCh.aout (powered : Bool) (hz now : Nat) (c : DacCh) : AOut :=
  match c.held with
  | some (b, t) => if powered = true ∧ b ≠ .highZ ∧ (now - t) * 1000000000 < 150 * hz then b else c.pin powered
  | none => c.pin powered

/-- OUT writes entries, edge by edge, while there is room and the channel's outputs are formed (R308, R22). An entry whose edge
has passed is discarded and counted. `outs n` are the outputs of output channel n and its last formed edge, `et e` the ET of an
edge, `now` the next edge. DEDUCED (assumption log 47). -/
def DacCh.fillQueue (outs : Nat → List (Int × Int) × Int) (et : Int → Nat) (now : Int) : Nat → DacCh → DacCh
  | 0, c => c
  | n + 1, c =>
    let (en, sel) := c.source (et c.fill)
    let (os, most) := outs sel
    if c.queue.length ≥ 8 ∨ c.fill > most then c else
    let entry := if en then (os.find? fun o => o.1 == c.fill).map fun o => dacCode o.2 else some 0
    let c := match entry with
      | some x => if c.fill < now then { c with ufCnt := satInc c.ufCnt 1 } else { c with queue := c.queue ++ [(c.fill, x)] }
      | none => c
    DacCh.fillQueue outs et now n { c with fill := c.fill + 1 }

/-- A channel at edge `e` whose ET is `t` (R308, R310, R316, R319), at REFCLK edge `now` where REFCLK runs; the answer says whether its
queue underran. Edges before edge 0 carry zero code and count nothing (R418). DEDUCED (assumption log 47). -/
def DacCh.latch (nr : Nat) (mute powered : Bool) (now : Option Nat) (t : Nat) (e : Int) (c : DacCh) : DacCh × Bool :=
  let c := { (c.applyRanges mute t).applyDests t with held := now.map fun n => (c.pin powered, n) }
  let entry := c.queue.find? fun q => q.1 == e
  let under := entry.isNone && decide (e ≥ 0)
  let c := { c with queue := c.queue.filter (fun q => decide (e < q.1)), ufCnt := if under then satInc c.ufCnt 1 else c.ufCnt }
  if powered = false then (c.dark, under) else
  let on := bit c.ctrl 30
  let c := if on = true ∧ c.sineOn = false then { c with sineT := 0 } else c
  let x := if on then c.sineCode else match entry with | some q => q.2 | none => if e < 0 then 0 else c.last
  let c := { c with sineOn := on, sineT := if on then (c.sineT + c.ftw.toNat) % 2 ^ 32 else c.sineT, last := x }
  if c.hold then (c, under) else
  let (k, c) := ((c.settleEnd mute).leadEnd mute).gain nr mute
  ({ c with code := if nr = 0 then 0 else rdiv (x * k) nr }, under)

end Sys2Proof.Machine
end

