-- ==== Sys2Proof/Machine/Voice.lean ====
section
/-! DEFINITION. A voice and its rendering over one frame (spec/02_time_and_determinism.md R58–R61,
spec/05_filters_and_arithmetic.md R158, R161, spec/06_envelopes_and_modulation.md R164–R167, R180,
spec/07_voice_allocation_and_capacity.md R206–R210, R222, R510). -/

namespace Sys2Proof.Machine

/-- Why a voice is stopped (R510). -/
inductive StopWhy where
  | steal | kill | keepalive | fence | poison | close
  deriving DecidableEq, Repr

/-- A decided stop: the first engine sample no longer rendered, the applied time it goes by, why. -/
structure Stop where
  sample : Nat
  time   : Nat
  why    : StopWhy
  deriving DecidableEq, Repr

/-- How a voice ended: the frame in which it did, and when. -/
structure VEnd where
  frame : Nat
  time  : Nat
  deriving DecidableEq, Repr

/-- A voice from its placement until SCHED's accounting frees it (R197–R200). -/
structure Voice where
  hall    : Nat
  he      : Nat
  slot    : Nat
  key     : Option Nat
  lost    : Option (Nat × Nat)   -- the key that a later start took from it, and when (R200)
  prog    : Prog
  pages   : List Nat
  handle  : Nat
  prio    : Nat
  tag     : Nat
  reqEvt  : Nat
  tStart  : Nat
  notify  : Bool
  stop    : Option Stop
  ended   : Option VEnd          -- ended by its envelope (R180) or by a stop that rendering reached
  counted : Bool                 -- its steps, slot and delay words count in SCHED's accounting (R198, R199)
  started : Bool                 -- c0 has been rendered
  last    : List Int             -- the send terms of its last rendered engine sample
  next    : Nat                  -- the next frame to render
  modn    : VMod
  flight  : VFlight
  deriving DecidableEq, Repr

/-- The hall voice number (R197). -/
def Voice.num (v : Voice) : Nat := 32 * v.he + v.slot

/-- c0 of a voice, in core samples (R60). -/
def coreOf (t : Nat) : Nat := 2 * (t / 512) + (t % 512 + 255) / 256

/-- The offset d of R60. -/
def coreOff (t : Nat) : Nat := (256 - t % 512 % 256) % 256

/-- The earliest stop takes effect; between equals the one decided first (R510). -/
def Voice.addStop (v : Voice) (s : Stop) : Voice :=
  match v.stop with
  | none => { v with stop := some s }
  | some o => if s.sample < o.sample then { v with stop := some s } else v

/-- What the rendering of a frame carries along. -/
structure RenderSt where
  v   : Voice
  out : List (Nat × List Int)     -- engine sample and send terms, newest first
  log : RenderLog
  hit : Option Nat                -- a codeword that a poisoned read touched (R222)
  deriving DecidableEq, Repr

/-- Whether the voice renders engine sample `n`. -/
def Voice.live (v : Voice) (n : Nat) : Bool :=
  v.ended.isNone && (match v.stop with | some s => decide (n < s.sample) | none => true)

/-- The release of mode 3 positions at core sample `c` (R121). -/
def releaseAt (p : Prog) (md : VMod) (c : Nat) (f : VFlight) : VFlight :=
  match md.release with
  | none => f
  | some (t, _) =>
    if coreOf (max t md.tStart) ≤ c then
      { f with osc := List.zipWith (fun (o : Osc) (s : OscSt) =>
          if s.rel then s else
          match o.kind, p.table? o.table with
          | .sample, some (.sample r) => if o.mode = 3 then { s with rel := true, u := sampleRelease r s.u } else s
          | _, _ => s) p.osc f.osc }
    else f

/-- One engine sample `n` of a voice, sample `j` of its control period `q` (R106–R162). -/
def renderSample (rd : Nat → Byte) (bad : Nat → Bool) (q : Period) (n j : Nat) (r : RenderSt) : RenderSt :=
  let v := r.v
  let c0 := coreOf v.tStart
  if v.live n = false ∨ 2 * n + 1 < c0 then r else
  let am1 := v.flight.amp.getD 0 0
  let am3 := v.flight.amp.getD 2 0
  let log := { r.log with cws := [] }
  let (f, a0, log) :=
    if 2 * n < c0 then ({ v.flight with amp := 0 :: v.flight.amp.take 2 }, 0, log)
    else coreSample v.prog v.pages rd bad q (2 * j) (releaseAt v.prog v.modn (2 * n) v.flight) log
  let (f, a1, log) := coreSample v.prog v.pages rd bad q (2 * j + 1) (releaseAt v.prog v.modn (2 * n + 1) f) log
  let (f, terms, log) := feSample v.prog q j f a1 a0 am1 am3 log
  let hit := log.cws.find? fun cw => bad (cw * 64)
  let log := { log with cws := log.cws.foldl (fun cs c => if cs.contains c then cs else c :: cs) r.log.cws }
  let v := { v with flight := f, started := true, last := terms }
  let v := if hit.isSome then v.addStop { sample := n + 1, time := (n + 1) * 512, why := .poison } else v
  { v := v, out := (n, terms) :: r.out, log := log, hit := r.hit.orElse fun _ => hit }

/-- The four engine samples of control period `k`. -/
def renderPeriod (rd : Nat → Byte) (bad : Nat → Bool) (q : Period) (k : Nat) (r : RenderSt) : RenderSt :=
  [0, 1, 2, 3].foldl (fun r j => renderSample rd bad q (4 * k + j) j r) r

/-- The oscillators of a voice at c0 (R59, R110, R130). -/
def startOscs (v : Voice) (c : Conv) : List OscSt :=
  v.prog.osc.zipIdx.map fun (o, i) => OscSt.start o i v.tag v.hall v.reqEvt (coreOff v.tStart) (c.incs.getD i 0)

/-- Control period `k`, the `i`-th of its frame (R164–R167). `fe882` and the frame length stand in `m` and `perFrame`. An end by the
envelope stands against a poisoned read in the last engine sample before it. DEDUCED (assumption log 138). -/
def renderCp (m : ModEnv) (perFrame : Nat) (rd : Nat → Byte) (bad : Nat → Bool) (k i : Nat) (r : RenderSt) : RenderSt :=
  let v := r.v
  let c0 := coreOf v.tStart
  if v.live (4 * k) = false ∨ 8 * (k + 1) ≤ c0 then r else
  let tNext := 2048 * (k + 1)
  let (v, q, st) :=
    if 8 * k ≤ c0 then
      let (m0, st) := v.modn.start m v.prog v.tag v.reqEvt (i == 0) r.log.stat
      let (m1, st) := m0.point m v.prog tNext (m0.preVals m v.prog (i == 0)) (tNext - v.tStart) st
      let c := Conv.of m.fe882 v.prog m1.vals
      ({ v with modn := m1,
                flight := { VFlight.empty with
                  osc := startOscs v c, flt := (v.prog.flt0 ++ v.prog.flt1).map fun _ => (0, 0), conv := c,
                  buf := if v.prog.dlyEn then (List.replicate (dlyLen v.prog c.dt) 0).toArray else #[] } },
       ({ va := m0.vals, vb := m1.vals, ca := c, cb := c } : Period), st)
    else
      let fl := if v.prog.dlyEn ∧ i = 0 then
          let (b, w) := dlyResize v.flight.buf v.flight.w (dlyLen v.prog v.flight.conv.dt)
          { v.flight with buf := b, w := w }
        else v.flight
      let (m1, st) := v.modn.point m v.prog tNext v.modn.vals 2048 r.log.stat
      let c := Conv.of m.fe882 v.prog m1.vals
      ({ v with modn := m1, flight := { fl with conv := c } },
       ({ va := v.modn.vals, vb := m1.vals, ca := v.flight.conv, cb := c } : Period), st)
  let r := renderPeriod rd bad q k { r with v := v, log := { r.log with stat := st } }
  if r.v.live (4 * k + 3) = true ∧ r.v.modn.ended v.prog tNext = true
      ∧ (match r.v.stop with | some s => decide (s.sample ≥ 4 * (k + 1)) | none => true) = true then
    { r with v := { r.v with ended := some { frame := (k + 1) / perFrame, time := tNext } } }
  else r

/-- A voice over frame `F` of `len` engine samples (R50, R167). -/
def renderVoice (m : ModEnv) (len F : Nat) (rd : Nat → Byte) (bad : Nat → Bool) (v : Voice) : RenderSt :=
  let perFrame := len / 4
  let r := (List.range perFrame).foldl (fun r i => renderCp m perFrame rd bad (F * perFrame + i) i r)
    { v := v, out := [], log := { stat := Stat.none, cws := [] }, hit := none }
  { r with v := { r.v with next := F + 1 } }

end Sys2Proof.Machine
end

