-- ==== Sys2Proof/Machine/Hall.lean ====
section
/-! DEFINITION. Events, rings and halls as data (spec/01_architecture.md R25–R29, spec/02_time_and_determinism.md R52–R57,
spec/07_voice_allocation_and_capacity.md R193–R223, spec/12_host_ports_and_mailboxes.md R343–R351,
spec/13_command_set.md R362–R366). -/

namespace Sys2Proof.Machine

/-! ### Events -/

/-- Whom a voice event addresses (R379, R401): a key, every voice, keys from `lo` to `hi`, every voice of a program. -/
inductive Who where
  | key (k : Nat)
  | all
  | range (lo hi : Nat)
  | prog (handle : Nat)
  deriving DecidableEq, Repr

/-- A voice start (R378): what VOICE_START carries. -/
structure StartSpec where
  key    : Nat
  handle : Nat
  prio   : Option Nat
  notify : Bool
  attrs  : List Int
  deriving DecidableEq, Repr

/-- What an event does (R365). -/
inductive EvKind where
  | start (x : StartSpec)
  | release (w : Who) (vel : Int)
  | kill (w : Who)
  | param (w : Who) (slot : Nat) (v : Int) (ramp : Option Nat)
  | ctl (k : Nat) (v : Int) (ramp : Option Nat)
  | tempo (v : Int)
  | inRoute (k lane slot bus : Nat) (level : Word)
  | inFree (k : Nat)
  | tdmDest (slot : Nat) (en : Bool) (sel : Nat)
  | dacDest (ch : Nat) (selEn : Bool) (range sel : Nat) (en : Bool)
  | sync (mask : BitVec 64)
  | eqSwap (bus xf : Nat)
  | delaySet (bus dInt dFrac : Nat)
  deriving DecidableEq, Repr

/-- Whether the event belongs to the flight of the voices, so that the close of a frame's list takes it (R49, R202). -/
def EvKind.inFlight : EvKind → Bool
  | .start _ => true | .release .. => true | .kill _ => true | .param .. => true | .ctl .. => true | .tempo _ => true
  | _ => false

/-- A queued event: its applied time, the event time asked for, whether it was late, its source in R57's order (0 ring, 1
trigger mapping, 2 serial role), the order of arrival, the tag. -/
structure Ev where
  hall : Nat
  time : Nat
  req  : Nat
  late : Bool
  src  : Nat
  seq  : Nat
  tag  : Nat
  kind : EvKind
  deriving DecidableEq, Repr

/-- An event of a mapped trigger on its way to SCHED (R386, R431): its trigger, its hall, its tag, the stamp of its edge, its event
time. -/
structure Mapped where
  trig  : Nat
  hall  : Nat
  tag   : Nat
  stamp : Nat
  time  : Nat
  kind  : EvKind
  deriving DecidableEq, Repr

/-- The order in which events of trigger mapping arrive: ascending stamps, and of equal ones ascending triggers (R431). -/
def Mapped.before (a b : Mapped) : Bool := decide (a.stamp < b.stamp) || (a.stamp == b.stamp && decide (a.trig < b.trig))

def mappedInsert (m : Mapped) : List Mapped → List Mapped
  | [] => [m]
  | x :: xs => if m.before x then m :: x :: xs else x :: mappedInsert m xs

/-- How long after its stamp the event of a mapped trigger arrives, in 1/512 es: one REFCLK period more than the longest filter, so
that no edge of an earlier stamp is still to be accepted (R428, R431). DESIGN CHOICE (assumption log 91). -/
def mappedDelay : Nat := 512

/-- When an event takes effect: a set, and a change that reaches a program's voices, at its control point (R169, R170, R380),
everything else at its applied time. -/
def Ev.effTime (e : Ev) : Nat :=
  match e.kind with
  | .param _ _ _ none => ceilCp e.time
  | .param (.prog _) _ _ _ => ceilCp e.time
  | .param _ _ _ (some 0) => ceilCp e.time
  | _ => e.time

/-- A change that reaches every voice of a program follows the voice starts of its control point (R380). -/
def EvKind.last : EvKind → Nat
  | .param (.prog _) _ _ _ => 1
  | _ => 0

/-- The order in which events take effect (R57, R171); a set applied before a start, at the start's own instant, is before it, and does not
reach its voice (DESIGN CHOICE, assumption log 133). DEDUCED (assumption log 30). -/
def Ev.before (a b : Ev) : Bool :=
  let k (e : Ev) : List Nat := [e.effTime, e.kind.last, e.time, e.hall, (if e.late then 1 else 0), e.src, e.seq]
  decide (k a < k b)

/-- The key by which the changes of one value are ordered: applied time, then R57. -/
def Ev.lineKey (e : Ev) : Nat := ((e.time * 2 + (if e.late then 1 else 0)) * 4 + e.src) * 2 ^ 64 + e.seq

/-- An event is put in its place. -/
def evInsert (e : Ev) : List Ev → List Ev
  | [] => [e]
  | f :: fs => if e.before f then e :: f :: fs else f :: evInsert e fs

def evSort (es : List Ev) : List Ev := es.foldl (fun l e => evInsert e l) []

/-! ### Rings -/

/-- What is to be posted behind held notices (R347): the bytes of its entries, and how many entries stay reserved for it; a staging
buffer that its posting frees (R338); whether its posting sets the port asleep (R351); the TB-320 mailbox that it answers (R341). -/
structure Held where
  bytes : List Byte
  keep  : Nat
  free  : Option (Fin 2 × Fin 2)
  sleep : Bool
  box   : Option (Fin 2)
  deriving DecidableEq, Repr

/-- The rings of a hall (R343–R351). An entry is 64 bytes. -/
structure Ring where
  len      : Nat
  cmdTail  : BitVec 16
  cmdHead  : BitVec 16
  cplTail  : BitVec 16
  cplHead  : BitVec 16
  stalled  : Bool
  held     : List Held            -- notices held, and the completions behind them (R347)
  lost     : Nat                     -- notices_lost, as not yet told
  lostSum  : Nat                     -- notices lost since the hall's creation
  refused  : Nat                  -- db_refused
  modCount : Nat
  modTime  : Nat
  posted   : List Nat             -- when each unread entry was posted, in REFCLK edges, the oldest first
  lastAck  : Nat
  deriving DecidableEq, Repr

def Ring.reset : Ring :=
  { len := 64, cmdTail := 0, cmdHead := 0, cplTail := 0, cplHead := 0, stalled := false, held := [], lost := 0, lostSum := 0, refused := 0,
    modCount := 1, modTime := 0, posted := [], lastAck := 0 }

/-- Unread completion entries. -/
def Ring.unread (r : Ring) : Nat := (r.cplTail - r.cplHead).toNat
/-- Posted command entries that CP0 has not taken. -/
def Ring.waiting (r : Ring) : Nat := (r.cmdTail - r.cmdHead).toNat

/-- How a command came to CP0. -/
inductive Via where
  | ring
  | bulk (port : Fin 2) (buf : Fin 2)
  | mbx (port : Fin 2)
  deriving DecidableEq, Repr

/-- What a command that holds back its hall waits for (R362). -/
inductive WaitFor where
  | progLoad (image : List Byte) (pf3 : Bool) (pages : List Nat)
  | progPages (image : List Byte) (pf3 : Bool) (n : Nat)
  | convPages (k : Nat)
  | conv (k : Nat)
  | specPower (payload : List Byte)
  | serPower (payload : List Byte)
  | pages (n : Nat) (contig : Bool)
  | eqLoad (bus : Nat)
  | park (g : Fin 8)
  | unpark (g : Fin 8)
  | mapping (payload : List Byte)
  | sealed (stage : Nat) (dest : List Nat) (len : Nat)
  | erase
  | program
  | lift (kind index : Nat)
  deriving DecidableEq, Repr

/-- A command whose completion waits: its opcode, tag, flags, the entries reserved for its completion. -/
structure Wait where
  op      : Nat
  tag     : Nat
  quiet   : Bool
  via     : Via
  reserve : Nat
  what    : WaitFor
  deriving DecidableEq, Repr

/-- A BULK queued in a hall (R338): CP0 takes it when the command head has reached `after`. -/
structure BulkJob where
  port  : Fin 2
  buf   : Fin 2
  tag   : Nat
  addr  : Nat
  len   : Nat
  after : BitVec 16
  deriving DecidableEq, Repr

/-! ### Halls -/

/-- A loaded or draining program (R84–R90). -/
structure ProgEnt where
  idx      : Nat
  gen      : Nat
  prog     : Prog
  pages    : List Nat
  draining : Bool
  deriving DecidableEq, Repr

/-- The 16-bit handle (R84). -/
def handleOf (idx gen : Nat) : Nat := gen * 256 + idx

/-- A hall engine: where it is mapped from which frame on (none: dark, R221), with what it was mapped, whether it
drains, whether it has drained and is unmapped (R219), whether a fence has struck its migration, so that it is mapped afresh at the next
frame boundary (R485). -/
structure HallEng where
  he    : Nat
  phys  : Stepped (Option Nat)
  hb    : Nat
  hs    : Nat
  hd    : Nat
  drain : Bool
  left  : Bool
  again : Bool
  deriving DecidableEq, Repr

/-- A hall. -/
structure Hall where
  alive    : Bool
  rv       : Nat
  binding  : Word                    -- in the layout of HALLn_BIND
  nHe      : Nat
  hb       : Nat
  hs       : Nat
  hd       : Nat                     -- in words
  quota    : Nat
  mask     : Stepped (BitVec 64)
  kaMs     : Nat
  kaSusp   : Bool
  kaLapsed : Bool
  kaLast   : Nat                     -- the last restart, in REFCLK edges
  lapses   : List (Nat × Nat)        -- the lapses of the last 10 s, oldest first: REFCLK edge and applied time
  fenced   : Stepped Bool            -- whether the hall is fenced, from which frame on
  fenceReq : Option Nat              -- the frame M of a hall fence that has not taken effect
  resizeAt : Option Nat              -- frame M of a pending resize or migration
  stealCnt : Word
  refuseCnt : Word
  lostCnt  : Word
  startCnt : Word
  lateCnt  : Word
  excCnt   : Word
  satCnt   : Word
  lateLog  : Option Nat              -- the frame of its last late log entry (R55)
  engs     : List HallEng
  progs    : List ProgEnt
  gens     : Sparse Nat              -- per index, the generation that the next handle takes
  queue    : List Ev
  qHigh    : Nat
  ctl      : Tab (Int × List LineEv) 32
  tempo    : Int × List LineEv
  detIn    : Tab (Stepped (Option (Nat × Nat))) 8 -- bus and which value (R383)
  wait     : Option Wait
  bulks    : List BulkJob
  ring     : Ring
  deriving DecidableEq, Repr

def Hall.reset : Hall :=
  { alive := false, rv := 0, binding := 0#32, nHe := 0, hb := 0, hs := 0, hd := 0, quota := 0, mask := [], kaMs := 0,
    kaSusp := false, kaLapsed := false, kaLast := 0, lapses := [], fenced := [], fenceReq := none, resizeAt := none,
    stealCnt := 0#32, refuseCnt := 0#32, lostCnt := 0#32, startCnt := 0#32, lateCnt := 0#32, excCnt := 0#32, satCnt := 0#32,
    lateLog := none, engs := [], progs := [], gens := [], queue := [], qHigh := 0, ctl := Vector.replicate 32 (0, []),
    tempo := (12000, []), detIn := Vector.replicate 8 [], wait := none, bulks := [], ring := Ring.reset }

/-- The host port a hall is bound to (HALLn_BIND). DEDUCED (assumption log 65). -/
def Hall.port? (h : Hall) : Option (Fin 2) :=
  if h.alive = true ∧ bits h.binding 31 30 = 1 then some (Fin.ofNat 2 (bits h.binding 0 0)) else none

/-- The serial port a hall is bound to. -/
def Hall.ser? (h : Hall) : Option (Fin 4) :=
  if h.alive = true ∧ bits h.binding 31 30 = 2 then some (Fin.ofNat 4 (bits h.binding 15 14)) else none

/-- Where a hall engine is mapped for frame `f`. -/
def HallEng.at (e : HallEng) (f : Nat) : Option Nat := Stepped.at none e.phys f
def HallEng.now (e : HallEng) : Option Nat := Stepped.now none e.phys
/-- A hall engine that has no physical engine though it is to have one (R221). -/
def HallEng.dark (e : HallEng) : Bool := e.now.isNone && !e.left
def HallEng.draining (e : HallEng) : Bool := e.drain && !e.left

/-- What a start by a MIDI channel carries for a handle: the program index alone (R402). -/
def handleByIndex (idx : Nat) : Nat := 65536 + idx

/-- The program that a start names: by its handle, or the one loaded at its index when the start takes effect (R88, R402). -/
def Hall.startProg? (h : Hall) (handle : Nat) : Option ProgEnt :=
  if handle < 65536 then h.progs.find? fun p => handleOf p.idx p.gen == handle
  else h.progs.find? fun p => handleByIndex p.idx == handle && !p.draining

/-- A program by its handle, loaded and not draining (R85). -/
def Hall.prog? (h : Hall) (handle : Nat) : Option ProgEnt :=
  h.progs.find? fun p => handleOf p.idx p.gen == handle && !p.draining

end Sys2Proof.Machine
end

