-- ==== Sys2Proof/Machine/IrqFabric.lean ====
section
/-! DEFINITION. The interrupt fabric (spec/16_interrupt_fabric.md R433–R446). -/

namespace Sys2Proof.Machine

/-- A routing entry. -/
structure IrqEnt where
  en      : Bool
  pending : Bool
  active  : Bool
  owner   : Nat
  target  : Nat
  prio    : Nat
  deriving DecidableEq, Repr

def IrqEnt.reset : IrqEnt := { en := false, pending := false, active := false, owner := 0, target := 0, prio := 0 }

/-- The fabric: entries, active stacks of CP0, CP1 and the MP, and who waits for an interrupt. -/
structure Irqf where
  compat : Bool
  bp     : Nat
  err    : Word
  coal   : Word
  ent    : Tab IrqEnt 256
  stack  : Tab (List Nat) 3
  asleep : Tab Bool 3
  deriving DecidableEq, Repr

def Irqf.reset : Irqf :=
  { compat := false, bp := 0, err := 0#32, coal := 0#32, ent := Vector.replicate 256 IrqEnt.reset, stack := Vector.replicate 3 [],
    asleep := Vector.replicate 3 false }

/-- Source numbers that are allocated (R437). -/
def irqUsed (n : Nat) : Bool :=
  decide (n ≤ 6) || decide (16 ≤ n ∧ n ≤ 23) || (decide (32 ≤ n ∧ n ≤ 95) && decide (n % 8 ≤ 2)) || n == 96 || n == 97
    || decide (112 ≤ n ∧ n ≤ 116) || decide (128 ≤ n ∧ n ≤ 130) || decide (144 ≤ n ∧ n ≤ 167) || decide (176 ≤ n ∧ n ≤ 200)
    || decide (208 ≤ n ∧ n ≤ 214) || decide (224 ≤ n ∧ n ≤ 255)

def Irqf.get (q : Irqf) (n : Nat) : IrqEnt := q.ent.get (Fin.ofNat 256 n)
def Irqf.upd (q : Irqf) (n : Nat) (f : IrqEnt → IrqEnt) : Irqf := { q with ent := q.ent.upd (Fin.ofNat 256 n) f }

/-- A raise (R433): pending is set, or the raise is counted as coalesced; a reserved source is never raised (R437). -/
def Irqf.raise (q : Irqf) (n : Nat) : Irqf :=
  if irqUsed n = false ∨ n > 255 then q
  else if (q.get n).pending then { q with coal := if q.coal = 0xFFFFFFFF#32 then q.coal else q.coal + 1#32 }
  else q.upd n fun e => { e with pending := true }

/-- A source raised `k` times. -/
def Irqf.raiseN (q : Irqf) (n k : Nat) : Irqf :=
  if k = 0 then q else
  let q := q.raise n
  if irqUsed n = false ∨ n > 255 then q else { q with coal := word (min 0xFFFFFFFF (q.coal.toNat + (k - 1))) }

def Irqf.raiseAll (q : Irqf) (ns : List Nat) : Irqf := ns.foldl Irqf.raise q

/-- An IRQF_ERR bit is set; the first raises source 6. -/
def Irqf.setErr (q : Irqf) (n : Nat) : Irqf :=
  let first := q.err == 0#32
  let q := { q with err := q.err ||| (1#32 <<< n) }
  if first then q.raise 6 else q

/-- The group of a priority (R438). -/
def Irqf.group (q : Irqf) (prio : Nat) : Nat := prio / 2 ^ (min q.bp 4)

/-- Deliverable to target `t` (R435). -/
def IrqEnt.deliverable (e : IrqEnt) (t : Nat) : Bool := e.pending && e.en && e.target == t

/-- The candidate of a target (R439, R442). -/
def Irqf.candidate (q : Irqf) (t : Nat) : Option Nat :=
  (List.range 256).foldl (fun (best : Option Nat) n =>
    if (q.get n).deliverable t = false then best else
    match best with
    | none => some n
    | some b => if q.compat then best else if (q.get n).prio > (q.get b).prio then some n else best) none

/-- The running group of a target (R439). -/
def Irqf.running (q : Irqf) (t : Fin 3) : Option Nat := (q.stack.get t).head?.map fun n => q.group (q.get n).prio

/-- The candidate that a target is offered (R439, R442). -/
def Irqf.offer (q : Irqf) (t : Fin 3) : Option Nat :=
  match q.candidate t.val with
  | none => none
  | some n =>
    if q.compat then (if (q.stack.get t).isEmpty then some n else none)
    else match q.running t with
      | none => some n
      | some g => if q.group (q.get n).prio > g then some n else none

/-- A target can be woken (R446); `halted` and `stopped` are CP0's and CP1's. -/
def canWake (halted stopped : Bool) (t : Fin 3) : Bool := t.val == 2 || !(halted || stopped)

/-- An acknowledge by a target (R440): the value read, and the fabric. A target that waits for an interrupt and cannot be woken
receives nothing (R446). -/
def Irqf.ack (q : Irqf) (can : Bool) (t : Fin 3) : Word × Irqf :=
  match q.offer t with
  | none => (0#32, q)
  | some n =>
    if (q.stack.get t).length ≥ 16 ∨ ((q.stack.get t).isEmpty = true ∧ can = false) then (0#32, q) else
    let e := q.get n
    (0x80000000#32 ||| word (e.prio * 256 + n),
     { (q.upd n fun e => { e with pending := false, active := true, owner := t.val }) with
         stack := q.stack.upd t (n :: ·), asleep := q.asleep.put t false })

/-- An end of interrupt (R441). A target whose stack empties with nothing to offer waits for an interrupt (R446). -/
def Irqf.eoi (q : Irqf) (t : Fin 3) (n : Nat) : Irqf :=
  match q.stack.get t with
  | m :: ms =>
    if m = n then
      let q := { (q.upd n fun e => { e with active := false }) with stack := q.stack.put t ms }
      if ms = [] ∧ (q.offer t).isNone then { q with asleep := q.asleep.put t true } else q
    else q.setErr 1
  | [] => q.setErr 1

/-- Who is asleep once the wakes that were asked for have completed (R446): a target with no handler running that nothing is
offered to, or that cannot be woken. -/
def Irqf.settle (q : Irqf) (can : Fin 3 → Bool) : Irqf :=
  { q with asleep := Vector.ofFn fun t => (q.stack.get t).isEmpty && !(can t && (q.offer t).isSome) }

/-- A write of IRQF_DBt (R435, R436). -/
def Irqf.doorbell (q : Irqf) (n : Nat) : Irqf := if n < 224 then q.setErr 0 else q.raise n

/-- A write of IRQF_CFG (R443). -/
def Irqf.writeCfg (q : Irqf) (w : Word) : Irqf :=
  let c := bit w 31
  let b := bits w 2 0
  if c = q.compat ∧ b = q.bp then q
  else if (List.finRange 3).any fun t => !(q.stack.get t).isEmpty then q.setErr 2
  else { q with compat := c, bp := b }

/-- A write of IRQF_RTn (R444, R445). -/
def Irqf.writeRoute (q : Irqf) (n : Nat) (w : Word) : Irqf :=
  if irqUsed n then q.upd n fun e => { e with en := bit w 31, target := bits w 9 8, prio := bits w 3 0 } else q

/-- The words of the fabric's registers. -/
def Irqf.entWord (q : Irqf) (n : Nat) : Word :=
  if irqUsed n then
    let e := q.get n
    word ((if e.en then 2 ^ 31 else 0) + (if e.pending then 2 ^ 30 else 0) + (if e.active then 2 ^ 29 + e.owner * 2 ^ 27 else 0)
      + e.target * 256 + e.prio)
  else 0#32

def Irqf.pendWord (q : Irqf) (k : Nat) : Word :=
  word ((List.range 32).foldl (fun a j => if irqUsed (32 * k + j) && (q.get (32 * k + j)).pending then a + 2 ^ j else a) 0)

def Irqf.runWord (q : Irqf) (t : Fin 3) : Word :=
  match q.stack.get t with
  | [] => 0#32
  | n :: ms => word (2 ^ 31 + (ms.length + 1) * 2 ^ 16 + (if q.compat then 0 else q.group (q.get n).prio) * 256 + n)

def Irqf.tstatWord (q : Irqf) (wake : Bool) (t : Fin 3) : Word :=
  let sl := q.asleep.get t
  word ((if (q.offer t).isSome && !sl then 8 else 0) + (if sl && wake && (q.offer t).isSome then 4 else 0)
    + (if sl && !wake then 2 else 0) + (if sl then 1 else 0))

/-- The routing that firmware 3.4 writes at start-up (Routing of firmware 3.4). -/
def fwRoute (n : Nat) : Option (Nat × Nat) :=
  if 16 ≤ n ∧ n ≤ 23 then some (0, 9)
  else if n = 3 ∨ n = 4 ∨ (32 ≤ n ∧ n ≤ 95 ∧ (n % 8 = 1 ∨ n % 8 = 2)) then some (0, 13)
  else if 160 ≤ n ∧ n ≤ 167 then some (1, 10)
  else if 176 ≤ n ∧ n ≤ 200 then some (1, 14)
  else if n = 96 ∨ n = 97 ∨ (112 ≤ n ∧ n ≤ 116) ∨ (128 ≤ n ∧ n ≤ 159) then some (1, 6)
  else if n ≤ 6 ∨ (32 ≤ n ∧ n ≤ 95 ∧ n % 8 = 0) then some (1, 4)
  else if 208 ≤ n ∧ n ≤ 215 then some (2, 12)
  else none

def Irqf.fwSetup (q : Irqf) : Irqf :=
  { (List.range 256).foldl (fun q n =>
      match fwRoute n with
      | some (t, p) => if irqUsed n then q.upd n fun e => { e with en := true, target := t, prio := p } else q
      | none => q) q with bp := 2 }

end Sys2Proof.Machine
end

