-- ==== Sys2Proof/Machine/Rs.lean ====
section
/-! DEFINITION. The RS(72,64) code (spec/09_wave_memory.md R261, R263): GF(2^8), the syndromes of an error pattern, the bounded
distance decoder. The code is linear, so the decoder is written over the pattern of errors alone. -/

namespace Sys2Proof.Machine

/-- a·x in GF(2^8) under x^8 + x^4 + x^3 + x^2 + 1. -/
def gfDouble (a : Nat) : Nat := if a ≥ 128 then (2 * a) ^^^ 0x11D else 2 * a

/-- The product in GF(2^8). -/
def gfMul (a b : Nat) : Nat :=
  ((List.range 8).foldl (fun (x : Nat × Nat) i =>
    (if b / 2 ^ i % 2 = 1 then x.1 ^^^ x.2 else x.1, gfDouble x.2)) (0, a)).1

/-- α^n, α = 2. -/
def gfPow (n : Nat) : Nat := (List.range (n % 255)).foldl (fun a _ => gfDouble a) 1

/-- a^n. -/
def gfPowN (a n : Nat) : Nat := (List.range n).foldl (fun x _ => gfMul x a) 1

/-- The inverse of a non-zero element: a^254. -/
def gfInv (a : Nat) : Nat := gfPowN a 254

/-- An error pattern: (symbol k, value) pairs, values non-zero. -/
abbrev ErrPat := List (Nat × Nat)

/-- Syndrome j: Σ e_k α^(j(71−k)). -/
def syndrome (e : ErrPat) (j : Nat) : Nat := e.foldl (fun s x => s ^^^ gfMul x.2 (gfPow (j * (71 - x.1)))) 0

/-- The eight syndromes. -/
def syndromes (e : ErrPat) : List Nat := (List.range 8).map (syndrome e)

/-- Coefficient-wise exclusive or, the longer list's tail kept. -/
def polyAdd : List Nat → List Nat → List Nat
  | [], q => q
  | p, [] => p
  | a :: p, b :: q => (a ^^^ b) :: polyAdd p q

/-- The value of a polynomial, lowest coefficient first. -/
def polyEval (p : List Nat) (x : Nat) : Nat := p.foldr (fun c v => c ^^^ gfMul v x) 0

/-- One step of the Berlekamp–Massey algorithm: (Λ, B, L, m, b). -/
def bmStep (s : List Nat) (x : List Nat × List Nat × Nat × Nat × Nat) (n : Nat) : List Nat × List Nat × Nat × Nat × Nat :=
  let (c, bp, l, m, b) := x
  let d := (List.range (l + 1)).foldl (fun d i => d ^^^ gfMul (c.getD i 0) (s.getD (n - i) 0)) 0
  if d = 0 then (c, bp, l, m + 1, b) else
  let t := polyAdd c (List.replicate m 0 ++ bp.map fun v => gfMul v (gfMul d (gfInv b)))
  if 2 * l ≤ n then (t, c, n + 1 - l, 1, d) else (t, bp, l, m + 1, b)

/-- The error locator polynomial and its degree. -/
def locator (s : List Nat) : List Nat × Nat :=
  let r := (List.range 8).foldl (bmStep s) ([1], [1], 0, 1, 1)
  (r.1, r.2.2.1)

/-- The product of two polynomials modulo x^8. -/
def polyMul8 (p q : List Nat) : List Nat :=
  (List.range 8).map fun k => (List.range (k + 1)).foldl (fun s i => s ^^^ gfMul (p.getD i 0) (q.getD (k - i) 0)) 0

/-- The formal derivative. -/
def polyDeriv (p : List Nat) : List Nat := (p.drop 1).zipIdx.map fun (c, i) => if i % 2 = 0 then c else 0

/-- The pattern of at most 4 symbol errors that has the syndromes of `e`, if there is one (R263). DEDUCED (assumption log 61). -/
def decodeErr (e : ErrPat) : Option ErrPat :=
  if e.length ≤ 4 then some e else
  let s := syndromes e
  if s.all (· == 0) then some [] else
  let (lam, l) := locator s
  if l > 4 then none else
  let roots := (List.range 72).filter fun k => polyEval lam (gfInv (gfPow (71 - k))) == 0
  if roots.length ≠ l then none else
  let om := polyMul8 s lam
  let f := roots.map fun k =>
    let xi := gfInv (gfPow (71 - k))
    (k, gfMul (gfPow (71 - k)) (gfMul (polyEval om xi) (gfInv (polyEval (polyDeriv lam) xi))))
  if syndromes f = s then some f else none

end Sys2Proof.Machine
end

