-- ==== Sys2Proof/Machine/Mem.lean ====
section
/-! DEFINITION. Wave memory, its protection and its arbiters (spec/09_wave_memory.md R251–R278): what it holds and what a read,
a write, a wipe, a scrub and an arbiter's decision do to it. Log entries, notices and interrupts are left to the caller. -/

namespace Sys2Proof.Machine

/-- Page states (R253), FREE for every page not listed. -/
inductive PageState where
  | free | wiping | owned | stored | sealed | sealing | retired
  deriving DecidableEq, Repr

/-- A page: its state, the hall that holds it in states OWNED to SEALING (and RETIRED until freed), the poisoned flag. -/
structure Page where
  state    : PageState
  hall     : Nat
  poisoned : Bool
  deriving DecidableEq, Repr

def Page.default : Page := { state := .free, hall := 0, poisoned := false }

/-- The value MEM_PAGE_INFO.state gives a state. -/
def PageState.code : PageState → Nat
  | .free => 0 | .wiping => 1 | .owned => 2 | .stored => 3 | .sealed => 4 | .sealing => 5 | .retired => 6

/-- A channel controller with its arbiter and scrubber. -/
structure MemCh where
  trained   : Bool
  ceCnt     : Word
  ueCnt     : Word
  poisonRd  : Word
  err       : Word
  errAddr   : Word
  scrubNext : Nat
  scrubPass : Word
  due       : Option Nat        -- ET at which the next patrol read falls due (R265); none before bring-up
  wb        : Option Nat        -- the write-back register (R266): a codeword of the wave memory
  wbWait    : List Nat          -- corrections that wait while it is full
  jobs      : List (Nat × Bool) -- pages being wiped (true) or scrubbed (false), the first under way
  prio0     : Word
  prio1     : Word
  act       : Tab Word 8
  shd       : Tab Word 8
  swapPend  : Bool
  slot      : Nat               -- slot of the next decision
  ptr       : Nat               -- slot of the most recent decision
  lastWin   : Option Nat        -- the last requester that won a contest
  granted   : Option (Nat × Bool) -- the decision made: the requester, and whether its slot was reserved to it
  dead      : Word
  grant     : Tab Word 12
  extra     : Tab Word 12
  deriving DecidableEq, Repr

def MemCh.reset : MemCh :=
  { trained := false, ceCnt := 0#32, ueCnt := 0#32, poisonRd := 0#32, err := 0#32, errAddr := 0#32, scrubNext := 0,
    scrubPass := 0#32, due := none, wb := none, wbWait := [], jobs := [], prio0 := 0xCCCCCCCC#32, prio1 := 0x0000146E#32,
    act := Vector.replicate 8 0xFFFFFFFF#32, shd := Vector.replicate 8 0xFFFFFFFF#32, swapPend := false, slot := 0, ptr := 0,
    lastWin := none, granted := none, dead := 0#32, grant := Vector.replicate 12 0#32, extra := Vector.replicate 12 0#32 }

/-- The wave memory: the data written, the symbol errors that stand in stored codewords, the poison bitmap, the page table,
the four channels, MEM_PAGE_SEL, the start-up state. -/
structure WaveMem where
  data   : Memory
  flips  : Sparse Byte        -- at 72 × codeword + symbol (R261)
  poison : Sparse Bool        -- by codeword
  pages  : Sparse Page
  ch     : Tab MemCh 4
  sel    : Word
  ready  : Bool
  listFull : Bool
  late   : List Nat           -- WIPING pages that are not yet written with zeros (R223)
  deriving DecidableEq, Repr

def WaveMem.reset : WaveMem :=
  { data := [], flips := [], poison := [], pages := [], ch := Vector.replicate 4 MemCh.reset, sel := 0#32, ready := false,
    listFull := false, late := [] }

/-- The data, the symbol errors, the poison bits and the pages are in canonical form. -/
def WaveMem.wf (m : WaveMem) : Bool :=
  m.data.wf && Sparse.wf 0#8 m.flips && Sparse.wf false m.poison && Sparse.wf Page.default m.pages

def WaveMem.page (m : WaveMem) (p : Nat) : Page := Sparse.get Page.default m.pages p
def WaveMem.setPage (m : WaveMem) (p : Nat) (x : Page) : WaveMem := { m with pages := Sparse.put Page.default m.pages p x }
def WaveMem.isPoison (m : WaveMem) (cw : Nat) : Bool := Sparse.get false m.poison cw
def WaveMem.setPoison (m : WaveMem) (cw : Nat) (b : Bool) : WaveMem := { m with poison := Sparse.put false m.poison cw b }

/-- The channel of a page, of a codeword (R251). -/
def chOfPage (p : Nat) : Fin 4 := Fin.ofNat 4 p
def chOfCw (cw : Nat) : Fin 4 := chOfPage (cw / 1024)

/-- The codeword of the wave memory that is codeword `i` of channel `c` (R251). -/
def cwOfCh (c : Fin 4) (i : Nat) : Nat := ((i / 1024) * 4 + c.val) * 1024 + i % 1024

def WaveMem.updCh (m : WaveMem) (c : Fin 4) (f : MemCh → MemCh) : WaveMem := { m with ch := m.ch.upd c f }

/-- The symbol errors that stand in a codeword. -/
def WaveMem.errs (m : WaveMem) (cw : Nat) : ErrPat :=
  (m.flips.filter fun x => 72 * cw ≤ x.1 && x.1 < 72 * cw + 72).map fun x => (x.1 - 72 * cw, x.2.toNat)

/-- What the decoder makes of a codeword: clean, corrected with this residue of wrong symbols (empty but for a miscorrection,
R263), or uncorrectable. -/
inductive CwRead where
  | clean
  | corrected (wrong : ErrPat)
  | uncorrectable
  deriving DecidableEq, Repr

def xorPat (a b : ErrPat) : ErrPat :=
  ((List.range 72).map fun k =>
    (k, (a.filter fun x => x.1 == k).foldl (fun s x => s ^^^ x.2) 0 ^^^ (b.filter fun x => x.1 == k).foldl (fun s x => s ^^^ x.2) 0)).filter
    fun x => x.2 != 0

/-- DEDUCED (assumption log 61). -/
def WaveMem.decode (m : WaveMem) (cw : Nat) : CwRead :=
  let e := m.errs cw
  if e = [] then .clean else
  match decodeErr e with
  | some f => if e.length ≤ 4 then .corrected [] else if f = [] then .corrected e else .corrected (xorPat e f)
  | none => .uncorrectable

/-- A codeword reads as zeros: its poison bit is set, it is uncorrectable, or its page is SEALING or RETIRED (R259, R267,
R268). -/
def WaveMem.readsZero (m : WaveMem) (cw : Nat) : Bool :=
  m.isPoison cw || m.decode cw == .uncorrectable ||
  (match (m.page (cw / 1024)).state with | .sealing => true | .retired => true | _ => false)

/-- A read answered as poisoned (R267), or of a RETIRED page, which reads as zeros flagged (R268). -/
def WaveMem.flagged (m : WaveMem) (cw : Nat) : Bool :=
  m.isPoison cw || m.decode cw == .uncorrectable || (m.page (cw / 1024)).state == .retired

/-- The corrected data byte at an address (R252). -/
def WaveMem.rd (m : WaveMem) (a : Nat) : Byte :=
  if m.readsZero (a / 64) then 0#8 else
  match m.decode (a / 64) with
  | .corrected w => m.data.read a ^^^ (byte ((w.filter fun x => x.1 == a % 64).foldl (fun s x => s ^^^ x.2) 0))
  | _ => m.data.read a

def WaveMem.rdList (m : WaveMem) (a n : Nat) : List Byte := (List.range n).map fun i => m.rd (a + i)

/-- A bit of MEMc_ERR is set, with its address captured when the register was all zero (R278); the answer says whether this
raises the channel's source. -/
def MemCh.setErr (c : MemCh) (bitNo cw : Nat) : MemCh × Bool :=
  let first := c.err == 0#32
  ({ c with err := c.err ||| (1#32 <<< bitNo), errAddr := if first then word (cw * 64) else c.errAddr }, first)

/-- What a read by a requester has brought about, for the caller to log, notify and signal. -/
structure MemEvents where
  raise    : List (Fin 4)      -- channels whose error source is raised
  poisoned : List (Nat × Bool) -- codewords newly poisoned, and whether their page takes the poisoned flag by it
  corrected : List Nat
  retired  : List Nat          -- pages
  deriving DecidableEq, Repr

def MemEvents.none : MemEvents := { raise := [], poisoned := [], corrected := [], retired := [] }

/-- A correction is counted and queued for write-back (R264, R266). -/
def WaveMem.corrected (m : WaveMem) (cw : Nat) (ev : MemEvents) : WaveMem × MemEvents :=
  let c := chOfCw cw
  let x := m.ch.get c
  let (x, first) := x.setErr 0 cw
  let x := { x with ceCnt := satInc x.ceCnt 1 }
  let x := if x.wb = some cw ∨ x.wbWait.contains cw = true then x
    else if x.wb.isNone then { x with wb := some cw } else { x with wbWait := x.wbWait ++ [cw] }
  ({ m with ch := m.ch.put c x },
   { ev with raise := if first then c :: ev.raise else ev.raise, corrected := cw :: ev.corrected })

/-- An uncorrectable codeword is poisoned (R267). -/
def WaveMem.poisonCw (m : WaveMem) (cw : Nat) (ev : MemEvents) : WaveMem × MemEvents :=
  let c := chOfCw cw
  let (x, first) := (m.ch.get c).setErr 1 cw
  let m := { m with ch := m.ch.put c { x with ueCnt := satInc x.ueCnt 1 } }
  let p := m.page (cw / 1024)
  let flag := p.state != .free && p.state != .wiping && p.state != .retired
  let m := (m.setPoison cw true).setPage (cw / 1024) { p with poisoned := flag }
  (m, { ev with raise := if first then c :: ev.raise else ev.raise, poisoned := (cw, flag && !p.poisoned) :: ev.poisoned })

/-- A read of a codeword by a requester (R264, R267). -/
def WaveMem.readCw (m : WaveMem) (ev : MemEvents) (cw : Nat) : WaveMem × MemEvents :=
  if m.isPoison cw then
    let c := chOfCw cw
    let (x, first) := (m.ch.get c).setErr 2 cw
    ({ m with ch := m.ch.put c { x with poisonRd := satInc x.poisonRd 1 } },
     { ev with raise := if first then c :: ev.raise else ev.raise })
  else match m.decode cw with
    | .clean => (m, ev)
    | .corrected _ => m.corrected cw ev
    | .uncorrectable => m.poisonCw cw ev

/-- The reads of a list of codewords. DEDUCED (assumption log 60). -/
def WaveMem.readCws (m : WaveMem) (cws : List Nat) : WaveMem × MemEvents :=
  cws.foldl (fun x cw => WaveMem.readCw x.1 x.2 cw) (m, MemEvents.none)

/-- The codewords that bytes `a … a + n − 1` lie in. -/
def cwSpan (a n : Nat) : List Nat := if n = 0 then [] else (List.range ((a + n - 1) / 64 + 1 - a / 64)).map (· + a / 64)

/-- The stored symbols of a codeword are made to agree with its data again. -/
def WaveMem.clearFlips (m : WaveMem) (cw : Nat) : WaveMem := { m with flips := Sparse.clear m.flips (72 * cw) (72 * cw + 72) }

/-- A corrected codeword is rewritten as the decoder gives it (R266). -/
def WaveMem.rewrite (m : WaveMem) (cw : Nat) : WaveMem :=
  let d := m.rdList (cw * 64) 64
  { m.clearFlips cw with data := m.data.writeList (cw * 64) d }

/-- A write takes a codeword out of the write-back register (R266). -/
def MemCh.dropWb (c : MemCh) (cw : Nat) : MemCh :=
  let w := c.wbWait.filter (· != cw)
  if c.wb = some cw then { c with wb := w.head?, wbWait := w.tail } else { c with wbWait := w }

/-- The corrections that wait for the scrubber's grants, that of the write-back register first (R266). -/
def MemCh.corrs (c : MemCh) : List Nat := c.wb.toList ++ c.wbWait

/-- The poisoned codewords of a page. -/
def WaveMem.poisonCount (m : WaveMem) (p : Nat) : Nat := (m.poison.filter fun x => x.1 / 1024 == p).length

/-- A write to some bytes of one codeword (R252, R268): a RETIRED page is not writable; a partial write reads and merges, a read that
counts as any other (R264, R267); a write clears the poison bit, and the last poison bit of a page cleared starts a page scrub. -/
def WaveMem.writeCw (m : WaveMem) (ev : MemEvents) (cw : Nat) (bs : List (Nat × Byte)) : WaveMem × MemEvents :=
  if (m.page (cw / 1024)).state = .retired then (m, ev) else
  let (m, ev) := if bs.length < 64 then WaveMem.readCw m ev cw else (m, ev)
  let base : Memory := if m.readsZero cw then Sparse.clear m.data (cw * 64) (cw * 64 + 64)
    else m.data.writeList (cw * 64) (m.rdList (cw * 64) 64)
  let m := { m.clearFlips cw with data := bs.foldl (fun (d : Memory) (x : Nat × Byte) => d.write x.1 x.2) base }
  let m := m.updCh (chOfCw cw) fun c => c.dropWb cw
  if m.isPoison cw then
    let m := m.setPoison cw false
    if m.poisonCount (cw / 1024) = 0 then (m.updCh (chOfCw cw) fun c => { c with jobs := c.jobs ++ [(cw / 1024, false)] }, ev)
    else (m, ev)
  else (m, ev)

/-- A write of bytes from an address on, codeword by codeword (R256, R257). -/
def WaveMem.writeBytes (m : WaveMem) (a : Nat) (bs : List Byte) : WaveMem × MemEvents :=
  let tagged := bs.zipIdx.map fun (b, i) => (a + i, b)
  (cwSpan a bs.length).foldl (fun x cw => WaveMem.writeCw x.1 x.2 cw (tagged.filter fun y => y.1 / 64 == cw)) (m, MemEvents.none)

/-- A write to every codeword of a page takes them out of the write-back register (R266). -/
def MemCh.dropPage (c : MemCh) (p : Nat) : MemCh :=
  let w := c.corrs.filter fun w => w / 1024 != p
  { c with wb := w.head?, wbWait := w.tail }

/-- Every codeword of a page is written with zeros and its poison bits are cleared (R255, R266). -/
def WaveMem.zeroPage (m : WaveMem) (p : Nat) : WaveMem :=
  { m.updCh (chOfPage p) fun c => c.dropPage p with
           data := Sparse.clear m.data (p * 65536) (p * 65536 + 65536),
           flips := Sparse.clear m.flips (p * 73728) (p * 73728 + 73728),
           poison := Sparse.clear m.poison (p * 1024) (p * 1024 + 1024),
           late := m.late.filter fun q => q != p }

/-- A page is given to a wipe (R255): it is WIPING, and its scrub waits its turn. A RETIRED page is released and stays RETIRED
(R268). -/
def WaveMem.toWipe (m : WaveMem) (p : Nat) : WaveMem :=
  if (m.page p).state = .retired then m.setPage p { state := .retired, hall := 8, poisoned := false } else
  let m := m.setPage p { state := .wiping, hall := 0, poisoned := false }
  m.updCh (chOfPage p) fun c => { c with jobs := (c.jobs.filter fun j => j.1 != p) ++ [(p, true)] }

/-- A page is wiped (R255): written with zeros at once, then scrubbed. -/
def WaveMem.wipe (m : WaveMem) (p : Nat) : WaveMem :=
  if (m.page p).state = .retired then m.toWipe p else (m.zeroPage p).toWipe p

/-- A page is to be wiped whose zeros are written once what still reads it has ended. -/
def WaveMem.wipeLater (m : WaveMem) (p : Nat) : WaveMem :=
  if (m.page p).state = .retired then m.toWipe p else { m.toWipe p with late := p :: m.late.filter fun q => q != p }

/-- A page is retired (R268, R269): codeword `cw` failed. -/
def WaveMem.retire (m : WaveMem) (p cw : Nat) (ev : MemEvents) : WaveMem × MemEvents :=
  let c := chOfPage p
  let (x, first) := (m.ch.get c).setErr 3 cw
  let m := { m with ch := m.ch.put c x }
  (m.setPage p { (m.page p) with state := .retired, poisoned := false },
   { ev with raise := if first then c :: ev.raise else ev.raise, retired := p :: ev.retired })

/-- A codeword holds a byte that is not zero. -/
def WaveMem.dirty (m : WaveMem) (cw : Nat) : Bool := m.data.any fun x => x.1 / 64 == cw && x.2 != 0#8

/-- The scrub of a page from codeword `i` on (R269): rewritten where correctable, failing at the first uncorrectable codeword, or
after a wipe at one that does not decode to zeros. The codeword that failed is poisoned; one poisoned already counts no more
(R267). The answer names the codeword that failed. -/
def WaveMem.scrub (wiped : Bool) (p : Nat) : List Nat → WaveMem → MemEvents → WaveMem × MemEvents × Option Nat
  | [], m, ev => (m, ev, none)
  | i :: is, m, ev =>
    let cw := p * 1024 + i
    match m.decode cw with
    | .clean =>
      if wiped && m.dirty cw then let (m, ev) := m.poisonCw cw ev; (m, ev, some cw)
      else WaveMem.scrub wiped p is m ev
    | .uncorrectable => if m.isPoison cw then (m, ev, some cw) else let (m, ev) := m.poisonCw cw ev; (m, ev, some cw)
    | .corrected _ =>
      let (m1, ev) := m.corrected cw ev
      let m1 := m1.updCh (chOfCw cw) fun c => c.dropWb cw
      let m1 := m1.rewrite cw
      if wiped && m1.dirty cw then let (m1, ev) := m1.poisonCw cw ev; (m1, ev, some cw)
      else WaveMem.scrub wiped p is m1 ev

/-- Symbol errors appear in codewords: (codeword, symbol, value). DEDUCED (assumption log 61). -/
def WaveMem.upset (m : WaveMem) (us : List (Nat × Nat × Nat)) : WaveMem :=
  us.foldl (fun m u =>
    let a := 72 * u.1 + u.2.1 % 72
    { m with flips := Sparse.put 0#8 m.flips a (Sparse.get 0#8 m.flips a ^^^ byte u.2.2) }) m

/-! ### The arbiter (R271–R274) -/

/-- The requester that a table's slot names: reserved values count as NONE. -/
def slotReq (t : Tab Word 8) (slot : Nat) : Option Nat :=
  let r := (t.get (Fin.ofNat 8 (slot / 8))).toNat / 16 ^ (slot % 8) % 16
  if r < 12 then some r else none

/-- The priority of a requester (MEMc_PRIO0, MEMc_PRIO1). -/
def MemCh.prio (c : MemCh) (r : Nat) : Nat :=
  if r < 8 then c.prio0.toNat / 16 ^ r % 16 else c.prio1.toNat / 16 ^ (r - 8) % 16

/-- The winner of a contest among the requesters present (R271); among equal priorities the lowest number while none has won a contest
yet, of which the rule says nothing. DESIGN CHOICE (assumption log 135). -/
def MemCh.contest (c : MemCh) (present : List Nat) : Option Nat :=
  let top := present.foldl (fun t r => max t (c.prio r)) 0
  let ties := present.filter fun r => c.prio r == top
  let after := match c.lastWin with
    | some w => ties.filter fun r => r > w
    | none => ties
  match after.foldl (fun (b : Option Nat) r => match b with | some x => some (min x r) | none => some r) none with
  | some r => some r
  | none => ties.foldl (fun (b : Option Nat) r => match b with | some x => some (min x r) | none => some r) none

/-- A decision of the arbiter with the requests present (R271–R274). `withdrew`: the requester granted before withdrew. -/
def MemCh.decide (c : MemCh) (present : List Nat) (withdrew : Bool) : MemCh :=
  let c := match c.granted with
    | none => c
    | some (r, reserved) =>
      if withdrew then { c with dead := satInc c.dead 1 } else
      let i := Fin.ofNat 12 r
      { c with grant := c.grant.upd i (fun w => satInc w 1), extra := if reserved then c.extra else c.extra.upd i (fun w => satInc w 1) }
  let c := if c.slot = 0 ∧ c.swapPend = true then { c with act := c.shd, swapPend := false } else c
  let c := match slotReq c.act c.slot with
    | some r =>
      if present.contains r then { c with granted := some (r, true) }
      else { c with granted := (c.contest present).map (·, false), lastWin := (c.contest present).orElse fun _ => c.lastWin }
    | none => { c with granted := (c.contest present).map (·, false), lastWin := (c.contest present).orElse fun _ => c.lastWin }
  { c with ptr := c.slot, slot := (c.slot + 1) % 64 }

/-- The default reservation table of firmware 3.4 (R276): the requester of slot 16q + r. -/
def defaultSlot (s : Nat) : Nat :=
  match s % 16 with
  | 0 => 0 | 1 => 8 | 2 => 1 | 3 => 2 | 4 => 8 | 5 => 3 | 6 => 9 | 7 => 8
  | 8 => 4 | 9 => 5 | 10 => 8 | 11 => 6 | 12 => 7 | 13 => 8 | 14 => 15
  | _ => if s / 16 = 0 then 10 else if s / 16 = 2 then 11 else 15

def defaultTable : Tab Word 8 :=
  Vector.ofFn fun (k : Fin 8) => word ((List.range 8).foldl (fun a j => a + defaultSlot (8 * k.val + j) * 16 ^ j) 0)

/-! ### Counts of pages -/

def WaveMem.inState (m : WaveMem) (s : PageState) : Nat := (m.pages.filter fun x => x.2.state == s).length
/-- FREE pages (R254): every page not listed, and those listed as FREE. -/
def WaveMem.freeCount (m : WaveMem) : Nat := 4096 - (m.pages.filter fun x => x.2.state != .free).length
/-- Pages a hall holds against its quota (R253, R268). -/
def WaveMem.used (m : WaveMem) (h : Nat) : Nat :=
  (m.pages.filter fun x => x.2.hall == h && (match x.2.state with | .free => false | .wiping => false | _ => true)).length

/-- The page is one of the hall's own, of the host's pages or any SEALED one (R256). -/
def WaveMem.isState (m : WaveMem) (p : Nat) (s : PageState) : Bool := (m.page p).state == s

/-- The `n` lowest FREE pages (R254). -/
def WaveMem.lowestFree (m : WaveMem) (n : Nat) : List Nat := ((List.range 4096).filter fun p => m.isState p .free).take n

/-- The lowest run of `n` pages all in an accepted state. -/
def findRun (ok : Nat → Bool) (n : Nat) : Option Nat :=
  ((List.range 4096).foldl (fun (x : Nat × Option Nat) p =>
    match x.2 with
    | some _ => x
    | none => if ok p then (if x.1 + 1 ≥ n then (x.1 + 1, some (p + 1 - n)) else (x.1 + 1, none)) else (0, none)) (0, none)).2

/-- What R254 gives a request for `n` pages: pages, a wait for wipes, or none. -/
inductive AllocAns where
  | take (ps : List Nat)
  | wait
  | none
  deriving DecidableEq, Repr

def WaveMem.alloc (m : WaveMem) (n : Nat) (contig : Bool) : AllocAns :=
  let freeOrWip (p : Nat) : Bool := m.isState p .free || m.isState p .wiping
  if contig then
    match findRun (fun p => m.isState p .free) n with
    | some p => .take ((List.range n).map (· + p))
    | none => if (findRun freeOrWip n).isSome then .wait else .none
  else if n ≤ m.freeCount then .take (m.lowestFree n)
  else if n ≤ m.freeCount + m.inState .wiping then .wait else .none

/-- Pages are taken by a hall in a state. A page that the hall owned keeps its poisoned flag, which only a page scrub takes away
(R268). -/
def WaveMem.claim (m : WaveMem) (ps : List Nat) (h : Nat) (st : PageState) : WaveMem :=
  ps.foldl (fun m p => m.setPage p { state := st, hall := h, poisoned := (m.page p).poisoned }) m

end Sys2Proof.Machine
end

