-- ==== Sys2Proof/Machine/TdmPort.lean ====
section
/-! DEFINITION. The TDM port's lanes (spec/10_output_chain.md R298–R301, spec/01_architecture.md R22). -/

namespace Sys2Proof.Machine

/-- A timed assignment of an output slot (R283). -/
structure SlotSet where
  time : Nat
  slot : Nat
  val  : Word
  deriving DecidableEq, Repr

/-- An engine frame of an input lane: its number, and sixteen slots of samples. -/
structure InFrame where
  frame : Nat
  vals  : List (List Int)
  deriving DecidableEq, Repr

/-- The TDM port. -/
structure Tdm where
  cfg     : Word
  err     : Word
  ufCnt   : Word
  ovfCnt  : Word
  running : Bool
  oslot   : Tab Word 64
  sets    : List SlotSet
  edge    : Int                          -- the next output frame's edge
  lanes   : Tab (List (Int × List Int)) 4 -- frames waiting: edge, the sixteen slots
  fill    : Tab Int 4
  sent    : List (List Word)             -- the last frame sent, lane by lane: its slot words
  tail    : List Bool                    -- the last bit of each lane's frame before it
  inEdge  : Int                          -- the next input frame's edge
  hist    : List (Int × List (List Int)) -- input frames received, newest first: edge, two lanes of sixteen slots
  inBuf   : Tab (List InFrame) 2
  inNext  : Nat                          -- the next engine frame to be formed
  deriving DecidableEq, Repr

def Tdm.reset : Tdm :=
  { cfg := 0#32, err := 0#32, ufCnt := 0#32, ovfCnt := 0#32, running := false, oslot := Vector.replicate 64 0#32, sets := [],
    edge := 0, lanes := Vector.replicate 4 [], fill := Vector.replicate 4 0, sent := [], tail := List.replicate 4 false, inEdge := 0, hist := [],
    inBuf := Vector.replicate 2 [], inNext := 0 }

def Tdm.setErr (d : Tdm) (n : Nat) : Tdm × Bool := ({ d with err := d.err ||| (1#32 <<< n) }, d.err == 0#32)

/-- Slots 8 to 15 do not exist above 96 kHz (R299). -/
def slots8 (fe882 : Bool) (P Q : Nat) : Bool := decide (feHz fe882 * P > 96000 * Q)

/-- The word of slot `j` that governs an edge at ET `t`. -/
def Tdm.slotAt (d : Tdm) (j t : Nat) : Word :=
  match (d.sets.filter fun x => x.slot == j && decide (x.time ≤ t)).getLast? with
  | some x => x.val
  | none => d.oslot.get (Fin.ofNat 64 j)

/-- The frame of a lane for an edge, once every channel it carries has its output there (R298, R299). -/
def Tdm.laneFrame (d : Tdm) (s8 : Bool) (outs : Nat → List (Int × Int) × Int) (t : Nat) (e : Int) (lane : Nat) :
    Option (List Int) :=
  let ws := (List.range 16).map fun s => if s8 ∧ s ≥ 8 then 0#32 else d.slotAt (16 * lane + s) t
  if ws.all fun w => decide (e ≤ (outs (if bit w 31 then bits w 5 0 else 0)).2) then
    some (ws.map fun w => if bit w 31 then (((outs (bits w 5 0)).1.find? fun o => o.1 == e).map (·.2)).getD 0 else 0)
  else none

/-- OUT fills a lane while there is room (R22). -/
def Tdm.fillLane (s8 : Bool) (outs : Nat → List (Int × Int) × Int) (et : Int → Nat) (l : Fin 4) : Nat → Tdm → Tdm
  | 0, d => d
  | n + 1, d =>
    let e := d.fill.get l
    if (d.lanes.get l).length ≥ 8 then d else
    match d.laneFrame s8 outs (et e) e l.val with
    | none => d
    | some vs =>
      Tdm.fillLane s8 outs et l n
        { d with fill := d.fill.put l (e + 1), lanes := if e < d.edge then d.lanes else d.lanes.upd l (· ++ [(e, vs)]) }

/-- The slot changes that govern edges at or before ET `t` stand in the registers. -/
def Tdm.applySets (d : Tdm) (t : Nat) : Tdm :=
  { d with oslot := (d.sets.filter fun x => decide (x.time ≤ t)).foldl (fun o x => o.put (Fin.ofNat 64 x.slot) x.val) d.oslot,
           sets := d.sets.filter fun x => decide (t < x.time) }

/-- The slot word of a sample (R298): bits 31:8, the rest zero. -/
def slotWord (y : Int) : Word := word ((wrapU 24 y).toNat * 256)

/-- The sample of a slot word: bits 7:0 are ignored (R298). -/
def slotSample (w : Word) : Int := signed 24 (bits w 31 8)

/-- FSYNC as BCLK period `k` of a frame of `n` periods finds it (R298; TDM_CFG.fs_width, fs_pol). -/
def fsyncAt (cfg : Word) (n k : Nat) : Bool :=
  let active := if bit cfg 3 then decide (k < n / 2) else decide (k = 0)
  active != bit cfg 1

/-- Lane `l`'s data in BCLK period `k` of the frame sent, most significant bit first, after the data delay of TDM_CFG.fs_delay (R298). -/
def Tdm.dataAt (d : Tdm) (l k : Nat) : Bool :=
  let go (k : Nat) : Bool := bit ((d.sent.getD l []).getD (k / 32) 0#32) (31 - k % 32)
  if bit d.cfg 2 then (if k = 0 then d.tail.getD l false else go (k - 1)) else go k

/-- BCLK's level, in the halves of a period, and the half in which data changes: data is sampled at the edge of TDM_CFG.bclk_edge,
in the middle of the period, and changes at the other one (R298). -/
def bclkAt (cfg : Word) (second : Bool) : Bool := second != bit cfg 0

/-- The frame at the next edge goes out on each lane: zeros and a counted underrun where the buffer has none (R22, R300); edges
before edge 0 carry zero. The answer names the lanes that underran. -/
def Tdm.send (d : Tdm) (s8 : Bool) (t : Nat) : Tdm × List Nat :=
  let e := d.edge
  let got := (List.range 4).map fun l => ((d.lanes.get (Fin.ofNat 4 l)).find? fun x => x.1 == e).map (·.2)
  let under := (List.range 4).filter fun l => decide (e ≥ 0) && (got.getD l none).isNone
  let frame (g : Option (List Int)) : List Word := ((g.getD (List.replicate 16 0)).map slotWord).take (if s8 then 8 else 16)
  ({ d.applySets t with sent := got.map frame, tail := (List.range 4).map fun l => ((d.sent.getD l []).getLast?.map (bit · 0)).getD false,
                        lanes := d.lanes.map fun q => q.filter fun x => decide (e < x.1),
                        edge := e + 1, ufCnt := satInc d.ufCnt under.length }, under)

/-! ### The input stage (R301) -/

/-- The edge at ET 3 × FRAME_LEN + φ + x, x in units of 2^−32 es, as a fraction, while the chain tracks: the map of the edges read the
other way round (R301). DESIGN CHOICE (assumption log 125). -/
def Track.edgeOf (P Q : Int) (t : Track) (x : Int) : Int × Int :=
  let y := x - rdiv (26 * Q * p2 32) P
  match t.legs.find? fun l => decide (l.t0 ≤ y) with
  | some l => (y - l.t0 + (l.m0 + 26) * l.est, max 1 l.est)
  | none => (x * P, Q * p2 32)

/-- The position u_n of engine sample `n` in input samples: integer part and 23 bits; `phi` in 1/512 es (R301). -/
def inPos (P Q : Nat) (trk : Option Track) (len phi : Nat) (n : Nat) : Int × Nat :=
  let num0 : Int := ((n : Int) - (2 * len + 16 + 3 * len : Nat)) * 512 - phi
  let (num, den) : Int × Int := match trk with
    | none => (num0 * P, ((512 * Q : Nat) : Int))
    | some t => t.edgeOf P Q (num0 * 8388608)
  let i := num / den
  (i, ((num - i * den) * 8388608 / den).toNat)

/-- The sample of a slot at an input edge. -/
def Tdm.inAt (d : Tdm) (s8 : Bool) (lane slot : Nat) (e : Int) : Int :=
  if s8 ∧ slot ≥ 8 then 0 else
  match d.hist.find? fun h => h.1 == e with
  | some h => (h.2.getD lane []).getD slot 0
  | none => 0

/-- Engine sample `n` of every slot of a lane, and whether a write-back saturated. -/
def Tdm.inSamples (d : Tdm) (s8 : Bool) (P Q : Nat) (trk : Option Track) (len phi lane n : Nat) : List Int × Bool :=
  let (i, th) := inPos P Q trk len phi n
  let ys := (List.range 16).map fun slot => resample false Q P (fun e => d.inAt s8 lane slot e) i th Stat.none
  (ys.map (·.1), ys.any fun y => decide (y.2.excN + y.2.satN > 0))

/-- An engine frame enters a lane's buffer; the oldest of four is overwritten (R22). -/
def pushIn (b : List InFrame) (f : InFrame) : List InFrame × Bool :=
  if b.length ≥ 4 then (b.drop 1 ++ [f], true) else (b ++ [f], false)

/-- Engine frame `inNext` of a lane, and whether a write-back saturated. -/
def Tdm.inForm (d : Tdm) (s8 : Bool) (P Q : Nat) (trk : Option Track) (len phi lane : Nat) : InFrame × Bool :=
  let cols := (List.range len).map fun j => d.inSamples s8 P Q trk len phi lane (d.inNext * len + j)
  ({ frame := d.inNext, vals := (List.range 16).map fun s => cols.map fun c => c.1.getD s 0 }, cols.any (·.2))

/-- The engine frames whose input samples are all there are formed, `k` at most. The answer names the lanes that overran, and says
whether a write-back saturated. -/
def Tdm.formIn (s8 : Bool) (P Q : Nat) (trk : Option Track) (len phi : Nat) : Nat → Tdm × List Nat × Bool → Tdm × List Nat × Bool
  | 0, r => r
  | k + 1, r =>
    let d := r.1
    if (inPos P Q trk len phi (d.inNext * len + len - 1)).1 + aheadTaps false Q P < d.inEdge then
      let f0 := d.inForm s8 P Q trk len phi 0
      let f1 := d.inForm s8 P Q trk len phi 1
      let (b0, o0) := pushIn (d.inBuf.get 0) f0.1
      let (b1, o1) := pushIn (d.inBuf.get 1) f1.1
      Tdm.formIn s8 P Q trk len phi k ({ d with inNext := d.inNext + 1, inBuf := (d.inBuf.put 0 b0).put 1 b1 },
        r.2.1 ++ (if o0 then [0] else []) ++ (if o1 then [1] else []), r.2.2 || f0.2 || f1.2)
    else r

/-- An input frame is received at the next edge; an engine frame is formed as soon as every input sample it needs is there. The
answer names the lanes that overran, and says whether a write-back saturated. DEDUCED (assumption log 51). -/
def Tdm.receive (d : Tdm) (s8 : Bool) (P Q : Nat) (trk : Option Track) (len phi : Nat) (lanes : List (List Int)) : Tdm × List Nat × Bool :=
  Tdm.formIn s8 P Q trk len phi 4 ({ d with inEdge := d.inEdge + 1, hist := ((d.inEdge, lanes) :: d.hist).take 512 }, [], false)

/-- The samples of a slot in an engine frame, none where the buffer does not hold it. DEDUCED (assumption log 51). -/
def Tdm.inFrame? (d : Tdm) (lane slot frame : Nat) : Option (List Int) :=
  ((d.inBuf.get (Fin.ofNat 2 lane)).find? fun f => f.frame == frame).map fun f => f.vals.getD slot []

end Sys2Proof.Machine
end

