-- ==== Sys2Proof/Machine/Timebase.lean ====
section
/-! DEFINITION. REFCLK, engine time, timers and trigger inputs (spec/15_timebase_timers_triggers.md R416–R432). -/

namespace Sys2Proof.Machine

/-- A timer (R421–R427). -/
structure Timer where
  ctrl   : Word
  count  : Word
  reload : Word
  cmpv   : Word
  go     : Bool          -- released
  ovf    : Bool
  cmp    : Bool
  held   : Option Word   -- the hold register
  srcNow : Nat           -- TMRn_CTRL.src, TMRn_CTRL.trig and TMRn_RELOAD as ticks have them (R423)
  trigNow : Nat
  relNow : Word
  deriving DecidableEq, Repr

def Timer.reset : Timer :=
  { ctrl := 0#32, count := 0#32, reload := 0xFFFFFFFF#32, cmpv := 0xFFFFFFFF#32, go := false, ovf := false, cmp := false, held := none,
    srcNow := 0, trigNow := 0, relNow := 0xFFFFFFFF#32 }

/-- A trigger's mapping (R386). -/
structure TrigMap where
  hall     : Nat
  edges    : Nat
  tag      : Nat
  opcode   : Nat
  offset   : Nat
  template : List Byte
  deriving DecidableEq, Repr

/-- A trigger input (R428–R431). -/
structure Trig where
  ctrl  : Word
  level : Bool
  fifo  : List Nat       -- stamps, oldest first
  ovf   : Bool
  hi    : Word           -- TRGt_TS_HI
  cap   : Word
  miss  : Word
  drop  : Word
  last  : Option Nat     -- the last accepted edge, in half REFCLK periods
  map   : Option TrigMap
  deriving DecidableEq, Repr

def Trig.reset : Trig :=
  { ctrl := 0#32, level := false, fifo := [], ovf := false, hi := 0#32, cap := 0#32, miss := 0#32, drop := 0#32, last := none,
    map := none }

/-- TIME. -/
structure TimeBlk where
  counting : Bool        -- RESET_n has been sampled high (R416)
  refclk   : Bool        -- REFCLK is present
  ok       : Bool        -- refclk_ok
  rclk     : Nat
  armed    : Bool        -- render bring-up is armed (R418)
  running  : Bool
  et       : Nat         -- engine time in 1/512 es
  late     : Bool
  bringup  : Word
  err      : Word
  lossCnt  : Word
  dbg      : Tab Bool 2  -- a debugger holds CP0, CP1
  going    : Word        -- timers released at the next edge
  hits     : Word        -- triggers that have accepted an edge since the last REFCLK edge
  tmr      : Tab Timer 16
  trg      : Tab Trig 8
  deriving DecidableEq, Repr

def TimeBlk.reset : TimeBlk :=
  { counting := false, refclk := true, ok := false, rclk := 0, armed := false, running := false, et := 0, late := false,
    bringup := 0#32, err := 0#32, lossCnt := 0#32, dbg := Vector.replicate 2 false, going := 0#32, hits := 0#32,
    tmr := Vector.replicate 16 Timer.reset, trg := Vector.replicate 8 Trig.reset }

/-- N_B (R418). -/
def bringupStep : Nat := 3686400

def TimeBlk.setErr (t : TimeBlk) (n : Nat) : TimeBlk × Bool := ({ t with err := t.err ||| (1#32 <<< n) }, t.err == 0#32)

/-- DEDUCED (assumption log 92). -/
def TimeBlk.dbgHalt (t : TimeBlk) : Bool := t.dbg.get 0 || t.dbg.get 1

/-! ### Timers -/

def Timer.src (m : Timer) : Nat := m.srcNow

/-- What has been written of a timer takes effect at a REFCLK edge (R423). -/
def Timer.settle (m : Timer) : Timer := { m with srcNow := bits m.ctrl 5 4, trigNow := bits m.ctrl 2 0, relNow := m.reload }

/-- Ticks to the next step to 0 (R422). -/
def Timer.toZero (m : Timer) : Nat :=
  let x := m.count.toNat
  let r := m.relNow.toNat
  if x ≤ r then r + 1 - x else 2 ^ 32 - x

/-- `k` ticks of a timer (R422, R425, R426): the count, the overflows, whether a step landed on TMRn_CMP. -/
def Timer.ticks (m : Timer) (k : Nat) : Timer × Nat :=
  if k = 0 then (m, 0) else
  let x := m.count.toNat
  let c := m.cmpv.toNat
  let a := m.toZero
  if k < a then ({ m with count := word (x + k), cmp := m.cmp || (decide (x < c) && decide (c ≤ x + k)) }, 0)
  else
    let l := m.relNow.toNat + 1
    let j := k - a
    ({ m with count := word (j % l), ovf := true,
              cmp := m.cmp || (decide (x < c) && decide (c < x + a)) || decide (c ≤ min j (l - 1)) }, 1 + j / l)

/-- Of `k` ticks of a timer, those that raise its source: a match or an overflow whose enable is set (R432).
DEDUCED (assumption log 90). -/
def Timer.raises (m : Timer) (k : Nat) : Nat :=
  let x := m.count.toNat
  let c := m.cmpv.toNat
  let a := m.toZero
  let l := m.relNow.toNat + 1
  let ovfs := if k < a then 0 else 1 + (k - a) / l
  let first := if x < c ∧ c ≤ x + k ∧ c < x + a then 1 else 0
  let laps := if k < a ∨ l ≤ c ∨ k - a < c then 0 else (k - a - c) / l + 1
  match bit m.ctrl 8, bit m.ctrl 9 with
  | true, true => first + (if c = 0 then ovfs else laps + ovfs)
  | true, false => first + laps
  | false, true => ovfs
  | false, false => 0

/-- A timer that takes its ticks: released, and not frozen by a debug halt (R424). DEDUCED (assumption log 90). -/
def Timer.counts (m : Timer) (halt : Bool) : Bool := m.go && !(bit m.ctrl 31 && halt)

/-- Ticks of the sources over an interval: REFCLK edges, es ticks, the triggers that have accepted an edge. -/
structure Ticks where
  ref  : Nat
  es   : Nat
  trig : Word
  deriving DecidableEq, Repr

def Ticks.of (k : Ticks) (m : Timer) (below : Nat) : Nat :=
  match m.src with
  | 0 => k.ref
  | 1 => k.es
  | 2 => if bit k.trig m.trigNow then 1 else 0
  | _ => below

/-- The timers take their ticks in ascending order, each overflow ticking a chained timer (R422, R427); the sources raised, with
how often (R432). -/
def TimeBlk.tickTimers (t : TimeBlk) (k : Ticks) : TimeBlk × List (Nat × Nat) :=
  let r := (List.finRange 16).foldl (fun (x : (Tab Timer 16 × List (Nat × Nat)) × Nat) n =>
    let m := x.1.1.get n
    if m.counts t.dbgHalt then
      let ks := k.of m x.2
      let (m', o) := m.ticks ks
      ((x.1.1.put n m', if m.raises ks = 0 then x.1.2 else x.1.2 ++ [(176 + n.val, m.raises ks)]), o)
    else (x.1, 0)) ((t.tmr, []), 0)
  ({ t with tmr := r.1.1 }, r.1.2)

/-- Es ticks that `k` REFCLK edges bring (R417). -/
def TimeBlk.esTicks (t : TimeBlk) (k : Nat) : Nat := if t.running then (t.et + 2 * k) / 512 - t.et / 512 else 0

/-- The timers that TIME_GO released start (R421): released at the edge, they take their first tick at the one after it. -/
def TimeBlk.start (t : TimeBlk) : TimeBlk :=
  if t.going = 0#32 then t else
  { t with going := 0#32, tmr := Vector.ofFn fun n => let m := t.tmr.get n; { m with go := m.go || bit t.going n.val } }

/-- The settings that the next REFCLK edge finds (R423). -/
def TimeBlk.settled (t : TimeBlk) : TimeBlk := { t with tmr := t.tmr.map Timer.settle }

/-- `k` rising REFCLK edges with no bring-up among them (R416, R417, R419), and the sources that timers raise. The first edge takes
what has been written in the period before it, and the trigger edges accepted in it (R422, R423, R425). -/
def TimeBlk.edges (t : TimeBlk) (k : Nat) : TimeBlk × List (Nat × Nat) :=
  if t.refclk = false ∨ t.counting = false ∨ k = 0 then (t, []) else
  let a := { t.settled with hits := 0#32 }.tickTimers { ref := 1, es := t.esTicks 1, trig := t.hits }
  let t1 := { a.1 with rclk := t.rclk + 1, et := if t.running then t.et + 2 else t.et }.start
  let b := t1.tickTimers { ref := k - 1, es := t1.esTicks (k - 1), trig := 0#32 }
  ({ b.1 with rclk := t1.rclk + (k - 1), et := if t1.running then t1.et + 2 * (k - 1) else t1.et }, a.2 ++ b.2)

/-- The REFCLK edge of the bring-up that is armed (R418): the first positive multiple of N_B after the count. -/
def TimeBlk.bringupEdge (t : TimeBlk) : Nat := (t.rclk / bringupStep + 1) * bringupStep

/-- REFCLK edges until timer `n` has taken `k` ticks, where time alone brings them; `fuel` bounds the chain. -/
def TimeBlk.edgesFor (t : TimeBlk) : Nat → Fin 16 → Nat → Option Nat
  | 0, _, _ => none
  | fuel + 1, n, k =>
    let m := t.tmr.get n
    if m.counts t.dbgHalt = false ∨ k = 0 then none else
    match m.src with
    | 0 => some k
    | 1 => if t.running then some (((t.et / 512 + k) * 512 - t.et + 1) / 2) else none
    | 2 => none
    | _ => if n.val = 0 then none else
        let b := t.tmr.get (Fin.ofNat 16 (n.val - 1))
        TimeBlk.edgesFor t fuel (Fin.ofNat 16 (n.val - 1)) (b.toZero + (k - 1) * (b.relNow.toNat + 1))

/-- Ticks to the next compare match (R425, R426); none where there is never one. -/
def Timer.toMatch (m : Timer) : Option Nat :=
  let x := m.count.toNat
  let c := m.cmpv.toNat
  let r := m.relNow.toNat
  if x ≤ r then (if c ≤ r then some ((c + (r + 1) - x - 1) % (r + 1) + 1) else none)
  else if x < c then some (c - x)
  else if c ≤ r then some (2 ^ 32 - x + c) else none

/-- A read of TMRk_COUNT (R427): the value, and TIME with the counts above latched. -/
def TimeBlk.readCount (t : TimeBlk) (k : Fin 16) : Word × TimeBlk :=
  let m := t.tmr.get k
  match m.held with
  | some v => (v, { t with tmr := t.tmr.put k { m with held := none } })
  | none =>
    let r := (List.finRange 16).foldl (fun (x : Tab Timer 16 × Bool) n =>
      if n.val ≤ k.val ∨ x.2 = false then x else
      let u := x.1.get n
      if u.src = 3 then (x.1.put n { u with held := some u.count }, true) else (x.1, false)) (t.tmr, true)
    (m.count, { t with tmr := r.1 })

/-! ### Triggers -/

/-- REFCLK in Hz. -/
def refHz (fe882 : Bool) : Nat := if fe882 then 22579200 else 24576000

/-- An edge lies in the 1 µs dead time of the one accepted before it (R428). DEDUCED (assumption log 91). -/
def Trig.dead (g : Trig) (fe882 : Bool) (now : Nat) : Bool :=
  match g.last with
  | some l => decide ((now - l) * 1000000 < 2 * refHz fe882)
  | none => false

/-- The new level holds long enough, for `ns` nanoseconds (R428, R502): 50 ns with a filter of 0. -/
def Trig.holds (g : Trig) (fe882 : Bool) (ns : Nat) : Bool :=
  if bits g.ctrl 7 0 = 0 then decide (50 ≤ ns) else decide (bits g.ctrl 7 0 * 1000000000 ≤ ns * refHz fe882)

/-- The polarity is selected (TRGt_CTRL.edge). DEDUCED (assumption log 91). -/
def Trig.selects (g : Trig) (rising : Bool) : Bool :=
  match bits g.ctrl 9 8 with
  | 1 => rising
  | 2 => !rising
  | 3 => true
  | _ => false

/-- A stamp enters the FIFO, or finds it full (R430). -/
def Trig.push (g : Trig) (stamp : Nat) : Trig × Bool :=
  if g.fifo.length ≥ 4 then ({ g with ovf := true }, true) else ({ g with fifo := g.fifo ++ [stamp] }, false)

/-- A read of TRGt_TS_LO (R430). -/
def Trig.readLo (g : Trig) : Word × Trig :=
  match g.fifo with
  | [] => (0#32, { g with hi := 0#32 })
  | s :: ss => (word s, { g with fifo := ss, hi := 0x80000000#32 ||| word (s / 2 ^ 32 % 2 ^ 25) })

end Sys2Proof.Machine
end

