-- ==== Sys2Proof/Machine/State.lean ====
section
/-! DEFINITION. The state of the block: everything the spec gives the device, the queue of commands that wait, and the counter
of free values. The parts are defined beside the operations on them; here are those that belong to no single unit. -/

namespace Sys2Proof.Machine

/-- Why a step can stop with a fault. The spec gives every error of the device an effect on its state, so the model has no
fault. -/
inductive Fault where
  deriving DecidableEq, Repr

/-- Why a step can stop with a refusal. DESIGN CHOICE (assumption log 10). -/
inductive Refusal where
  /-- No meaning yet. Raised by an arm of `exec`. Safe: nothing is claimed of the command. -/
  | notModelled (mnemonic : String)
  /-- The command is not one of the block: an operand lies outside what its row admits (`Instr.wf`). Raised by the meanings of
  the rows with such operands. Safe: no device receives such a command. -/
  | illFormed
  deriving DecidableEq, Repr

/-- SYS (R33, R39–R42). -/
structure Sys where
  err     : Word
  errAddr : Word
  scratch : Word
  fwVer   : Word
  rvAvail : Word
  feSel   : Bool
  deriving DecidableEq, Repr

def Sys.reset : Sys := { err := 0#32, errAddr := 0#32, scratch := 0#32, fwVer := 0#32, rvAvail := 0#32, feSel := false }

/-- SCHED (R43–R79, R193–R223). -/
structure Sched where
  cfg       : Word
  cfgSet    : Bool            -- SCHED_CFG has been written (RWO)
  meas      : Word
  guar      : Word
  lateCnt   : Word
  lateLast  : Word
  underrun  : Word
  mb        : Tab Nat 8
  measured  : Bool            -- measured admission is in force (R71)
  measOff   : Bool            -- meas_en was cleared; admission returns to CB at the next frame boundary
  nextClose : Nat             -- the frame whose event list closes next
  nextBound : Nat             -- the frame whose boundary comes next
  wait      : Bool            -- placement waits for a frame (R199)
  migAt     : Option Nat      -- the frame M of the last migration decided
  migCnt    : Word
  nextMb    : Nat             -- the frame at whose start MB_g is recomputed next (R69)
  seq       : Nat             -- events that have arrived, in order
  mapped    : List Mapped     -- events of trigger mapping on their way, in the order in which they arrive (R431)
  deriving DecidableEq, Repr

def Sched.reset : Sched :=
  { cfg := 0#32, cfgSet := false, meas := 0x0000E600#32, guar := 0#32, lateCnt := 0#32, lateLast := 0#32, underrun := 0#32,
    mb := Vector.replicate 8 0, measured := false, measOff := false, nextClose := 0, nextBound := 0, wait := false,
    migAt := none, migCnt := 0#32, nextMb := 0, seq := 0, mapped := [] }

/-- A gallery. -/
structure Gallery where
  fenced  : Bool
  fenceReq : Option Nat       -- a fence waiting for its frame boundary, with its cause (R483)
  parked  : Bool
  parkReq : Bool              -- remapped away, to be powered down
  recent  : List (Nat × Nat)  -- the engines fenced within the last second, and the ETs (R483)
  paces   : List (Nat × Nat)  -- the readings of its pace monitor, with the ETs, as far as a window of 64 frames needs them (R69)
  idle    : Option Nat        -- the REFCLK edge since which it carries no hall engine (R476)
  deriving DecidableEq, Repr

def Gallery.reset : Gallery :=
  { fenced := false, fenceReq := none, parked := false, parkReq := false, recent := [], paces := [], idle := none }

/-- A voice engine. -/
structure Engine where
  fenced   : Bool
  fenceReq : Option Nat       -- a fence waiting for its frame boundary, with its cause (R483)
  selftest : Bool
  next     : Nat              -- the next frame it renders
  done     : Word             -- GALg_ENGe_STAT
  arith    : Word
  excCnt   : Word
  satCnt   : Word
  dlyCnt   : Word
  deriving DecidableEq, Repr

def Engine.reset : Engine :=
  { fenced := false, fenceReq := none, selftest := false, next := 0, done := 0#32, arith := 0#32, excCnt := 0#32, satCnt := 0#32,
    dlyCnt := 0#32 }

/-- The send terms of a voice over a frame that an engine has rendered: engine samples and terms (R161, R279). -/
structure MezRec where
  frame   : Nat
  hall    : Nat
  num     : Nat
  eng     : Nat
  sends   : List SendDef
  samples : List (Nat × List Int)
  deriving DecidableEq, Repr

/-- A tail (R208): the first sample it covers and the terms it continues. -/
structure Tail where
  start : Nat
  hall  : Nat
  num   : Nat
  sends : List SendDef
  terms : List Int
  closed : Option (Stepped (BitVec 64)) -- its hall has closed since: the write mask that the hall had then
  deriving DecidableEq, Repr

/-- A TDM input route: IN_ROUTEk_CFG and IN_ROUTEk_LVL (R280). -/
structure InRoute where
  cfg : Word
  lvl : Word
  deriving DecidableEq, Repr

/-- A frame in the landing buffer: its number, the samples of each bus; none where it is not complete. -/
structure Landed where
  frame : Nat
  buses : List (List Int)
  deriving DecidableEq, Repr

/-- The Mezzanine and the landing buffer (R279–R281). -/
structure Mez where
  recs    : List MezRec
  tails   : List Tail
  routes  : Tab (Stepped InRoute) 32
  rets    : Tab (Stepped (Word × Word)) 8 -- return levels, first and second
  next    : Nat                         -- the next frame to complete
  landing : List Landed
  satCnt  : Word
  deriving DecidableEq, Repr

def Mez.reset : Mez :=
  { recs := [], tails := [], routes := Vector.replicate 32 [], rets := Vector.replicate 8 [], next := 0, landing := [],
    satCnt := 0#32 }

/-- The output chain's common part (R282–R304). -/
structure Out where
  cfg     : Word
  err     : Word
  relock  : Word
  p       : Nat
  q       : Nat
  track   : Bool                        -- tracking mode configured
  master  : Bool
  locked  : Bool
  wclkOk  : Bool
  first   : Bool                        -- the first lock has been acquired
  phi     : Nat                         -- in 1/512 es
  trk     : Option Track
  next    : Nat                         -- the next frame that OUT takes
  ch      : Tab OutCh 64
  deriving DecidableEq, Repr

def Out.reset : Out :=
  { cfg := 0#32, err := 0#32, relock := 0#32, p := 1, q := 1, track := false, master := true, locked := false, wclkOk := false,
    first := false, phi := 0, trk := none, next := 0, ch := Vector.replicate 64 OutCh.reset }

/-- The Foyer: both ports, its SRAM, the supervisor's port (R26). -/
structure Foyer where
  port : Tab Port 2
  sram : Memory
  sup  : Option (Fin 2)
  last : Fin 8                     -- the hall that CP0 served last (R363)
  taking : Option (Fin 8 × Nat)    -- the hall whose command CP0 carries out, and the entries reserved for its completion (R346)
  deriving DecidableEq, Repr

/-- DESIGN CHOICE (assumption log 8, 116). -/
def Foyer.reset : Foyer := { port := Vector.replicate 2 Port.reset, sram := [], sup := none, last := 7, taking := none }

/-- The register bus: the holding registers of 64-bit pairs, by the address of the _LO word (R11, R12), and the data of the
last read (R8). -/
structure BusSt where
  rdHold : List (Nat × Word)
  wrHold : List (Nat × Word)
  data   : Word
  deriving DecidableEq, Repr

def BusSt.reset : BusSt := { rdHold := [], wrHold := [], data := 0#32 }

/-- The state of the block. -/
structure State where
  nv      : Nv
  sys     : Sys
  time    : TimeBlk
  sched   : Sched
  halls   : Tab Hall 8
  gal     : Tab Gallery 8
  eng     : Tab Engine 64
  voices  : List Voice
  mez     : Mez
  out     : Out
  tdm     : Tdm
  dac     : Dac
  spec    : Spec
  mem     : WaveMem
  foyer   : Foyer
  ser     : Tab Ser 4
  irqf    : Irqf
  pwr     : Pwr
  fence   : FenceBlk
  mgmt    : Mgmt
  bus     : BusSt
  pins    : Pins
  pending : List Instr
  fresh   : Nat
  deriving DecidableEq, Repr

/-- The configuration record of a unit at the first power-on. DESIGN CHOICE (assumption log 4). -/
def CfgRec.initial : CfgRec :=
  { frame16 := false, fe882 := false, fo := .r48000, track := false, tdm := 0x80000000#32, supPort := none, rv := 1, nHe := 8,
    hb := 196608, hs := 32, hd := 65536, quota := 1024, mask := BitVec.allOnes 64, ringLen := 64, kaMs := 0, modCount := 1,
    modTime := 0, autoRestart := false, anaUnused := false, galOn := 255, roles := [], ranges := [], consolePar := 0 }

/-- A copy of the calibration record of the unit. DESIGN CHOICE (assumption log 5). -/
def CalCopy.initial : CalCopy :=
  { intact := true, uid := 0x5442204800000001, ver := 1, pace96 := List.replicate 10 900, pace882 := List.replicate 10 980,
    trims := List.replicate 16 (List.replicate 63 0) }

/-- What flash and fuses hold at the first power-on. DESIGN CHOICE (assumption log 3, 5, 6). -/
def Nv.initial : Nv :=
  { a16 := true, uid := 0x5442204800000001, cfg := CfgRec.initial, cal := Vector.replicate 2 CalCopy.initial,
    sectors := Vector.ofFn fun (k : Fin 224) => { place := k.val, written := 0, read := 0 },
    spares := (List.range 32).map (· + 224), powered := 0, slots := #v[FwSlot.shipped, FwSlot.written []], committed := 0,
    trial := none, fails := 0, selected := none, fuses := 0, life := .field, keys := Tab.put (Vector.replicate 8 KeyEnt.none) 0 KeyEnt.library,
    serviceKey := true,
    retired := [], logNext := 0, boots := 0, flashLog := [], logPos := 0 }

/-- The device right after reset, its flash and fuses `nv`, the causes and count of PWR_RST_CAUSE and PWR_RST_CNT given: every
block as its register map has it. -/
def State.fromReset (nv : Nv) (cause cnt : Word) : State :=
  { nv := nv, sys := Sys.reset, time := TimeBlk.reset, sched := Sched.reset, halls := Vector.replicate 8 Hall.reset,
    gal := Vector.replicate 8 Gallery.reset, eng := Vector.replicate 64 Engine.reset, voices := [], mez := Mez.reset,
    out := Out.reset, tdm := Tdm.reset, dac := Dac.reset, spec := Spec.reset, mem := WaveMem.reset, foyer := Foyer.reset,
    ser := Vector.replicate 4 Ser.reset, irqf := Irqf.reset, pwr := Pwr.reset cause cnt, fence := FenceBlk.reset,
    mgmt := Mgmt.reset, bus := BusSt.reset, pins := Pins.reset, pending := [], fresh := 0 }

/-- The block right after its first power-on (R478, R480): the power-on cause is recorded, RESET_n is low.
DESIGN CHOICE (assumption log 2). -/
def State.reset : State := State.fromReset Nv.initial 0x00000001#32 0#32

end Sys2Proof.Machine
end

