-- ==== Sys2Proof/Machine/Flags.lean ====
section
/-! DEFINITION. Sticky flags: how a register with access code W1C is written, how its bits are set, and which interrupt source
their first setting raises (spec/00_scope.md R9, R10; R42, R79, R145, R278, R304, R322, R353, R415, R432). -/

namespace Sys2Proof.Machine

/-- A write to a W1C register (R9). -/
def w1c (w v : Word) : Word := w &&& ~~~ v

/-- Bit `n` set. -/
def setFlag (w : Word) (n : Nat) : Word := w ||| (1#32 <<< n)

/-- A bit of a word replaced. -/
def putFlag (w : Word) (n : Nat) (b : Bool) : Word := if b then setFlag w n else w &&& ~~~ (1#32 <<< n)

/-- A source of the interrupt fabric is raised (R433). -/
def State.raise (s : State) (n : Nat) : State := { s with irqf := s.irqf.raise n }

/-- A source is raised where a condition holds. -/
def State.raiseIf (s : State) (b : Bool) (n : Nat) : State := if b then s.raise n else s

/-- A SYS_ERR bit is set, the address captured and source 0 raised where the register was all zero (R42). -/
def State.sysErr (s : State) (n : Nat) (addr : Word) : State :=
  let first := s.sys.err == 0#32
  let s := { s with sys := { s.sys with err := setFlag s.sys.err n, errAddr := if first then addr else s.sys.errAddr } }
  s.raiseIf first 0

/-- A TIME_ERR bit is set (R432). -/
def State.timeErr (s : State) (n : Nat) : State :=
  let x := s.time.setErr n
  { s with time := x.1 }.raiseIf x.2 200

/-- A SCHED_GUAR bit is set (R78); the first raises source 3. -/
def State.guar (s : State) (n : Nat) : State :=
  { s with sched := { s.sched with guar := setFlag s.sched.guar n } }.raiseIf (s.sched.guar == 0#32) 3

/-- A DAC_ERR bit is set (R322). -/
def State.dacErr (s : State) (n : Nat) : State :=
  let x := s.dac.setErr n
  { s with dac := x.1 }.raiseIf x.2 130

/-- A TDM_ERR bit is set (R304). -/
def State.tdmErr (s : State) (n : Nat) : State :=
  let x := s.tdm.setErr n
  { s with tdm := x.1 }.raiseIf x.2 129

/-- An OUT_ERR bit is set (R304). -/
def State.outErr (s : State) (n : Nat) : State :=
  { s with out := { s.out with err := setFlag s.out.err n } }.raiseIf (s.out.err == 0#32) 128

/-- A SPEC_ERR bit is set (R250). -/
def State.specErr (s : State) (n : Nat) : State :=
  let x := s.spec.setErr n
  { s with spec := x.1 }.raiseIf x.2 96

/-- A PWR_ERR bit is set. -/
def State.pwrErr (s : State) (n : Nat) : State := { s with pwr := { s.pwr with err := setFlag s.pwr.err n } }

/-- Bits of an HPp_ERR are set (R353). -/
def State.portErr (s : State) (p : Fin 2) (n : Nat) : State :=
  let q := s.foyer.port.get p
  { s with foyer := { s.foyer with port := s.foyer.port.put p { q with err := setFlag q.err n } } }.raiseIf (q.err == 0#32) (1 + p.val)

/-- Bits of an SERn_ERR are set (R415). -/
def State.serErr (s : State) (n : Fin 4) (mask : Nat) : State :=
  let x := (s.ser.get n).setErr mask
  { s with ser := s.ser.put n x.1 }.raiseIf x.2 (160 + 2 * n.val)

/-- What the reads of memory have brought about reaches the fabric (R278). -/
def State.memRaise (s : State) (e : MemEvents) : State := { s with irqf := s.irqf.raiseAll (e.raise.map fun c => 112 + c.val) }

end Sys2Proof.Machine
end

