-- ==== Sys2Proof/Machine/Ops.lean ====
section
/-! DEFINITION. The named operations over the state that every unit shares: engine time and frames (R43–R51), the log (R454,
R455), fences (R482), bytes of the Foyer SRAM, updates of the tables. -/

namespace Sys2Proof.Machine

/-! ### Updates of the tables -/

def State.updHall (s : State) (h : Fin 8) (f : Hall → Hall) : State := { s with halls := s.halls.upd h f }
def State.updRing (s : State) (h : Fin 8) (f : Ring → Ring) : State := s.updHall h fun x => { x with ring := f x.ring }
def State.updPort (s : State) (p : Fin 2) (f : Port → Port) : State := { s with foyer := { s.foyer with port := s.foyer.port.upd p f } }
def State.updSer (s : State) (n : Fin 4) (f : Ser → Ser) : State := { s with ser := s.ser.upd n f }
def State.updEng (s : State) (e : Fin 64) (f : Engine → Engine) : State := { s with eng := s.eng.upd e f }
def State.updGal (s : State) (g : Fin 8) (f : Gallery → Gallery) : State := { s with gal := s.gal.upd g f }
def State.updOut (s : State) (n : Fin 64) (f : OutCh → OutCh) : State := { s with out := { s.out with ch := s.out.ch.upd n f } }
def State.updDac (s : State) (n : Fin 16) (f : DacCh → DacCh) : State := { s with dac := { s.dac with ch := s.dac.ch.upd n f } }
def State.updSpec (s : State) (k : Fin 8) (f : SpecCh → SpecCh) : State := { s with spec := { s.spec with ch := s.spec.ch.upd k f } }
def State.updAn (s : State) (a : Fin 2) (f : Analyser → Analyser) : State := { s with spec := { s.spec with an := s.spec.an.upd a f } }
def State.updDom (s : State) (d : Fin 16) (f : Domain → Domain) : State := { s with pwr := { s.pwr with dom := s.pwr.dom.upd d f } }
def State.updTmr (s : State) (n : Fin 16) (f : Timer → Timer) : State := { s with time := { s.time with tmr := s.time.tmr.upd n f } }
def State.updTrg (s : State) (t : Fin 8) (f : Trig → Trig) : State := { s with time := { s.time with trg := s.time.trg.upd t f } }
def State.updMgmt (s : State) (f : Mgmt → Mgmt) : State := { s with mgmt := f s.mgmt }
def State.updNv (s : State) (f : Nv → Nv) : State := { s with nv := f s.nv }

/-- Hall `n`, as an index. -/
def hallIx (n : Nat) : Fin 8 := Fin.ofNat 8 n
def State.hall (s : State) (n : Nat) : Hall := s.halls.get (hallIx n)
def State.port (s : State) (p : Fin 2) : Port := s.foyer.port.get p

/-- Target `t` can be woken, as the processors stand (R446). -/
def State.canWake (s : State) (t : Fin 3) : Bool :=
  Machine.canWake (s.time.dbg.get 0 && decide (t.val = 0) || s.time.dbg.get 1 && decide (t.val = 1)) s.mgmt.stopped t

/-- Bank `b`'s VDDIO is there: its outputs are driven and its inputs seen (R496). -/
def State.bankOn (s : State) (b : Bank) : Bool := s.pins.bank b

/-- An instruction comes to the JTAG port (R503). -/
def State.tapInstr (s : State) (i : TapInstr) : State := { s with pins := { s.pins with tap := i.acts s.nv.life } }

/-! ### Engine time and frames -/

/-- FRAME_LEN in engine samples (R47). -/
def State.fl (s : State) : Nat := if bit s.sched.cfg 0 then 16 else 32

/-- start(F) in 1/512 es. -/
def State.start (s : State) (f : Nat) : Nat := f * s.fl * 512

/-- The frame that a time lies in. -/
def State.frameOf (s : State) (t : Nat) : Nat := t / (s.fl * 512)

/-- Fe is 88.2 kHz (SYS_RATE.fe_sel). -/
def State.fe882 (s : State) : Bool := s.sys.feSel

/-- LEAD in 1/512 es: 2 frames plus 64 µs rounded up (R51). -/
def State.lead (s : State) : Nat := 2 * s.fl * 512 + (64 * feHz s.fe882 * 512 + 999999) / 1000000

/-- CB (R66). -/
def State.cb (s : State) : Nat := 6144 * s.fl

/-- The first unrendered sample as an event-time word (R50): the first of the earliest frame whose list is open. -/
def State.openAt (s : State) : Nat := (s.time.et / (s.fl * 512) + 2) * s.fl * 512

/-- The earliest frame whose event list has not closed (R49, R215). -/
def State.openFrame (s : State) : Nat := s.time.et / (s.fl * 512) + 2

/-- The frame whose boundary comes next (R18): frame 0 before bring-up. -/
def State.nextFrame (s : State) : Nat := if s.time.running then s.time.et / (s.fl * 512) + 1 else 0

/-- A voice's cost per frame (R65). -/
def State.frameCost (s : State) (p : Prog) : Nat := p.cost * s.fl

/-- REFCLK is the 22.5792 MHz of a unit at 88.2 kHz, before SYS_RATE shows the rate too (R416, R418). -/
def State.ref882 (s : State) : Bool := s.nv.cfg.fe882

/-- REFCLK edges in `us` microseconds, rounded up. -/
def State.edgesUs (s : State) (us : Nat) : Nat := (us * refHz s.ref882 + 999999) / 1000000

/-- An event-time word as the low and the high word of its registers (R44). -/
def loWord (t : Nat) : Word := word t
def hiWord (t : Nat) : Word := word (t / 2 ^ 32)

/-- Seconds of powered time (R457). -/
def State.poweredS (s : State) : Nat := s.nv.powered + s.time.rclk / refHz s.ref882

/-- Sectors of the flash from `a` to below `b` are written (R457). -/
def State.flashWrote (s : State) (a b : Nat) : State :=
  let now := s.poweredS
  s.updNv fun v => { v with sectors := Vector.ofFn fun k =>
    if a ≤ k.val ∧ k.val < b then { v.sectors.get k with written := now } else v.sectors.get k }

/-- One sector is written (R457). -/
def Nv.wrote (v : Nv) (k : Fin 224) (now : Nat) : Nv := { v with sectors := v.sectors.upd k fun x => { x with written := now } }

/-- The sectors of the records (Flash regions) and the first of the slots and of the log. DESIGN CHOICE (assumption log 104). -/
def sectorBoot : Fin 224 := 0
def sectorRetired : Fin 224 := 4
def sectorKeys : Fin 224 := 5
def sectorSlot (n : Fin 2) : Nat := 16 + 96 * n.val
def sectorLog : Nat := 208

/-- A record in sector `k` of the flash is written (R457). -/
def State.updRec (s : State) (k : Fin 224) (f : Nv → Nv) : State := s.updNv fun v => (f v).wrote k s.poweredS

/-! ### The log -/

/-- DESIGN CHOICE (assumption log 17). -/
def logClassOf : Nat → LogClass
  | 0 => .info | 1 => .warn | _ => .crit

def LogClass.code : LogClass → Nat
  | .info => 0 | .warn => 1 | .crit => 2

/-- The last `n` entries of a list. -/
def keepLast {α : Type} (n : Nat) : List α → List α
  | [] => []
  | x :: xs => if xs.length < n then x :: xs else keepLast n xs

/-- An entry takes its number; it enters the volatile buffer (R454). -/
def State.logVolatile (s : State) (e : LogEnt) : State :=
  { s with nv := { s.nv with logNext := (s.nv.logNext + 1) % 2 ^ 32 },
           mgmt := { s.mgmt with volLog := keepLast 128 (s.mgmt.volLog ++ [e]) } }

/-- An entry goes to the flash log, a ring of 32,768 entries, 2,048 to a sector (R454, R457). -/
def State.logFlash (s : State) (e : LogEnt) : State :=
  let v := { s.nv with flashLog := keepLast 32768 (s.nv.flashLog ++ [e]), logPos := (s.nv.logPos + 1) % 32768 }
  { s with nv := v.wrote (Fin.ofNat 224 (sectorLog + s.nv.logPos / 2048)) s.poweredS }

/-- Microseconds since reset: TIME counts them in REFCLK edges. DESIGN CHOICE (assumption log 17). -/
def State.micros (s : State) : Nat := s.time.rclk * 1000000 / refHz s.ref882

/-- The time an entry carries (R454). -/
def State.logTime (s : State) : Nat := if s.time.running then s.time.et else 2 ^ 63 + s.micros % 2 ^ 63

def State.logEnt (s : State) (code : Nat) (cls : LogClass) (hall : Option Nat) (data : List Byte) : LogEnt :=
  { num := s.nv.logNext, boot := s.nv.boots, time := s.logTime, code := code, cls := cls, hall := hall, data := data.take 12 }

/-- An entry of class `cls` is written by the rule of the bucket (R455). -/
def State.logAs (s : State) (cls : LogClass) (code : Nat) (hall : Option Nat) (data : List Byte) : State :=
  let pass := decide (cls = .crit) || decide (s.mgmt.tokens > 0)
  if pass = false then
    { s.logVolatile (s.logEnt code cls hall data) with mgmt := { (s.logVolatile (s.logEnt code cls hall data)).mgmt with
        withheld := s.mgmt.withheld + 1 } }
  else
    let s := if s.mgmt.withheld = 0 then s else
      let e := s.logEnt 0x0103 .warn none (leBytes 4 s.mgmt.withheld)
      { (s.logVolatile e).logFlash e with mgmt := { (s.logVolatile e).mgmt with withheld := 0 } }
    let e := s.logEnt code cls hall data
    let s := (s.logVolatile e).logFlash e
    { s with mgmt := { s.mgmt with tokens := s.mgmt.tokens - 1 } }

/-- An entry of the class that its code has. -/
def State.log (s : State) (code : Nat) (hall : Option Nat) (data : List Byte) : State :=
  s.logAs (logClassOf (Config.logClass code)) code hall data

/-- The 32 bytes of an entry (R454). -/
def LogEnt.bytes (e : LogEnt) : List Byte :=
  leBytes 4 e.num ++ leBytes 4 e.boot ++ leBytes 8 e.time ++ leBytes 2 e.code ++ [byte e.cls.code, byte (e.hall.getD 255)] ++
    e.data ++ List.replicate (12 - e.data.length) 0#8

/-! ### Fences -/

/-- The hall that a fence's log entries concern (R454): the hall fenced, a voice's, a page's owner. -/
def fenceHallOf (kind index halls : Nat) : Option Nat :=
  if kind = 3 then some index
  else if kind = 0 ∨ kind = 6 then (List.range 8).find? fun h => halls == 2 ^ h
  else none

/-- A fence is recorded (R482): the record, source 4, log entry 0x0501. -/
def State.fenceAdd (s : State) (kind cause index halls : Nat) : State :=
  ({ s with fence := s.fence.add kind cause index halls }.raise 4).log 0x0501 (fenceHallOf kind index halls)
    ([byte kind] ++ leBytes 2 index ++ [byte cause])

/-- A fence is lifted (R482): the record, log entry 0x0502. -/
def State.fenceLift (s : State) (kind index : Nat) : State :=
  match s.fence.standing? kind index with
  | none => s
  | some r => { s with fence := s.fence.lift kind index }.log 0x0502 (fenceHallOf kind index r.halls)
      ([byte kind] ++ leBytes 2 index ++ [byte r.cause])

/-! ### The Foyer SRAM -/

def State.sramRead (s : State) (a n : Nat) : List Byte := s.foyer.sram.readList a n
def State.sramWrite (s : State) (a : Nat) (bs : List Byte) : State :=
  { s with foyer := { s.foyer with sram := s.foyer.sram.writeList a bs } }

/-- A word of 32 bits at an address of a byte memory (R7). -/
def Memory.word32 (m : Memory) (a : Nat) : Word := word (leNat (m.readList a 4))

/-! ### The serial lines -/

/-- The present on the serial lines: 1/64 of half a REFCLK period, of which a bit lasts SERn_BAUD.div (R390); `half` says that it lies
in the second half of the REFCLK period (R45). -/
def State.line64 (s : State) (half : Bool) : Nat := 64 * (2 * s.time.rclk + if half then 1 else 0)

/-! ### The register bus -/

/-- The data of a read. -/
def State.answer (s : State) (v : Word) : State := { s with bus := { s.bus with data := v } }

end Sys2Proof.Machine
end

