-- ==== Sys2Proof/Machine/Place.lean ====
section
/-! DEFINITION. Hall engines on physical engines: first fit, capacity, committed resources (spec/07_voice_allocation_and_capacity.md
R193–R203, R207, R215–R221). -/

namespace Sys2Proof.Machine

/-- The gallery of a physical engine (R194). -/
def galOf (e : Nat) : Fin 8 := Fin.ofNat 8 (e / 8)
def engIx (e : Nat) : Fin 64 := Fin.ofNat 64 e

/-- A physical engine takes hall engines: unparked, unfenced, with no fence waiting or self-test running (R195). -/
def State.usable (s : State) (e : Nat) : Bool :=
  let g := s.gal.get (galOf e)
  let x := s.eng.get (engIx e)
  !(g.fenced || g.parked || g.parkReq || g.fenceReq.isSome || x.fenced || x.fenceReq.isSome || x.selftest)
    && s.pwr.is (pdGal (galOf e)) .on

/-- The hall engines mapped to physical engine `e`. -/
def mappedOn (halls : Tab Hall 8) (e : Nat) : List HallEng :=
  halls.toList.flatMap fun h => h.engs.filter fun x => x.now == some e

def sumOf {α : Type} (f : α → Nat) (xs : List α) : Nat := xs.foldl (fun a x => a + f x) 0

/-- Room on a physical engine for one more hall engine (R194). DEDUCED (assumption log 36). -/
def fitsOn (cb : Nat) (halls : Tab Hall 8) (hb hs hd e : Nat) : Bool :=
  let xs := mappedOn halls e
  decide (sumOf (·.hb) xs + hb ≤ cb) && decide (sumOf (·.hs) xs + hs ≤ 32) && decide (sumOf (·.hd) xs + hd ≤ 65536)

/-- The lowest-numbered physical engine with room, among those that `ok` allows (R195). -/
def firstFit (cb : Nat) (halls : Tab Hall 8) (ok : Nat → Bool) (hb hs hd : Nat) : Option Nat :=
  (List.range 64).find? fun e => ok e && fitsOn cb halls hb hs hd e

/-- A hall engine is put onto a physical engine from frame `f` on. -/
def putEng (h : Hall) (he : Nat) (f : Nat) (e : Option Nat) : Hall :=
  { h with engs := h.engs.map fun x => if x.he = he then { x with phys := Stepped.set x.phys f e } else x }

/-- A hall engine takes its place among those of a hall, in ascending order. -/
def insEng (x : HallEng) (es : List HallEng) : List HallEng :=
  (es.filter fun y => decide (y.he < x.he)) ++ x :: es.filter fun y => decide (x.he < y.he)

/-- Hall engines `lo … hi − 1` of a hall are added and mapped from frame `f` on (R195); none where one finds no room (R196). -/
def addEngs (cb : Nat) (ok : Nat → Bool) (hall : Fin 8) (f : Nat) : List Nat → Tab Hall 8 → Option (Tab Hall 8)
  | [], hs => some hs
  | he :: rest, hs =>
    let h := hs.get hall
    match firstFit cb hs ok h.hb h.hs h.hd with
    | none => none
    | some e =>
      let was := ((h.engs.find? fun y => y.he == he).map HallEng.phys).getD []
      let x : HallEng :=
        { he := he, phys := Stepped.set was f (some e), hb := h.hb, hs := h.hs, hd := h.hd, drain := false, left := false, again := false }
      addEngs cb ok hall f rest (hs.put hall { h with engs := insEng x h.engs })

/-- The frame from which a hall engine's last mapping governs. -/
def HallEng.since (x : HallEng) : Nat := (x.phys.head?.map (·.1)).getD 0

/-- Physical engine `e`, which renders frame `next` next, is the source of a migration whose copy is not complete: the hall engine's
voices are still to be rendered by it before the frame M of the migration, or that frame has not come (`bound` comes next) (R215, R485). -/
def HallEng.leaves (e next bound : Nat) (x : HallEng) : Bool :=
  decide (x.now ≠ some e) && decide (0 < x.since) && x.at (x.since - 1) == some e && (decide (next < x.since) || decide (bound ≤ x.since))

/-- A hall engine is, or at frame `f` still is, on a physical engine for which `gone` holds, or a fence has struck its migration. -/
def HallEng.lostAt (gone : Nat → Bool) (f : Nat) (x : HallEng) : Bool := x.again || x.now.any gone || (x.at f).any gone

/-- The frame from which a hall engine that is lost is mapped afresh at the boundary of frame `f`: where only the target of a migration
is fenced, its source renders on up to the frame of the migration (R215, R485). -/
def HallEng.lostFrom (gone : Nat → Bool) (f : Nat) (x : HallEng) : Nat := if x.again || (x.at f).any gone then f else max f x.since

/-- Hall engines that leave physical engines for which `gone` holds are mapped afresh at frame `f`, halls and hall engines in
ascending order; one that finds no room becomes dark (R220, R221, R485). -/
def remapFrom (cb : Nat) (ok gone : Nat → Bool) (f : Nat) (hs : Tab Hall 8) : Tab Hall 8 :=
  let drop (x : HallEng) : HallEng :=
    if x.lostAt gone f then { x with phys := Stepped.set x.phys (x.lostFrom gone f) none, again := false } else x
  let off := hs.map fun h => { h with engs := h.engs.map drop }
  (List.finRange 8).foldl (fun (hs : Tab Hall 8) n =>
    ((hs.get n).engs.filter fun x => (hs.get n).alive && x.dark).foldl (fun (hs : Tab Hall 8) x =>
      match firstFit cb hs ok x.hb x.hs x.hd with
      | some e => hs.upd n fun h => putEng h x.he (max f x.since) (some e)
      | none => hs) hs) off

/-- Every hall engine found a place. -/
def noneDark (hs : Tab Hall 8) : Bool := hs.toList.all fun h => !h.alive || h.engs.all fun x => !x.dark

/-! ### Frames of the engines -/

/-- A hall engine is mapped to physical engine `e` for frame `f`. DEDUCED (assumption log 36). -/
def State.carries (s : State) (e f : Nat) : Bool := s.halls.toList.any fun h => h.engs.any fun x => x.at f == some e

/-- The frames from which a mapping of a hall engine governs. -/
def State.mapFrames (s : State) : List Nat := s.halls.toList.flatMap fun h => h.engs.flatMap fun x => x.phys.map (·.1)

/-- The next frame that an engine has to render: from its counter on, the first for which it carries a hall engine.
DEDUCED (assumption log 34). -/
def State.engFrame (s : State) (e : Nat) : Option Nat :=
  let n := (s.eng.get (engIx e)).next
  if s.carries e n then some n else
  (s.mapFrames.filter fun f => decide (n < f) && s.carries e f).foldl
    (fun (b : Option Nat) f => match b with | some x => some (min x f) | none => some f) none

/-! ### Committed resources (R198, R199) -/

/-- The voices of a hall engine that count in SCHED's accounting. -/
def State.heVoices (s : State) (hall he : Nat) : List Voice :=
  s.voices.filter fun v => v.hall == hall && v.he == he && v.counted

def stepsOf (fl : Nat) (vs : List Voice) : Nat := sumOf (fun v => v.prog.cost * fl) vs
def wordsOf (vs : List Voice) : Nat := sumOf (fun v => v.prog.words) vs

/-- MB_g as SCHED uses it (R69): CB without a calibration record (R450), at most CB while the thermal shed acts (R451). -/
def State.mbOf (s : State) (g : Fin 8) : Nat :=
  let b := if s.nv.calValid then s.sched.mb.get g else s.cb
  let hot := match s.mgmt.therm with | .shed => true | .halt => true | .warn => false | .normal => false
  if hot && s.mgmt.shed && bit s.sched.meas 31 then min b s.cb else b

/-- The budget of a hall engine: HB of the hall, and in measured mode its share of MB_g where that is what admission goes by
(R69, R207). R70 speaks of an engine's committed steps, R207 of a hall engine's: the model goes by the hall engine's share.
DESIGN CHOICE (assumption log 103). -/
def State.heBudget (s : State) (h : Hall) (x : HallEng) : Nat :=
  if s.sched.measured && (bit s.sched.meas 31 || s.sched.measOff) then
    match x.now with
    | some e => h.hb * s.mbOf (galOf e) / s.cb
    | none => h.hb
  else h.hb

/-- A start of a program fits a hall engine whose counting voices are `vs` (R203, R219, R221). R67 speaks of an engine's
committed steps, R203 of a hall engine's: the model goes by R203 alone. DESIGN CHOICE (assumption log 103). -/
def State.fits (s : State) (h : Hall) (x : HallEng) (p : Prog) (vs : List Voice) : Bool :=
  !x.drain && x.now.isSome && decide (stepsOf s.fl vs + s.frameCost p ≤ s.heBudget h x)
    && decide (vs.length < h.hs) && decide (wordsOf vs + p.words ≤ h.hd)

/-- The lowest-numbered free slot of a hall engine. -/
def freeSlot (hs : Nat) (vs : List Voice) : Nat :=
  ((List.range hs).find? fun k => vs.all fun v => v.slot != k).getD 0

/-- Engines that have moved between two layouts of the halls: SCHED_MIG_CNT counts them (R215). -/
def movedEngs (a b : Tab Hall 8) : Nat :=
  sumOf (fun (n : Fin 8) => sumOf (fun (x : HallEng) =>
    match (((a.get n).engs.find? fun y => y.he == x.he).map HallEng.now) with
    | some (some e) => if x.now.isSome ∧ x.now ≠ some e then 1 else 0
    | _ => 0) (b.get n).engs) (List.finRange 8)

end Sys2Proof.Machine
end

