-- ==== Sys2Proof/Machine/Clock.lean ====
section
/-! DEFINITION. REFCLK edges and render bring-up (spec/15_timebase_timers_triggers.md R416–R418, spec/10_output_chain.md R291,
R297, spec/02_time_and_determinism.md R47–R49). -/

namespace Sys2Proof.Machine

/-- The first edge of the grid at or after ET 0 (R418): the least e with 3 × FRAME_LEN + e × Q/P ≥ 0. -/
def firstEdge (fl P Q : Nat) : Int := - ((3 * fl * P / Q : Nat) : Int)

/-- How far edge `e` lies from edge 0, as a fraction of 1/512 es: on the grid of R291, and while the chain tracks so that the edge
presents the linear-phase channels' output L after its position (R64, R296). DESIGN CHOICE (assumption log 125). -/
def State.edgeFrac (s : State) (e : Int) : Int × Int :=
  let P : Int := s.out.p
  let Q : Int := s.out.q
  match s.out.trk with
  | none => (e * Q * 512, P)
  | some t => (t.pos P Q (e - 26) * P + 26 * Q * p2 32, P * p2 23)

/-- ET_e in 1/512 es, rounded down (R291): a time in 1/512 es is at or before ET_e where it is at or before this. -/
def State.edgeAt (s : State) (e : Int) : Nat :=
  let r := s.edgeFrac e
  ((3 * s.fl * 512 + s.out.phi : Int) + r.1 / r.2).toNat

/-- ET_e in 1/512 es, rounded up (R291): when engine time has reached the edge. -/
def State.edgeEt (s : State) (e : Int) : Nat :=
  let r := s.edgeFrac e
  ((3 * s.fl * 512 + s.out.phi : Int) + (r.1 + r.2 - 1) / r.2).toNat

/-- The first edge at or after the present. DEDUCED (assumption log 50). -/
def State.firstGrid (s : State) : Int :=
  let x : Int := (s.time.et : Int) - ((3 * s.fl * 512 + s.out.phi : Nat) : Int)
  let r : Int × Int := match s.out.trk with
    | none => (x * s.out.p, 512 * s.out.q)
    | some t => t.edgeOf s.out.p s.out.q (x * 8388608)
  0 - (- r.1) / r.2

/-- An output channel at bring-up: the synchronising reset at bus sample 0, outputs from the one that edge 0 presents (R297). -/
def OutCh.bringup (c : OutCh) : OutCh := let c := c.syncReset 0; { c with nextM := - (c.g + 2) }

/-- Hall 0 at bring-up, its hall engines mapped by first fit; one that finds no room is dark (R193, R195, R221). -/
def State.openHall0 (s : State) : State :=
  let r := s.nv.cfg
  let h : Hall := { Hall.reset with
    alive := true, rv := r.rv, nHe := r.nHe, hb := min r.hb s.cb, hs := r.hs, hd := r.hd, quota := r.quota, mask := [(0, r.mask)],
    kaMs := r.kaMs, kaLast := s.time.rclk,
    binding := match s.foyer.sup with
      | some p => word (2 ^ 30 + p.val)
      | none => 0#32,
    ring := { Ring.reset with len := r.ringLen, modCount := r.modCount, modTime := r.modTime },
    engs := (List.range r.nHe).map fun i =>
      { he := i, phys := [], hb := min r.hb s.cb, hs := r.hs, hd := r.hd, drain := false, left := false, again := false } }
  { s with halls := remapFrom s.cb s.usable (fun _ => false) 0 (s.halls.put 0 h) }

/-- Render bring-up at the present edge (R418): ET starts, frame 0 begins, the word-clock grid is anchored. -/
def State.bringup (s : State) : State :=
  let e0 := firstEdge s.fl s.out.p s.out.q
  let s := { s with
    time := { s.time with et := 0, running := true, armed := false, bringup := word s.time.rclk },
    sys := { s.sys with feSel := s.nv.cfg.fe882 },
    sched := { s.sched with nextClose := 2, nextBound := 1, nextMb := 64 },
    eng := s.eng.map (fun (e : Engine) => { e with next := 0 }),
    mez := { s.mez with next := 0 },
    out := { s.out with next := 0, ch := s.out.ch.map OutCh.bringup, locked := s.out.master, wclkOk := s.out.master, first := s.out.master },
    dac := { s.dac with wclkOk := s.out.master, edge := e0, ch := s.dac.ch.map (fun (c : DacCh) => { c with fill := 0 }) },
    tdm := { s.tdm with edge := e0, inEdge := e0, fill := Vector.replicate 4 0, inNext := 0, running := s.out.master },
    mem := { s.mem with ch := s.mem.ch.map (fun (c : MemCh) => { c with due := some 0 }) } }
  s.openHall0

/-- `k` REFCLK edges with no bring-up among them; timers that match or overflow raise their sources (R432). A wake that the
fabric asked for completes with them (R446). DESIGN CHOICE (assumption log 114): at the next REFCLK edge. -/
def State.edges (s : State) (k : Nat) : State :=
  let t := s.time.edges k
  let q := t.2.foldl (fun q x => q.raiseN x.1 x.2) s.irqf
  { s with
    time := t.1
    irqf := if k ≠ 0 ∧ s.time.counting = true ∧ s.time.refclk = true ∧ s.pwr.on pdCtrl = true then q.settle s.canWake else q }

/-- `k` REFCLK edges: a bring-up that is armed falls on its edge (R418). -/
def State.advance (s : State) (k : Nat) : State :=
  let b := s.time.bringupEdge
  if s.time.armed = true ∧ s.time.counting = true ∧ s.time.refclk = true ∧ b ≤ s.time.rclk + k then
    ((s.edges (b - s.time.rclk)).bringup).edges (s.time.rclk + k - b)
  else s.edges k

/-- Engine time runs on to the first REFCLK edge at or after `t` (R45, R417). -/
def State.advanceTo (s : State) (t : Nat) : State :=
  if s.time.running = true ∧ s.time.et < t then s.advance ((t - s.time.et + 1) / 2) else s

/-- Engine time can reach `t`: it stands there already, or it runs on. DESIGN CHOICE (assumption log 1, 29). -/
def State.reaches (s : State) (t : Nat) : Bool :=
  s.time.running && (decide (t ≤ s.time.et) || (s.time.counting && s.time.refclk))

end Sys2Proof.Machine
end

