-- ==== Sys2Proof/Machine/RegsA.lean ====
section
/-! DEFINITION. The registers of SYS, SCHED, HALL, HOSTPORT, the galleries, OUT, the Mezzanine, TDM and TIME: what each reads as,
and what a write does to those whose access code lets it (the register maps of spec/01, 02, 05, 07, 10, 12 and 15; R9). A write
with a behaviour of its own is left to that behaviour. -/

namespace Sys2Proof.Machine

/-- 2^k where a bit is set. -/
def at_ (b : Bool) (k : Nat) : Nat := if b then 2 ^ k else 0

/-! ### SYS -/

def State.grade (s : State) : Word := if s.nv.a16 then 0x00161001#32 else 0x00080800#32

def State.sysReg (s : State) (off : Nat) : Word :=
  match off with
  | 0x00 => 0x4D542048#32
  | 0x04 => 0x00000021#32
  | 0x08 => s.sys.fwVer
  | 0x0C => s.grade
  | 0x10 => 0x00003FFF#32
  | 0x14 => s.sys.rvAvail
  | 0x18 => word (at_ s.time.ok 1 + at_ s.sys.feSel 0)
  | 0x20 => loWord s.nv.uid
  | 0x24 => hiWord s.nv.uid
  | 0x30 => s.sys.err
  | 0x34 => s.sys.errAddr
  | 0x3C => s.sys.scratch
  | _ => 0#32

def State.sysWrite (s : State) (off : Nat) (v : Word) : State :=
  match off with
  | 0x30 => { s with sys := { s.sys with err := w1c s.sys.err v } }
  | 0x3C => { s with sys := { s.sys with scratch := v } }
  | _ => s

/-! ### SCHED -/

/-- The hall engines mapped to physical engine `e`, with their halls, and the physical slot where each begins. -/
def State.layout (s : State) (e : Nat) : List (Nat × Nat × Nat) :=
  ((List.range 8).foldl (fun (acc : List (Nat × Nat × Nat) × Nat) n =>
    (s.hall n).engs.foldl (fun (acc : List (Nat × Nat × Nat) × Nat) x =>
      if x.now = some e then (acc.1 ++ [(n, x.he, acc.2)], acc.2 + x.hs) else acc) acc) ([], 0)).1

/-- The voices whose hall engine is mapped to physical engine `e`. -/
def State.engVoices (s : State) (e : Nat) : List Voice :=
  let l := s.layout e
  s.voices.filter fun v => l.any fun x => x.1 == v.hall && x.2.1 == v.he

/-- Committed steps of a physical engine. -/
def State.engSteps (s : State) (e : Nat) : Nat := stepsOf s.fl ((s.engVoices e).filter (·.counted))

def State.engFenced (s : State) (e : Nat) : Bool := (s.eng.get (engIx e)).fenced || (s.gal.get (galOf e)).fenced

def State.schedEng (s : State) (e : Nat) : Word :=
  let vs := (s.engVoices e).filter (·.counted)
  word (at_ (s.engFenced e) 26 + at_ (s.gal.get (galOf e)).parked 25 + at_ (!(s.layout e).isEmpty) 24
    + vs.length * 2 ^ 18 + stepsOf s.fl vs)

/-- A migration or resize has not reached its frame M. -/
def State.migrating (s : State) : Bool := match s.sched.migAt with | some m => decide (s.frameOf s.time.et < m) | none => false

def State.schedReg (s : State) (off : Nat) : Word :=
  match off with
  | 0x000 => s.sched.cfg
  | 0x004 => word (at_ (bit s.sched.cfg 0) 2 + at_ s.sched.measured 1 + at_ s.time.running 0)
  | 0x008 => loWord s.time.et
  | 0x00C => hiWord s.time.et
  | 0x010 => if s.time.running then loWord s.openAt else 0#32
  | 0x014 => if s.time.running then hiWord s.openAt else 0#32
  | 0x018 => if s.time.running then word s.lead else 0#32
  | 0x01C => if s.time.running then word s.cb else 0#32
  | 0x020 => s.sched.meas
  | 0x024 => s.sched.guar
  | 0x028 => s.sched.lateCnt
  | 0x02C => s.sched.lateLast
  | 0x030 => s.sched.underrun
  | 0x100 => word (at_ s.sched.wait 1 + at_ s.migrating 0)
  | 0x104 => s.sched.migCnt
  | _ =>
    if 0x040 ≤ off ∧ off < 0x060 then (if s.time.running then word (s.mbOf (Fin.ofNat 8 ((off - 0x040) / 4))) else 0#32)
    else if 0x140 ≤ off ∧ off < 0x160 then
      let h := s.hall ((off - 0x140) / 4)
      word (h.qHigh * 65536 + h.queue.length)
    else if 0x200 ≤ off ∧ off < 0x300 then s.schedEng ((off - 0x200) / 4)
    else 0#32

/-- The operating range in mV of the supply that a domain's monitor reads (R493): VDD_MEM for PD_MEM, AVDD for PD_ANA, VDD_AO for
PD_AO, VDD_CORE for every other. DESIGN CHOICE (assumption log 105). -/
def supplyRange (d : Fin 16) : Nat × Nat := if d = pdMem then (1050, 1150) else if d = pdAna then (4750, 5250) else (760, 880)

/-- The width by which a window exceeds the operating range (R449, R450). -/
def State.vmonMargin (s : State) : Nat := if s.nv.calValid then 20 else 40

/-- A reading lies in a domain's window (R449, R450). -/
def State.vmonIn (s : State) (d : Fin 16) (mv : Nat) : Bool :=
  decide ((supplyRange d).1 ≤ mv + s.vmonMargin ∧ mv ≤ (supplyRange d).2 + s.vmonMargin)

/-- The domain's monitor reads VDD_CORE. -/
def readsCore (d : Fin 16) : Bool := d != 0 && d != pdMem && d != pdAna

/-- VDD_CORE reads below the equivalent of 0.76 V at the ball (R449, R494): in a powered domain it stands below its window, which
allows for the on-die drop. DESIGN CHOICE (assumption log 105). -/
def State.coreLow (s : State) : Bool :=
  (List.finRange 16).any fun d => readsCore d && s.pwr.on d && decide (0 < s.mgmt.volts.get d) &&
    decide (s.mgmt.volts.get d + s.vmonMargin < (supplyRange d).1)

/-- A hall controller is fed by a DMX patch in a frame that is not complete yet (R76, condition 6). -/
def State.dmxFeeds (s : State) : Bool :=
  let tau := min s.time.et (s.start s.mez.next)
  s.halls.toList.any fun h => h.alive && h.ctl.toList.any fun c => dmxFed tau c.2

/-- The causes of SCHED_GUAR bits that persist (R78, R79): measured admission, tracking, a controller that a DMX patch feeds, Tj above
110 °C or VDD_CORE low. A codeword or page that stays poisoned is none: ue is set by each read. DESIGN CHOICE (assumption log 126). -/
def State.guarPersist (s : State) : Word :=
  word (at_ s.sched.measured 1 + at_ s.out.trk.isSome 3 + at_ s.dmxFeeds 5
    + at_ (s.mgmt.therm != .normal || decide (s.mgmt.tj > 110 * 16) || s.coreLow) 6)

def State.schedWrite (s : State) (off : Nat) (v : Word) : State :=
  match off with
  | 0x024 => { s with sched := { s.sched with guar := w1c s.sched.guar v ||| (s.sched.guar &&& s.guarPersist) } }
  | _ => s

/-! ### HALL -/

/-- Voices that are neither in a free slot nor ENDED. -/
def Voice.alive (v : Voice) : Bool := v.ended.isNone && v.stop.isNone

def State.hallVoices (s : State) (n : Nat) : List Voice := s.voices.filter fun v => v.hall == n

def State.hallReg (s : State) (n off : Nat) : Word :=
  let h := s.hall n
  if h.alive = false then 0#32 else
  let mask := (Stepped.now 0 h.mask).toNat
  match off with
  | 0x00 => word (2 ^ 31 + at_ h.kaLapsed 30 + at_ (Stepped.at false h.fenced (s.frameOf s.time.et)) 29 + at_ (h.engs.any HallEng.dark) 28
      + at_ (match h.resizeAt with | some m => decide (s.frameOf s.time.et < m) | none => false) 27 + h.rv)
  | 0x04 => h.binding
  | 0x08 => word (h.nHe * 2 ^ 24 + h.hs * 2 ^ 16 + h.hd / 64)
  | 0x0C => word h.hb
  | 0x10 => word ((h.engs.filter HallEng.draining).length * 2 ^ 16 + ((s.hallVoices n).filter (·.counted)).length)
  | 0x14 => word (stepsOf s.fl ((s.hallVoices n).filter (·.counted)))
  | 0x18 => word (h.quota * 2 ^ 16 + s.mem.used n)
  | 0x20 => word mask
  | 0x24 => word (mask / 2 ^ 32)
  | 0x30 => h.stealCnt
  | 0x34 => h.refuseCnt
  | 0x38 => h.lostCnt
  | _ => 0#32

/-! ### HOSTPORT -/

/-- The hall attached to a port (R28). -/
def State.attached (s : State) (p : Fin 2) : Option Nat := (List.range 8).find? fun n => (s.hall n).port? == some p

def Port.free (q : Port) : Nat := (q.bufs.toList.filter (! ·)).length

def State.portReg (s : State) (p : Fin 2) (off : Nat) : Word :=
  let q := s.port p
  match off with
  | 0x00 => word (q.st.code * 2 ^ 29 + (if q.width = 4 then 2 else if q.width = 2 then 1 else 0) * 2 ^ 27 + at_ q.asleep 26
      + at_ q.irq 25 + at_ q.rdy 24 + at_ (s.foyer.sup == some p) 23 + q.free * 2 ^ 21 + at_ (s.attached p).isSome 20
      + (s.attached p).getD 0 * 2 ^ 16 + (if q.st = .uhp3 then q.version else 0))
  | 0x04 => q.err
  | 0x0C => q.crcCnt
  | 0x10 => word q.crcRun
  | 0x14 => q.txnCnt
  | 0x18 => q.refuse
  | 0x1C => q.fenceCnt
  | 0x20 => word (q.lastCode * 2 ^ 24 + q.lastSeq * 2 ^ 16 + q.lastRes * 2 ^ 8)
  | 0x28 => q.hostLo
  | 0x2C => q.hostHi
  | _ => 0#32

def State.portWrite (s : State) (p : Fin 2) (off : Nat) (v : Word) : State :=
  if off = 0x04 then s.updPort p fun q => { q with err := w1c q.err v } else s

/-! ### Galleries and engines -/

def State.galReg (s : State) (g : Fin 8) (off : Nat) : Word :=
  let x := s.gal.get g
  let es := List.range 8
  if off < 0x1000 then
    match off with
    | 0x00 => word (at_ x.parked 9 + at_ (s.pwr.is (pdGal g) .retained) 8
        + sumOf (fun e => at_ (!(s.layout (8 * g.val + e)).isEmpty) e) es)
    | 0x04 => word (at_ x.fenced 8 + sumOf (fun e => at_ (s.eng.get (engIx (8 * g.val + e))).fenced e) es)
    | _ => 0#32
  else if off ≥ 0x9000 then 0#32 else
    let e := 8 * g.val + (off / 0x1000 - 1)
    let y := s.eng.get (engIx e)
    match off % 0x1000 with
    | 0x000 => y.done
    | 0x004 =>
      let l := s.layout e
      word ((s.engVoices e).foldl (fun a v =>
        if v.ended.isSome then a else
        match l.find? fun z => z.1 == v.hall && z.2.1 == v.he with
        | some z => a ||| 2 ^ ((z.2.2 + v.slot) % 32)
        | none => a) 0)
    | 0x800 => y.arith
    | 0x804 => y.excCnt
    | 0x808 => y.satCnt
    | 0x80C => y.dlyCnt
    | _ => 0#32

def State.galWrite (s : State) (g : Fin 8) (off : Nat) (v : Word) : State :=
  if 0x1000 ≤ off ∧ off < 0x9000 ∧ off % 0x1000 = 0x800 then
    s.updEng (engIx (8 * g.val + (off / 0x1000 - 1))) fun y => { y with arith := w1c y.arith v }
  else s

/-! ### OUT and the Mezzanine -/

/-- The first bus frame that OUT takes after the present instant (R511), as a bus sample. -/
def State.nextBus (s : State) : Nat := s.out.next * s.fl

def State.outReg (s : State) (off : Nat) : Word :=
  let fences (lo : Nat) : Nat := sumOf (fun k => at_ (s.out.ch.get (Fin.ofNat 64 (lo + k))).fenced.isSome k) (List.range 32)
  match off with
  | 0x000 => s.out.cfg
  | 0x004 => word (at_ s.out.locked 31 + at_ s.out.wclkOk 30)
  | 0x008 => s.out.err
  | 0x00C => word (at_ (s.out.first && !s.out.master && !s.out.track) 31 + s.out.phi)
  | 0x010 => s.out.relock
  | 0x014 => s.mez.satCnt
  | 0x018 => word (fences 0)
  | 0x01C => word (fences 32)
  | _ =>
    let k := off - 0x100
    if 0x100 ≤ off ∧ off < 0x200 then
      let r := Stepped.now { cfg := 0#32, lvl := 0#32 } (s.mez.routes.get (Fin.ofNat 32 (k / 8)))
      if off % 8 = 0 then r.cfg else if off % 8 = 4 then r.lvl else 0#32
    else if 0x200 ≤ off ∧ off < 0x240 then
      let r := Stepped.now (0#32, 0#32) (s.mez.rets.get (Fin.ofNat 8 ((off - 0x200) / 8)))
      if off % 8 = 0 then r.1 else if off % 8 = 4 then r.2 else 0#32
    else 0#32

def State.setRoute (s : State) (k f : Nat) (r : InRoute) : State :=
  { s with mez := { s.mez with routes := s.mez.routes.upd (Fin.ofNat 32 k) fun l => Stepped.set l f r } }

def State.setRet (s : State) (c f : Nat) (x : Word × Word) : State :=
  { s with mez := { s.mez with rets := s.mez.rets.upd (Fin.ofNat 8 c) fun l => Stepped.set l f x } }

/-- The bits of MEZ_RTk_CFG that exist. -/
def rtMask : Word := 0xF0007C3F#32

def State.outWrite (s : State) (off : Nat) (v : Word) : State :=
  match off with
  | 0x008 => { s with out := { s.out with err := w1c s.out.err v } }
  | _ =>
    let f := s.nextFrame
    if 0x100 ≤ off ∧ off < 0x200 then
      let k := (off - 0x100) / 8
      let r := Stepped.now { cfg := 0#32, lvl := 0#32 } (s.mez.routes.get (Fin.ofNat 32 k))
      if off % 8 = 0 then s.setRoute k f { r with cfg := v &&& rtMask }
      else if off % 8 = 4 then s.setRoute k f { r with lvl := v &&& 0x00FFFFFF#32 } else s
    else if 0x200 ≤ off ∧ off < 0x240 then
      let c := (off - 0x200) / 8
      let r := Stepped.now (0#32, 0#32) (s.mez.rets.get (Fin.ofNat 8 c))
      if off % 8 = 0 then s.setRet c f (v &&& 0x00FFFFFF#32, r.2)
      else if off % 8 = 4 then s.setRet c f (r.1, v &&& 0x00FFFFFF#32) else s
    else s

/-- A 24-bit value in a register, sign extended. -/
def sx24 (v : Int) : Word := ofInt32 v

def State.chReg (s : State) (n : Fin 64) (off : Nat) : Word :=
  let c := s.out.ch.get n
  let set := c.sets.headD { frame := 0, peak := 0, rms := 0, env := 0 }
  let pos := s.nextBus
  match off with
  | 0x00 => c.ctrl
  | 0x04 => word (at_ c.fenced.isSome 31 + at_ c.syncing 30 + at_ c.queued.isSome 2 + at_ (c.fading pos) 1 + at_ c.active 0)
  | 0x08 => word (at_ c.view 31 + (match c.fade with
      | some (n1, xf) => if pos < n1 + xf then xf * 2 ^ 16 + (pos - n1) else 0
      | none => 0))
  | 0x0C => c.delayReg
  | 0x10 => c.apk
  | 0x14 => c.arms
  | 0x18 => c.aatt
  | 0x1C => c.arel
  | 0x20 => ofInt32 set.peak
  | 0x24 => ofInt32 set.rms
  | 0x28 => ofInt32 set.env
  | 0x2C => c.satCnt
  | _ =>
    if 0x40 ≤ off ∧ off < 0xE0 then
      let k := (off - 0x40) / 4
      let b := (c.bank c.view).getD (k / 5) Coefs.unity
      sx24 (match k % 5 with | 0 => b.b0 | 1 => b.b1 | 2 => b.b2 | 3 => b.a1 | _ => b.a2)
    else 0#32

/-- A change of the delay among others that wait, in the order of their frames. -/
def dlyInsert (d : DlySet) : List DlySet → List DlySet
  | [] => [d]
  | x :: xs => if x.start ≤ d.start then x :: dlyInsert d xs else d :: x :: xs

/-- The delay register of a channel is set; bus samples from `start` on and their outputs go by it (R288).
DEDUCED (assumption log 45). -/
def OutCh.setDelay (c : OutCh) (start dInt dFrac : Nat) : OutCh :=
  let d : DlySet := { start := start, dInt := dInt, dFrac := dFrac }
  { c with delayReg := word (dInt * 2 ^ 16 + dFrac), delays := dlyInsert d c.delays, outDlys := dlyInsert d c.outDlys }

def State.chWrite (s : State) (n : Fin 64) (off : Nat) (v : Word) : State :=
  let m24 := v &&& 0x00FFFFFF#32
  match off with
  | 0x00 => s.updOut n fun c => { c with ctrl := v &&& 1#32 }
  | 0x08 => s.updOut n fun c => { c with view := bit v 31 }
  | 0x0C => s.updOut n fun c => c.setDelay s.nextBus (bits v 27 16) (bits v 5 0)
  | 0x10 => s.updOut n fun c => { c with apk := m24 }
  | 0x14 => s.updOut n fun c => { c with arms := m24 }
  | 0x18 => s.updOut n fun c => { c with aatt := m24 }
  | 0x1C => s.updOut n fun c => { c with arel := m24 }
  | _ => s

/-! ### TDM -/

def State.tdmReg (s : State) (off : Nat) : Word :=
  match off with
  | 0x00 => s.tdm.cfg
  | 0x04 => word (at_ (slots8 s.fe882 s.out.p s.out.q) 31 + at_ s.tdm.running 0)
  | 0x08 => s.tdm.err
  | 0x0C => s.tdm.ufCnt
  | 0x10 => s.tdm.ovfCnt
  | _ => if 0x100 ≤ off ∧ off < 0x200 then s.tdm.oslot.get (Fin.ofNat 64 ((off - 0x100) / 4)) else 0#32

def State.tdmWrite (s : State) (off : Nat) (v : Word) : State :=
  match off with
  | 0x08 => { s with tdm := { s.tdm with err := w1c s.tdm.err v } }
  | _ =>
    if 0x100 ≤ off ∧ off < 0x200 then
      { s with tdm := { s.tdm with oslot := s.tdm.oslot.put (Fin.ofNat 64 ((off - 0x100) / 4)) (v &&& 0x8000003F#32) } }
    else s

/-! ### TIME -/

def State.timeReg (s : State) (off : Nat) : Word :=
  match off with
  | 0x00 => word (at_ s.time.running 31 + at_ s.time.ok 30 + at_ s.time.late 29 + at_ s.time.dbgHalt 28)
  | 0x04 => s.time.err
  | 0x0C => word (sumOf (fun (n : Fin 16) => at_ (s.time.tmr.get n).go n.val) (List.finRange 16))
  | 0x10 => loWord s.time.rclk
  | 0x14 => hiWord s.time.rclk
  | 0x18 => s.time.bringup
  | 0x1C => s.time.lossCnt
  | _ => 0#32

def State.timeWrite (s : State) (off : Nat) (v : Word) : State :=
  match off with
  | 0x04 => { s with time := { s.time with err := w1c s.time.err v } }
  | _ => s

/-- A timer's registers but TMRn_COUNT, whose read has an effect (R427). -/
def State.tmrReg (s : State) (n : Fin 16) (off : Nat) : Word :=
  let m := s.time.tmr.get n
  match off with
  | 0x00 => m.ctrl
  | 0x04 => word (at_ m.go 31 + at_ (bit m.ctrl 31 && s.time.dbgHalt) 30 + at_ m.held.isSome 29 + at_ m.ovf 1 + at_ m.cmp 0)
  | 0x0C => m.reload
  | 0x10 => m.cmpv
  | _ => 0#32

def State.tmrWrite (s : State) (n : Fin 16) (off : Nat) (v : Word) : State :=
  match off with
  | 0x00 => s.updTmr n fun m => { m with ctrl := v &&& 0x80000337#32 }
  | 0x04 => s.updTmr n fun m => { m with ovf := m.ovf && !bit v 1, cmp := m.cmp && !bit v 0 }
  | 0x0C => s.updTmr n fun m => { m with reload := v }
  | 0x10 => s.updTmr n fun m => { m with cmpv := v }
  | _ => s

/-- A trigger's registers but TRGt_TS_LO, whose read has an effect (R430). -/
def State.trgReg (s : State) (t : Fin 8) (off : Nat) : Word :=
  let g := s.time.trg.get t
  match off with
  | 0x00 => g.ctrl
  | 0x04 => word (at_ g.level 31 + g.fifo.length * 2 ^ 28 + at_ g.ovf 0)
  | 0x0C => g.hi
  | 0x10 => g.cap
  | 0x14 => g.miss
  | 0x18 => g.drop
  | 0x1C => match g.map with | some m => word (2 ^ 31 + m.hall * 2 ^ 16 + m.tag) | none => 0#32
  | _ => 0#32

def State.trgWrite (s : State) (t : Fin 8) (off : Nat) (v : Word) : State :=
  match off with
  | 0x00 => s.updTrg t fun g => { g with ctrl := v &&& 0xC00003FF#32 }
  | 0x04 => s.updTrg t fun g => { g with ovf := g.ovf && !bit v 0 }
  | _ => s

end Sys2Proof.Machine
end

