-- ==== Sys2Proof/Machine/RegsB.lean ====
section
/-! DEFINITION. The registers of SPEC, MEM, DAC and the serial ports (the register maps of spec/08, 09, 11 and 14; R9). -/

namespace Sys2Proof.Machine

/-! ### SPEC -/

def chCfgNow (c : SpecCh) : ChCfg := Stepped.now ChCfg.zero c.cfg

def State.specReg (s : State) (off : Nat) : Word :=
  match off with
  | 0x00 => word (at_ s.spec.halted 31 + sumOf (fun (a : Fin 2) => at_ (bit (s.spec.an.get a).cfg 31) (8 + a.val)) (List.finRange 2)
      + sumOf (fun (k : Fin 8) => at_ (s.spec.ch.get k).owner.isSome k.val) (List.finRange 8))
  | 0x08 => word s.spec.rounds
  | 0x0C => 0x000C0000#32
  | 0x10 => s.spec.err
  | 0x14 => s.spec.ueCnt
  | 0x18 => s.spec.miss
  | 0x1C => s.spec.satCnt
  | _ =>
    if 0x100 ≤ off ∧ off < 0x180 then
      let c := s.spec.ch.get (Fin.ofNat 8 ((off - 0x100) / 16))
      match off % 16 with
      | 0 => match c.owner with | some h => word (2 ^ 31 + h * 2 ^ 16 + c.p) | none => word (c.hallFld * 2 ^ 16 + c.p)
      | 4 => (chCfgNow c).src
      | 8 => (chCfgNow c).ret
      | 12 => (chCfgNow c).lvl
      | _ => 0#32
    else if 0x200 ≤ off ∧ off < 0x220 then
      let a := s.spec.an.get (Fin.ofNat 2 ((off - 0x200) / 16))
      match off % 16 with
      | 0 => a.cfg
      | 4 => a.src
      | _ => 0#32
    else 0#32

/-- A channel's configuration from the next frame boundary on (R18, R237). -/
def State.setChCfg (s : State) (k : Fin 8) (f : ChCfg → ChCfg) : State :=
  s.updSpec k fun c => { c with cfg := Stepped.set c.cfg s.nextFrame (f (chCfgNow c)) }

def State.specWrite (s : State) (off : Nat) (v : Word) : State :=
  if off = 0x10 then { s with spec := { s.spec with err := w1c s.spec.err v } }
  else if 0x100 ≤ off ∧ off < 0x180 then
    let k := Fin.ofNat 8 ((off - 0x100) / 16)
    match off % 16 with
    | 0 => s.updSpec k fun c =>
        { c with owner := if bit v 31 then some (bits v 18 16) else none, hallFld := if bit v 31 then 0 else bits v 18 16, p := bits v 13 0 }
    | 4 => s.setChCfg k fun c => { c with src := v &&& 0xC000003F#32 }
    | 8 => s.setChCfg k fun c => { c with ret := v &&& 0x80009FBF#32 }
    | 12 => s.setChCfg k fun c => { c with lvl := v &&& 0x00FFFFFF#32 }
    | _ => s
  else if 0x200 ≤ off ∧ off < 0x220 then
    let a := Fin.ofNat 2 ((off - 0x200) / 16)
    match off % 16 with
    | 0 => s.updAn a fun x => { x with cfg := v &&& 0x9FFFFFFF#32 }
    | 4 => s.updAn a fun x => { x with src := v &&& 0xC00001FF#32 }
    | _ => s
  else s

/-! ### MEM -/

def State.memChReg (s : State) (c : Fin 4) (off : Nat) : Word :=
  let x := s.mem.ch.get c
  match off with
  | 0x00 => word (at_ x.trained 31 + at_ x.wb.isSome 1 + at_ (!x.jobs.isEmpty) 0)
  | 0x04 => x.ceCnt
  | 0x08 => x.ueCnt
  | 0x0C => x.poisonRd
  | 0x10 => x.err
  | 0x14 => x.errAddr
  | 0x18 => word x.scrubNext
  | 0x1C => x.scrubPass
  | 0x20 => word (at_ x.swapPend 30 + x.ptr)
  | 0x24 => x.prio0
  | 0x28 => x.prio1
  | 0x2C => x.dead
  | _ =>
    if 0x40 ≤ off ∧ off < 0x60 then x.act.get (Fin.ofNat 8 ((off - 0x40) / 4))
    else if 0x60 ≤ off ∧ off < 0x80 then x.shd.get (Fin.ofNat 8 ((off - 0x60) / 4))
    else if 0x80 ≤ off ∧ off < 0xB0 then x.grant.get (Fin.ofNat 12 ((off - 0x80) / 4))
    else if 0xC0 ≤ off ∧ off < 0xF0 then x.extra.get (Fin.ofNat 12 ((off - 0xC0) / 4))
    else 0#32

def State.memReg (s : State) (off : Nat) : Word :=
  match off with
  | 0x00 => word (at_ s.mem.ready 31 + sumOf (fun (c : Fin 4) => at_ (s.mem.ch.get c).trained c.val) (List.finRange 4))
  | 0x04 => word (s.mem.freeCount * 2 ^ 16 + s.mem.inState .wiping)
  | 0x08 => word (at_ s.mem.listFull 31 + s.mem.inState .retired)
  | 0x0C => word (s.mem.pages.filter fun x => x.2.poisoned).length
  | 0x10 => s.mem.sel
  | 0x14 =>
    let n := bits s.mem.sel 11 0
    let p := s.mem.page n
    word (p.state.code * 2 ^ 29 + (match p.state with
        | .owned => p.hall | .stored => p.hall | .sealed => p.hall | .sealing => p.hall | _ => 0) * 2 ^ 26
      + at_ p.poisoned 25 + s.mem.poisonCount n)
  | _ => 0#32

def State.memChWrite (s : State) (c : Fin 4) (off : Nat) (v : Word) : State :=
  let upd (f : MemCh → MemCh) : State := { s with mem := s.mem.updCh c f }
  match off with
  | 0x10 => upd fun x => { x with err := w1c x.err v }
  | _ =>
    if 0x60 ≤ off ∧ off < 0x80 then upd fun x => { x with shd := x.shd.put (Fin.ofNat 8 ((off - 0x60) / 4)) v } else s

def State.memWrite (s : State) (off : Nat) (v : Word) : State :=
  if off = 0x10 then { s with mem := { s.mem with sel := v &&& 0x00000FFF#32 } } else s

/-! ### DAC -/

/-- A DAC channel that the grade has (R36). -/
def State.hasDac (s : State) (n : Fin 16) : Bool := s.nv.a16 || decide (n.val < 8)

def State.anaOn (s : State) : Bool := s.pwr.is pdAna .on

/-- PD_ANA has its supply: it is on, or its wake is under way (R472). -/
def State.anaPowered (s : State) : Bool := s.pwr.is pdAna .on || s.pwr.is pdAna .waking

/-- The MP loads the segment trims of the first valid calibration record into the channels (R307, R450). -/
def State.loadTrims (s : State) : State :=
  match s.nv.calRec with
  | some r => { s with dac := { s.dac with ch := Vector.ofFn fun (n : Fin 16) => { s.dac.ch.get n with trims := r.trims.getD n.val [] } } }
  | none => s

/-- AOUTn now (R305–R307, R312); the ball of a channel that the grade lacks is not connected to the die (R36). -/
def State.aout (s : State) (n : Fin 16) : AOut :=
  if s.hasDac n then (s.dac.ch.get n).aout s.anaOn (refHz s.ref882) s.time.rclk else .highZ

def State.dacReg (s : State) (off : Nat) : Word :=
  match off with
  | 0x00 => s.dac.ctrl
  | 0x04 => word (at_ s.dac.ready 31 + at_ s.dac.mute 30 + at_ s.dac.vrefOk 29 + at_ s.anaOn 28 + at_ s.dac.wclkOk 27
      + at_ s.dac.thermal 26 + at_ s.dac.fwStop 25 + s.dac.nr)
  | 0x08 => s.dac.err
  | 0x0C => s.dac.ufCnt
  | 0x10 => s.dac.cal
  | _ => 0#32

def State.dacChReg (s : State) (n : Fin 16) (off : Nat) : Word :=
  if s.hasDac n = false then 0#32 else
  let c := s.dac.ch.get n
  match off with
  | 0x00 => c.ctrl
  | 0x04 => word (c.seq.code * 2 ^ 29 + c.stage * 2 ^ 27 + c.queue.length * 2 ^ 16 + c.k)
  | 0x08 => c.ftw
  | 0x0C => c.amp
  | 0x10 => ofInt32 c.code
  | 0x14 => c.ufCnt
  | _ => 0#32

/-- The part of DAC_CTRL that is plain: mute_lead. -/
def State.dacWrite (s : State) (off : Nat) (v : Word) : State :=
  match off with
  | 0x00 => { s with dac := { s.dac with ctrl := setBits s.dac.ctrl 3 0 (bits v 3 0) } }
  | 0x08 => { s with dac := { s.dac with err := w1c s.dac.err v } }
  | _ => s

def State.dacChWrite (s : State) (n : Fin 16) (off : Nat) (v : Word) : State :=
  if s.hasDac n = false then s else
  match off with
  | 0x08 => s.updDac n fun c => { c with ftw := v }
  | 0x0C => s.updDac n fun c => { c with amp := v &&& 0x000FFFFF#32 }
  | _ => s

/-! ### Serial ports -/

/-- SERn_TSB.rate: the rate in force by the divisor (R410). -/
def State.tsbRate (s : State) (p : Ser) : Nat :=
  if p.role ≠ 3 ∨ p.locked = false then 0 else
  let bps := if bits p.baud 23 0 = 0 then 0 else refHz s.ref882 * 128 / bits p.baud 23 0
  if bps > 2000000 then 2 else 1

/-- A serial port's registers but SERn_RX, whose read has an effect (R393). -/
def State.serReg (s : State) (n : Fin 4) (off : Nat) : Word :=
  let p := s.ser.get n
  match off with
  | 0x00 => p.cfg
  | 0x04 => p.baud
  | 0x08 => p.ctrl
  | 0x0C => word (p.rx.code * 2 ^ 29 + at_ p.line 28 + at_ p.hold.isSome 27 + at_ p.xoffRx 26 + at_ p.xoffTx 25 + at_ p.locked 24)
  | 0x10 => p.err
  | 0x18 => loWord p.ts
  | 0x1C => hiWord p.ts
  | 0x24 => p.stuck
  | 0x28 => p.feCnt
  | 0x2C => p.peCnt
  | 0x30 => p.ovrCnt
  | 0x34 => p.brkCnt
  | 0x38 => p.wakeLost
  | 0x3C => p.fenceCnt
  | 0x40 => p.msgCnt
  | 0x44 => p.dropCnt
  | 0x50 => word (at_ p.dmx.loss 31 + at_ p.dmx.ident 30 + at_ p.dmx.muted 29 + p.dmx.inLast * 2 ^ 16 + p.dmx.start)
  | 0x54 => p.pktCnt
  | 0x60 => if p.role = 3 then word (p.addr * 2 ^ 24 + p.tsb.peers.length * 2 ^ 16 + p.tsb.seq % 256 * 2 ^ 8 + s.tsbRate p) else 0#32
  | 0x64 => p.crcCnt
  | 0x68 => p.strangerCnt
  | 0x6C => p.collCnt
  | 0x70 => p.tsbDrop
  | _ => 0#32

def State.serWrite (s : State) (n : Fin 4) (off : Nat) (v : Word) : State :=
  match off with
  | 0x00 => s.updSer n fun p => { p with cfg := v &&& 0xE0000038#32 }
  | 0x04 => s.updSer n fun p => { p with baud := v &&& 0x80FFFFFF#32 }
  | 0x08 => s.updSer n fun p => { p with ctrl := v &&& 0xC0000000#32 }
  | 0x10 => s.updSer n fun p => { p with err := w1c p.err v }
  | 0x24 => s.updSer n fun p => { p with stuck := v &&& 0x0000FFFF#32 }
  | _ => s

end Sys2Proof.Machine
end

