-- ==== Sys2Proof/Machine/RegsC.lean ====
section
/-! DEFINITION. The registers of IRQF, MGMT, PWR and FENCE (the register maps of spec/16, 17 and 18; R9), and the address map
(spec/01_architecture.md R33–R37). -/

namespace Sys2Proof.Machine

/-! ### IRQF -/

def State.irqfReg (s : State) (off : Nat) : Word :=
  let q := s.irqf
  match off with
  | 0x000 => word (at_ q.compat 31 + q.bp)
  | 0x004 => word (sumOf (fun (t : Fin 3) => at_ (!(q.stack.get t).isEmpty) t.val) (List.finRange 3))
  | 0x008 => q.err
  | 0x00C => q.coal
  | _ =>
    if 0x020 ≤ off ∧ off < 0x040 then q.pendWord ((off - 0x020) / 4)
    else if 0x100 ≤ off ∧ off < 0x1C0 then
      let t := Fin.ofNat 3 ((off - 0x100) / 0x40)
      match off % 0x40 with
      | 0x0C => q.runWord t
      | 0x10 => q.tstatWord (s.canWake t) t
      | _ => 0#32
    else if 0x800 ≤ off ∧ off < 0xC00 then q.entWord ((off - 0x800) / 4)
    else 0#32

def State.irqfWrite (s : State) (off : Nat) (v : Word) : State :=
  if off = 0x008 then { s with irqf := { s.irqf with err := w1c s.irqf.err v } } else s

/-! ### MGMT and the Alcove, for the MP -/

def State.mgmtReg (s : State) (off : Nat) : Word :=
  let m := s.mgmt
  match off with
  | 0x00 => word (at_ m.fwOk 31 + at_ m.recovery 30 + at_ s.time.ok 0)
  | 0x04 => word (m.therm.code * 2 ^ 30 + (wrapU 16 m.tj).toNat)
  | 0x08 => word s.nv.life.code
  | 0x0C => word s.nv.fuses
  | 0x10 => word (m.slot.val * 2 ^ 31 + at_ m.onTrial 30 + min 2 s.nv.fails * 2 ^ 28 + s.nv.boots % 2 ^ 24)
  | 0x14 => m.tamper
  | 0x18 => word (at_ m.alcRet 0)
  | _ =>
    if 0x20 ≤ off ∧ off < 0x48 then word (wrapU 16 (m.temps.get (Fin.ofNat 10 ((off - 0x20) / 4)))).toNat
    else if 0x60 ≤ off ∧ off < 0xA0 then
      let d := Fin.ofNat 16 ((off - 0x60) / 4)
      word (at_ (m.vmonOut.get d) 31 + m.volts.get d % 65536)
    else if 0xA0 ≤ off ∧ off < 0xC8 then word (m.pace.get (Fin.ofNat 10 ((off - 0xA0) / 4)) % 65536)
    else 0#32

def State.mgmtWrite (s : State) (off : Nat) (v : Word) : State :=
  if off = 0x14 then s.updMgmt fun m => { m with tamper := w1c m.tamper v }
  else if 0x60 ≤ off ∧ off < 0xA0 then
    let d := Fin.ofNat 16 ((off - 0x60) / 4)
    s.updMgmt fun m => { m with vmonOut := m.vmonOut.put d (m.vmonOut.get d && !bit v 31) }
  else s

/-! ### PWR -/


/-- PWRd_CTRL.on as it reads: on, whatever was last written. -/
def Domain.onBit (d : Domain) : Bool := d.st == .on || d.st == .waking

def isGal (d : Nat) : Bool := decide (4 ≤ d ∧ d ≤ 11)

def State.pwrReg (s : State) (off : Nat) : Word :=
  if off < 0x200 then
    let d := Fin.ofNat 16 (off / 0x20)
    let x := s.pwr.dom.get d
    match off % 0x20 with
    | 0x00 => word (at_ x.onBit 31 + at_ (isGal d.val && x.ret) 30)
    | 0x04 => word (x.st.code * 2 ^ 29 + at_ (s.vmonIn d (s.mgmt.volts.get d)) 28)
    | 0x08 => word (min 65535 x.wake)
    | 0x0C => x.swCnt
    | _ => 0#32
  else
    match off - 0x200 with
    | 0x00 => word (sumOf (fun (d : Fin 16) => at_ (s.pwr.is d .on) d.val
        + at_ (isGal d.val && s.pwr.is d .retained) (d.val + 12)) (List.finRange 16))
    | 0x04 => s.pwr.policy
    | 0x08 => s.pwr.err
    | 0x0C => s.pwr.errAddr
    | 0x10 => s.pwr.cause
    | 0x14 => s.pwr.rstCnt
    | _ => 0#32

def State.pwrWrite (s : State) (off : Nat) (v : Word) : State :=
  match off with
  | 0x204 => { s with pwr := { s.pwr with policy := v &&& 0x8000FFFF#32 } }
  | 0x208 => { s with pwr := { s.pwr with err := w1c s.pwr.err v } }
  | _ => s

/-! ### FENCE -/

def State.fenceReg (s : State) (off : Nat) : Word :=
  let recs := s.fence.recs.toList.filterMap id
  match off with
  | 0x00 => word ((recs.filter FenceRec.kept).length * 2 ^ 24 + recs.length * 2 ^ 16 + s.fence.next % 2 ^ 16)
  | 0x08 => word (at_ s.fence.busy.isSome 31 + s.fence.code)
  | _ =>
    if 0x10 ≤ off ∧ off < 0x30 then s.fence.cnt.get (Fin.ofNat 8 ((off - 0x10) / 4))
    else if 0x100 ≤ off ∧ off < 0x600 then
      match s.fence.recs.get (Fin.ofNat 160 ((off - 0x100) / 8)) with
      | some r => if off % 8 = 0 then word (leNat (r.bytes.take 4)) else if off % 8 = 4 then word (leNat (r.bytes.drop 4)) else 0#32
      | none => 0#32
    else 0#32

/-! ### The address map -/

/-- What an address lies in (R33). -/
inductive Block where
  | rom | wave | sram | sys
  | hall (h : Fin 8)
  | port (p : Fin 2)
  | gal (g : Fin 8)
  | sched | spec
  | memCh (c : Fin 4)
  | mem | out
  | outCh (n : Fin 64)
  | dac
  | dacCh (n : Fin 16)
  | tdm
  | ser (n : Fin 4)
  | time
  | tmr (n : Fin 16)
  | trg (t : Fin 8)
  | irqf | pwr | fence | mgmt | alcove
  deriving DecidableEq, Repr

/-- The block of an address and the offset in it (R33); none where it lies in no block. -/
def blockOf (a : Nat) : Option (Block × Nat) :=
  let within (base last : Nat) : Bool := decide (base ≤ a ∧ a ≤ last)
  let rep (base stride : Nat) : Nat × Nat := ((a - base) / stride, (a - base) % stride)
  if a ≤ 0x0000FFFF then some (.rom, a)
  else if within 0x10000000 0x1FFFFFFF then some (.wave, a - 0x10000000)
  else if within 0x20000000 0x2003FFFF then some (.sram, a - 0x20000000)
  else if within 0x40000000 0x400000FF then some (.sys, a - 0x40000000)
  else if within 0x40010000 0x400107FF then let r := rep 0x40010000 0x100; some (.hall (Fin.ofNat 8 r.1), r.2)
  else if within 0x40020000 0x400201FF then let r := rep 0x40020000 0x100; some (.port (Fin.ofNat 2 r.1), r.2)
  else if within 0x40100000 0x4017FFFF then let r := rep 0x40100000 0x10000; some (.gal (Fin.ofNat 8 r.1), r.2)
  else if within 0x40200000 0x4020FFFF then some (.sched, a - 0x40200000)
  else if within 0x40300000 0x4030FFFF then some (.spec, a - 0x40300000)
  else if within 0x40400000 0x40403FFF then let r := rep 0x40400000 0x1000; some (.memCh (Fin.ofNat 4 r.1), r.2)
  else if within 0x40404000 0x40408FFF then some (.mem, if a < 0x40408000 then 0xFFC else a - 0x40408000)
  else if within 0x40500000 0x40500FFF then some (.out, a - 0x40500000)
  else if within 0x40501000 0x40504FFF then let r := rep 0x40501000 0x100; some (.outCh (Fin.ofNat 64 r.1), r.2)
  else if within 0x40600000 0x406000FF then some (.dac, a - 0x40600000)
  else if within 0x40600100 0x406004FF then let r := rep 0x40600100 0x40; some (.dacCh (Fin.ofNat 16 r.1), r.2)
  else if within 0x40610000 0x40610FFF then some (.tdm, a - 0x40610000)
  else if within 0x40700000 0x407003FF then let r := rep 0x40700000 0x100; some (.ser (Fin.ofNat 4 r.1), r.2)
  else if within 0x40800000 0x408000FF then some (.time, a - 0x40800000)
  else if within 0x40800100 0x408004FF then let r := rep 0x40800100 0x40; some (.tmr (Fin.ofNat 16 r.1), r.2)
  else if within 0x40800800 0x408008FF then let r := rep 0x40800800 0x20; some (.trg (Fin.ofNat 8 r.1), r.2)
  else if within 0x40900000 0x40900FFF then some (.irqf, a - 0x40900000)
  else if within 0x40A00000 0x40A002FF then some (.pwr, a - 0x40A00000)
  else if within 0x40B00000 0x40B00FFF then some (.fence, a - 0x40B00000)
  else if within 0x4F000000 0x4F00FFFF then some (.mgmt, a - 0x4F000000)
  else if within 0x4F100000 0x4F103FFF then some (.alcove, a - 0x4F100000)
  else none

/-- The domain of a block (R16, R32); none for always-on logic (R473). R16 gives the HALL registers and SYS no subsystem, and R473
names neither among the always-on blocks: the model puts HALL, whose state SCHED and CP0 keep, into PD_CTRL, and SYS with the boot
ROM into none. DESIGN CHOICE (assumption log 49). -/
def Block.domain : Block → Nat → Option (Fin 16)
  | .sram, _ => some pdFoyer
  | .port _, _ => some pdFoyer
  | .hall _, _ => some pdCtrl
  | .gal g, off => if off < 0x1000 then none else some (pdGal g)
  | .sched, _ => some pdCtrl
  | .spec, _ => some pdSpec
  | .wave, _ => some pdMem
  | .memCh _, _ => some pdMem
  | .mem, _ => some pdMem
  | .out, _ => some pdOut
  | .outCh _, _ => some pdOut
  | .tdm, _ => some pdOut
  | .dacCh _, _ => some pdAna
  | .ser _, _ => some pdSerial
  | .irqf, _ => some pdCtrl
  | .dac, _ => some pdAna
  | .rom, _ => none
  | .sys, _ => none
  | .time, _ => none
  | .tmr _, _ => none
  | .trg _, _ => none
  | .pwr, _ => none
  | .fence, _ => none
  | .mgmt, _ => none
  | .alcove, _ => none

/-- A block of registers, not of memory (R8). -/
def Block.isReg : Block → Bool
  | .rom => false | .wave => false | .sram => false | .alcove => false
  | _ => true

/-- The register value that a plain read gives. -/
def State.regVal (s : State) (b : Block) (off : Nat) : Word :=
  match b with
  | .sys => s.sysReg off
  | .hall h => s.hallReg h.val off
  | .port p => s.portReg p off
  | .gal g => s.galReg g off
  | .sched => s.schedReg off
  | .spec => s.specReg off
  | .memCh c => s.memChReg c off
  | .mem => s.memReg off
  | .out => s.outReg off
  | .outCh n => s.chReg n off
  | .dac => s.dacReg off
  | .dacCh n => s.dacChReg n off
  | .tdm => s.tdmReg off
  | .ser n => s.serReg n off
  | .time => s.timeReg off
  | .tmr n => s.tmrReg n off
  | .trg t => s.trgReg t off
  | .irqf => s.irqfReg off
  | .pwr => s.pwrReg off
  | .fence => s.fenceReg off
  | .mgmt => s.mgmtReg off
  | .rom => 0#32
  | .wave => 0#32
  | .sram => 0#32
  | .alcove => 0#32

/-- A plain write: by the register's access code (R9). -/
def State.regPut (s : State) (b : Block) (off : Nat) (v : Word) : State :=
  match b with
  | .sys => s.sysWrite off v
  | .port p => s.portWrite p off v
  | .gal g => s.galWrite g off v
  | .sched => s.schedWrite off v
  | .spec => s.specWrite off v
  | .memCh c => s.memChWrite c off v
  | .mem => s.memWrite off v
  | .out => s.outWrite off v
  | .outCh n => s.chWrite n off v
  | .dac => s.dacWrite off v
  | .dacCh n => s.dacChWrite n off v
  | .tdm => s.tdmWrite off v
  | .ser n => s.serWrite n off v
  | .time => s.timeWrite off v
  | .tmr n => s.tmrWrite n off v
  | .trg t => s.trgWrite t off v
  | .irqf => s.irqfWrite off v
  | .pwr => s.pwrWrite off v
  | .mgmt => s.mgmtWrite off v
  | .hall _ => s
  | .fence => s
  | .rom => s
  | .wave => s
  | .sram => s
  | .alcove => s

end Sys2Proof.Machine
end

