-- ==== Sys2Proof/Machine/Rings.lean ====
section
/-! DEFINITION. The mailbox rings: posting completions and notices, the interrupt to the host, what CP0 finds in a command ring
(spec/12_host_ports_and_mailboxes.md R343–R351, spec/13_command_set.md R354–R362). -/

namespace Sys2Proof.Machine

/-! ### The interrupt to the host -/

/-- The count condition of R350. -/
def Ring.countDue (r : Ring) (asleep : Bool) : Bool := !asleep && decide (r.unread ≥ r.modCount) && decide (r.unread ≥ 1)

/-- The REFCLK edge at which the time condition of R350 is met. -/
def State.irqTime (s : State) (r : Ring) : Option Nat := r.posted.head?.map fun t => max t r.lastAck + s.edgesUs r.modTime

/-- The end of the 1 µs for which HA_IRQ_n stays deasserted after an acknowledge (R350). DEDUCED (assumption log 68). -/
def State.irqBlank (s : State) (r : Ring) : Nat := r.lastAck + s.edgesUs 1

/-- Whether HA_IRQ_n is to be asserted for an attached hall (R350). -/
def State.irqDue (s : State) (asleep : Bool) (r : Ring) : Bool :=
  decide (s.irqBlank r ≤ s.time.rclk) &&
  (r.countDue asleep || (match s.irqTime r with | some t => decide (t ≤ s.time.rclk) | none => false))

/-- HA_IRQ_n of a port is evaluated: in OPEN and UHP3 by R350, in UHP2 by MBX_STAT, deasserted in FENCED and DOWN.
DEDUCED (assumption log 67, 68). -/
def State.irqEval (s : State) (p : Fin 2) : State :=
  let q := s.port p
  let level := match q.st with
    | .opened => (match s.attached p with | some h => q.irq || s.irqDue q.asleep (s.hall h).ring | none => false)
    | .uhp3 => (match s.attached p with | some h => q.irq || s.irqDue q.asleep (s.hall h).ring | none => false)
    | .uhp2 => q.mbxStat.getLsbD 14 && q.mbxStat.getLsbD 13
    | .fenced => false
    | .down => false
  if level = q.irq then s else s.updPort p fun q => { q with irq := level }

/-- The port of a hall is evaluated. -/
def State.irqHall (s : State) (h : Fin 8) : State :=
  match (s.halls.get h).port? with | some p => s.irqEval p | none => s

/-! ### Posting -/

/-- Where a hall's rings lie in the Foyer SRAM. DESIGN CHOICE (assumption log 8). -/
def cmdBase (h : Fin 8) : Nat := h.val * 0x2000
/-- DESIGN CHOICE (assumption log 8). -/
def cplBase (h : Fin 8) : Nat := h.val * 0x2000 + 0x1000

/-- Where staging buffer `b` of port `p` lies in the Foyer SRAM. DESIGN CHOICE (assumption log 8). -/
def stageBase (p b : Fin 2) : Nat := 0x20000 + p.val * 0x10000 + b.val * 0x8000

def isNotice (x : Held) : Bool := x.bytes.getD 5 0#8 != 0#8
/-- The place of the lost-notice entry among what is held (R347, kind 4). -/
def isLost (x : Held) : Bool := x.bytes.getD 5 0#8 == 4#8
/-- The notices held (R347). -/
def Ring.notices (r : Ring) : Nat := (r.held.filter fun x => isNotice x && !isLost x).length

/-- Entries reserved for completions not yet posted (R346): of the command that waits, and of those behind held notices, each of
which keeps what was reserved for it (R347). DEDUCED (assumption log 66). -/
def Hall.reserved (h : Hall) : Nat :=
  (match h.wait with | some w => w.reserve | none => 0) + sumOf (fun x => if isNotice x then 0 else x.keep) h.ring.held

/-- The same, and those of the command that CP0 is carrying out. -/
def State.reserved (s : State) (h : Fin 8) : Nat :=
  (s.halls.get h).reserved + match s.foyer.taking with | some (k, n) => if k = h then n else 0 | none => 0

/-- CP0 carries out a command of hall `h`, with `need` entries reserved for its completion (R346). -/
def State.taking (s : State) (h : Fin 8) (need : Nat) : State := { s with foyer := { s.foyer with taking := some (h, need) } }

/-- CP0 has carried it out. -/
def State.taken (s : State) : State := { s with foyer := { s.foyer with taking := none } }

/-- The entries of a completion are written and become unread. -/
def State.postEntries (s : State) (h : Fin 8) : List (List Byte) → State
  | [] => s
  | e :: es =>
    let r := (s.halls.get h).ring
    let s := s.sramWrite (cplBase h + (r.cplTail.toNat % r.len) * 64) e
    State.postEntries (s.updRing h fun r => { r with cplTail := r.cplTail + 1, posted := r.posted ++ [s.time.rclk] }) h es

def chunks64 : Nat → List Byte → List (List Byte)
  | 0, _ => []
  | n + 1, bs => bs.take 64 :: chunks64 n (bs.drop 64)

/-- The lost-notice entry (R347, kind 4). -/
def lostEntry (n : Nat) : List Byte := [0#8, 0#8, 0#8, 0#8, 0#8, 4#8, 0#8, 0#8, byte n] ++ List.replicate 55 0#8

/-- The lost-notice entry is posted: it carries the count as it stands, which is then cleared (R347). -/
def State.postLost (s : State) (h : Fin 8) : State :=
  (s.postEntries h [lostEntry (s.halls.get h).ring.lost]).updRing h fun r => { r with lost := 0 }

/-- The answer of the TB-320 mailbox (R341): the TB-320 status, the 3.x status, the result fields as big-endian words (R7). -/
def mbxAnswer (q : Port) (status : Nat) (data : List Byte) : Port :=
  let st := if status ≤ 1 then 0 else 1
  let data := Config.tb320Result (q.mbxArg.get 0).toNat data
  let words := (BitVec.ofNat 16 st) :: (BitVec.ofNat 16 status) ::
    (List.range 30).map fun i => BitVec.ofNat 16 ((data.getD (2 * i) 0#8).toNat * 256 + (data.getD (2 * i + 1) 0#8).toNat)
  { q with mbxRsp := Vector.ofFn fun i => words.getD i.val 0,
           mbxStat := BitVec.ofNat 16 (2 ^ 14 + q.mbxStat.toNat / 2 ^ 13 % 2 * 2 ^ 13 + st) }

/-- The completion of a mailbox command, once posted, answers the mailbox: the firmware reads its status and result (R341).
DESIGN CHOICE (assumption log 21). -/
def State.answerBox (s : State) (x : Held) : State :=
  match x.box with
  | some p => (s.updPort p fun q => mbxAnswer q (x.bytes.getD 4 0#8).toNat (x.bytes.drop 8)).irqEval p
  | none => s

/-- An item is posted: its entries, then what its posting brings about (R338, R341, R347, R351). -/
def State.postItem (s : State) (h : Fin 8) (x : Held) : State :=
  if isLost x then s.postLost h else
  let s := s.postEntries h (chunks64 (x.bytes.length / 64) x.bytes)
  let s := match x.free with
    | some (p, b) => s.updPort p fun q => { q with bufs := q.bufs.put b false }
    | none => s
  let s := s.answerBox x
  if x.sleep then
    match (s.halls.get h).port? with
    | some p => s.updPort p fun q => { q with asleep := true }
    | none => s
  else s

/-- Held items are posted while they may be: a notice where an entry is neither taken nor reserved, a completion into the entries
reserved for it (R347). -/
def State.flush (h : Fin 8) : Nat → State → State
  | 0, s => s
  | n + 1, s =>
    let x := s.halls.get h
    match x.ring.held with
    | [] => s
    | i :: is =>
      if isNotice i = false ∨ x.ring.unread + s.reserved h < x.ring.len then
        State.flush h n ((s.updRing h fun r => { r with held := is }).postItem h i)
      else s

/-- The rings are served: where there is room the lost-notice entry takes its place behind what is held, and what is held is posted;
the host's interrupt is evaluated. DEDUCED (assumption log 66). -/
def State.pump (s : State) (h : Fin 8) : State :=
  let x := s.halls.get h
  let s := if x.ring.lost > 0 ∧ x.ring.unread + s.reserved h < x.ring.len ∧ x.ring.held.all (fun i => !isLost i) = true then
      s.updRing h fun r => { r with held := r.held ++ [{ bytes := lostEntry x.ring.lost, keep := 0, free := none, sleep := false, box := none }] }
    else s
  ((State.flush h 600 s)).irqHall h

/-- A notice of a hall, whatever the hall is bound to (R347, R366); a hall that no longer exists receives none (R211). -/
def State.notice (s : State) (h : Fin 8) (kind : Nat) (data : List Byte) : State :=
  let x := s.halls.get h
  if x.alive = false then s else
  if x.ring.notices ≥ 256 then s.updRing h fun r => { r with lost := min 255 (r.lost + 1), lostSum := min 0xFFFFFFFF (r.lostSum + 1) }
  else
    let bs := [0#8, 0#8, 0#8, 0#8, 0#8, byte kind, 0#8, 0#8] ++ data
    (s.updRing h fun r => { r with held := r.held ++
      [{ bytes := bs ++ List.replicate (64 - bs.length) 0#8, keep := 0, free := none, sleep := false, box := none }] }).pump h

/-- A voice notice (R211, R358). DEDUCED (assumption log 35). -/
def State.voiceNotice (s : State) (h : Nat) (key : Option Nat) (reason hvn time : Nat) : State :=
  s.notice (hallIx h) 1 (leBytes 2 (key.getD 0xFFFF) ++ [byte reason, 0#8] ++ leBytes 2 hvn ++ [0#8, 0#8] ++ leBytes 8 time)

/-- A page notice (R358). -/
def State.pageNotice (s : State) (h page cw event : Nat) : State :=
  s.notice (hallIx h) 2 (leBytes 2 page ++ leBytes 2 cw ++ [byte event])

/-- A unit notice (R358). -/
def State.unitNotice (s : State) (h unit index event : Nat) : State :=
  s.notice (hallIx h) 3 [byte unit, byte index, byte event]

/-! ### Commands -/

/-- A command that CP0 has taken: its header, its payload, how it came. -/
structure Cmd where
  op    : Nat
  tag   : Nat
  flags : Nat
  len   : Nat
  pay   : List Byte
  via   : Via
  deriving DecidableEq, Repr

def Cmd.quiet (c : Cmd) : Bool := c.flags / 2 % 2 == 1
def Cmd.immediate (c : Cmd) : Bool := c.flags % 2 == 1

/-- What a command comes to: a completion with a status and result data, or a wait (R362). -/
inductive Res where
  | done (s : State) (status : Nat) (data : List Byte)
  | wait (s : State) (what : WaitFor)

/-- The bytes of a completion (R357). -/
def completionBytes (op tag status : Nat) (data : List Byte) : List Byte :=
  let ext := (data.length - 56 + 63) / 64
  let bs := leBytes 2 op ++ leBytes 2 tag ++ [byte status, 0#8, byte ext, 0#8] ++ data
  bs ++ List.replicate (64 * (1 + ext) - bs.length) 0#8

/-- Every posted entry of a hall is acknowledged. -/
def State.ackAll (s : State) (h : Fin 8) : State := s.updRing h fun r => { r with cplHead := r.cplTail, posted := [] }

/-- The firmware reads a completion ring for the host of a TB-320 mailbox, which cannot: it acknowledges what is posted until nothing
is held (R341). DESIGN CHOICE (assumption log 21). -/
def State.readRing (h : Fin 8) : Nat → State → State
  | 0, s => s
  | n + 1, s =>
    let s := s.ackAll h
    if (s.halls.get h).ring.held = [] ∧ (s.halls.get h).ring.lost = 0 then s else State.readRing h n (s.pump h)

/-- A command completes (R346, R347, R356): its completion is posted behind what is held, `keep` entries at least staying reserved for
it; that of a mailbox command is read by the firmware, which answers the mailbox with it (R341). -/
def State.complete (s : State) (h : Fin 8) (op tag : Nat) (quiet : Bool) (via : Via) (status : Nat) (data : List Byte)
    (keep : Nat := 1) : State :=
  let free := match via with | .bulk p b => some (p, b) | _ => none
  let box := match via with | .mbx p => some p | _ => none
  let sleep := op == 0x0105 && status == 0
  let bs := if quiet = true ∧ status = 0 then [] else completionBytes op tag status data
  let x : Held :=
    { bytes := bs, keep := max keep (bs.length / 64), free := free, sleep := sleep, box := box }
  let s := if x.bytes = [] then s.postItem h x
    else (s.updRing h fun r => { r with held := r.held ++ [x] }).pump h
  if box.isSome then State.readRing h 64 s else s

/-- The command that waits completes. -/
def State.endWait (s : State) (h : Fin 8) (status : Nat) (data : List Byte) : State :=
  match (s.halls.get h).wait with
  | none => s
  | some w => (s.updHall h fun x => { x with wait := none }).complete h w.op w.tag w.quiet w.via status data w.reserve

/-- The entry of the command ring at an index. -/
def State.cmdEntry (s : State) (h : Fin 8) (i : BitVec 16) : List Byte :=
  s.sramRead (cmdBase h + (i.toNat % (s.halls.get h).ring.len) * 64) 64

/-- The bytes of a command's entries (R354). -/
def Cmd.entry (c : Cmd) : List Byte :=
  leBytes 2 c.op ++ leBytes 2 c.len ++ leBytes 2 c.tag ++ leBytes 2 c.flags ++ c.pay

/-- The entries that a payload of `len` bytes takes (R355). -/
def entriesOf (len : Nat) : Nat := if len ≤ 56 then 1 else 1 + (len - 56 + 63) / 64

/-- The firmware posts a command in a hall's command ring (R341): `k` of its entries are written. -/
def State.postCmd (s : State) (h : Fin 8) (c : Cmd) : Nat → State
  | 0 => s
  | k + 1 =>
    let s := s.postCmd h c k
    let r := (s.halls.get h).ring
    let e := (c.entry.drop (64 * k)).take 64
    (s.sramWrite (cmdBase h + (r.cmdTail.toNat % r.len) * 64) (e ++ List.replicate (64 - e.length) 0#8)).updRing h fun r =>
      { r with cmdTail := r.cmdTail + 1 }

/-- What CP0 finds next for a hall: a BULK, a command that is whole in the ring with the entries it takes, or one too long for
the ring, of which it takes one entry (R338, R355). -/
inductive NextCmd where
  | none
  | bulk (j : BulkJob)
  | cmd (c : Cmd) (entries : Nat)
  | tooLong (c : Cmd)
  deriving DecidableEq, Repr

/-- The command at the head of a hall's ring. -/
def State.ringCmd (s : State) (h : Fin 8) (x : Hall) : NextCmd :=
  if x.ring.waiting = 0 then .none else
  let e := s.cmdEntry h x.ring.cmdHead
  let len := leNat ((e.drop 2).take 2)
  let n := entriesOf len
  let rest := (List.range (n - 1)).flatMap fun k => s.cmdEntry h (x.ring.cmdHead + BitVec.ofNat 16 (k + 1))
  let c : Cmd := { op := leNat (e.take 2), tag := leNat ((e.drop 4).take 2), flags := leNat ((e.drop 6).take 2), len := len,
                   pay := ((e.drop 8) ++ rest).take len, via := .ring }
  if n > x.ring.len then .tooLong { c with pay := (e.drop 8).take len }
  else if n ≤ x.ring.waiting then .cmd c n else .none

/-- What CP0 finds next for a hall. A BULK is next once CP0 has taken every entry that a doorbell covered before it; one that came
between the entries of a command follows that command. DEDUCED (assumption log 69). -/
def State.nextCmd (s : State) (h : Fin 8) : NextCmd :=
  let x := s.halls.get h
  if x.alive = false ∨ x.wait.isSome = true then .none else
  match x.bulks.head? with
  | some j => if (x.ring.cmdHead - j.after).toNat < 0x8000 then .bulk j else s.ringCmd h x
  | none => s.ringCmd h x

end Sys2Proof.Machine
end

