-- ==== Sys2Proof/Machine/Events.lean ====
section
/-! DEFINITION. Events at SCHED: their arrival (spec/02_time_and_determinism.md R46, R51–R57), those of trigger mapping on their way
(spec/13_command_set.md R386, spec/15_timebase_timers_triggers.md R431) and the passing of time that brings them, what the close of a frame's list
does with those of the flight (R49; spec/07_voice_allocation_and_capacity.md R197–R211, spec/13_command_set.md R378–R380), the
events outside the flight (spec/10_output_chain.md R280, R283, R286–R288, R297), the keepalive (R212–R214). -/

namespace Sys2Proof.Machine

/-! ### Arrival -/

/-- An event time is acceptable (R46): bits 63:57 zero, at most 2^32 es beyond the live ET. -/
def State.timeOk (s : State) (t : Nat) : Bool := decide (t < 2 ^ 57) && decide (t ≤ s.time.et + 2 ^ 41)

/-- There is room in the hall's event queue (R22). -/
def State.queueRoom (s : State) (h : Fin 8) : Bool := decide ((s.halls.get h).queue.length < 1024)

/-- A hall is fenced at the present. -/
def State.hallFenced (s : State) (h : Fin 8) : Bool := Stepped.at false (s.halls.get h).fenced (s.frameOf s.time.et)

/-- A late event is recorded (R55): the count, its source, SCHED_GUAR.late, and a log entry, for a hall one per frame. -/
def State.noteLate (s : State) (h : Fin 8) (src org : Nat) : State :=
  let f := s.frameOf s.time.et
  let now := word (src * 2 ^ 19 + h.val * 2 ^ 16 + org % 2 ^ 16)
  let s := { s with sched := { s.sched with lateCnt := satInc s.sched.lateCnt 1, lateLast := now } }.guar 2
  let logged := (s.halls.get h).lateLog == some f
  let s := s.updHall h fun x => { x with lateCnt := satInc x.lateCnt 1, lateLog := some f }
  if logged then s else s.log 0x0201 (some h.val) (leBytes 4 now.toNat)

/-- SCHED receives an event of a hall from a source (0 ring, 1 trigger mapping, 2 serial role) with origin time `a` and event time
`t`; `org` is what SCHED_LATE_LAST.tag names it by: the command's tag, the trigger, the port: the state with the event queued, and
its applied time and whether it was late (R52–R55). DEDUCED (assumption log 30). -/
def State.arrive (s : State) (h : Fin 8) (src tag org a t : Nat) (kind : EvKind) : State × Nat × Bool :=
  let late := decide (t < a + s.lead) || decide (t < s.openAt)
  let at' := if late then max t s.openAt else t
  let e : Ev := { hall := h.val, time := at', req := t, late := late, src := src, seq := s.sched.seq, tag := tag, kind := kind }
  let s := { s with sched := { s.sched with seq := s.sched.seq + 1 } }
  let s := s.updHall h fun x => { x with queue := evInsert e x.queue, qHigh := max x.qHigh (x.queue.length + 1) }
  (if late then s.noteLate h src org else s, at', late)

/-- An event of origin time `a` and event time `t` goes to SCHED, where its hall takes it: the status. -/
def State.deliver (s : State) (h : Fin 8) (src tag org a t : Nat) (kind : EvKind) : State × Nat :=
  if (s.halls.get h).alive = false ∨ s.hallFenced h = true then (s, 0x20)
  else if s.timeOk t = false then (s, 0x16)
  else if s.queueRoom h = false then (s, 0x13)
  else
    let r := s.arrive h src tag org a t kind
    (r.1, if r.2.2 then 1 else 0)

/-! ### Events of trigger mapping on their way (R386, R431) -/

/-- A mapped event is dropped, and counted at its trigger. -/
def State.dropMapped (s : State) (m : Mapped) : State :=
  s.updTrg (Fin.ofNat 8 m.trig) fun g => { g with drop := satInc g.drop 1 }

/-- The mapped events of a hall that closes are dropped on their way. DESIGN CHOICE (assumption log 91). -/
def State.dropMappedOf (s : State) (h : Fin 8) : State :=
  let of' (m : Mapped) : Bool := m.hall == h.val
  (s.sched.mapped.filter of').foldl State.dropMapped
    { s with sched := { s.sched with mapped := s.sched.mapped.filter fun m => !of' m } }

/-- A mapped event reaches SCHED. -/
def State.forwardOne (s : State) (m : Mapped) : State :=
  let r := s.deliver (hallIx m.hall) 1 m.tag m.trig m.stamp m.time m.kind
  if r.2 ≤ 1 then r.1 else r.1.dropMapped m

/-- The mapped events whose arrival lies before the present reach SCHED, in their order. DESIGN CHOICE (assumption log 91). -/
def State.forward (s : State) : State :=
  let due (m : Mapped) : Bool := decide (m.stamp + mappedDelay < s.time.et)
  (s.sched.mapped.filter due).foldl State.forwardOne
    { s with sched := { s.sched with mapped := s.sched.mapped.filter fun m => !due m } }

/-- `k` REFCLK edges pass, and mapped events arrive on the way. -/
def State.pass (s : State) (k : Nat) : State := (s.advance k).forward

/-- Engine time runs on to `t`, and mapped events arrive on the way. -/
def State.passTo (s : State) (t : Nat) : State := (s.advanceTo t).forward

/-- What the block does when no command waits: one REFCLK edge passes. DESIGN CHOICE (assumption log 1, 102). -/
def State.idle (s : State) : State := s.pass 1

/-! ### Voices -/

def State.mapVoices (s : State) (f : Voice → Voice) : State := { s with voices := s.voices.map f }

/-- The voice that a key names: the one that holds it and has not ended. -/
def State.keyVoice (s : State) (h k : Nat) : Option Voice := s.voices.find? fun v => v.hall == h && v.key == some k && v.alive

/-- Whether an event of hall `h` addresses a voice (R379, R380, R401). SCHED goes by the voices that it counts, not by what an engine
has rendered already (R199). DEDUCED (assumption log 32). -/
def Who.hits (w : Who) (h : Nat) (v : Voice) : Bool :=
  v.hall == h && v.counted && (match w with
    | .key k => v.key == some k
    | .all => true
    | .range lo hi => (match v.key with | some k => decide (lo ≤ k ∧ k ≤ hi) | none => false)
    | .prog handle => v.handle == handle)

/-- A release at `t` (R173): the first is the one that counts. -/
def Voice.releaseAt (t : Nat) (vel : Int) (v : Voice) : Voice :=
  if v.modn.release.isNone then { v with modn := { v.modn with release := some (t, vel) } } else v

/-- A stop that SCHED decides frees the voice's resources at the decision, whether or not an engine has rendered an earlier end by
then, so that the count does not depend on pace (R199). DEDUCED (assumption log 32). -/
def Voice.stopBy (n t : Nat) (why : StopWhy) (v : Voice) : Voice := { v.addStop { sample := n, time := t, why := why } with counted := false }

/-- ⌈T/512⌉. -/
def esUp (t : Nat) : Nat := (t + 511) / 512

/-- A slot of a program that the host may set, or the pressure attribute (R169, R186). -/
def slotOk (p : Prog) (slot : Nat) : Bool := slot == 0xFE || (match p.slots[slot]? with | some sl => sl.hostSet | none => false)

/-- A parameter change reaches a voice (R169–R172, R380): one whose slot the voice's program lacks has no effect. -/
def Voice.param (e : Ev) (slot : Nat) (x : Int) (ramp : Option Nat) (v : Voice) : Voice :=
  let ev (y : Int) : LineEv := { src := .event, key := e.lineKey, t := e.time, ramp := ramp.isSome, v := y, dur := ramp.getD 0 }
  if slot = 0xFE then { v with modn := { v.modn with press := lineInsert (ev (sat24 x)) v.modn.press } }
  else match v.prog.slots[slot]? with
    | some sl =>
      if sl.hostSet then
        let others := v.modn.params.filter fun y => y.1 != slot
        let mine := lineInsert (ev (sl.fmt.lim x)) ((v.modn.params.filter fun y => y.1 == slot).map (·.2))
        { v with modn := { v.modn with params := others ++ mine.map fun l => (slot, l) } }
      else v
    | none => v

/-- A voice that begins in frame `F` as a start is placed (R197, R200, R378). -/
def voiceOf (F : Nat) (e : Ev) (x : StartSpec) (p : ProgEnt) (prio he slot : Nat) : Voice :=
  { hall := e.hall, he := he, slot := slot, key := some x.key, lost := none, prog := p.prog, pages := p.pages, handle := handleOf p.idx p.gen,
    prio := prio, tag := e.tag, reqEvt := e.req, tStart := e.time, notify := x.notify, stop := none, ended := none, counted := true,
    started := false, last := [], next := F, flight := VFlight.empty,
    modn := { hall := e.hall, tStart := e.time, attrs := x.attrs, params := [], press := [], release := none, envs := [], lfos := [],
              rand := randVals e.tag e.hall e.req, vals := [] } }

/-! ### Placement (R202–R207) -/

/-- The hall engine on which a start is placed (R203): of those that fit the one with the fewest committed steps, the lowest
number on a tie. -/
def State.bestFit (s : State) (h : Hall) (hall : Nat) (p : Prog) : Option HallEng :=
  let es := h.engs.filter fun x => s.fits h x p (s.heVoices hall x.he)
  es.foldl (fun (b : Option HallEng) x =>
    match b with
    | none => some x
    | some y =>
      let cx := stepsOf s.fl (s.heVoices hall x.he)
      let cy := stepsOf s.fl (s.heVoices hall y.he)
      if cx < cy ∨ (cx = cy ∧ x.he < y.he) then some x else some y) none

/-- The stealing order (R204). -/
def Voice.stealBefore (a b : Voice) : Bool := decide ([a.prio, a.tStart, a.num] < [b.prio, b.tStart, b.num])

def stealInsert (v : Voice) : List Voice → List Voice
  | [] => [v]
  | w :: ws => if v.stealBefore w then v :: w :: ws else w :: stealInsert v ws

/-- The candidates of a start of priority `prio`, in the stealing order (R204, R510). DEDUCED (assumption log 32). -/
def State.candidates (s : State) (hall prio : Nat) : List Voice :=
  (s.voices.filter fun v => v.hall == hall && v.counted && v.stop.isNone && decide (v.prio ≤ prio)).foldl
    (fun l v => stealInsert v l) []

/-- The walk of R204: the hall engine that wins and its marked voices. -/
def State.walk (s : State) (h : Hall) (hall : Nat) (p : Prog) : List Voice → List Voice → Option (HallEng × List Voice)
  | _, [] => none
  | marks, v :: vs =>
    let marks := marks ++ [v]
    match h.engs.find? fun x => x.he == v.he with
    | some x =>
      let here := marks.filter fun m => m.he == v.he
      if s.fits h x p ((s.heVoices hall v.he).filter fun w => !(here.any fun m => m.slot == w.slot)) then some (x, here)
      else State.walk s h hall p marks vs
    | none => State.walk s h hall p marks vs

/-- A start of frame `F` takes its place on a hall engine, in its lowest free slot. -/
def State.putVoice (s : State) (F : Nat) (e : Ev) (x : StartSpec) (p : ProgEnt) (prio : Nat) (h : Hall) (he : HallEng) : State :=
  let v := voiceOf F e x p prio he.he (freeSlot h.hs (s.heVoices e.hall he.he))
  let s := { s with voices := s.voices ++ [v] }
  let s := s.updHall (hallIx e.hall) fun y => { y with startCnt := satInc y.startCnt 1 }
  if s.sched.measured then s.guar 1 else s

/-- A start of frame `F` is decided (R200, R202–R206). DEDUCED (assumption log 31, 35). -/
def State.place (s : State) (F : Nat) (e : Ev) (x : StartSpec) : State :=
  let h := s.hall e.hall
  match h.startProg? x.handle with
  | none =>
    match h.ser? with
    | some n => if x.handle < 65536 then s else (s.updSer n fun p => { p with dropCnt := satInc p.dropCnt 1 }).serErr n 64
    | none => s
  | some p =>
    let s := s.mapVoices fun v =>
      if Who.hits (.key x.key) e.hall v then { v.releaseAt e.time 0 with key := none, lost := some (x.key, e.time) } else v
    let prio := x.prio.getD p.prog.prio
    match s.bestFit h e.hall p.prog with
    | some he => s.putVoice F e x p prio h he
    | none =>
      match s.walk h e.hall p.prog [] (s.candidates e.hall prio) with
      | some (he, marks) =>
        let n := F * s.fl
        let s := s.mapVoices fun v =>
          if v.hall = e.hall ∧ v.he = he.he ∧ v.counted = true ∧ (marks.any fun m => m.slot == v.slot) = true
          then v.stopBy n (n * 512) .steal else v
        { s with voices := s.voices.filter fun v => v.counted || v.ended.isNone }.putVoice F e x p prio h he
      | none =>
        (s.updHall (hallIx e.hall) fun y => { y with refuseCnt := satInc y.refuseCnt 1 }).voiceNotice e.hall (some x.key) 1 0xFFFF e.time

/-! ### The close of an event list (R49, R57) -/

/-- A controller or tempo change of a hall (R174, R175). -/
def Hall.line (h : Hall) (e : Ev) : EvKind → Hall
  | .ctl k v ramp =>
    { h with ctl := h.ctl.upd (Fin.ofNat 32 k) fun c =>
        (c.1, lineInsert { src := .event, key := e.lineKey, t := e.time, ramp := ramp.isSome, v := sat24 v, dur := ramp.getD 0 } c.2) }
  | .tempo v =>
    { h with tempo := (h.tempo.1, lineInsert { src := .event, key := e.lineKey, t := e.time, ramp := false, v := clamp 2000 40000 v, dur := 0 } h.tempo.2) }
  | _ => h

/-- An event of the flight takes effect in the list of frame `F`. -/
def State.applyFlight (s : State) (F : Nat) (e : Ev) : State :=
  match e.kind with
  | .start x => s.place F e x
  | .release w vel => s.mapVoices fun v => if w.hits e.hall v then v.releaseAt e.time (sat24 vel) else v
  | .kill w => s.mapVoices fun v => if w.hits e.hall v then v.stopBy (esUp e.time) e.time .kill else v
  | .param w slot x ramp => s.mapVoices fun v => if w.hits e.hall v then v.param e slot x ramp else v
  | k => s.updHall (hallIx e.hall) fun h => h.line e k

/-- A page is given to a wipe (R255); a fence of it ends with its poisoned flag (R484). DEDUCED (assumption log 100). -/
def State.wipePage (s : State) (p : Nat) : State := { s with mem := s.mem.wipe p }.fenceLift 6 p

/-- The pages of a stored form, or a host's own, are released. -/
def State.wipePages (s : State) (ps : List Nat) : State := ps.foldl State.wipePage s

/-- Pages are released whose wipe begins once the voices that read them have stopped (R223). -/
def State.wipeLate (s : State) (ps : List Nat) : State :=
  ps.foldl (fun s p => { s with mem := s.mem.wipeLater p }.fenceLift 6 p) s

/-- Programs that drain and have no voice and no queued start left return their pages and index (R88); the pages are wiped. -/
def State.reap (s : State) (h : Fin 8) : State :=
  let x := s.halls.get h
  let busy (p : ProgEnt) : Bool := !p.draining ||
    (s.voices.any fun v => v.hall == h.val && v.handle == handleOf p.idx p.gen && v.ended.isNone) ||
    (x.queue.any fun e => match e.kind with | .start y => y.handle == handleOf p.idx p.gen | _ => false)
  let gone := x.progs.filter fun p => !busy p
  if gone = [] then s else
  (s.wipePages (gone.flatMap (·.pages))).updHall h fun x => { x with progs := x.progs.filter busy }

def State.reapAll (s : State) : State := (List.finRange 8).foldl State.reap s

/-- Draining hall engines that SCHED's accounting finds empty are unmapped from frame `F` on (R219); what a voice that has stopped
still has to render of earlier frames it renders where it was. -/
def State.undrain (s : State) (F : Nat) : State :=
  let after (n : Fin 8) (x : HallEng) : Option HallEng :=
    if x.drain = false ∨ (s.heVoices n.val x.he).isEmpty = false then some x
    else if x.left then
      if s.voices.any fun v => v.hall == n.val && v.he == x.he && v.ended.isNone then some x else none
    else some { x with left := true, phys := Stepped.set x.phys F none }
  { s with halls := Vector.ofFn fun (n : Fin 8) => { (s.halls.get n) with engs := (s.halls.get n).engs.filterMap (after n) } }

/-- SCHED's accounting frees voices that ended four frames before `F` (R199). -/
def State.freeEnded (s : State) (F : Nat) : State :=
  { s with voices := s.voices.filter fun v =>
      match v.ended with
      | some x => v.counted && decide (F < x.frame + 4)
      | none => true }

/-- The events of the flight that take effect before `t`, in their order, and the halls without them. -/
def State.takeFlight (s : State) (t : Nat) : List Ev × State :=
  let due (e : Ev) : Bool := e.kind.inFlight && decide (e.effTime < t)
  (evSort (s.halls.toList.flatMap fun h => h.queue.filter due),
   { s with halls := s.halls.map (fun (h : Hall) => { h with queue := h.queue.filter fun e => !due e }) })

/-- The event list of frame `F` closes (R49, R199, R202). -/
def State.closeList (s : State) (F : Nat) : State :=
  let s := (s.freeEnded F).undrain F
  let (es, s) := s.takeFlight (s.start (F + 1))
  let s := es.foldl (fun s e => s.applyFlight F e) s
  ({ s with sched := { s.sched with nextClose := F + 1, wait := false } }).reapAll

/-! ### Events outside the flight -/

/-- The first frame that starts at or after `t`. -/
def State.frameUp (s : State) (t : Nat) : Nat := (t + s.fl * 512 - 1) / (s.fl * 512)

/-- An event outside the flight takes effect (R280, R283, R286, R288, R297, R318, R381). DEDUCED (assumption log 45). -/
def State.applyOther (s : State) (e : Ev) : State :=
  let f := s.frameUp e.time
  let edge := e.time + 3 * s.fl * 512
  match e.kind with
  | .inRoute k lane slot bus level =>
    s.setRoute k f { cfg := word (2 ^ 31 + e.hall * 2 ^ 28 + lane * 2 ^ 14 + slot * 2 ^ 10 + bus), lvl := level }
  | .inFree k =>
    let r := Stepped.now { cfg := 0#32, lvl := 0#32 } (s.mez.routes.get (Fin.ofNat 32 k))
    if bit r.cfg 31 = true ∧ bits r.cfg 30 28 = e.hall then s.setRoute k f { cfg := 0#32, lvl := 0#32 } else s
  | .tdmDest slot en sel =>
    { s with tdm := { s.tdm with sets := s.tdm.sets ++ [{ time := edge, slot := slot, val := if en then word (2 ^ 31 + sel) else 0#32 }] } }
  | .dacDest ch selEn range sel en =>
    s.updDac (Fin.ofNat 16 ch) fun c =>
      { c with dests := c.dests ++ [{ time := edge, sel := sel, selEn := selEn, range := some range, en := some en }] }
  | .sync mask =>
    let ch := Vector.ofFn fun (n : Fin 64) =>
      let c := s.out.ch.get n
      if mask.getLsbD n.val = true then { c with syncs := c.syncs ++ [f * s.fl] } else c
    { s with out := { s.out with ch := ch } }
  | .eqSwap bus xf => s.updOut (Fin.ofNat 64 bus) fun c => { c with swaps := c.swaps ++ [(esUp e.time, xf)] }
  | .delaySet bus dInt dFrac => s.updOut (Fin.ofNat 64 bus) fun c => c.setDelay (f * s.fl) dInt dFrac
  | _ => s

/-- The events outside the flight that are due by `t` take effect, in their order (R54). -/
def State.settleBy (s : State) (t : Nat) : State :=
  let due (e : Ev) : Bool := !e.kind.inFlight && decide (e.time ≤ t)
  let es := evSort (s.halls.toList.flatMap fun h => h.queue.filter due)
  if es = [] then s else
  es.foldl State.applyOther { s with halls := s.halls.map (fun (h : Hall) => { h with queue := h.queue.filter fun e => !due e }) }

/-- Those due by the present. -/
def State.settle (s : State) : State := s.settleBy s.time.et

/-- Time runs on to `t`, and what is due by then outside the flight takes effect. DESIGN CHOICE (assumption log 1). -/
def State.runTo (s : State) (t : Nat) : State := (s.passTo t).settle

/-- When the next event outside the flight is due. -/
def State.nextOther (s : State) : Option Nat :=
  (s.halls.toList.flatMap fun h => h.queue.filter fun e => !e.kind.inFlight).foldl
    (fun (b : Option Nat) e => match b with | some t => some (min t e.time) | none => some e.time) none

/-! ### The keepalive (R212–R214) -/

/-- Valid traffic on a hall's binding (R212, R214, R369). -/
def State.traffic (s : State) (h : Fin 8) : State :=
  s.updHall h fun x => { x with kaLast := s.time.rclk, kaLapsed := false, kaSusp := false }

/-- A hall falls silent (R213). DEDUCED (assumption log 31). -/
def State.lapse (s : State) (h : Fin 8) : State :=
  let t := s.openAt
  let s := s.mapVoices fun v => if v.hall = h.val ∧ v.counted = true then v.releaseAt t 0 else v
  let s := s.updHall h fun x => { x with queue := [], kaLapsed := true, lapses := x.lapses ++ [(s.time.rclk, t)] }
  (s.log 0x0203 (some h.val) []).reap h

/-- The keepalive timeout of a hall has run out. -/
def State.silent (s : State) (h : Fin 8) : Bool :=
  let x := s.halls.get h
  x.alive && decide (x.kaMs ≠ 0) && !x.kaSusp && !x.kaLapsed && decide (s.time.rclk ≥ x.kaLast + s.edgesUs (1000 * x.kaMs))

end Sys2Proof.Machine
end

