-- ==== Sys2Proof/Machine/PowerOps.lean ====
section
/-! DEFINITION. The switching of power domains (spec/18_power_reset_faults.md R472–R476) and the release of SPEC channels and
analysers (spec/08_spectral_unit.md R225, R242, R250). -/

namespace Sys2Proof.Machine

/-- The maximum wake of a domain in µs (Wake times). -/
def wakeMax (d : Fin 16) (fromRet : Bool) : Nat :=
  if isGal d.val then (if fromRet then 40 else 250) else if d = pdSpec then 150 else if d = pdSerial then 50 else 1000

/-- A domain's wake is requested. DEDUCED (assumption log 97). -/
def State.switchOn (s : State) (d : Fin 16) : State :=
  s.updDom d fun x =>
    match x.st with
    | .off => { x with st := .waking, since := s.time.rclk, fromRet := false }
    | .retained => { x with st := .waking, since := s.time.rclk, fromRet := true }
    | .goingOff => { x with st := .waking, since := s.time.rclk, fromRet := false }
    | .waking => x
    | .on => x

/-- A domain is isolated, its supply about to be switched off (R473); with PD_ANA goes the VREF buffer (R32, R313). -/
def State.switchOff (s : State) (d : Fin 16) : State :=
  (if d = pdAna then { s with dac := { s.dac with vrefOk := false } } else s).updDom d fun x => match x.st with
    | .on => { x with st := .goingOff }
    | .waking => { x with st := .goingOff }
    | .off => x
    | .retained => x
    | .goingOff => x

/-! ### SPEC channels and analysers -/

/-- PD_SPEC is powered down where no work is left (R225); while it wakes, this is put off until it is on. DEDUCED (assumption log 97). -/
def State.specRest (s : State) : State := if s.spec.idle = true ∧ s.pwr.on pdSpec = true then s.switchOff pdSpec else s

/-- A channel is released (R242): its returns fade out from the next frame boundary. -/
def State.convRelease (s : State) (k : Fin 8) : State :=
  let c := s.spec.ch.get k
  if c.owner.isNone = true ∨ c.leaving = true then s else
  let s := match c.build with | some b => s.wipePages b.pages | none => s
  s.updSpec k fun c => { c with leaving := true, build := none, fade := some (c.fade.getD (s.nextFrame * s.fl)) }

/-- The length of a fade and of a tail (R208). -/
def State.tailLen (s : State) : Nat := if s.fe882 then 176 else 192

/-- What a working-memory error struck of a unit is forgotten: the unit no longer does the work that read it (R249). -/
def State.unstruck (s : State) (u : WmUnit) : State :=
  { s with spec := { s.spec with struck := s.spec.struck.filter fun x => x != u } }

/-- A channel becomes free: its pages are wiped, its return levels cleared. -/
def State.convFree (s : State) (k : Fin 8) : State :=
  let s := s.wipePages (s.spec.ch.get k).allPages
  (({ s with mez := { s.mez with rets := s.mez.rets.put k [] } }.updSpec k fun _ => SpecCh.reset).unstruck (.ch k)).specRest

/-- Released channels whose fade the Mezzanine has used up become free (R242). -/
def State.convFades (s : State) : State :=
  (List.finRange 8).foldl (fun s k =>
    let c := s.spec.ch.get k
    match c.fade with
    | some n => if c.leaving = true ∧ s.mez.next * s.fl ≥ n + s.tailLen then s.convFree k else s
    | none => s) s

/-- An analyser is released. -/
def State.anRelease (s : State) (a : Fin 2) : State := ((s.updAn a fun _ => Analyser.reset).unstruck (.an a)).specRest

/-- The channels and analysers of a hall are released (R242). -/
def State.specReleaseHall (s : State) (h : Nat) : State :=
  let s := (List.finRange 8).foldl (fun s k => if (s.spec.ch.get k).owner = some h then s.convRelease k else s) s
  (List.finRange 2).foldl (fun s a =>
    let c := (s.spec.an.get a).cfg
    if bit c 31 = true ∧ bits c 28 26 = h then s.anRelease a else s) s

/-- The halls that own a channel or an analyser are told (R250). -/
def State.specTell (s : State) (event : Nat) : State :=
  let s := (List.finRange 8).foldl (fun s k => match (s.spec.ch.get k).owner with
    | some h => s.unitNotice h 0 k.val event | none => s) s
  (List.finRange 2).foldl (fun s a =>
    let c := (s.spec.an.get a).cfg
    if bit c 31 then s.unitNotice (bits c 28 26) 1 a.val event else s) s

/-- SPEC halts (R250). -/
def State.specHalt (s : State) : State :=
  let n := s.nextFrame * s.fl
  let ch := s.spec.ch.map (fun (c : SpecCh) => if c.owner.isSome then { c with fade := some (c.fade.getD n) } else c)
  let an := s.spec.an.map (fun (a : Analyser) => { a with tracks := [], out := [] })
  let s := { s with spec := { s.spec with halted := true, ueAt := [], struck := [], ch := ch, an := an } }
  ((s.log 0x0402 none []).raise 97).specTell 2

end Sys2Proof.Machine
end

