-- ==== Sys2Proof/Machine/Fences.lean ====
section
/-! DEFINITION. Fences and what ends a voice (spec/18_power_reset_faults.md R482–R490,
spec/07_voice_allocation_and_capacity.md R208–R211, R220–R222), and what reads of wave memory bring about
(spec/09_wave_memory.md R264–R268). -/

namespace Sys2Proof.Machine

/-! ### The end of a voice -/

/-- The notice reason of a stop (R211); none for a hall close. -/
def StopWhy.reason (notify : Bool) : StopWhy → Option Nat
  | .steal => some 2
  | .kill => if notify then some 0 else none
  | .keepalive => some 3
  | .fence => some 4
  | .poison => some 5
  | .close => none

/-- The key that a voice held at `t` (R200). -/
def Voice.keyAt (v : Voice) (t : Nat) : Option Nat :=
  match v.lost with
  | some (k, u) => if t ≤ u then some k else none
  | none => v.key

/-- The key that a stop's notice carries: that of a stolen voice as the steal found it, of another as it was at its end (R200,
R206, R211). -/
def Voice.keyOfStop (v : Voice) (x : Stop) : Option Nat :=
  match x.why with
  | .steal => v.key
  | .kill => v.keyAt x.time
  | .keepalive => v.keyAt x.time
  | .fence => v.keyAt x.time
  | .poison => v.keyAt x.time
  | .close => v.keyAt x.time

/-- A voice's stop takes effect (R208, R211, R220, R510): its tail where it has sounded, that of a hall that has closed since keeping
the write mask that the hall had (R209), its notice, its counts.
DEDUCED (assumption log 33). -/
def State.endVoice (s : State) (v : Voice) (x : Stop) : State × Voice :=
  let h := hallIx v.hall
  let st := v.prog.sends.zip v.last
  let s := if v.started = true ∧ st ≠ [] then
      let t : Tail := { start := x.sample, hall := v.hall, num := v.num, sends := st.map (·.1), terms := st.map (·.2),
                        closed := if (s.hall v.hall).alive then none else some (s.hall v.hall).mask }
      { s with mez := { s.mez with tails := s.mez.tails ++ [t] } }
    else s
  let s := match x.why with
    | .steal => s.updHall h fun y => { y with stealCnt := satInc y.stealCnt 1 }
    | .fence => s.updHall h fun y => { y with lostCnt := satInc y.lostCnt 1 }
    | .poison => s.updHall h fun y => { y with lostCnt := satInc y.lostCnt 1 }
    | .kill => s
    | .keepalive => s
    | .close => s
  let s := match x.why.reason v.notify with
    | some r => s.voiceNotice v.hall (v.keyOfStop x) r v.num x.time
    | none => s
  (s, { v with ended := some { frame := (x.sample - 1) / s.fl, time := x.time } })

/-- Every voice is changed in turn; those that are ended and no longer counted are dropped. -/
def State.foldVoices (s : State) (f : State → Voice → State × Voice) : State :=
  let r := s.voices.foldl (fun (acc : State × List Voice) v =>
    let x := f acc.1 v
    (x.1, x.2 :: acc.2)) (s, [])
  { r.1 with voices := r.2.reverse.filter fun v => v.counted || v.ended.isNone }

/-! ### Engines and galleries (R220, R483–R485) -/

/-- A voice is lost at once to a fence whose first sample no longer rendered is `n`, unless an earlier stop was decided (R220, R510). -/
def State.loseVoice (s : State) (v : Voice) (n : Nat) : State × Voice :=
  match v.stop with
  | some y => if y.sample ≤ n then s.endVoice v y
              else s.endVoice { v with counted := false } { sample := n, time := n * 512, why := .fence }
  | none => s.endVoice { v with counted := false } { sample := n, time := n * 512, why := .fence }

/-- A voice of an engine that was to render it from frame `m` on is lost (R220, R485): at once where nothing before `m` is left to
render, or no source to render it, as the source of its migration renders the last frame before `m` otherwise. -/
def State.loseTarget (s : State) (v : Voice) (x : HallEng) : State × Voice :=
  let m := x.since
  if m ≤ v.next ∨ x.at v.next = none then s.loseVoice v (m * s.fl) else (s, v.stopBy (m * s.fl) (m * s.fl * 512) .fence)

/-- The hall engines whose migration a fence of their source strikes are to be mapped afresh (R485). -/
def Hall.strike (x : Hall) (e next bound : Nat) : Hall :=
  { x with engs := x.engs.map fun (y : HallEng) => if y.leaves e next bound then { y with again := true } else y }

/-- The voices of a fenced physical engine are lost, as source or as target of a migration too (R220, R485); it renders nothing
before the next frame boundary. DEDUCED (assumption log 34). -/
def State.loseEngine (s : State) (e : Nat) : State :=
  let f := (s.engFrame e).getD (s.eng.get (engIx e)).next
  let bound := s.sched.nextBound
  let s := s.foldVoices fun s v =>
    if v.ended.isSome then (s, v) else
    match (s.hall v.hall).engs.find? fun x => x.he == v.he with
    | none => (s, v)
    | some x =>
      if x.at f = some e ∨ x.leaves e f bound = true then s.loseVoice v (f * s.fl)
      else if x.now = some e then s.loseTarget v x
      else (s, v)
  let s := { s with halls := s.halls.map (fun (h : Hall) => h.strike e f bound) }
  s.reapAll.updEng (engIx e) fun y => { y with next := max y.next bound }

/-- The halls with voices on a physical engine, as a bit mask. -/
def State.engHalls (s : State) (e : Nat) : Nat :=
  sumOf (fun h => at_ ((s.engVoices e).any fun v => v.hall == h && v.ended.isNone) h) (List.range 8)

/-- A gallery that is fenced already takes a record of cause THERMAL where the HALT step fences it (R451, R452), which then stands in
place of the earlier one, so that one record stands for a unit (R490); every other cause leaves the fence as it stands.
DEDUCED (assumption log 94). -/
def State.fenceAgain (s : State) (g : Fin 8) (cause : Nat) : State :=
  let s := s.updGal g fun x => { x with fenceReq := none }
  if cause = 3 ∧ (s.fence.standsFor 2 g.val fun r => r.cause == 3) = false then
    (s.fenceAdd 2 3 g.val 0).raise (33 + 8 * g.val)
  else s

/-- A gallery is fenced. -/
def State.fenceGallery (s : State) (g : Fin 8) (cause : Nat) : State :=
  if (s.gal.get g).fenced then s.fenceAgain g cause else
  let es := (List.range 8).map fun e => 8 * g.val + e
  let halls := es.foldl (fun a e => a ||| s.engHalls e) 0
  let s := es.foldl (fun s e => if (s.eng.get (engIx e)).fenced then s else s.loseEngine e) s
  ((s.updGal g fun x => { x with fenced := true, fenceReq := none }).fenceAdd 2 cause g.val halls).raise (33 + 8 * g.val)

/-- The fence of an engine is noted; the third engine of its gallery within 1 s fences the gallery (cause ENGINES). -/
def State.noteFenced (s : State) (e : Fin 64) : State :=
  let g := galOf e.val
  let recent := (e.val, s.time.et) :: ((s.gal.get g).recent.filter fun x =>
    x.1 != e.val && decide (s.time.et < x.2 + feHz s.fe882 * 512))
  let s := s.updGal g fun x => { x with recent := recent }
  if recent.length ≥ 3 then s.fenceGallery g 8 else s

/-- An engine is fenced. DEDUCED (assumption log 34, 99). -/
def State.fenceEngine (s : State) (e : Fin 64) (cause : Nat) : State :=
  if (s.eng.get e).fenced then s else
  let g := galOf e.val
  let halls := s.engHalls e.val
  let s := if (s.gal.get g).fenced then s else s.loseEngine e.val
  (((s.updEng e fun x => { x with fenced := true, fenceReq := none }).fenceAdd 1 cause e.val halls).raise (33 + 8 * g.val)).noteFenced e

/-! ### Halls (R488) -/

/-- A hall is to be fenced, from the first frame whose list is open. DEDUCED (assumption log 99). -/
def State.fenceHall (s : State) (h : Fin 8) (cause : Nat) : State :=
  let x := s.halls.get h
  if x.alive = false ∨ Stepped.now false x.fenced = true then s else
  let m := s.openFrame
  (s.updHall h fun x => { x with fenceReq := some m, fenced := Stepped.set x.fenced m true }).fenceAdd 3 cause h.val (2 ^ h.val)

/-- The fence of a hall takes effect at frame `m`: its voices' stops are decided here, and its queue is discarded here. DEDUCED
(assumption log 99). -/
def State.hallFenceAt (s : State) (h : Fin 8) (m : Nat) : State :=
  let n := m * s.fl
  let s := s.mapVoices fun v => if v.hall = h.val then v.stopBy n (n * 512) .fence else v
  let s := (s.updHall h fun x => { x with fenceReq := none, queue := [] }).reap h
  let s := s.specReleaseHall h.val
  match (s.halls.get h).wait with
  | some w => (match w.what with
    | .conv _ => s.endWait h 0x20 []
    | .convPages _ => s.endWait h 0x20 []
    | .specPower _ => s.endWait h 0x20 []
    | _ => s)
  | none => s

/-- The rings of a hall are zeroed and their indices set to 0 (R349, R488). -/
def State.zeroRings (s : State) (h : Fin 8) : State :=
  let lo := cmdBase h
  { s with foyer := { s.foyer with sram := Sparse.clear s.foyer.sram lo (lo + 0x2000) } }.updRing h fun r =>
    { r with cmdTail := 0, cmdHead := 0, cplTail := 0, cplHead := 0, posted := [], stalled := false }

/-- The queued BULKs of a hall whose ring indices have been set to 0 stand next (R338). DEDUCED (assumption log 69). -/
def Hall.bulksNext (x : Hall) : Hall := { x with bulks := x.bulks.map fun (j : BulkJob) => { j with after := 0 } }

/-- A hall's fence is lifted; the hall resumes at the next frame boundary. What is held, and the BULKs that are queued, lie in no
ring and stay. DEDUCED (assumption log 69). -/
def State.liftHall (s : State) (h : Fin 8) : State :=
  let s := (s.zeroRings h).updHall h fun x => { x.bulksNext with fenceReq := none, fenced := Stepped.set x.fenced s.nextFrame false }
  (s.fenceLift 3 h.val).pump h

/-! ### Output channels (R302, R303) -/

/-- The halls whose mask holds a bus. -/
def State.maskHalls (s : State) (b : Nat) : List Nat :=
  (List.range 8).filter fun h => (s.hall h).alive && (Stepped.now 0 (s.hall h).mask).getLsbD b

/-- The fence of an output channel is recorded: its flags, its record, its notices. -/
def State.outFenced (s : State) (n : Fin 64) (cause : Nat) : State :=
  let hs := s.maskHalls n.val
  let s := (s.outErr 5).fenceAdd 7 cause n.val (sumOf (fun h => 2 ^ h) hs)
  hs.foldl (fun s h => s.unitNotice h 2 n.val 3) s

/-- A supervisor fence of an output channel. -/
def State.fenceOut (s : State) (n : Fin 64) : State :=
  let c := s.out.ch.get n
  if c.fenced.isSome = true ∨ c.fenceReq = true then s
  else (s.updOut n fun c => { c with fenceReq := true }).outFenced n 0

def State.liftOut (s : State) (n : Fin 64) : State :=
  let s := (s.updOut n fun c => { c with fenceReq := false, liftReq := true }).fenceLift 7 n.val
  (s.maskHalls n.val).foldl (fun s h => s.unitNotice h 2 n.val 4) s

/-! ### Host ports and serial receivers -/

/-- A port goes to OPEN by a lift (R329). -/
def State.liftPort (s : State) (p : Fin 2) : State :=
  if (s.port p).st = .fenced then
    ((s.updPort p fun q => { q with st := .opened, width := 1, crcRun := 0 }).fenceLift 4 p.val).irqEval p
  else s

/-- A serial receiver's fence is lifted (R395). -/
def State.liftSer (s : State) (n : Fin 4) : State :=
  if (s.ser.get n).rx = .fenced then
    ((s.updSer n fun p => { p with rx := p.freshRx }).log 0x0602 none [byte n.val, 1#8]).fenceLift 5 n.val
  else s

/-! ### Requests (R486, R487) -/

/-- The units that exist: kind and range of the index. -/
def unitCount : Nat → Nat
  | 0 => 2048 | 1 => 64 | 2 => 8 | 3 => 8 | 4 => 2 | 5 => 4 | 6 => 4096 | 7 => 64 | _ => 0

/-- The cause of a gallery's fence persists (R452, R486): THERMAL while Tj is above 110 °C, VMON while the domain is outside its
window. -/
def State.galPersists (s : State) (g : Fin 8) : Bool :=
  s.fence.standsFor 2 g.val fun r =>
    (r.cause == 3 && decide (s.mgmt.tj > 110 * 16)) || (r.cause == 4 && s.mgmt.vmonBad.get (pdGal g))

/-- A lift request: the result code, or busy while a self-test or an action at a boundary runs. -/
def State.liftUnit (s : State) (kind index : Nat) : State :=
  let code (s : State) (c : Nat) : State := { s with fence := { s.fence with code := c } }
  let busy (s : State) (b : FenceBusy) : State := { s with fence := { s.fence with code := 0, busy := some b } }
  if index ≥ unitCount kind then code s 4
  else if (s.fence.standing? kind index).isNone then code s 1
  else match kind with
    | 1 => busy (s.updEng (engIx index) fun x => { x with selftest := true }) (.selftest index)
    | 2 =>
      let g := Fin.ofNat 8 index
      if s.galPersists g then
        code { s with fence := s.fence.mark 2 index fun r => { r with refused := true } } 2
      else code ((s.updGal g fun x => { x with fenced := false }).fenceLift 2 index) 0
    | 3 => busy (s.liftHall (hallIx index)) (.frame s.nextFrame)
    | 4 => code (s.liftPort (Fin.ofNat 2 index)) 0
    | 5 => code (s.liftSer (Fin.ofNat 4 index)) 0
    | 7 => busy (s.liftOut (Fin.ofNat 64 index)) .bus
    | _ => code (s.fenceLift kind index) 0

/-- A supervisor fence request (R487). DEDUCED (assumption log 99). -/
def State.fenceUnit (s : State) (kind index : Nat) : State :=
  let code (s : State) (c : Nat) : State := { s with fence := { s.fence with code := c } }
  let busy (s : State) (b : FenceBusy) : State := { s with fence := { s.fence with code := 0, busy := some b } }
  if index ≥ unitCount kind ∨ kind = 0 ∨ kind = 4 ∨ kind = 5 ∨ kind = 6 then code s 4
  else if (s.fence.standing? kind index).isSome then code s 0
  else match kind with
    | 1 => busy (s.updEng (engIx index) fun x => { x with fenceReq := some 0 }) (.frame s.nextFrame)
    | 2 => busy (s.updGal (Fin.ofNat 8 index) fun x => { x with fenceReq := some 0 }) (.frame s.nextFrame)
    | 3 => if (s.hall index).alive then busy (s.fenceHall (hallIx index) 0) (.frame s.openFrame) else code s 4
    | _ => busy (s.fenceOut (Fin.ofNat 64 index)) .bus

/-- A write of FENCE_CTRL, by its op bit; ignored while busy, or where go is 0. DEDUCED (assumption log 28). -/
def State.fenceCtrl (s : State) (v : Word) : State :=
  if s.fence.busy.isSome = true ∨ bit v 31 = false then s
  else if bit v 30 then s.fenceUnit (bits v 26 24) (bits v 11 0) else s.liftUnit (bits v 26 24) (bits v 11 0)

/-- The status that FENCE_STATUS gives a result (R486). -/
def fenceStatus : Nat → Nat
  | 0 => 0 | 1 => 0 | 4 => 0x22 | _ => 0x20

/-- A request has run its course: busy clears, a FENCE_STATUS that waits for it completes. -/
def State.fenceDone (s : State) (code : Nat) : State :=
  let s := { s with fence := { s.fence with busy := none, code := code } }
  (List.finRange 8).foldl (fun s h =>
    match (s.halls.get h).wait with
    | some w => (match w.what with | .lift _ _ => s.endWait h (fenceStatus code) [] | _ => s)
    | none => s) s

/-! ### What memory brings about -/

/-- The owner of a page, where a hall holds it (R253). -/
def State.pageOwner (s : State) (p : Nat) : Option Nat :=
  let x := s.mem.page p
  match x.state with
  | .free => none
  | .wiping => none
  | .retired => if x.hall < 8 then some x.hall else none
  | _ => some x.hall

/-- A poisoned codeword: the log, SCHED_GUAR.ue, the notice to the page's owner, and the page's fence where it first takes the
flag (R267, R484). -/
def State.poisoned (s : State) (x : Nat × Bool) : State :=
  let cw := x.1
  let p := cw / 1024
  let o := s.pageOwner p
  let s := (s.log 0x0301 o (leBytes 2 p ++ leBytes 2 (cw % 1024))).guar 4
  let s := match o with | some h => s.pageNotice h p (cw % 1024) 0 | none => s
  if x.2 then
    s.fenceAdd 6 7 p (match o with | some h => 2 ^ h | none => 0)
  else s

/-- A page retired (R268, R270): the log, the notice, source 116, the flash list; its fence ends. MEM_RETIRED.list_full is set by a
retirement beyond the 64th. DEDUCED (assumption log 142). -/
def State.retiredPage (s : State) (p : Nat) : State :=
  let o := s.pageOwner p
  let s := ((s.log 0x0302 o (leBytes 2 p)).raise 116).fenceLift 6 p
  let s := match o with | some h => s.pageNotice h p 0 1 | none => s
  if s.nv.retired.contains p then s
  else if s.nv.retired.length < 64 then s.updRec sectorRetired fun n => { n with retired := n.retired ++ [p] }
  else ({ s with mem := { s.mem with listFull := true } }.raise 116)

/-- Everything that reads and writes of wave memory have brought about. DEDUCED (assumption log 60). -/
def State.memDo (s : State) (x : WaveMem × MemEvents) : State :=
  let s := ({ s with mem := x.1 }.memRaise x.2)
  let s := x.2.poisoned.reverse.foldl State.poisoned s
  x.2.retired.reverse.foldl State.retiredPage s

/-! ### SPEC goes on (R236, R250) -/

/-- The spectral history of a channel is zero up to block `b`: every exponent of the table is −128 (R236).
DEDUCED (assumption log 55). -/
def State.zeroHist (s : State) (b : Nat) (k : Fin 8) : State :=
  let c := s.spec.ch.get k
  let put (s : State) (i : Nat) : State := s.memDo (s.mem.writeBytes (storedAddr c.pages (offExpX c.p i)) [0x80#8])
  ((List.range c.p).foldl put s).updSpec k fun c =>
    { c with x := Sparse.clear c.x 0 (256 * b), y := [], fade := if c.leaving then c.fade else none }

/-- The next block boundary: the block that starts there (R224). DEDUCED (assumption log 55). -/
def State.nextBlock (s : State) : Nat := s.time.et / 131072 + 1

/-- A halt is lifted (R250): channels and analysers restart with zero history at the next block boundary.
DEDUCED (assumption log 55). -/
def State.specResume (s : State) : State :=
  if s.spec.halted = false then s else
  let b := s.nextBlock
  let an := s.spec.an.map (fun (a : Analyser) => { a with x := Sparse.clear a.x 0 (256 * b), tracks := [], next := b })
  let s := { s with spec := { s.spec with halted := false, struck := [], an := an, next := b } }
  (List.finRange 8).foldl (fun s k => s.zeroHist b k) s

/-- A write of SPEC_CTRL. DEDUCED (assumption log 28). -/
def State.specCtrl (s : State) (v : Word) : State := if bit v 0 then s.specResume else s

end Sys2Proof.Machine
end

