-- ==== Sys2Proof/Machine/Writes.lean ====
section
/-! DEFINITION. Writes with a behaviour of their own, register by register (spec/02_time_and_determinism.md R48, R69, R71;
spec/09_wave_memory.md R273, R274; spec/11_analog_outputs.md R309–R319; spec/12_host_ports_and_mailboxes.md R329, R344;
spec/14_serial_show_ports.md R395–R397; spec/15_timebase_timers_triggers.md R418, R421; spec/16_interrupt_fabric.md R435–R445;
spec/17_management_update_alcove.md R453, R469, R470; spec/18_power_reset_faults.md R472–R476). -/

namespace Sys2Proof.Machine

/-! ### SCHED -/

/-- A write of SCHED_CFG: the first is taken, and run arms render bring-up (R47, R48, R418). -/
def State.schedCfg (s : State) (v : Word) : State :=
  if s.sched.cfgSet then s else
  let s := { s with sched := { s.sched with cfg := v &&& 0x80000001#32, cfgSet := true } }
  if bit v 31 = false then s else
  let s := { s with time := { s.time with armed := true } }
  if s.time.rclk < bringupStep then s
  else (({ s with time := { s.time with late := true } }.timeErr 1).log 0x0702 none [])

/-- The measured budget's certificate is there (R69, R450). -/
def State.calOk (s : State) : Bool := s.nv.calValid

/-- meas_en is set or cleared (R69, R71, R450). DEDUCED (assumption log 82). -/
def State.measSet (s : State) (en : Bool) : State :=
  if en = true ∧ s.calOk = true then
    { s with sched := { s.sched with meas := setFlag s.sched.meas 31, measured := true, measOff := false } }.guar 1
  else if en = true then s
  else { s with sched := { s.sched with meas := putFlag s.sched.meas 31 false,
                                        measOff := s.sched.measOff || bit s.sched.meas 31 } }

/-- The margin of R69. DEDUCED (assumption log 82). -/
def State.setMargin (s : State) (m : Nat) : State := { s with sched := { s.sched with meas := setBits s.sched.meas 15 8 m } }

/-- A write of SCHED_MEAS_CTRL; meas_en follows the supervisor only. DEDUCED (assumption log 28). -/
def State.measCtrl (s : State) (i : Initiator) (v : Word) : State :=
  let s := s.setMargin (bits v 15 8)
  if i = .window then s.measSet (bit v 31) else s

/-! ### DAC -/

/-- MUTE_n answers a cause that is present (R313, R314). -/
def State.muteNow (s : State) : State :=
  if s.dac.cause s.anaOn then { s with dac := s.dac.assertMute s.time.rclk } else s

/-- The word-clock edge at which no cause is present (R315). DEDUCED (assumption log 48). -/
def State.muteOff (s : State) : State := { s with dac := s.dac.muteRelease s.fe882 s.out.p s.out.q s.anaOn }

/-- A write of DAC_CTRL; mute_req follows the supervisor only. DEDUCED (assumption log 28). -/
def State.dacCtrl (s : State) (i : Initiator) (v : Word) : State :=
  let s := s.dacWrite 0 v
  if i = .window then { s with dac := { s.dac with ctrl := putFlag s.dac.ctrl 31 (bit v 31) } }.muteNow else s

/-- A range that the grade lacks (R318). -/
def State.badRange (s : State) (r : Nat) : Bool := r == 3 || (r == 2 && !s.nv.a16)

/-- A write of DACn_CTRL (R309, R312, R316, R318, R319). -/
def State.dacChCtrl (s : State) (n : Fin 16) (v : Word) : State :=
  if s.hasDac n = false then s else
  let r := bits v 29 28
  let bad := s.badRange r
  let s := s.updDac n fun c =>
    let en := c.en
    let c := { c with ctrl := putFlag c.ctrl 30 (bit v 30) }.selWrite s.time.et (3 * s.fl * 512) v
    let c := if bad then c else c.startRange r
    if bit v 31 = en then c else { c with ctrl := putFlag c.ctrl 31 (bit v 31) }.enChanged s.dac.mute
  if bad then s.dacErr 4 else s

/-! ### MEM -/

/-- A write of MEMc_RES_CTRL (R274). -/
def State.resCtrl (s : State) (c : Fin 4) (v : Word) : State :=
  if bit v 31 then { s with mem := s.mem.updCh c fun x => { x with swapPend := true } } else s

/-- A write of MEMc_PRIO0 or MEMc_PRIO1 (R273). -/
def State.prioSet (s : State) (c : Fin 4) (second : Bool) (v : Word) : State :=
  { s with mem := s.mem.updCh c fun x => if second then { x with prio1 := v &&& 0x0000FFFF#32 } else { x with prio0 := v } }

/-! ### Host ports -/

/-- A new command tail is offered to a hall (R344); the answer says whether it is accepted. -/
def State.newTail (s : State) (h : Fin 8) (t : BitVec 16) : State × Bool :=
  let r := (s.halls.get h).ring
  if t = r.cmdTail then (s, true)
  else if (t - r.cmdTail).toNat + r.waiting ≤ r.len then
    ((s.updRing h fun r => { r with cmdTail := t }).raise (16 + h.val), true)
  else (s.updRing h fun r => { r with refused := min 65535 (r.refused + 1) }, false)

/-- A write of HALLn_DB; the register window, which is the supervisor's, rings no other hall's (R29). DEDUCED (assumption log 124). -/
def State.hallDb (s : State) (i : Initiator) (h : Fin 8) (v : Word) : State :=
  if (s.halls.get h).alive = true ∧ (i = .window → h = 0) then (s.newTail h (BitVec.ofNat 16 (bits v 15 0))).1 else s

/-- A port goes to OPEN by HPp_CTRL.close (R329). -/
def State.closePort (s : State) (p : Fin 2) : State :=
  if (s.port p).st = .down then s else
  let s := if (s.port p).st = .fenced then s.fenceLift 4 p.val else s
  (s.updPort p fun q => { q.irqLeft with st := .opened, width := 1, asleep := false, crcRun := 0 }).irqEval p

/-- A write of HPp_CTRL, by the supervisor. DEDUCED (assumption log 28). -/
def State.portCtrl (s : State) (i : Initiator) (p : Fin 2) (v : Word) : State :=
  if i ≠ .window then s else
  let s := if bit v 0 then s.liftPort p else s
  if bit v 1 then s.closePort p else s

/-! ### Serial ports -/

/-- Auto-baud is armed again (R396). -/
def Ser.rearm (p : Ser) : Ser :=
  if bit p.baud 31 = false then p else
  match p.rx with
  | .none => p
  | .fenced => { p with locked := false, feRun := 0 }
  | .asleep => { p with locked := false, feRun := 0 }
  | .hunting => { p with rx := .autobaud, locked := false, feRun := 0 }
  | .receiving => { p with rx := .autobaud, locked := false, feRun := 0 }
  | .brk => { p with rx := .autobaud, locked := false, feRun := 0 }
  | .autobaud => { p with locked := false, feRun := 0 }

/-- A write of SERn_CTRL; lift follows the supervisor only. DEDUCED (assumption log 28). -/
def State.serCtrl (s : State) (i : Initiator) (n : Fin 4) (v : Word) : State :=
  let s := s.serWrite n 0x08 v
  let s := if bit v 1 then s.updSer n Ser.rearm else s
  if bit v 0 = true ∧ i = .window then s.liftSer n else s

/-- A port's outputs may be driven: its bank has its supply, and the firmware has not been declared stopped; in RECOVERY only SER0's are
(R491, R496). -/
def State.serDrives (s : State) (n : Fin 4) : Bool :=
  s.bankOn .ser && (if s.mgmt.recovery then n.val == 0 else !s.mgmt.stopped)

/-- A write of SERn_TX: the roles that drive SPn_TX send the character. DESIGN CHOICE (assumption log 86). -/
def State.serTx (s : State) (n : Fin 4) (v : Word) : State :=
  let p := s.ser.get n
  let may := match p.role with
    | 2 => p.rx != .fenced
    | 3 => p.rx != .fenced
    | 4 => true
    | _ => false
  if may = true ∧ s.serDrives n = true then
    s.updSer n fun p => { p.transmit [byte v.toNat] with
      txFrom := s.line64 false, txTo := s.line64 false + (p.charBits + 1) * p.div }
  else s

/-- Input on the console keeps its session (R465). -/
def State.conInput (s : State) (n : Fin 4) : State :=
  match s.mgmt.session with
  | some (k, _) =>
    if k = n ∧ (s.ser.get n).role = 4 then s.updMgmt fun m => { m with session := some (n, s.time.rclk) } else s
  | none => s

/-- A read of SERn_RX (R393): the character taken, and its stamp latched. CP1 hands it to the port's role.
DEDUCED (assumption log 85). -/
def State.serRx (s : State) (i : Initiator) (n : Fin 4) : State × Word :=
  let p := s.ser.get n
  match p.hold with
  | none => (s, 0#32)
  | some c =>
    let w := word (2 ^ 31 + at_ c.brk 11 + at_ c.ovr 10 + at_ c.pe 9 + at_ c.fe 8 + c.data.toNat)
    let p := { p with hold := none, ts := c.ts }
    if i = .cp1 ∨ (i = .mp ∧ s.mgmt.recovery = true) then
      let (q, mask) := p.roleChar c
      let p := if s.serDrives n then q else { q with sent := p.sent }
      (({ s with ser := s.ser.put n p }.conInput n).serErr n mask, w)
    else ({ s with ser := s.ser.put n p }, w)

/-! ### TIME -/

/-- A write of TIME_GO (R421). -/
def State.timeGo (s : State) (v : Word) : State :=
  { s with time := { s.time with going := (s.time.going ||| v) &&& 0x0000FFFF#32 } }

def State.readTmr (s : State) (n : Fin 16) : State × Word :=
  let x := s.time.readCount n
  ({ s with time := x.2 }, x.1)

def State.readTrg (s : State) (t : Fin 8) : State × Word :=
  let x := (s.time.trg.get t).readLo
  (s.updTrg t fun _ => x.2, x.1)

/-! ### IRQF -/

/-- The control firmware reports its health (R313, R352, R453). A firmware that has been declared stopped stays so until reset; in reset,
before start-up and in RECOVERY there is none (R464, R491). DEDUCED (assumption log 93). -/
def State.healthy (s : State) : State :=
  if s.mgmt.stopped = true ∨ s.mgmt.recovery = true ∨ s.pwr.on pdCtrl = false then s else
  { s with mgmt := { s.mgmt with fwOk := true, pulse := true }, dac := { s.dac with fwStop := false } }

/-- A processor's write of IRQF_DBt (R435, R436). -/
def State.irqDb (s : State) (v : Word) : State :=
  let n := bits v 7 0
  let s := { s with irqf := s.irqf.doorbell n }
  if n = 255 then s.healthy else s

def State.irqAckBy (s : State) (t : Fin 3) : State × Word :=
  let x := s.irqf.ack (s.canWake t) t
  ({ s with irqf := x.2 }, x.1)

def State.irqEoiBy (s : State) (t : Fin 3) (v : Word) : State := { s with irqf := s.irqf.eoi t (bits v 7 0) }
def State.irqCfg (s : State) (v : Word) : State := { s with irqf := s.irqf.writeCfg v }
def State.irqRoute (s : State) (n : Nat) (v : Word) : State := { s with irqf := s.irqf.writeRoute n v }

/-! ### The Alcove -/

/-- Why the Alcove is wiped (R469): the bit of MGMT_TAMPER, none for a write of ALC_CTRL.wipe. DEDUCED (assumption log 96). -/
inductive WipeWhy where
  | pin | glitch | temp | lc | asked
  deriving DecidableEq, Repr

def WipeWhy.bit? : WipeWhy → Option Nat
  | .pin => some 0 | .glitch => some 1 | .temp => some 2 | .lc => some 3 | .asked => none

def WipeWhy.tamper : WipeWhy → Bool
  | .pin => true | .glitch => true | .temp => true | .lc => false | .asked => false

/-- Where the package key of hall `h` and a console session's key stand in the Alcove's rest (R468). DESIGN CHOICE (assumption log
113). -/
def pkgKeyAt (h : Fin 8) : Nat := 0x120 + 32 * h.val
def sessionKeyAt : Nat := 0x220

/-- A stretch of the Alcove is erased. -/
def State.alcoveErase (s : State) (a n : Nat) : State :=
  s.updMgmt fun m => { m with alcove := m.alcove.writeList a (List.replicate n 0#8) }

/-- The package key of a hall is erased from the Alcove (R259). -/
def State.erasePkg (s : State) (h : Fin 8) : State :=
  (s.alcoveErase (pkgKeyAt h) 32).updMgmt fun m => { m with pkgIn := m.pkgIn.filter fun x => x != h.val }

/-- A console session of port `n` opens, its key in the Alcove, and ends (R465, R468). DESIGN CHOICE (assumption log 113). -/
def State.openSession (s : State) (n : Fin 4) : State :=
  { s.updMgmt fun m => { m with session := some (n, s.time.rclk),
                                alcove := m.alcove.writeList sessionKeyAt ((Config.sessionKey s.fresh).take 32) } with fresh := s.fresh + 1 }
def State.endSession (s : State) : State := (s.alcoveErase sessionKeyAt 32).updMgmt fun m => { m with session := none }

/-- The Alcove is wiped (R469, R470); a life-cycle change writes its own log entry. DEDUCED (assumption log 96). -/
def State.alcoveWipe (s : State) (why : WipeWhy) : State :=
  let tam := match why.bit? with | some b => setFlag s.mgmt.tamper b | none => s.mgmt.tamper
  let s := s.updMgmt fun m => { m with alcove := [], pkgIn := [], wiped := true, keysIn := false, session := none, chal := none, tamper := tam,
                                       noKeys := m.noKeys || why.tamper }
  let s := s.raiseIf why.tamper 213
  if why = .lc then s else s.log 0x0806 none [byte (match why.bit? with | some b => 2 ^ b | none => 0)]

/-- A write of ALC_CTRL by the MP. -/
def State.alcCtrl (s : State) (v : Word) : State :=
  let s := s.updMgmt fun m => { m with alcRet := bit v 0 }
  if bit v 31 then s.alcoveWipe .asked else s

/-! ### PWR -/

/-- A serial port has a role. -/
def State.serRoles (s : State) : Bool := s.ser.toList.any fun p => p.role != 0

/-- No hall engine is mapped to a gallery, and none that has left it still renders there. DEDUCED (assumption log 39). -/
def State.galEmpty (s : State) (g : Fin 8) : Bool :=
  (List.range 8).all fun e => (mappedOn s.halls (8 * g.val + e)).isEmpty && (s.engFrame (8 * g.val + e)).isNone

/-- The gallery of a domain. -/
def galOfDom (d : Fin 16) : Fin 8 := Fin.ofNat 8 (d.val - 4)

/-- A domain may be off, and be switched by a register write (R472, R476). -/
def State.mayBeOff (s : State) (d : Fin 16) : Bool :=
  if isGal d.val then s.galEmpty (galOfDom d)
  else if d = pdSpec then s.spec.idle
  else if d = pdSerial then !s.serRoles
  else if d = pdAna then s.nv.cfg.anaUnused
  else false

/-- A domain is switched by a register write: a gallery is parked or unparked (R217, R218). DEDUCED (assumption log 97). -/
def State.switch (s : State) (d : Fin 16) (on : Bool) : State :=
  if on then s.switchOn d
  else
    let s := if isGal d.val then s.updGal (galOfDom d) fun g => { g with parked := true, parkReq := false } else s
    (s.switchOff d).muteNow

/-- A write of PWRd_CTRL (R474, R476). -/
def State.pwrCtrl (s : State) (d : Fin 16) (v : Word) : State :=
  let s := if isGal d.val then s.updDom d fun x => { x with ret := bit v 30 } else s
  if bit v 31 = (s.pwr.dom.get d).onBit then s
  else if s.mayBeOff d then s.switch d (bit v 31)
  else s.pwrErr 1

end Sys2Proof.Machine
end

