-- ==== Sys2Proof/Machine/Bus.lean ====
section
/-! DEFINITION. Accesses to the register bus (spec/00_scope.md R8–R12, spec/01_architecture.md R33–R38, R42,
spec/18_power_reset_faults.md R473, spec/12_host_ports_and_mailboxes.md, Foyer SRAM layout). -/

namespace Sys2Proof.Machine

/-- What an access of a whole word comes to: an error, or a word of a block. -/
inductive Reach where
  | size | unmapped | denied
  | off (b : Block)
  | ok (b : Block) (off : Nat)
  deriving DecidableEq, Repr

/-- The register space (R8): every block of the map but the memories; an address from 0x4000_0000 up that lies in no block counts as
such. DESIGN CHOICE (assumption log 107). -/
def regSpace (a : Nat) : Bool := decide (0x40000000 ≤ a) && !decide (0x4F100000 ≤ a ∧ a ≤ 0x4F103FFF)

/-- The register window's ranges, with MGMT and the Alcove, which are denied by name (R37). -/
def windowRange (a : Nat) : Bool :=
  decide (0x20000000 ≤ a ∧ a ≤ 0x2003FFFF) || decide (0x40000000 ≤ a ∧ a ≤ 0x40FFFFFF) || decide (0x4F000000 ≤ a ∧ a ≤ 0x4F00FFFF)
    || decide (0x4F100000 ≤ a ∧ a ≤ 0x4F103FFF)

def Block.mpOnly (b : Block) : Bool := b == .mgmt || b == .alcove

/-- The block is on the die; on the A8 grade DAC channels 8 to 15 are not (R36). -/
def State.onDie (s : State) (b : Block) : Bool :=
  match b with
  | .dacCh n => s.hasDac n
  | _ => true

/-- The block's domain is ON or RETAINED, or it lies in always-on logic (R473); one that is not on the die answers with zero and no
error (R36). -/
def State.powered (s : State) (b : Block) (off : Nat) : Bool :=
  match b.domain off with
  | some d => s.pwr.answers d || !s.onDie b
  | none => true

/-- What an access of a whole word comes to. -/
def State.reach (s : State) (i : Initiator) (a : Nat) : Reach :=
  if regSpace a = true ∧ a % 4 ≠ 0 then .size
  else if i = .window ∧ windowRange a = false then .unmapped
  else match blockOf a with
    | none => .unmapped
    | some (b, off) =>
      if b.mpOnly = true ∧ i ≠ .mp then .denied
      else if s.powered b off = false then .off b
      else .ok b off

/-- A wrong-width access (R8). -/
def State.sizeErr (s : State) (a : Nat) : State := s.sysErr 0 (word a)

/-- An access outside the map (R34). -/
def State.unmappedErr (s : State) (a : Nat) : State := s.sysErr 1 (word a)

/-- An access to MGMT or the Alcove by another than the MP (R35). -/
def State.deniedErr (s : State) (a : Nat) : State := (s.sysErr 2 (word a)).log 0x0101 none (leBytes 4 a)

/-- An access to a block whose domain is off (R473). -/
def State.offErr (s : State) (a : Nat) : State :=
  ({ s with pwr := { s.pwr with errAddr := if s.pwr.err = 0#32 then word a else s.pwr.errAddr } }).pwrErr 0

def State.reachErr (s : State) (a : Nat) : Reach → State
  | .size => s.sizeErr a
  | .unmapped => s.unmappedErr a
  | .denied => s.deniedErr a
  | .off _ => s.offErr a
  | .ok _ _ => s

/-! ### 64-bit pairs (R11, R12) -/

/-- The low half of a 64-bit value; the trigger stamps latch their own high half (R430). -/
def isPairLo (b : Block) (off : Nat) : Bool :=
  match b with
  | .sys => off == 0x20
  | .hall _ => off == 0x20
  | .port _ => off == 0x28
  | .sched => off == 0x008 || off == 0x010
  | .out => off == 0x018
  | .ser _ => off == 0x18
  | .time => off == 0x10
  | .fence => decide (0x100 ≤ off ∧ off < 0x600) && off % 8 == 0
  | _ => false

def isPairHi (b : Block) (off : Nat) : Bool := decide (4 ≤ off) && isPairLo b (off - 4)

/-- A read of the low half: the high half is latched. DEDUCED (assumption log 27). -/
def State.pairLo (s : State) (b : Block) (off a : Nat) : State × Word :=
  ({ s with bus := { s.bus with rdHold := (a, s.regVal b (off + 4)) :: s.bus.rdHold.filter fun x => x.1 != a } }, s.regVal b off)

/-- A read of the high half: what was latched, or the live half. DEDUCED (assumption log 27). -/
def State.pairHi (s : State) (b : Block) (off a : Nat) : State × Word :=
  match s.bus.rdHold.find? fun x => x.1 == a - 4 with
  | some x => ({ s with bus := { s.bus with rdHold := s.bus.rdHold.filter fun x => x.1 != a - 4 } }, x.2)
  | none => (s, s.regVal b off)

/-- A write of the high half is held. -/
def State.pairHold (s : State) (a : Nat) (v : Word) : State :=
  { s with bus := { s.bus with wrHold := (a - 4, v) :: s.bus.wrHold.filter fun x => x.1 != a - 4 } }

/-- A write of the low half commits both; with no high half held it writes the low half alone, a case of which R12 does not speak.
DESIGN CHOICE (assumption log 107). -/
def State.pairCommit (s : State) (b : Block) (off a : Nat) (v : Word) : State :=
  match s.bus.wrHold.find? fun x => x.1 == a with
  | some x =>
    (({ s with bus := { s.bus with wrHold := s.bus.wrHold.filter fun x => x.1 != a } }).regPut b (off + 4) x.2).regPut b off v
  | none => s.regPut b off v

/-! ### The Foyer SRAM -/

/-- The 32 bytes of a hall's index block. -/
def State.indexBlock (s : State) (h : Fin 8) : List Byte :=
  let x := s.halls.get h
  let r := x.ring
  let notices := r.notices
  let q := match x.port? with | some p => (s.port p).asleep | none => false
  let q' := match x.port? with | some p => (s.port p).irq | none => false
  leBytes 2 r.cmdTail.toNat ++ leBytes 2 r.cmdHead.toNat ++ leBytes 2 r.cplTail.toNat ++ leBytes 2 r.cplHead.toNat ++
    [byte r.len, byte (at_ q 0 + at_ q' 1 + at_ r.stalled 2 + at_ (decide (notices > 0)) 3), byte r.modCount, byte r.lost] ++
    leBytes 2 r.modTime ++ leBytes 2 r.refused ++ leBytes 2 notices ++ List.replicate 14 0#8

/-- An offset in a hall's index block. -/
def inIndex (off : Nat) : Bool := decide (0x10000 ≤ off ∧ off < 0x10100)

/-- An offset whose contents are the firmware's own. -/
def inFirmware (off : Nat) : Bool :=
  decide (0x10100 ≤ off ∧ off < 0x12000) || decide (0x12040 ≤ off ∧ off < 0x20000)

/-- A word of the Foyer SRAM as an access reads it. DESIGN CHOICE (assumption log 16). -/
def State.sramWord (s : State) (off : Nat) : State × Word :=
  if inIndex off then
    (s, word (leNat (((s.indexBlock (hallIx ((off - 0x10000) / 0x20))).drop (off % 0x20)).take 4)))
  else if inFirmware off then ({ s with fresh := s.fresh + 1 }, Config.firmwareSram s.fresh off)
  else (s, s.foyer.sram.word32 off)

/-- An offset in the rings of a hall other than hall 0, or in the staging buffers of a port that serves one: state that the register
window, which is the supervisor's, does not change (R29). DEDUCED (assumption log 124). -/
def State.inOtherHall (s : State) (off : Nat) : Bool :=
  decide (cmdBase 1 ≤ off ∧ off < 0x10000) ||
    decide (stageBase 0 0 ≤ off) && (match s.attached (Fin.ofNat 2 ((off - stageBase 0 0) / 0x10000)) with | some n => n != 0 | none => false)

/-- A word of the Foyer SRAM is written. DEDUCED, DESIGN CHOICE (assumption log 16, 124). -/
def State.sramPut (s : State) (i : Initiator) (off : Nat) (v : Word) : State :=
  if inIndex off = true ∨ (i = .window ∧ s.inOtherHall off = true) then s else s.sramWrite off (leBytes 4 v.toNat)

/-! ### Reads -/

/-- A read of a register with an effect of its own; none for every other. -/
def State.readEffect (s : State) (i : Initiator) (b : Block) (off : Nat) : Option (State × Word) :=
  match b with
  | .ser n => if off = 0x14 then some (s.serRx i n) else none
  | .tmr n => if off = 0x08 then some (s.readTmr n) else none
  | .trg t => if off = 0x08 then some (s.readTrg t) else none
  | .irqf =>
    if 0x100 ≤ off ∧ off < 0x1C0 ∧ off % 0x40 = 0x04 ∧ i ≠ .window then some (s.irqAckBy (Fin.ofNat 3 ((off - 0x100) / 0x40))) else none
  | _ => none

/-- A word of a block is read. DESIGN CHOICE (assumption log 15). -/
def State.readBlock (s : State) (i : Initiator) (b : Block) (off a : Nat) : State × Word :=
  match b with
  | .sram => s.sramWord (off / 4 * 4)
  | .rom => (s, Config.bootRom (off / 4))
  | .wave => (s.memDo (s.mem.readCws [off / 64]), word (leNat (s.mem.rdList (off / 4 * 4) 4)))
  | .alcove => (s, s.mgmt.alcove.word32 (off / 4 * 4))
  | _ =>
    match s.readEffect i b off with
    | some x => x
    | none =>
      if isPairLo b off then s.pairLo b off a
      else if isPairHi b off then s.pairHi b off a
      else (s, s.regVal b off)

/-- A read of a whole word; the data stand in `bus.data`. DEDUCED (assumption log 27). -/
def State.busRead (s : State) (i : Initiator) (a : Nat) : State :=
  match s.reach i a with
  | .ok b off => let x := s.readBlock i b off a; x.1.answer x.2
  | e => (s.reachErr a e).answer 0#32

/-! ### Writes -/

/-- A write to a register with a behaviour of its own; none for every other. -/
def State.writeEffect (s : State) (i : Initiator) (b : Block) (off : Nat) (v : Word) : Option State :=
  match b with
  | .sched => if off = 0x000 then some (s.schedCfg v) else if off = 0x020 then some (s.measCtrl i v) else none
  | .hall h => if off = 0x40 then some (s.hallDb i h v) else none
  | .port p => if off = 0x08 then some (s.portCtrl i p v) else none
  | .spec => if off = 0x04 then some (if i = .window then s.specCtrl v else s) else none
  | .memCh c =>
    if off = 0x20 then some (s.resCtrl c v)
    else if off = 0x24 then some (s.prioSet c false v)
    else if off = 0x28 then some (s.prioSet c true v) else none
  | .dac => if off = 0x00 then some (s.dacCtrl i v) else none
  | .dacCh n => if off = 0x00 then some (s.dacChCtrl n v) else none
  | .ser n =>
    if off = 0x08 then some (s.serCtrl i n v) else if off = 0x20 then some (s.serTx n v) else none
  | .time => if off = 0x08 then some (s.timeGo v) else none
  | .irqf =>
    if off = 0x000 then some (s.irqCfg v)
    else if 0x100 ≤ off ∧ off < 0x1C0 then
      let t := Fin.ofNat 3 ((off - 0x100) / 0x40)
      if off % 0x40 = 0x00 then some (if i = .window then s else s.irqDb v)
      else if off % 0x40 = 0x08 then some (if i = .window then s else s.irqEoiBy t v) else none
    else if 0x800 ≤ off ∧ off < 0xC00 then some (s.irqRoute ((off - 0x800) / 4) v) else none
  | .pwr => if off < 0x200 ∧ off % 0x20 = 0 then some (s.pwrCtrl (Fin.ofNat 16 (off / 0x20)) v) else none
  | .fence => if off = 0x04 then some (if i = .window then s.fenceCtrl v else s) else none
  | .mgmt => if off = 0x18 then some (s.alcCtrl v) else none
  | _ => none

/-- A word of a block is written. -/
def State.writeBlock (s : State) (i : Initiator) (b : Block) (off a : Nat) (v : Word) : State :=
  match b with
  | .sram => s.sramPut i (off / 4 * 4) v
  | .rom => s
  | .wave => s.memDo (s.mem.writeBytes (off / 4 * 4) (leBytes 4 v.toNat))
  | .alcove => s.updMgmt fun m => { m with alcove := m.alcove.writeList (off / 4 * 4) (leBytes 4 v.toNat) }
  | _ =>
    match s.writeEffect i b off v with
    | some t => t
    | none =>
      if isPairHi b off then s.pairHold a v
      else if isPairLo b off then s.pairCommit b off a v
      else s.regPut b off v

/-- A write of a whole word. DEDUCED (assumption log 27). -/
def State.busWrite (s : State) (i : Initiator) (a : Nat) (v : Word) : State :=
  match s.reach i a with
  | .ok b off => s.writeBlock i b off a v
  | e => s.reachErr a e

end Sys2Proof.Machine
end

