-- ==== Sys2Proof/Machine/RegRows.lean ====
section
/-! DEFINITION. The rows of register accesses (spec/00_scope.md R8–R12, spec/01_architecture.md R34, R35,
spec/18_power_reset_faults.md R473) and the rows that are a write or a read of one register. -/

namespace Sys2Proof.Machine

/-- The outcome of a command that runs. -/
abbrev Out' := Host.Outcome State Fault Refusal

/-- Where a command's condition does not hold it does not happen: the state stays. DESIGN CHOICE (assumption log 9). -/
def State.when (s : State) (b : Bool) (f : State → State) : State := if b then f s else s

/-- The data of a read that ends in an error are zero. -/
def State.zeroRead (s : State) (write : Bool) : State := if write then s else s.answer 0#32

/-! ### Errors -/

/-- WRONG_WIDTH_ACCESS. DEDUCED (assumption log 27). -/
def execWrongWidthAccess (_i : Initiator) (addr : Word) (write : Bool) (s : State) : Out' :=
  .next (s.when (regSpace addr.toNat) fun s => (s.sizeErr addr.toNat).zeroRead write)

/-- UNMAPPED_ACCESS. -/
def execUnmappedAccess (i : Initiator) (addr : Word) (write : Bool) (s : State) : Out' :=
  .next (s.when (s.reach i addr.toNat == .unmapped) fun s => (s.unmappedErr addr.toNat).zeroRead write)

/-- DENIED_ACCESS. -/
def execDeniedAccess (i : Initiator) (addr : Word) (write : Bool) (s : State) : Out' :=
  .next (s.when (s.reach i addr.toNat == .denied) fun s => (s.deniedErr addr.toNat).zeroRead write)

/-- OFF_DOMAIN_ACCESS. -/
def execOffDomainAccess (i : Initiator) (addr : Word) (write : Bool) (s : State) : Out' :=
  .next (match s.reach i addr.toNat with
    | .off _ => (s.offErr addr.toNat).zeroRead write
    | _ => s)

/-! ### Plain accesses and pairs -/

/-- REGISTER_WRITE. -/
def execRegisterWrite (i : Initiator) (addr v : Word) (s : State) : Out' := .next (s.busWrite i addr.toNat v)

/-- PAIR_LO_READ. -/
def execPairLoRead (i : Initiator) (addr : Word) (s : State) : Out' :=
  .next (match s.reach i addr.toNat with
    | .ok b off => s.when (isPairLo b off) fun s => s.busRead i addr.toNat
    | _ => s)

/-- PAIR_HI_WRITE. -/
def execPairHiWrite (i : Initiator) (addr v : Word) (s : State) : Out' :=
  .next (match s.reach i addr.toNat with
    | .ok b off => s.when (isPairHi b off) fun s => s.pairHold addr.toNat v
    | _ => s)

/-- PAIR_LO_WRITE. -/
def execPairLoWrite (i : Initiator) (addr v : Word) (s : State) : Out' :=
  .next (match s.reach i addr.toNat with
    | .ok b off => s.when (isPairLo b off) fun s => s.pairCommit b off addr.toNat v
    | _ => s)

/-! ### Writes and reads of one register -/

/-- SCHED_CFG_WRITE. -/
def execSchedCfgWrite (i : Initiator) (v : Word) (s : State) : Out' := .next (s.busWrite i 0x40200000 v)

/-- MEAS_CTRL_WRITE. -/
def execMeasCtrlWrite (i : Initiator) (v : Word) (s : State) : Out' := .next (s.busWrite i 0x40200020 v)

/-- DAC_MUTE_REQ_WRITE: a write of DAC_CTRL. -/
def execDacMuteReqWrite (i : Initiator) (v : Word) (s : State) : Out' := .next (s.busWrite i 0x40600000 v)

/-- The address of DACn_CTRL. -/
def dacCtrlAddr (n : Fin 16) : Nat := 0x40600100 + n.val * 0x40

/-- DAC_EN_WRITE. -/
def execDacEnWrite (i : Initiator) (n : Fin 16) (v : Word) (s : State) : Out' := .next (s.busWrite i (dacCtrlAddr n) v)

/-- DAC_SINE_WRITE. -/
def execDacSineWrite (i : Initiator) (n : Fin 16) (v : Word) (s : State) : Out' := .next (s.busWrite i (dacCtrlAddr n) v)

/-- DAC_RANGE_WRITE. -/
def execDacRangeWrite (i : Initiator) (n : Fin 16) (v : Word) (s : State) : Out' := .next (s.busWrite i (dacCtrlAddr n) v)

/-- DAC_SEL_WRITE. -/
def execDacSelWrite (i : Initiator) (n : Fin 16) (v : Word) (s : State) : Out' := .next (s.busWrite i (dacCtrlAddr n) v)

/-- SPEC_RESTART: a write of SPEC_CTRL. -/
def execSpecRestart (i : Initiator) (v : Word) (s : State) : Out' := .next (s.busWrite i 0x40300004 v)

/-- RES_SWAP: a write of MEMc_RES_CTRL. -/
def execResSwap (i : Initiator) (c : Fin 4) (v : Word) (s : State) : Out' := .next (s.busWrite i (0x40400020 + c.val * 0x1000) v)

/-- PRIO_WRITE: a write of MEMc_PRIO0 or MEMc_PRIO1. -/
def execPrioWrite (i : Initiator) (c : Fin 4) (which : Bool) (v : Word) (s : State) : Out' :=
  .next (s.busWrite i ((if which then 0x40400028 else 0x40400024) + c.val * 0x1000) v)

/-- HALL_DB_WRITE: a write of HALLn_DB. -/
def execHallDbWrite (i : Initiator) (h : Fin 8) (v : Word) (s : State) : Out' := .next (s.busWrite i (0x40010040 + h.val * 0x100) v)

/-- The address of HPp_CTRL. -/
def portCtrlAddr (p : Fin 2) : Nat := 0x40020008 + p.val * 0x100

/-- HPP_LIFT. -/
def execHppLift (i : Initiator) (p : Fin 2) (v : Word) (s : State) : Out' := .next (s.busWrite i (portCtrlAddr p) v)

/-- HPP_CLOSE. -/
def execHppClose (i : Initiator) (p : Fin 2) (v : Word) (s : State) : Out' := .next (s.busWrite i (portCtrlAddr p) v)

/-- The address of SERn_CTRL. -/
def serCtrlAddr (n : Fin 4) : Nat := 0x40700008 + n.val * 0x100

/-- SER_LIFT. -/
def execSerLift (i : Initiator) (n : Fin 4) (v : Word) (s : State) : Out' := .next (s.busWrite i (serCtrlAddr n) v)

/-- SER_REARM. -/
def execSerRearm (i : Initiator) (n : Fin 4) (v : Word) (s : State) : Out' := .next (s.busWrite i (serCtrlAddr n) v)

/-- SER_RX_READ. -/
def execSerRxRead (i : Initiator) (n : Fin 4) (s : State) : Out' := .next (s.busRead i (0x40700014 + n.val * 0x100))

/-- SER_TX_WRITE. -/
def execSerTxWrite (i : Initiator) (n : Fin 4) (v : Word) (s : State) : Out' := .next (s.busWrite i (0x40700020 + n.val * 0x100) v)

/-- TIME_GO. -/
def execTimeGo (i : Initiator) (v : Word) (s : State) : Out' := .next (s.busWrite i 0x40800008 v)

/-- TIMER_COUNT_READ. -/
def execTimerCountRead (i : Initiator) (n : Fin 16) (s : State) : Out' := .next (s.busRead i (0x40800108 + n.val * 0x40))

/-- TRIGGER_TS_READ. -/
def execTriggerTsRead (i : Initiator) (t : Fin 8) (s : State) : Out' := .next (s.busRead i (0x40800808 + t.val * 0x20))

/-- IRQF_DB_WRITE. -/
def execIrqfDbWrite (i : Initiator) (t : Fin 3) (v : Word) (s : State) : Out' := .next (s.busWrite i (0x40900100 + t.val * 0x40) v)

/-- IRQ_ACK: a read of IRQF_ACKt. -/
def execIrqAck (i : Initiator) (t : Fin 3) (s : State) : Out' := .next (s.busRead i (0x40900104 + t.val * 0x40))

/-- IRQ_EOI: a write of IRQF_EOIt. -/
def execIrqEoi (i : Initiator) (t : Fin 3) (v : Word) (s : State) : Out' := .next (s.busWrite i (0x40900108 + t.val * 0x40) v)

/-- IRQF_CFG_WRITE. -/
def execIrqfCfgWrite (i : Initiator) (v : Word) (s : State) : Out' := .next (s.busWrite i 0x40900000 v)

/-- ROUTE_CHANGE: a write of IRQF_RTn. -/
def execRouteChange (i : Initiator) (n : Fin 256) (v : Word) (s : State) : Out' := .next (s.busWrite i (0x40900800 + n.val * 4) v)

/-- ALCOVE_WIPE: a write of ALC_CTRL. -/
def execAlcoveWipe (i : Initiator) (v : Word) (s : State) : Out' := .next (s.busWrite i 0x4F000018 v)

/-- ALCOVE_RETENTION: a write of ALC_CTRL. -/
def execAlcoveRetention (i : Initiator) (v : Word) (s : State) : Out' := .next (s.busWrite i 0x4F000018 v)

/-- The address of PWRd_CTRL. -/
def pwrCtrlAddr (d : Fin 16) : Nat := 0x40A00000 + d.val * 0x20

/-- PWR_ON_WRITE. -/
def execPwrOnWrite (i : Initiator) (d : Fin 16) (v : Word) (s : State) : Out' := .next (s.busWrite i (pwrCtrlAddr d) v)

/-- PWR_RET_WRITE. -/
def execPwrRetWrite (i : Initiator) (d : Fin 16) (v : Word) (s : State) : Out' := .next (s.busWrite i (pwrCtrlAddr d) v)

/-- FENCE_CTRL_LIFT: a write of FENCE_CTRL with op 0. -/
def execFenceCtrlLift (i : Initiator) (v : Word) (s : State) : Out' := .next (s.busWrite i 0x40B00004 (v &&& 0xBFFFFFFF#32))

/-- FENCE_CTRL_FENCE: a write of FENCE_CTRL with op 1. -/
def execFenceCtrlFence (i : Initiator) (v : Word) (s : State) : Out' := .next (s.busWrite i 0x40B00004 (v ||| 0x40000000#32))

/-! ### SCHED's clock (R69, R418) -/

/-- RENDER_BRINGUP: time runs on to the edge of the bring-up that is armed. -/
def execRenderBringup (s : State) : Out' :=
  .next (s.when (s.time.armed && s.time.counting && s.time.refclk) fun s => s.advance (s.time.bringupEdge - s.time.rclk))

/-- MB_g of R69 from the lowest reading. -/
def State.measuredBudget (s : State) (g : Nat) (pace : Nat) : Nat :=
  let margin := max 1 (bits s.sched.meas 15 8)
  let cert := max 1 ((s.nv.paceCert s.fe882).getD g 1)
  min (2 * s.cb) (s.cb * pace * margin / (cert * 256))

/-- The lowest reading of a gallery over the 64 frames before frame `f` (R69). -/
def State.paceMin (s : State) (g : Fin 8) (f : Nat) : Option Nat :=
  (((s.gal.get g).paces.filter fun x => decide (s.start (f - 64) ≤ x.1 ∧ x.1 < s.start f)).map (·.2)).min?

/-- MB_g is computed for the 64 frames before frame `f`. A gallery without a reading in the window keeps its budget.
DESIGN CHOICE (assumption log 106). -/
def State.recompute (s : State) (f : Nat) : State :=
  let mb := Vector.ofFn fun (g : Fin 8) => match s.paceMin g f with
    | some p => s.measuredBudget g.val p
    | none => s.sched.mb.get g
  { s with sched := { s.sched with mb := mb, nextMb := f + 64 } }

end Sys2Proof.Machine
end

