-- ==== Sys2Proof/WellFormed.lean ====
section
/-! DEFINITION. Which commands are commands of the block: the operands of a row lie in what its rule admits. -/

namespace Sys2Proof

/-- Every symbol error names a codeword of the 256 MiB, one of its 72 symbols and a value (R251, R261). -/
def Upsets.wf (us : Upsets) : Bool := us.all fun u => decide (u.1 < 4194304) && decide (u.2.1 < 72) && decide (u.2.2 < 256)

/-- A payload fits the 16-bit length field (R331). -/
def payloadWf (bs : List Byte) : Bool := decide (bs.length < 65536)

/-- An input frame is two lanes of sixteen slot words (R298, R301). -/
def lanesWf (ls : List (List Word)) : Bool := decide (ls.length = 2) && ls.all fun l => decide (l.length = 16)

/-- A well-formed command. DESIGN CHOICE (assumption log 10). -/
def Instr.wf : Instr → Bool
  | .engineRenderFrame _ us => us.wf
  | .specBlock us => us.wf
  | .scrubPatrolRead _ us => us.wf
  | .scrubWriteBack _ us => us.wf
  | .pageScrubEnd _ us => us.wf
  | .tdmInputFrame ls => lanesWf ls
  | .write _ _ _ bs _ => payloadWf bs
  | .doorbell _ _ _ bs _ => payloadWf bs
  | .cplAck _ _ _ bs _ => payloadWf bs
  | .regWrite _ _ _ bs _ => payloadWf bs
  | .bulk _ _ _ bs _ => payloadWf bs
  | .byeTransaction _ _ _ bs _ => payloadWf bs
  | .hello _ _ _ bs _ => payloadWf bs
  | .reservedTransactionCode _ code _ _ bs _ => payloadWf bs && decide (0x38 ≤ code.toNat ∧ code.toNat ≤ 0x3D)
  | .wr _ _ ws => decide (ws.length < 256)
  | .tempSample ts => decide (ts.length = 10) && ts.all fun t => decide (-32768 ≤ t ∧ t < 32768)
  | .voltageSample vs => decide (vs.length = 16) && vs.all fun v => decide (v < 65536)
  | .paceReading _ r => decide (r < 65536)
  | _ => true

end Sys2Proof
end

