-- ==== Sys2Proof/Machine/SchedRows.lean ====
section
/-! DEFINITION. SCHED, the engines and their fences (spec/02_time_and_determinism.md R49–R57, spec/07_voice_allocation_and_capacity.md
R194–R223, spec/18_power_reset_faults.md R483–R488). -/

namespace Sys2Proof.Machine

/-- Every engine that is to render frame `f` and is not fenced has rendered it. -/
def State.rendered (s : State) (f : Nat) : Bool :=
  (List.range 64).all fun e => s.engFenced e || !s.carries e f || decide (f < (s.eng.get (engIx e)).next)

/-- EVENT_LIST_CLOSE: the list of the next frame closes one frame before its start, once the frame four before it has been
rendered (R49, R199). -/
def execEventListClose (s : State) : Out' :=
  let F := s.sched.nextClose
  .next (s.when (s.reaches (s.start (F - 1))) fun s =>
    let s := s.runTo (s.start (F - 1))
    if F < 4 ∨ s.rendered (F - 4) = true then s.closeList F else { s with sched := { s.sched with wait := true } })

/-- EVENT_APPLY: the next event outside the flight takes effect at its applied time (R54). -/
def execEventApply (s : State) : Out' :=
  .next (match s.nextOther with
    | some t => s.when (s.reaches t) fun s => s.runTo t
    | none => s)

/-! ### The frame boundary -/

/-- The fences that wait for a frame boundary take effect: engines, then galleries, then the halls whose frame it is (R452, R487,
R488). -/
def State.boundaryFences (s : State) (F : Nat) : State :=
  let s := (List.finRange 64).foldl (fun s e => match (s.eng.get e).fenceReq with | some c => s.fenceEngine e c | none => s) s
  let s := (List.finRange 8).foldl (fun s g => match (s.gal.get g).fenceReq with | some c => s.fenceGallery g c | none => s) s
  (List.finRange 8).foldl (fun s h => if (s.halls.get h).fenceReq = some F then s.hallFenceAt h F else s) s

/-- The lowest-numbered parked gallery is powered up for a mapping that finds no room (R218). DESIGN CHOICE (assumption log 38). -/
def State.unparkOne (s : State) : Option (State × Fin 8) :=
  ((List.finRange 8).find? fun g => (s.gal.get g).parked && !(s.gal.get g).fenced).map fun g => (s.switchOn (pdGal g), g)

/-- Hall engines on fenced engines, and dark ones, are mapped afresh (R220, R221). DESIGN CHOICE (assumption log 38). -/
def State.boundaryMap (s : State) (F : Nat) : State :=
  let s := { s with halls := remapFrom s.cb s.usable s.engFenced F s.halls }
  if noneDark s.halls then s else match s.unparkOne with | some x => x.1 | none => s

/-- A gallery to be parked, whose engines have nothing left to render, is powered down (R217). DEDUCED (assumption log 39). -/
def State.boundaryPark (s : State) (g : Fin 8) : State :=
  if (s.gal.get g).parkReq = true ∧ ((List.range 8).all fun e => (s.engFrame (8 * g.val + e)).isNone) = true then
    (s.updGal g fun x => { x with parkReq := false, parked := true }).switchOff (pdGal g)
  else s

/-- Whether a gallery carries a hall engine, and since when not (R476). DEDUCED (assumption log 39). -/
def State.noteIdle (s : State) : State :=
  { s with gal := Vector.ofFn fun (g : Fin 8) =>
      let x := s.gal.get g
      { x with idle := if s.galEmpty g then some (x.idle.getD s.time.rclk) else none } }

/-- Measured admission falls back to CB, and ends once every engine is within it (R71). -/
def State.measDrain (s : State) : State :=
  if bit s.sched.meas 31 then s else
  { s with sched := { s.sched with measOff := false, measured := s.sched.measured && (List.range 64).any fun e => decide (s.engSteps e > s.cb) } }

/-- What a frame boundary brings. -/
def State.boundary (s : State) (F : Nat) : State :=
  let s := ((s.boundaryFences F).boundaryMap F).measDrain
  let s := (List.finRange 8).foldl State.boundaryPark s
  let s := { s with halls := s.halls.map (fun (h : Hall) => if h.resizeAt = some F then { h with resizeAt := none } else h) }
  let s := s.convFades.noteIdle
  let s := match s.fence.busy with
    | some (.frame f) => if f ≤ F then s.fenceDone 0 else s
    | _ => s
  { s with sched := { s.sched with nextBound := F + 1 } }

/-- MB_RECOMPUTE: every 64 frames, at the start of a frame. DESIGN CHOICE (assumption log 106). -/
def execMbRecompute (s : State) : Out' :=
  let f := s.sched.nextMb
  .next (s.when (s.reaches (s.start f)) fun s => (s.passTo (s.start f)).recompute f)

/-- FRAME_BOUNDARY. -/
def execFrameBoundary (s : State) : Out' :=
  let F := s.sched.nextBound
  .next (s.when (s.reaches (s.start F)) fun s => (s.runTo (s.start F)).boundary F)

/-! ### Rendering -/

/-- The value that a detector input reads at the end of bus frame `f`, bound as for frame `b` (R187, R188). -/
def State.detVal (s : State) (h : Hall) (i : Fin 8) (b f : Nat) : Int :=
  match Stepped.at none (h.detIn.get i) b with
  | none => 0
  | some (bus, which) =>
    if (Stepped.at 0 h.mask b).getLsbD bus = false then 0 else
    let d := (s.out.ch.get (Fin.ofNat 64 bus)).setOf f
    match which with | 0 => d.peak | 1 => d.rms | _ => d.env

/-- What voices of a hall read of it in frame `f`. -/
def State.modEnv (s : State) (h : Hall) (f : Nat) : ModEnv :=
  { fe882 := s.fe882, ctl := h.ctl.toList, tempo := h.tempo,
    det := (List.finRange 8).map fun i => if f < 4 then 0 else s.detVal h i f (f - 4),
    detPrev := (List.finRange 8).map fun i => if f < 5 then 0 else s.detVal h i (f - 1) (f - 5) }

/-- A sum, an excursion or a state that saturated is recorded in the engine (R136, R137, R145, R163). -/
def State.noteArith (s : State) (e : Fin 64) (st : Stat) : State :=
  let x := s.eng.get e
  let f := word (at_ (decide (st.excN + st.satN > 0)) 0 + at_ (decide (st.excN > 0)) 1 + at_ st.stSat 2 + at_ st.pin 3)
  (s.updEng e fun y => { y with arith := y.arith ||| f, excCnt := satInc y.excCnt st.excN, satCnt := satInc y.satCnt st.satN }).raiseIf
    (x.arith == 0#32 && f != 0#32) (32 + 8 * (galOf e.val).val)

/-- The halls' share of the counts (STATS). -/
def State.noteHallArith (s : State) (h : Nat) (st : Stat) : State :=
  s.updHall (hallIx h) fun y => { y with excCnt := satInc y.excCnt st.excN, satCnt := satInc y.satCnt st.satN }

/-- A voice has ended by its envelope: its notice, with the key that it held at its end (R180, R200, R211).
DEDUCED (assumption log 35). -/
def State.noteEnded (s : State) (v : Voice) : State :=
  match v.ended with
  | some x => 
    if v.notify then s.voiceNotice v.hall (v.keyAt x.time) 0 v.num x.time else s
  | none => s

/-- A voice is stopped by a poisoned read: its fence record (R222, R482). -/
def State.notePoison (s : State) (v : Voice) : State := s.fenceAdd 0 7 v.num (2 ^ v.hall)

/-- What the rendering of frame `f` of a voice brings about: its terms, its counts, SCHED_GUAR.ue where it read poison (R78), its end.
DEDUCED (assumption log 33, 100). -/
def State.afterVoice (s : State) (e : Fin 64) (f : Nat) (v : Voice) (r : RenderSt) : State × Voice :=
  let rec_ : MezRec := { frame := f, hall := v.hall, num := v.num, eng := e.val, sends := v.prog.sends, samples := r.out.reverse }
  let s := if r.out = [] then s else { s with mez := { s.mez with recs := s.mez.recs ++ [rec_] } }
  let s := (s.noteArith e r.log.stat).noteHallArith v.hall r.log.stat
  let s := if r.hit.isSome then s.guar 4 else s
  let resized := decide (v.flight.buf.size ≠ 0 ∧ r.v.flight.buf.size ≠ v.flight.buf.size)
  let s := if resized then s.updEng e fun y => { y with dlyCnt := satInc y.dlyCnt 1 } else s
  if r.v.ended.isSome then (s.noteEnded r.v, r.v)
  else match r.v.stop with
    | some y =>
      if y.sample ≤ (f + 1) * s.fl then
        let x := (if y.why = .poison then s.notePoison r.v else s).endVoice r.v y
        ({ x.1 with fence := if y.why = .poison then x.1.fence.endVoice r.v.num else x.1.fence }, x.2)
      else (s, r.v)
    | none => (s, r.v)

/-- The voices of physical engine `e` in frame `f`. DEDUCED (assumption log 36). -/
def State.onEngine (s : State) (e f : Nat) (v : Voice) : Bool :=
  v.ended.isNone && decide (v.next ≤ f) && (s.hall v.hall).engs.any fun x => x.he == v.he && x.at f == some e

/-- Frame `f` is rendered by engine `e` (R50, R58–R192). DEDUCED (assumption log 60). -/
def State.render (s : State) (e : Fin 64) (f : Nat) : State :=
  let rd := s.mem.rd
  let bad (a : Nat) : Bool := s.mem.flagged (a / 64)
  let before := s
  let out := fun (v : Voice) => renderVoice (before.modEnv (before.hall v.hall) f) before.fl f rd bad v
  let cws := before.voices.foldl (fun (cs : List Nat) v =>
    if before.onEngine e.val f v then (out v).log.cws.foldl (fun cs c => if cs.contains c then cs else c :: cs) cs else cs) []
  let s := s.foldVoices fun s v => if before.onEngine e.val f v then s.afterVoice e f v (out v) else (s, v)
  let s := s.memDo (s.mem.readCws cws.reverse)
  (s.updEng e fun y => { y with next := f + 1, done := word f }).reapAll

/-- A voice that an engine is to render in frame `f` has come to it: it starts in the frame, or its hall engine's earlier physical engine
has rendered the frames before (R215). -/
def Voice.arrived (f : Nat) (v : Voice) : Bool := decide (v.next = f)

/-- An engine may render frame `f`: it runs, the frame has begun, the lists it needs are closed, a landing slot is free, the
detector values of R188 are final, and the voices that a migration brings it have come (R215). -/
def State.mayRender (s : State) (e : Fin 64) (f : Nat) : Bool :=
  s.voices.all (fun v => !s.onEngine e.val f v || v.arrived f) && s.time.running && !s.engFenced e.val
    && s.pwr.on (pdGal (galOf e.val)) && decide (s.start f ≤ s.time.et)
    && decide (f < s.sched.nextBound) && decide (f + 1 < s.sched.nextClose) && decide (f < s.out.next + 3)

/-- ENGINE_RENDER_FRAME. `upsets`: symbol errors that have appeared in wave memory. -/
def execEngineRenderFrame (e : Fin 64) (upsets : Upsets) (s : State) : Out' :=
  if Upsets.wf upsets = false then .refused .illFormed else
  let s := { s with mem := s.mem.upset upsets }
  .next (match s.engFrame e.val with
    | some f => s.when (s.mayRender e f) fun s => s.render e f
    | none => s)

/-! ### Engines and galleries that fail (R220, R483) -/

/-- ENGINE_STALL. -/
def execEngineStall (e : Fin 64) (s : State) : Out' :=
  .next (s.when ((s.engFrame e.val).isSome && s.pwr.on (pdGal (galOf e.val))) fun s => s.fenceEngine e 2)

/-- ENGINE_SRAM_ERROR: the engine is fenced, and condition 4 is broken (R78). DEDUCED (assumption log 115). -/
def execEngineSramError (e : Fin 64) (s : State) : Out' :=
  .next (s.when (s.pwr.on (pdGal (galOf e.val))) fun s => (s.guar 4).fenceEngine e 1)

/-- GALLERY_VMON_FENCE: the domain's voltage is outside its window. -/
def execGalleryVmonFence (g : Fin 8) (s : State) : Out' :=
  .next (s.when (s.mgmt.vmonBad.get (pdGal g)) fun s => s.fenceGallery g 4)

/-! ### Keepalive (R212, R213) -/

/-- KEEPALIVE_LAPSE. -/
def execKeepaliveLapse (h : Fin 8) (s : State) : Out' := .next (s.when (s.silent h) fun s => s.lapse h)

/-- The voices that a lapse released and that have not ended are killed (R213). -/
def State.lapseKill (s : State) (h : Fin 8) (t : Nat) : State :=
  let n := s.openAt
  s.mapVoices fun v =>
    let mine := match v.modn.release with | some (r, _) => r == t | none => false
    if v.hall = h.val ∧ v.counted = true ∧ mine = true ∧ v.tStart < t then v.stopBy (esUp n) n .keepalive else v

/-- KEEPALIVE_KILL: 10 s after the lapse. -/
def execKeepaliveKill (h : Fin 8) (s : State) : Out' :=
  .next (match (s.halls.get h).lapses with
    | (r, t) :: rest =>
      s.when (decide (s.time.rclk ≥ r + s.edgesUs 10000000)) fun s =>
        (s.lapseKill h t).updHall h fun x => { x with lapses := rest }
    | [] => s)

end Sys2Proof.Machine
end

