-- ==== Sys2Proof/Machine/MezRows.lean ====
section
/-! DEFINITION. The Mezzanine (spec/10_output_chain.md R279–R281, spec/07_voice_allocation_and_capacity.md R208, R209,
spec/08_spectral_unit.md R231, R237–R239). -/

namespace Sys2Proof.Machine

/-! ### Terms -/

/-- What one term gives over a frame: its target and its values, sample by sample. -/
abbrev Contrib := Nat × List Int

/-- A list in ascending order of keys, the earlier first where keys agree. -/
def insertBy {α : Type} (key : α → List Nat) (x : α) : List α → List α
  | [] => [x]
  | y :: ys => if key x < key y then x :: y :: ys else y :: insertBy key x ys

def sortBy {α : Type} (key : α → List Nat) (xs : List α) : List α := xs.foldl (fun l x => insertBy key x l) []

/-- The terms of send `i` of a rendered voice over the frame that begins at sample `n0`. -/
def MezRec.vals (r : MezRec) (fl n0 i : Nat) : List Int :=
  (List.range fl).map fun j => match r.samples.find? fun x => x.1 == n0 + j with | some x => x.2.getD i 0 | none => 0

/-- A tail's send `i` at engine sample `n` (R208); `L` is its length. -/
def Tail.val (t : Tail) (L i n : Nat) : Int :=
  if t.start ≤ n ∧ n < t.start + L then rdiv (t.terms.getD i 0 * ((L - 1 - (n - t.start) : Nat) : Int)) L else 0

def Tail.vals (t : Tail) (L fl n0 i : Nat) : List Int := (List.range fl).map fun j => t.val L i (n0 + j)

/-- The sends that `want` picks, with their places. -/
def pickSends (want : SendDef → Bool) (sends : List SendDef) : List (Nat × SendDef) :=
  (sends.zipIdx.filter fun x => want x.1).map fun x => (x.2, x.1)

/-- The send terms of a hall's voices over frame `F` and then of its tails, for the sends that `want` picks: the mask of its hall
where that has closed, and the send (R279). -/
def State.hallTerms (s : State) (F h : Nat) (want : Option (Stepped (BitVec 64)) → SendDef → Bool) : List Contrib :=
  let n0 := F * s.fl
  let recs := sortBy (fun (r : MezRec) => [r.num]) (s.mez.recs.filter fun r => r.frame == F && r.hall == h)
  let tails := sortBy (fun (t : Tail) => [t.num, t.start]) (s.mez.tails.filter fun t => t.hall == h)
  (recs.flatMap fun r => (pickSends (want none) r.sends).map fun x => (x.2.target, r.vals s.fl n0 x.1)) ++
  (tails.flatMap fun t => (pickSends (want t.closed) t.sends).map fun x => (x.2.target, t.vals s.tailLen s.fl n0 x.1))

/-- A hall's write mask holds a bus in frame `F`. -/
def State.maskAt (s : State) (h F b : Nat) : Bool := (Stepped.at 0 (s.hall h).mask F).getLsbD b

/-- A level register: Q0.23, signed. -/
def levelOf (w : Word) : Int := signed 24 (bits w 23 0)

/-- A level over frame `F`, gliding from the one before (R237). -/
def State.level (s : State) (old new : Word) (j : Nat) : Int := glide s.fl (levelOf old) (levelOf new) j

/-- A stepped value of the frame before. -/
def beforeFrame {α : Type} (d : α) (l : Stepped α) (F : Nat) : α := if F = 0 then d else Stepped.at d l (F - 1)

/-- The fade of R242 on a term. -/
def fadeTerm (L : Nat) (fade : Option Nat) (n : Nat) (v : Int) : Int :=
  match fade with
  | some f0 => if n < f0 then v else if n < f0 + L then rdiv (v * ((L - 1 - (n - f0) : Nat) : Int)) L else 0
  | none => v

/-- The mask of a hall, or the one that it had when it closed, holds a bus in frame `F` (R98, R209). -/
def State.busOpen (s : State) (h F : Nat) (closed : Option (Stepped (BitVec 64))) (b : Nat) : Bool :=
  match closed with
  | some m => (Stepped.at 0 m F).getLsbD b
  | none => s.maskAt h F b

/-- The returns of a channel over frame `F` (R237). DEDUCED (assumption log 52). -/
def State.returns (s : State) (F : Nat) (k : Fin 8) : List Contrib :=
  let c := s.spec.ch.get k
  match c.owner with
  | none => []
  | some h =>
    let ret := (Stepped.at ChCfg.zero c.cfg F).ret
    let new := Stepped.at (0#32, 0#32) (s.mez.rets.get k) F
    let old := beforeFrame (0#32, 0#32) (s.mez.rets.get k) F
    let one (en : Bool) (bus : Nat) (a b : Word) : List Contrib :=
      if en = true ∧ s.busOpen h F c.closed bus = true then
        [(bus, (List.range s.fl).map fun j =>
          let n := F * s.fl + j
          fadeTerm s.tailLen c.fade n (c.yAt ((n : Int) - 512) * s.level a b j))]
      else []
    one (bit ret 15) (bits ret 5 0) old.1 new.1 ++ one (bit ret 31) (bits ret 12 7) old.2 new.2

/-- The samples of an input slot over frame `F`, zeros where the lane's buffer does not hold them (R22).
DEDUCED (assumption log 51). -/
def State.tdmIn (s : State) (F lane slot : Nat) : List Int := (s.tdm.inFrame? lane slot F).getD (List.replicate s.fl 0)

/-- A route that carries a term in frame `F`: in use, its hall not fenced, its bus in the mask. -/
def State.routeOn (s : State) (F : Nat) (k : Fin 32) : Option InRoute :=
  let r := Stepped.at { cfg := 0#32, lvl := 0#32 } (s.mez.routes.get k) F
  let h := bits r.cfg 30 28
  if bit r.cfg 31 = true ∧ Stepped.at false (s.hall h).fenced F = false ∧ s.maskAt h F (bits r.cfg 5 0) = true then some r else none

/-- The term of a route over frame `F` (R280). -/
def State.routeTerm (s : State) (F : Nat) (k : Fin 32) : List Contrib :=
  match s.routeOn F k with
  | none => []
  | some r =>
    let old := (beforeFrame { cfg := 0#32, lvl := 0#32 } (s.mez.routes.get k) F).lvl
    let x := s.tdmIn F (bits r.cfg 14 14) (bits r.cfg 13 10)
    [(bits r.cfg 5 0, (List.range s.fl).map fun j => x.getD j 0 * s.level old r.lvl j)]

/-- Every term of the buses over frame `F`, in R279's order. -/
def State.busTerms (s : State) (F : Nat) : List Contrib :=
  ((List.range 8).flatMap fun h => s.hallTerms F h fun closed x => !x.spec && s.busOpen h F closed x.target) ++
  (List.finRange 8).flatMap (s.returns F) ++ (List.finRange 32).flatMap (s.routeTerm F)

/-- The sum of the terms of one target at sample `j` of a frame, written back. -/
def sumAt (ts : List Contrib) (target j : Nat) (st : Stat) : Int × Stat :=
  wb24 ((ts.filter fun t => t.1 == target).map fun t => t.2.getD j 0) 23 st

/-- A target's samples over a frame. -/
def sumsOf (fl : Nat) (ts : List Contrib) (target : Nat) (st : Stat) : List Int × Stat :=
  let mine := ts.filter fun t => t.1 == target
  let r := (List.range fl).foldl (fun (acc : List Int × Stat) j =>
    let x := sumAt mine target j acc.2
    (x.1 :: acc.1, x.2)) ([], st)
  (r.1.reverse, r.2)

/-! ### The inputs of SPEC -/

/-- A source that names a bus in the hall's mask or an input slot, over frame `F` (R231, R243). -/
def State.srcVals (s : State) (F h kind sel : Nat) (buses : List (List Int)) : List Int :=
  if kind = 1 then (if s.maskAt h F sel then buses.getD sel [] else [])
  else if kind = 2 then s.tdmIn F (sel / 16 % 2) (sel % 16)
  else []

/-- The input of a channel over frame `F` (R231). DEDUCED (assumption log 52). -/
def State.specInput (s : State) (F : Nat) (buses : List (List Int)) (k : Fin 8) (st : Stat) : List Int × Stat :=
  let c := s.spec.ch.get k
  match c.owner with
  | none => (List.replicate s.fl 0, st)
  | some h =>
    let cfg := Stepped.at ChCfg.zero c.cfg F
    let sends := s.hallTerms F h fun _ x => x.spec && x.target == k.val
    let src := s.srcVals F h (bits cfg.src 31 30) (bits cfg.src 5 0) buses
    sumsOf s.fl (sends ++ [(k.val, (List.range s.fl).map fun j => src.getD j 0 * levelOf cfg.lvl)]) k.val st

/-- Values of a frame are kept by sample, from block `b` on; what lies below `lo` is no longer needed. -/
def keep (b lo n0 : Nat) (vs : List Int) (x : Sparse Int) : Sparse Int :=
  let y := vs.zipIdx.foldl (fun (x : Sparse Int) (v : Int × Nat) => if n0 + v.2 < 256 * b then x else Sparse.put 0 x (n0 + v.2) v.1) x
  Sparse.clear y 0 lo

/-- Frame `F` reaches the channels and analysers. -/
def State.feedSpec (s : State) (F : Nat) (buses : List (List Int)) : State :=
  let n0 := F * s.fl
  let ins := (List.finRange 8).map fun k => s.specInput F buses k Stat.none
  let ch := Vector.ofFn fun (k : Fin 8) =>
    let c := s.spec.ch.get k
    if c.owner.isSome then { c with x := keep s.spec.next (256 * (s.spec.next - 1)) n0 (ins.getD k.val ([], Stat.none)).1 c.x } else c
  let an := Vector.ofFn fun (i : Fin 2) =>
    let a := s.spec.an.get i
    if bit a.cfg 31 = true ∧ a.from_ ≤ F then
      let h := bits a.cfg 28 26
      let kind := bits a.src 31 30
      let sel := bits a.src 5 0
      let vs := if kind = 0 then
          (if (s.spec.ch.get (Fin.ofNat 8 sel)).owner = some h then (ins.getD (sel % 8) ([], Stat.none)).1 else [])
        else s.srcVals F h kind sel buses
      { a with x := keep a.next (256 * (a.next + 1) - 8192) n0 vs a.x }
    else a
  let ovf := ins.any fun x => decide (x.2.excN + x.2.satN > 0)
  let s := { s with spec := { s.spec with ch := ch, an := an } }
  if ovf then s.specErr 3 else s

/-! ### The frame -/

/-- The input lanes that the routes, channels and analysers read in frame `F`. -/
def State.lanesRead (s : State) (F : Nat) : List Nat :=
  ((List.finRange 32).filterMap fun k => (s.routeOn F k).map fun r => bits r.cfg 14 14) ++
  ((List.finRange 8).filterMap fun k =>
    let c := s.spec.ch.get k
    let src := (Stepped.at ChCfg.zero c.cfg F).src
    if c.owner.isSome = true ∧ bits src 31 30 = 2 then some (bits src 4 4) else none) ++
  ((List.finRange 2).filterMap fun i =>
    let a := s.spec.an.get i
    if bit a.cfg 31 = true ∧ a.from_ ≤ F ∧ bits a.src 31 30 = 2 then some (bits a.src 4 4) else none)

/-- An input lane that is read and does not hold the frame has underrun (R22, R304). -/
def State.laneUnder (s : State) (F : Nat) (l : Nat) : State :=
  if (s.lanesRead F).contains l = true ∧ (s.tdm.inFrame? l 0 F).isNone = true then
    { s with tdm := { s.tdm with ufCnt := satInc s.tdm.ufCnt 1 } }.tdmErr l
  else s

/-- A channel that computes block `b`: it works by an impulse, or goes over to its first by then (R240). -/
def SpecCh.works (b : Nat) (c : SpecCh) : Bool :=
  c.owner.isSome && (c.p != 0 || match c.swap with | some (b0, _) => decide (b0 ≤ b) | none => false)

/-- SPEC has delivered every return that frame `F` needs (R238, R239). DEDUCED (assumption log 54). -/
def State.returnsReady (s : State) (F : Nat) : Bool :=
  let last := (F + 1) * s.fl - 1
  let b := (last - 512) / 256
  s.spec.halted || decide (last < 512) || decide (b < s.spec.next) || !s.spec.ch.toList.any (SpecCh.works b)

/-- The frame is complete: every bus is summed; it lands unless OUT has taken it already (R24, R281). -/
def State.mezzanine (s : State) (F : Nat) : State :=
  let s := (s.laneUnder F 0).laneUnder F 1
  let ts := s.busTerms F
  let r := (List.range 64).foldl (fun (acc : List (List Int) × Stat) b =>
    let x := sumsOf s.fl ts b acc.2
    (x.1 :: acc.1, x.2)) ([], Stat.none)
  let buses := r.1.reverse
  let ovf := r.2.excN + r.2.satN
  let s := s.feedSpec F buses
  let s := if ovf > 0 then s.outErr 4 else s
  let inBuf := s.tdm.inBuf.map fun (b : List InFrame) => b.filter fun x => decide (F < x.frame)
  { s with
    mez := { s.mez with
      next := F + 1, satCnt := satInc s.mez.satCnt ovf,
      recs := s.mez.recs.filter fun x => decide (F < x.frame),
      tails := s.mez.tails.filter fun t => decide ((F + 1) * s.fl < t.start + s.tailLen),
      landing := if F < s.out.next then s.mez.landing else s.mez.landing ++ [{ frame := F, buses := buses }] },
    tdm := { s.tdm with inBuf := inBuf } }

/-- MEZZANINE_FRAME_COMPLETE: the next frame, once its boundary has passed, every engine has rendered it, its returns are there
and a landing slot is free. -/
def execMezzanineFrameComplete (s : State) : Out' :=
  let F := s.mez.next
  let ok := s.time.running && s.rendered F && decide (F < s.sched.nextBound) && s.returnsReady F && decide (F < s.out.next + 3)
  .next (s.when ok fun s => s.settle.mezzanine F)

end Sys2Proof.Machine
end

