-- ==== Sys2Proof/Machine/OutRows.lean ====
section
/-! DEFINITION. The output chain, the DAC and the TDM port at work (spec/10_output_chain.md R281–R304,
spec/11_analog_outputs.md R308–R316, spec/01_architecture.md R22–R24). -/

namespace Sys2Proof.Machine

/-! ### Filling the queues and lanes (R22, R308) -/

/-- The outputs of a channel that have been formed, and the last edge among them. -/
def State.outsOf (s : State) (n : Nat) : List (Int × Int) × Int :=
  let c := s.out.ch.get (Fin.ofNat 64 n)
  (c.outs, c.nextM - 1 + c.g + 2)

/-- OUT writes entries into a channel's DAC queue; late ones are counted. -/
def State.fillDac (s : State) (n : Fin 16) : State :=
  if s.hasDac n = false then s else
  let c := s.dac.ch.get n
  let d := c.fillQueue s.outsOf s.edgeAt s.dac.edge 64
  let late := d.ufCnt.toNat - c.ufCnt.toNat
  let s := s.updDac n fun _ => d
  if late = 0 then s
  else ({ s with dac := { s.dac with ufCnt := satInc s.dac.ufCnt late } }.dacErr 0).raise (144 + n.val)

def State.slots8 (s : State) : Bool := Machine.slots8 s.fe882 s.out.p s.out.q

/-- The first edge that a queue or lane still wants. -/
def State.firstWanted (s : State) : Int :=
  let ds := ((List.finRange 16).filter s.hasDac).map fun n => (s.dac.ch.get n).fill
  let ls := (List.finRange 4).map fun l => s.tdm.fill.get l
  (ds ++ ls).foldl min (s.tdm.fill.get 0)

/-- OUT fills every DAC queue and TDM lane that has room; outputs that all have taken are dropped. -/
def State.fillOut (s : State) : State :=
  let s := (List.finRange 16).foldl State.fillDac s
  let tdm := (List.finRange 4).foldl (fun (d : Tdm) l => Tdm.fillLane s.slots8 s.outsOf s.edgeAt l 64 d) s.tdm
  let s := { s with tdm := tdm }
  let e := s.firstWanted
  { s with out := { s.out with ch := s.out.ch.map fun (c : OutCh) => { c with outs := c.outs.filter fun o => decide (e ≤ o.1) } } }

/-! ### Bus frames -/

/-- EQ_LOADs act at the boundary of the bus frame, in their order, and complete (R285). -/
def State.eqLoads (s : State) (n0 : Nat) : State :=
  (List.finRange 64).foldl (fun s b =>
    let c := s.out.ch.get b
    c.loads.foldl (fun s x =>
      let r := (s.out.ch.get b).load n0 x.2
      let s := s.updOut b fun _ => r.1
      match (s.halls.get (hallIx x.1)).wait with
      | some w => if w.what = .eqLoad b.val then s.endWait (hallIx x.1) (if r.2 then 0 else 0x1E) [] else s
      | none => s) (s.updOut b fun c => { c with loads := [] })) s

/-- Tracking goes on from the present output with a fresh estimate within the tolerance of WCLK_IN (R296).
DESIGN CHOICE (assumption log 19). -/
def State.trackOn (s : State) : State :=
  let P : Int := s.out.p
  let Q : Int := s.out.q
  let nom := rdiv (Q * p2 32) P
  let est := clamp (nom - nom / 200) (nom + nom / 200) (Config.trackEstimate s.fresh)
  { s with out := { s.out with trk := some (Track.turn P Q s.out.trk (s.out.ch.get 0).nextM est) }, fresh := s.fresh + 1 }

/-- Tracking ends: the outputs are numbered by the nominal ratio again, a synchronising reset and a change of the delay keeping
their places (R288, R295, R297). DEDUCED (assumption log 50). -/
def State.trackOff (s : State) : State :=
  match s.out.trk with
  | none => s
  | some t =>
    let f := t.nominal s.out.p s.out.q
    { s with out := { s.out with trk := none, ch := s.out.ch.map fun (c : OutCh) =>
      { c with syncDone := c.syncDone.map (fun x => (x.1, f x.2)), took := c.took.map (fun k => { k with m := f k.m }) } } }

/-- Channel `n` processes bus frame `F`; new saturations and a fence that it brings on are noted (R302, R304). -/
def State.outFrame (s : State) (F : Nat) (buses : List (List Int)) (n : Fin 64) : State :=
  let lost := s.out.first && !s.out.wclkOk
  let c := s.out.ch.get n
  let d := if lost then c.skip s.fl F else c.frame s.out.p s.out.q s.out.trk s.fl F (buses.getD n.val [])
  let s := s.updOut n fun _ => d
  let s := if d.satNew then (s.updOut n fun c => { c with satNew := false }).outErr 4 else s
  if d.fenceReq then s.outFenced n 11 else s

/-- Frame `F` is not complete: zeros in its place, flagged and logged (R24). -/
def State.landingUnder (s : State) (F : Nat) : State :=
  let s := { s with sched := { s.sched with underrun := satInc s.sched.underrun 1 } }
  ((s.outErr 0).guar 0).log 0x0202 none (leBytes 8 F)

/-- The first frame whose frame-end sets are still read: a voice reads those of four and five frames before its own (R188). -/
def State.setFloor (s : State) (F : Nat) : Nat :=
  s.voices.foldl (fun a v => if v.ended.isNone then min a (v.next - 5) else a) (F - 8)

/-- OUT takes frame `F`. -/
def State.takeFrame (s : State) (F : Nat) : State :=
  let s := s.eqLoads (F * s.fl)
  let got := s.mez.landing.find? fun x => x.frame == F
  let s := match got with | some _ => s | none => s.landingUnder F
  let buses := match got with | some x => x.buses | none => List.replicate 64 (List.replicate s.fl 0)
  let s := if s.out.trk.isSome then s.trackOn else s
  let s := (List.finRange 64).foldl (fun s n => s.outFrame F buses n) s
  let floor := s.setFloor F
  let s := { s with out := { s.out with next := F + 1, ch := s.out.ch.map fun (c : OutCh) => { c with sets := setsFrom floor c.sets } },
                    mez := { s.mez with landing := s.mez.landing.filter fun x => decide (F < x.frame) } }
  let s := match s.fence.busy with
    | some .bus => s.fenceDone 0
    | _ => s
  s.fillOut

/-- OUT_TAKE_FRAME: the next frame, three frames after its start. -/
def execOutTakeFrame (s : State) : Out' :=
  let F := s.out.next
  .next (s.when (s.reaches (s.start (F + 3))) fun s => (s.runTo (s.start (F + 3))).takeFrame F)

/-- EQ_FADE_END. DEDUCED (assumption log 53). -/
def execEqFadeEnd (n : Fin 64) (s : State) : Out' := .next (s.updOut n fun c => c.fadeEnd (s.out.next * s.fl))

/-! ### The DAC -/

/-- Every channel at edge `e`; a channel that finds no entry is counted and signalled (R308). -/
def State.latchOne (s : State) (t : Nat) (e : Int) (n : Fin 16) : State :=
  if s.hasDac n = false then s else
  let r := (s.dac.ch.get n).latch s.dac.nr s.dac.mute s.anaOn (if s.time.refclk then some s.time.rclk else none) t e
  let s := s.updDac n fun _ => r.1
  if r.2 then ({ s with dac := { s.dac with ufCnt := satInc s.dac.ufCnt 1 } }.dacErr 0).raise (144 + n.val) else s

/-- In master mode the clocks run on after a firmware stop until every DAC channel has reached k = 0, and are then held low
(R491). -/
def State.clockRest (s : State) : State :=
  let quiet := (List.finRange 16).all fun n => !s.hasDac n || ((s.dac.ch.get n).k == 0 && !(s.dac.ch.get n).hold)
  if s.mgmt.stopped = true ∧ s.out.master = true ∧ quiet = true then
    { s with out := { s.out with wclkOk := false }, dac := { s.dac with wclkOk := false }, tdm := { s.tdm with running := false } }
  else s

/-- WCLK_IN is there and has no place in engine time: rendering does not run, REFCLK is absent, or its first edge has yet to be measured
(R295, R319). -/
def State.unpaced (s : State) : Bool := !s.out.master && (!s.out.wclkOk || !s.reaches (s.edgeEt s.dac.edge))

/-- Every channel at the word-clock edge `e`, whose ET is `t`. -/
def State.latchAll (s : State) (t : Nat) (e : Int) : State := (List.finRange 16).foldl (fun s n => s.latchOne t e n) s.muteOff

/-- A word-clock edge without a place in engine time: no entry is for it, and the generators go on (R308, R319). Before render bring-up
it is none of the edges of R291, and carries zero code. DESIGN CHOICE (assumption log 136). -/
def State.unpacedEdge (s : State) : State := s.latchAll s.time.et (if s.time.running then s.dac.edge - 1 else -1)

/-- The next word-clock edge: MUTE_n is released at it where no cause is left, and every channel latches. -/
def State.wordClock (s : State) : State :=
  let e := s.dac.edge
  let t := s.edgeAt e
  let s := (s.runTo (s.edgeEt e)).latchAll t e
  { s with dac := { s.dac with edge := e + 1 } }.clockRest.fillOut

/-- WCLK_IN comes in through bank TDM (R496); the device's own word clock does not. -/
def State.wclkSeen (s : State) : Bool := s.out.master || s.bankOn .tdm

/-- The next word-clock edge, with or without a place in engine time. -/
def State.anyEdge (s : State) : State := if s.unpaced then s.unpacedEdge else s.wordClock

/-- DAC_LATCH: the next word-clock edge. -/
def execDacLatch (s : State) : Out' :=
  .next (s.when (s.dac.wclkOk && s.wclkSeen && (s.unpaced || s.reaches (s.edgeEt s.dac.edge))) State.anyEdge)

/-- RANGE_SETTLE_END. -/
def execRangeSettleEnd (n : Fin 16) (s : State) : Out' := .next (s.updDac n (DacCh.settleEnd s.dac.mute))

/-- Whether a cause is present; VREF leaving its range is an event of the pin. -/
def State.muteCausePresent (s : State) : MuteSrc → Bool
  | .ana => !s.anaOn
  | .vref => true
  | .wclk => !s.dac.wclkOk
  | .thermal => s.dac.thermal
  | .fwStop => s.dac.fwStop
  | .request => bit s.dac.ctrl 31

/-- VREF has left its range: MUTE_n is asserted and the channels of a powered PD_ANA drive zero code (R313). -/
def State.vrefOut (s : State) : State :=
  let s := if s.dac.vrefOk then { s with dac := { s.dac with vrefOk := false } }.dacErr 1 else s
  { s with dac := s.dac.assertZero }

/-- MUTE_CAUSE. -/
def execMuteCause (c : MuteSrc) (s : State) : Out' :=
  .next (s.when (s.muteCausePresent c) fun s =>
    if c = .vref then s.vrefOut else s.muteNow)

/-- mute_lead has passed since the REFCLK edge `t`; while REFCLK is absent the MP times it from its own oscillator, and its report
is the command (R314). -/
def State.leadPast (s : State) (t : Nat) : Bool :=
  !s.time.refclk || decide (t + s.edgesUs (1000 * bits s.dac.ctrl 3 0) ≤ s.time.rclk)

/-- MUTE_LEAD_ELAPSED. -/
def execMuteLeadElapsed (s : State) : Out' :=
  .next (s.when s.dac.mute fun s =>
    { s with dac := { s.dac with ch := s.dac.ch.map (DacCh.leadElapsed fun t => s.leadPast t) } })

/-- MUTE_RELEASE: with no cause left, the next word-clock edge is e_r (R315). -/
def execMuteRelease (s : State) : Out' :=
  .next (s.when (s.dac.mute && !s.dac.cause s.anaOn && s.wclkSeen && (s.unpaced || s.reaches (s.edgeEt s.dac.edge)))
    State.anyEdge)

/-- MUTE_LEAD_HOLD_END. -/
def execMuteLeadHoldEnd (n : Fin 16) (s : State) : Out' := .next (s.updDac n (DacCh.leadEnd s.dac.mute))

/-- VREF_IN_RANGE: the VREF buffer is in PD_ANA (R32), so without its power VREF cannot come into its range. -/
def execVrefInRange (s : State) : Out' := .next (s.when s.anaPowered fun s => { s with dac := { s.dac with vrefOk := true } })

/-! ### The TDM port -/

/-- TDM_OUTPUT_FRAME: the frame of the next edge; once the firmware has been declared stopped every slot is zero (R491). -/
def execTdmOutputFrame (s : State) : Out' :=
  let t := s.edgeEt s.tdm.edge
  .next (s.when (s.tdm.running && s.wclkSeen && s.reaches t) fun s =>
    let s := s.runTo t
    let r := s.tdm.send s.slots8 (s.edgeAt s.tdm.edge)
    let s := r.2.foldl (fun (s : State) l => s.tdmErr (2 + l)) { s with tdm := r.1 }
    let s := if s.mgmt.stopped then
        { s with tdm := { s.tdm with sent := List.replicate 4 (List.replicate (if s.slots8 then 8 else 16) 0#32) } } else s
    s.fillOut)

/-- TDM_INPUT_FRAME: the frame that began at the next input edge is whole at the edge after it; the data lanes of a bank without supply
read idle (R496). DEDUCED (assumption log 51, 101). -/
def execTdmInputFrame (lanes : List (List Word)) (s : State) : Out' :=
  if lanesWf lanes = false then .refused .illFormed else
  let t := s.edgeEt (s.tdm.inEdge + 1)
  .next (s.when (s.tdm.running && s.wclkSeen && s.reaches t) fun s =>
    let s := s.runTo t
    let r := s.tdm.receive s.slots8 s.out.p s.out.q s.out.trk s.fl s.out.phi
      (lanes.map fun l => l.map fun w => if s.bankOn .tdm then slotSample w else 0)
    let s := { s with tdm := { r.1 with ovfCnt := satInc r.1.ovfCnt r.2.1.length } }
    let s := if r.2.2 then s.outErr 4 else s
    r.2.1.foldl (fun (s : State) l => s.tdmErr l) s)

/-! ### The word clock (R295, R296) -/

/-- The next output is the one that edge `e` presents; outputs from it on are formed again, and what only later outputs had reached
is ahead again (R288, R295, R297). DEDUCED (assumption log 50). -/
def OutCh.reindex (e : Int) (c : OutCh) : OutCh :=
  let m := e - c.g - 2
  let late := (c.syncDone.filter fun x => decide (m < x.2)).map fun x => x.1
  let c := { c with nextM := m, outs := [], syncDone := c.syncDone.filter (fun x => decide (x.2 ≤ m)),
                    syncNext := late.reverse ++ c.syncNext }
  c.untake m c.took

/-- Every channel forms the outputs whose bus samples OUT has processed already. -/
def State.formOuts (s : State) : State :=
  let last : Int := (s.out.next * s.fl : Nat) - 1
  { s with out := { s.out with ch := s.out.ch.map (OutCh.outputs s.out.p s.out.q s.out.trk last 4096) } }

/-- OUT takes up the grid again with offset `phi`, the next edge being the first of the grid, and the outputs and entries of the edges
ahead are formed at once (R295). DEDUCED (assumption log 50). -/
def State.regrid (s : State) (phi : Nat) : State :=
  let s := { s with out := { s.out with phi := phi } }
  let e := s.firstGrid
  { s with
    out := { s.out with ch := s.out.ch.map (OutCh.reindex e) },
    dac := { s.dac with edge := e, ch := s.dac.ch.map fun (c : DacCh) => { c with queue := [], fill := e } },
    tdm := { s.tdm with edge := e, inEdge := e, lanes := Vector.replicate 4 [], fill := Vector.replicate 4 e,
                        inNext := max s.tdm.inNext s.nextFrame } }

/-- φ lies within one output period (R64). -/
def State.phiOk (s : State) (phi : Nat) : Bool := decide (phi * s.out.p < 512 * s.out.q)

/-- LOCK_LOST: an edge of WCLK_IN more than 1/8 of an output period off the grid. -/
def execLockLost (s : State) : Out' :=
  .next (s.when (s.time.running && !s.out.master && s.out.locked && s.out.wclkOk && s.bankOn .tdm) fun s =>
    (({ s with out := { s.out with locked := false } }.trackOn.guar 3).outErr 2))

/-- WCLK_RELOCK: 4096 edges within 1/16 of a period of the grid, whose offset is `phi`; `edge` is the number of the next edge. -/
def execWclkRelock (phi : Nat) (edge : Int) (s : State) : Out' :=
  let ok := s.time.running && !s.out.master && !s.out.locked && !s.out.track && s.out.wclkOk && s.bankOn .tdm && s.phiOk phi
  let r := s.trackOff.regrid phi
  .next (s.when (ok && r.dac.edge == edge) fun _ =>
    ({ r with out := { r.out with locked := true, relock := satInc r.out.relock 1 } }.formOuts.fillOut).outErr 3)

/-- The word clock is lost (R296, R313, R419). -/
def State.wclkGone (s : State) : State :=
  let s := s.trackOff
  let s := { s with out := { s.out with wclkOk := false, locked := false },
                    dac := { s.dac with wclkOk := false }, tdm := { s.tdm with running := false } }
  ((s.outErr 1).dacErr 2).muteNow

/-- WCLK_LOST; before render bring-up only the DAC takes WCLK_IN. -/
def execWclkLost (s : State) : Out' :=
  .next (s.when (!s.out.master && (if s.time.running then s.out.wclkOk else s.dac.wclkOk)) fun s =>
    if s.time.running then s.wclkGone else ({ s with dac := { s.dac with wclkOk := false } }.dacErr 2).muteNow)

/-- WCLK_RETURN: WCLK_IN is there, its first edge `phi` off the grid of R291: in locked operation that edge sets φ. Before render
bring-up it serves the DAC's generators (R319). DEDUCED (assumption log 50, 136). -/
def execWclkReturn (phi : Nat) (s : State) : Out' :=
  if s.time.running = false then
    .next (s.when (!s.out.master && s.bankOn .tdm && s.pwr.on pdCtrl) fun s => { s with dac := { s.dac with wclkOk := true } })
  else
  .next (s.when (!s.out.master && !s.out.wclkOk && s.bankOn .tdm && s.phiOk phi) fun s =>
    let s := s.trackOff.regrid phi
    let s := { s with out := { s.out with wclkOk := true, first := true, locked := !s.out.track },
                      dac := { s.dac with wclkOk := true }, tdm := { s.tdm with running := true } }
    (if s.out.track then s.trackOn.guar 3 else s).formOuts.fillOut)

end Sys2Proof.Machine
end

