-- ==== Sys2Proof/Machine/SpecRows.lean ====
section
/-! DEFINITION. The spectral unit at work (spec/08_spectral_unit.md R232–R250). -/

namespace Sys2Proof.Machine

/-! ### Reads and writes of a stored form (R248) -/

/-- The codewords of a list of addresses, each once. -/
def cwsOf (as_ : List Nat) : List Nat :=
  (as_.foldl (fun (cs : List Nat) a => if cs.contains (a / 64) then cs else (a / 64) :: cs) []).reverse

/-- A channel reads codewords of its stored form: a poisoned one is flagged and its hall told (R248). -/
def State.specRead (s : State) (k : Fin 8) (cws : List Nat) : State :=
  let bad := cws.any s.mem.flagged
  let s := s.memDo (s.mem.readCws cws)
  if bad = false then s else
  let s := (s.specErr 1).guar 4
  match (s.spec.ch.get k).owner with
  | some h => s.unitNotice h 0 k.val 0
  | none => s

/-- Bytes are written to a stored form, codeword by codeword; `off` is a multiple of 64. -/
def State.storeAt (s : State) (pages : List Nat) (off : Nat) (bs : List Byte) : State :=
  (List.range ((bs.length + 63) / 64)).foldl (fun s i =>
    s.memDo (s.mem.writeBytes (storedAddr pages (off + 64 * i)) ((bs.drop (64 * i)).take 64))) s

/-- A signed byte. -/
def sbyte (v : Int) : Byte := byte (wrapU 8 v).toNat

/-! ### A new impulse (R232–R234, R240) -/

/-- The spectra of a build, partition by partition. -/
def State.spectra (s : State) (bd : Build) : List (Int × List Byte) :=
  let byteAt (o : Nat) : Byte := s.mem.rd (storedAddr bd.staged o)
  (List.range bd.parts).map fun j =>
    partSpectrum ((List.range 256).map fun i => if 256 * j + i < bd.taps then convTap byteAt bd.fmt (256 * j + i) else 0) bd.gain

/-- The addresses of the history slots that survive a switch at block `b` (R240). -/
def SpecCh.keptReads (c : SpecCh) (b P : Nat) : List Nat :=
  (List.range (min c.p P)).flatMap fun i =>
    if b < i + 1 then [] else
    let old := (b - 1 - i) % c.p
    storedAddr c.pages (offExpX c.p old) :: (List.range 24).map fun j => storedAddr c.pages (offHist c.p old + 64 * j)

/-- The history slots that survive a switch at block `b`: the block, its place in the new form, its exponent and its bytes. -/
def State.keptSlots (s : State) (c : SpecCh) (b P : Nat) : List (Nat × Byte × List Byte) :=
  (List.range (min c.p P)).filterMap fun i =>
    if b < i + 1 then none else
    let old := (b - 1 - i) % c.p
    some ((b - 1 - i) % P, s.mem.rd (storedAddr c.pages (offExpX c.p old)),
      (List.range 1536).map fun o => s.mem.rd (storedAddr c.pages (offHist c.p old + o)))

/-- A table of exponents, filled up to whole codewords. -/
def expTable (P : Nat) (f : Nat → Byte) : List Byte := (List.range (64 * ((P + 63) / 64))).map fun i => if i < P then f i else 0#8

/-- The bytes of a tap. -/
def tapBytes (fmt : Nat) : Nat := if fmt = 0 then 3 else 2

/-- The spectra of an impulse are built in its pages (R232–R234). -/
def State.convBuilt (s : State) (k : Fin 8) (bd : Build) : State :=
  let s := s.specRead k (cwsOf ((List.range ((tapBytes bd.fmt * bd.taps + 63) / 64)).map fun i => storedAddr bd.staged (64 * i)))
  let spectra := s.spectra bd
  let s := spectra.zipIdx.foldl (fun (s : State) (x : (Int × List Byte) × Nat) => s.storeAt bd.pages (offSpec x.2) x.1.2) s
  s.storeAt bd.pages (offExpH bd.parts 0) (expTable bd.parts fun j => sbyte ((spectra.getD j (-128, [])).1))

/-- The channel goes over to the impulse built, from block `b` on: its history moves, its old pages return. -/
def State.convSwap (s : State) (k : Fin 8) (bd : Build) (b : Nat) : State :=
  let c := s.spec.ch.get k
  let P := bd.parts
  let s := s.specRead k (cwsOf (c.keptReads b P))
  let kept := s.keptSlots c b P
  let s := kept.foldl (fun (s : State) x => s.storeAt bd.pages (offHist P x.1) x.2.2) s
  let s := s.storeAt bd.pages (offExpX P 0)
    (expTable P fun i => match kept.find? fun x => x.1 == i with | some x => x.2.1 | none => 0x80#8)
  let s := s.wipePages c.pages
  s.updSpec k fun c =>
    { c with p := P, pages := bd.pages, swap := none, x := if c.p = 0 then Sparse.clear c.x 0 (256 * b) else c.x }

/-- A switch whose block has come is made (R240). -/
def State.convDue (s : State) (b : Nat) (k : Fin 8) : State :=
  match (s.spec.ch.get k).swap with
  | some (b0, bd) => if b0 ≤ b then s.convSwap k bd b else s
  | none => s

/-- The block boundary at which a channel goes over to an impulse whose build ends now: the first after the present (R240). -/
def State.switchBlock (s : State) : Nat := max s.spec.next s.nextBlock

/-- No channel works yet. -/
def Spec.first (s : Spec) : Bool := s.ch.toList.all fun c => c.owner.isNone || c.p == 0

/-- Channel `k` goes over to the impulse built at the boundary of block `b`: at once where no channel works, else as SPEC comes to
that block; what SPEC still computes before it goes by the old. -/
def State.convSwitchAt (s : State) (k : Fin 8) (bd : Build) (b : Nat) : State :=
  let first := s.spec.first
  let s := (s.convBuilt k bd).updSpec k fun c => { c with build := none }
  if first then { s with spec := { s.spec with next := b } }.convSwap k bd b
  else s.updSpec k fun c => { c with swap := some (b, bd) }

/-- CONV_SWITCH: the spectra of channel `k` are built; the switch falls on the first block boundary after the present, to which the
row carries the clock, and CONV_LOAD completes. DEDUCED (assumption log 54). While SPEC is halted it waits. DESIGN CHOICE (assumption
log 140). -/
def execConvSwitch (k : Fin 8) (s : State) : Out' :=
  let c := s.spec.ch.get k
  .next (match c.build, c.owner with
    | some bd, some h =>
      s.when (!s.spec.halted && s.pwr.on pdSpec && !c.leaving && c.swap.isNone && s.reaches (s.switchBlock * 131072)) fun s =>
        let b := s.switchBlock
        let s := (s.runTo (b * 131072)).convSwitchAt k bd b
        (match (s.halls.get (hallIx h)).wait with
          | some w => if w.what = .conv k.val then s.endWait (hallIx h) 0 (leBytes 2 bd.parts ++ leBytes 2 bd.pages.length) else s
          | none => s)
    | _, _ => s)

/-! ### The blocks (R236, R239) -/

/-- Channel `k` computes block `b`, with the impulse that governs it. DEDUCED (assumption log 57). -/
def State.convOne (s : State) (b : Nat) (k : Fin 8) : State :=
  let s := s.convDue b k
  let c := s.spec.ch.get k
  if c.owner.isNone = true ∨ c.p = 0 then s else
  let r := convBlock s.mem.rd (storedAddr c.pages) c.p b (fun n => if n < 0 then 0 else Sparse.get 0 c.x n.toNat)
  let s := s.specRead k (cwsOf r.read)
  let hit := s.spec.struck.contains (.ch k)
  let y := if hit then List.replicate 256 0 else r.y
  let hist := if hit then List.replicate 1536 0#8 else r.hist
  let slot := b % c.p
  let s := s.storeAt c.pages (offHist c.p slot) hist
  let s := s.memDo (s.mem.writeBytes (storedAddr c.pages (offExpX c.p slot)) [sbyte (if hit then -128 else r.ex)])
  let s := s.updSpec k fun c => { c with y := ((b, y) :: c.y).take 8 }
  if hit = true ∨ (r.sats = 0 ∧ r.wbSat = false) then s
  else { s with spec := { s.spec with satCnt := satInc s.spec.satCnt r.sats } }.specErr 3

/-- Block `b` is too late for the first frame that needs it (R239). DEDUCED (assumption log 54). -/
def State.blockLate (s : State) (b : Nat) : Bool := decide ((256 * b + 512) / s.fl < s.out.next)

/-- SPEC_BLOCK: the next block of every channel, once its input is whole. `upsets`: symbol errors that have appeared.
DEDUCED (assumption log 54). -/
def execSpecBlock (upsets : Upsets) (s : State) : Out' :=
  if Upsets.wf upsets = false then .refused .illFormed else
  let s := { s with mem := s.mem.upset upsets }
  let b := s.spec.next
  let ok := s.time.running && !s.spec.halted && s.pwr.on pdSpec && decide (256 * (b + 1) ≤ s.mez.next * s.fl)
    && (s.spec.ch.toList.any fun c => c.owner.isSome)
  .next (s.when ok fun s =>
    let s := (List.finRange 8).foldl (fun s k => s.convOne b k) s
    let struck := s.spec.struck.filter fun u => match u with | .ch _ => false | .an _ => true
    let s := { s with spec := { s.spec with next := b + 1, struck := struck } }
    let missed : Bool := s.blockLate b && (s.spec.ch.toList.any fun c => c.owner.isSome && c.p != 0)
    if missed = true
    then { s with spec := { s.spec with miss := satInc s.spec.miss 1 } }.specErr 2 else s)

/-! ### Resynthesis (R244–R247) -/

/-- The tracks of an analyser, inactive before its first block. -/
def Analyser.parts (a : Analyser) : List Partial_ :=
  let n := bits a.src 8 6 + 1
  if a.tracks.length = n then a.tracks else List.replicate n { active := false, inc := 0, pitch := 0, amp := 0 }

/-- The controllers that a block of tracks writes (R247). DEDUCED (assumption log 56). -/
def Analyser.writes (a : Analyser) (ts : List Partial_) : List (Nat × Int) :=
  let base := if bit a.cfg 23 then 16 else 0
  ts.zipIdx.flatMap fun x => [(base + 2 * x.2, x.1.pitch), (base + 2 * x.2 + 1, x.1.amp)]

/-- RESYN_BLOCK: the next block of analyser `i`. One that a working-memory error struck writes nothing (R249).
DEDUCED (assumption log 56). -/
def execResynBlock (i : Fin 2) (s : State) : Out' :=
  let a := s.spec.an.get i
  let b := a.next
  let ok := s.time.running && bit a.cfg 31 && !s.spec.halted && s.pwr.on pdSpec && decide (256 * (b + 1) ≤ s.mez.next * s.fl)
  .next (s.when ok fun s =>
    let lam := anLam a.cfg
    let end_ : Int := ((256 * b + 256 : Nat) : Int) - p2 lam
    let x (j : Nat) : Int := let n := end_ + j; if n < 0 then 0 else Sparse.get 0 a.x n.toNat
    let hit := s.spec.struck.contains (.an i)
    let ts := if hit then a.parts
      else matchTracks s.fe882 (bits a.src 8 6 + 1) (peaks lam ((bits a.cfg 22 0 : Nat) : Int) x) a.parts
    let s := { s with spec := { s.spec with struck := s.spec.struck.filter fun u => u != WmUnit.an i } }
    s.updAn i fun a => { a with next := b + 1, tracks := ts, out := if hit then a.out else a.out ++ [(b, a.writes ts)] })

/-- A controller is set at a control point. DEDUCED (assumption log 41). -/
def Hall.setCtl (h : Hall) (t rank k : Nat) (v : Int) (dur : Nat) : Hall :=
  let e : LineEv := { src := .track, key := cpKey t rank, t := t, ramp := decide (dur ≠ 0), v := sat24 v, dur := dur }
  { h with ctl := h.ctl.upd (Fin.ofNat 32 k) fun c => (c.1, lineInsert e c.2) }

/-- RESYN_CTRL_WRITE: the results of the oldest block not yet written stand from the frame at es 256b + 512. -/
def execResynCtrlWrite (i : Fin 2) (s : State) : Out' :=
  let a := s.spec.an.get i
  .next (match a.out with
    | [] => s
    | (b, ws) :: rest =>
      let t := (256 * b + 512) * 512
      let h := hallIx (bits a.cfg 28 26)
      (s.updAn i fun a => { a with out := rest }).updHall h fun x =>
        ws.foldl (fun x w => x.setCtl t 1 w.1 w.2 0) x)

/-! ### Working memory (R249, R250) -/

/-- A unit of SPEC is in use: its hall. -/
def State.wmHall (s : State) : WmUnit → Option Nat
  | .ch k => (s.spec.ch.get k).owner
  | .an i => let c := (s.spec.an.get i).cfg; if bit c 31 then some (bits c 28 26) else none

def WmUnit.kind : WmUnit → Nat
  | .ch _ => 0 | .an _ => 1
def WmUnit.index : WmUnit → Nat
  | .ch k => k.val | .an i => i.val

/-- SPEC_WM_ERROR: a read for unit `u` detects an error; the fourth within 1 s halts SPEC. -/
def execSpecWmError (u : WmUnit) (s : State) : Out' :=
  .next (match s.wmHall u with
    | none => s
    | some h => s.when (!s.spec.halted && s.pwr.on pdSpec) fun s =>
      let recent := s.time.et :: s.spec.ueAt.filter fun t => decide (s.time.et < t + feHz s.fe882 * 512)
      let s := { s with spec := { s.spec with struck := u :: s.spec.struck.filter (· != u), ueAt := recent,
                                              ueCnt := satInc s.spec.ueCnt 1 } }
      let s := (((s.specErr 0).guar 4).log 0x0401 (some h) [byte u.kind, byte u.index]).unitNotice h u.kind u.index 1
      if recent.length ≥ 4 then s.specHalt else s)

end Sys2Proof.Machine
end

