-- ==== Sys2Proof/Machine/Waits.lean ====
section
/-! DEFINITION. Commands that wait for pages (spec/09_wave_memory.md R254, R509; spec/13_command_set.md R362, R375). -/

namespace Sys2Proof.Machine

/-- The wait of a hall goes on as another. -/
def State.rewait (s : State) (h : Fin 8) (what : WaitFor) : State :=
  s.updHall h fun x => { x with wait := x.wait.map fun w => { w with what := what } }

/-- What R254 and R509 give a hall that asks for `n` pages: its quota, then the pages. -/
def State.pagesFor (s : State) (h : Fin 8) (n : Nat) (contig : Bool) : AllocAns :=
  if s.mem.used h.val + n > (s.halls.get h).quota then .none else s.mem.alloc n contig

/-- The lowest and the highest of a list of pages. -/
def loOf (ps : List Nat) : Nat := ps.foldl min (ps.headD 0)
def hiOf (ps : List Nat) : Nat := ps.foldl max 0

/-- Entries that follow the first in a PAGE_ALLOC's completion (R375). DEDUCED (assumption log 66). -/
def pageExt (ps : List Nat) : Nat :=
  let span := hiOf ps - loOf ps + 1
  if span = ps.length then 0 else (span - 384 + 511) / 512

/-- The bitmap of a PAGE_ALLOC: `n` bytes. -/
def pageMap (ps : List Nat) (n : Nat) : List Byte :=
  (List.range n).map fun i => byte (sumOf (fun b => at_ (ps.contains (loOf ps + 8 * i + b)) b) (List.range 8))

/-- The result of a PAGE_ALLOC (R375). -/
def pageResult (ps : List Nat) : List Byte :=
  let whole := decide (hiOf ps - loOf ps + 1 = ps.length)
  leBytes 2 ps.length ++ leBytes 2 (loOf ps) ++ leBytes 2 (hiOf ps) ++ [byte (at_ whole 0), 0#8] ++
    pageMap ps (48 + 64 * pageExt ps)

/-- A PAGE_ALLOC decides: a status and result, or none while it waits. -/
def State.pageAllocNow (s : State) (h : Fin 8) (n : Nat) (contig : Bool) : Option (State × Nat × List Byte) :=
  match s.pagesFor h n contig with
  | .take ps =>
    if 1 + pageExt ps > (s.halls.get h).ring.len then some (s, 0x12, [])
    else some ({ s with mem := s.mem.claim ps h.val .owned }, 0, pageResult ps)
  | .wait => none
  | .none => some (s, 0x14, [])

/-- The result of a PROG_LOAD that fails (R102). -/
def progFail (reason off : Nat) : List Byte := leBytes 2 0xFFFF ++ leBytes 2 reason ++ leBytes 4 off ++ List.replicate 6 0#8

/-- A CONV_LOAD that gets no pages leaves its channel as it was; one that was free is free again. DEDUCED (assumption log 58). -/
def State.convGiveUp (s : State) (k : Fin 8) : State :=
  if (s.spec.ch.get k).p = 0 ∧ (s.spec.ch.get k).swap.isNone = true then s.convFree k else s.updSpec k fun c => { c with build := none }

/-- A CONV_LOAD has its pages: it builds, once PD_SPEC is powered (R225, R240). -/
def State.convBuild (s : State) (k : Fin 8) (h : Nat) (ps : List Nat) : State :=
  let s := { s with mem := s.mem.claim ps h .stored }.updSpec k fun c =>
    { c with build := c.build.map (fun (b : Build) => { b with pages := ps }) }
  s.switchOn pdSpec

/-- A hall whose command waits for pages is served (R254). DESIGN CHOICE (assumption log 62). -/
def State.serveHall (s : State) (h : Fin 8) : State :=
  match (s.halls.get h).wait with
  | none => s
  | some w => match w.what with
    | .pages n contig => (match s.pageAllocNow h n contig with
      | some (s, st, data) => s.endWait h st data
      | none => s)
    | .progPages image pf3 n => (match s.pagesFor h n false with
      | .take ps => { s with mem := s.mem.claim ps h.val .stored }.rewait h (.progLoad image pf3 ps)
      | .wait => s
      | .none => s.endWait h 0x14 (progFail 0 0))
    | .convPages k =>
      let k := Fin.ofNat 8 k
      (match s.pagesFor h (match (s.spec.ch.get k).build with | some b => convPages b.parts | none => 0) false with
      | .take ps => (s.convBuild k h.val ps).rewait h (.conv k.val)
      | .wait => s
      | .none => (s.convGiveUp k).endWait h 0x14 [])
    | _ => s

/-- Every hall that waits for pages is served, after a wipe, a retirement or another command's taking (R254).
DESIGN CHOICE (assumption log 62). -/
def State.servePages (s : State) : State := (List.finRange 8 ++ List.finRange 8).foldl State.serveHall s

end Sys2Proof.Machine
end

