-- ==== Sys2Proof/Machine/MemRows.lean ====
section
/-! DEFINITION. Wave memory at work: arbiters, scrubbers, wipes, loads that end (spec/09_wave_memory.md R254–R274,
spec/03_voice_programs.md R84–R87). -/

namespace Sys2Proof.Machine

/-- A requester can have a request present: the galleries and SPEC make none while their domains are isolated (R473). -/
def State.asks (s : State) (r : Fin 12) : Bool :=
  if r.val < 8 then s.pwr.on (pdGal (Fin.ofNat 8 r.val)) else if r = 8 then s.pwr.on pdSpec else true

/-- ARBITER_DECISION: the next grant of channel `c` with the requests present; `withdrew`: the requester granted before has
withdrawn. -/
def execArbiterDecision (c : Fin 4) (present : List (Fin 12)) (withdrew : Bool) (s : State) : Out' :=
  .next (s.when s.mem.ready fun s =>
    { s with mem := s.mem.updCh c fun x => x.decide ((present.filter s.asks).map (·.val)) withdrew })

/-! ### The scrubber (R265–R269) -/

/-- The cadence of the patrol in 1/512 es (R265). -/
def State.patrolStep (s : State) : Nat := (if s.fe882 then 2422 else 2636) * 512

/-- The patrol's read of its next codeword: a poisoned one counts nowhere (R267). -/
def State.patrolRead (s : State) (c : Fin 4) : State :=
  let x := s.mem.ch.get c
  let cw := cwOfCh c x.scrubNext
  let s := if s.mem.isPoison cw then s else s.memDo (s.mem.readCw MemEvents.none cw)
  let n := x.scrubNext + 1
  { s with mem := s.mem.updCh c fun y =>
      { y with scrubNext := n % 1048576, scrubPass := if n = 1048576 then satInc y.scrubPass 1 else y.scrubPass } }

/-- SCRUB_PATROL_READ: a read that falls due while a page is wiped or scrubbed is not made. -/
def execScrubPatrolRead (c : Fin 4) (upsets : Upsets) (s : State) : Out' :=
  if Upsets.wf upsets = false then .refused .illFormed else
  let s := { s with mem := s.mem.upset upsets }
  .next (match (s.mem.ch.get c).due with
    | some t => s.when (s.reaches t) fun s =>
      let s := s.runTo t
      let s := { s with mem := s.mem.updCh c fun x => { x with due := some (t + s.patrolStep) } }
      if (s.mem.ch.get c).jobs = [] then s.patrolRead c else s
    | none => s)

/-- The write-back register passes on to the next correction that waits. -/
def MemCh.nextWb (c : MemCh) : MemCh := { c with wb := c.wbWait.head?, wbWait := c.wbWait.tail }

/-- SCRUB_WRITE_BACK: the codeword of the write-back register is rewritten as the decoder gives it now. -/
def execScrubWriteBack (c : Fin 4) (upsets : Upsets) (s : State) : Out' :=
  if Upsets.wf upsets = false then .refused .illFormed else
  let s := { s with mem := s.mem.upset upsets }
  .next (match (s.mem.ch.get c).wb with
    | some cw =>
      let s := { s with mem := s.mem.updCh c MemCh.nextWb }
      if s.mem.isPoison cw then s
      else if s.mem.decode cw = .uncorrectable then s.memDo (s.mem.poisonCw cw MemEvents.none)
      else { s with mem := s.mem.rewrite cw }
    | none => s)

/-- A wipe or page scrub has ended: with no failure, or at codeword `bad` (R255, R268, R269). -/
def State.scrubEnded (s : State) (p : Nat) (wiped : Bool) (ev : MemEvents) (bad : Option Nat) : State :=
  match bad with
  | some cw =>
    let r := s.mem.retire p cw ev
    let m := if wiped then r.1.setPage p { state := .retired, hall := 8, poisoned := false } else r.1
    s.memDo (m, r.2)
  | none =>
    let s := s.memDo (s.mem, ev)
    if wiped then { s with mem := s.mem.setPage p Page.default }
    else
      let o := s.pageOwner p
      let s := { s with mem := s.mem.setPage p { (s.mem.page p) with poisoned := false } }.fenceLift 6 p
      match o with | some h => s.pageNotice h p 0 2 | none => s

/-- A voice of a hall that has closed has frames left to render (R223). -/
def State.lastFrames (s : State) : Bool := s.voices.any fun v => v.ended.isNone && !(s.hall v.hall).alive

/-- PAGE_SCRUB_END: the wipe or page scrub under way on channel `c` ends; commands that wait for pages are served. The wipe of a
page that the last frames of a closed hall read does not end before them. DEDUCED (assumption log 60). -/
def execPageScrubEnd (c : Fin 4) (upsets : Upsets) (s : State) : Out' :=
  if Upsets.wf upsets = false then .refused .illFormed else
  let s := { s with mem := s.mem.upset upsets }
  .next (match (s.mem.ch.get c).jobs with
    | [] => s
    | (p, wiped) :: rest =>
      if s.mem.late.contains p = true ∧ s.lastFrames = true then s else
      let m := s.mem.updCh c fun x => { x with jobs := rest }
      let m := if m.late.contains p then m.zeroPage p else m
      let r := m.scrub wiped p (List.range 1024) MemEvents.none
      ({ s with mem := r.1 }.scrubEnded p wiped r.2.1 r.2.2).servePages)

/-! ### Sealed loads (R258, R259) -/

/-- The payload of a staged package, none where check 6 of R258 fails: a package key, unwrapped when the load was taken and not wiped
since (R259), the unit it is bound to, the tag. -/
def State.openPackage (s : State) (h : Fin 8) (stage len : Nat) : Option (List Byte) :=
  let at_ (o n : Nat) : List Byte := s.mem.rdList (stage * 65536 + o) n
  if s.mgmt.pkgIn.contains h.val = false then none
  else if (at_ 7 1).headD 0#8 = 1#8 ∧ leNat (at_ 8 8) ≠ s.nv.uid then none
  else
      let key := natsOf (s.mgmt.alcove.readList (pkgKeyAt h) 32)
      (gcmOpen key (natsOf (at_ 0x40 12)) (natsOf (at_ 0 0x50)) (natsOf (at_ 0x50 len)) (natsOf (at_ (0x50 + len) 16))).map bytesOf

/-- A page is written whole. -/
def State.fillPage (s : State) (p : Nat) (bs : List Byte) (st : PageState) : State :=
  let s := s.memDo (s.mem.writeBytes (p * 65536) ((bs ++ List.replicate (65536 - bs.length) 0#8).take 65536))
  if (s.mem.page p).state = .sealing then { s with mem := s.mem.setPage p { (s.mem.page p) with state := st } } else s

/-- SEALED_LOAD_DONE: the decryption that hall `h` waits for ends. DEDUCED (assumption log 63). -/
def execSealedLoadDone (h : Fin 8) (s : State) : Out' :=
  .next (match (s.halls.get h).wait with
    | some w => (match w.what with
      | .sealed stage dest len =>
        let s := s.memDo (s.mem.readCws (cwSpan (stage * 65536) (0x60 + len)))
        (match s.openPackage h stage len with
        | some bs =>
          ((dest.zipIdx.foldl (fun (s : State) x => s.fillPage x.1 (bs.drop (65536 * x.2)) .sealed) s).erasePkg h).endWait h 0
            (leBytes 4 len)
        | none => ((dest.foldl (fun (s : State) p => s.fillPage p [] .owned) s).erasePkg h).endWait h 0x31 [])
      | _ => s)
    | none => s)

/-! ### Program loads (R84–R87) -/

/-- The generation after `g` for an index (R84). -/
def nextGen (idx g : Nat) : Nat := let n := (g + 1) % 256; if idx = 255 ∧ n = 255 then 0 else n

/-- The lowest index that no program of the hall holds: R84 does not say which free index a PROG_LOAD takes.
DESIGN CHOICE (assumption log 108). -/
def Hall.freeIdx (h : Hall) : Option Nat := (List.range 256).find? fun i => h.progs.all fun p => p.idx != i

/-- The result of a PROG_LOAD (R102). -/
def progDone (handle cost pages : Nat) : List Byte :=
  leBytes 2 handle ++ leBytes 2 0 ++ leBytes 4 0 ++ leBytes 4 cost ++ leBytes 2 pages

/-- A validated image is stored and takes its handle. -/
def State.storeProg (s : State) (h : Fin 8) (image : List Byte) (p : Prog) (pages : List Nat) : State :=
  match (s.halls.get h).freeIdx with
  | none => (s.wipePages pages).endWait h 0x18 (progFail 0 0)
  | some i =>
    let g := Sparse.get 0 (s.halls.get h).gens i
    let s := s.storeAt pages 4096 (storedWaves image.toArray)
    let e : ProgEnt := { idx := i, gen := g, prog := p, pages := pages, draining := false }
    let s := s.updHall h fun x => { x with progs := x.progs ++ [e], gens := Sparse.put 0 x.gens i (nextGen i g) }
    s.endWait h 0 (progDone (handleOf i g) (s.frameCost p) pages.length)

/-- PROG_LOAD_DONE: the load that hall `h` waits for ends. Its image has passed every check. -/
def execProgLoadDone (h : Fin 8) (s : State) : Out' :=
  .next (match (s.halls.get h).wait with
    | some w => (match w.what with
      | .progLoad image pf3 pages =>
        (match parsePf4 0x15 0x30 (s.halls.get h).rv image.toArray pf3 with
        | .ok p => s.storeProg h image p pages
        | .error e => (s.wipePages pages).endWait h e.status (progFail e.reason e.off))
      | _ => s)
    | none => s)

end Sys2Proof.Machine
end

