-- ==== Sys2Proof/Machine/Operands.lean ====
section
/-! DEFINITION. Operand forms: the fields of ring-command payloads and transactions, little-endian unless a rule says otherwise
(spec/00_scope.md R7, spec/13_command_set.md R354–R358). -/

namespace Sys2Proof.Machine

/-- A field of a byte list: offset and size, least significant byte first. -/
def fld (bs : List Byte) (off n : Nat) : Nat := leNat ((bs.drop off).take n)

def f8 (bs : List Byte) (off : Nat) : Nat := fld bs off 1
def f16 (bs : List Byte) (off : Nat) : Nat := fld bs off 2
def f32 (bs : List Byte) (off : Nat) : Nat := fld bs off 4
def f64 (bs : List Byte) (off : Nat) : Nat := fld bs off 8

/-- A signed field. -/
def s32 (bs : List Byte) (off : Nat) : Int := signed 32 (f32 bs off)
def s16 (bs : List Byte) (off : Nat) : Int := signed 16 (f16 bs off)

/-- The 32-bit word at an offset. -/
def w32 (bs : List Byte) (off : Nat) : Word := word (f32 bs off)

/-- `n` bytes from an offset are all zero: reserved fields (R357). -/
def zero (bs : List Byte) (off n : Nat) : Bool := ((bs.drop off).take n).all fun b => b == 0#8

end Sys2Proof.Machine
end

