-- ==== Sys2Proof/Machine/Take.lean ====
section
/-! DEFINITION. How CP0 takes a command and what every command goes through: the room for its completion, the common checks, the
event of a time-stamped one (spec/12_host_ports_and_mailboxes.md R346, spec/13_command_set.md R354–R365). -/

namespace Sys2Proof.Machine

/-- How the length of an opcode's payload is judged (R360, table of opcodes): one length; a fixed part and a counted part whose
count stands at an offset, of a size, of units of bytes, with a maximum; the two lengths of EQ_LOAD; a trigger's template. -/
inductive LenRule where
  | fixed (n : Nat)
  | counted (fix off size unit max : Nat)
  | eqLoad
  | template
  deriving DecidableEq, Repr

/-- The length of the payload of an event opcode, less its event-time word (R386). -/
def templateLen : Nat → Option Nat
  | 0x0501 => some 40 | 0x0502 => some 8 | 0x0503 => some 4 | 0x0504 => some 12 | 0x0505 => some 20 | 0x0506 => some 16 | _ => none

/-- Step 4 of R360: the status with which a command ends here, none where it goes on. -/
def LenRule.check (l : LenRule) (c : Cmd) : Option Nat :=
  match l with
  | .fixed n => if c.len = n then none else some 0x11
  | .counted fix off size unit max =>
    let n := fld c.pay off size
    if c.len = 0 then some 0
    else if c.len < fix then some 0x11
    else if n > max then some 0x12
    else if c.len = fix + unit * n then none else some 0x11
  | .eqLoad =>
    let ok := match f8 c.pay 1 with
      | 0 => decide (c.len = 164)
      | 1 => decide (c.len = 84)
      | _ => decide (c.len = 164 ∨ c.len = 84)
    if ok then none else some 0x11
  | .template =>
    if c.len = 0 then some 0
    else if c.len < 16 then some 0x11
    else match templateLen (f16 c.pay 4) with
      | some n => if c.len = 16 + n then none else some 0x11
      | none => none

/-- An opcode: who may issue it, its length, whether it is time-stamped, the completion entries to reserve, what it does once the
checks of R360 up to its flags have passed. -/
structure Opcode where
  op    : Nat
  sup   : Bool
  timed : Bool
  len   : LenRule
  need  : State → Fin 8 → Cmd → Nat
  body  : State → Fin 8 → Cmd → Res

def needOne (_ : State) (_ : Fin 8) (_ : Cmd) : Nat := 1

/-- Steps 1 and 3 to 5 of R360, as far as every opcode has them alike. -/
def Opcode.check (o : Opcode) (s : State) (h : Fin 8) (c : Cmd) : Option Nat :=
  if s.hallFenced h = true ∧ c.op / 256 ≠ 1 ∧ c.op / 256 ≠ 9 then some 0x20
  else if o.sup = true ∧ h ≠ 0 then some 0x21
  else match o.len.check c with
    | some st => some st
    | none =>
      if c.flags ≥ 4 then some 0x22
      else if o.timed = true ∧ c.immediate = true ∧ f64 c.pay 0 ≠ 0 then some 0x22
      else none

/-- A command is carried out. -/
def Opcode.run (o : Opcode) (s : State) (h : Fin 8) (c : Cmd) : Res :=
  match o.check s h c with
  | some st => .done s st []
  | none => o.body s h c

/-- What a command comes to is posted, or its completion waits (R362). -/
def State.finish (_s : State) (h : Fin 8) (c : Cmd) (need : Nat) : Res → State
  | .done s st data => s.taken.complete h c.op c.tag c.quiet c.via st data need
  | .wait s what => s.taken.updHall h fun x =>
      { x with wait := some { op := c.op, tag := c.tag, quiet := c.quiet, via := c.via, reserve := need, what := what } }

/-- CP0 runs: its firmware works and no debugger holds it (R352, R419). DEDUCED (assumption log 65, 92). -/
def State.cp0Runs (s : State) : Bool := s.mgmt.fwOk && !s.mgmt.stopped && !s.time.dbg.get 0

/-- The completion ring has room for a completion of `need` entries (R346). DEDUCED (assumption log 66). -/
def State.room (s : State) (h : Fin 8) (need : Nat) : Bool :=
  let x := s.halls.get h
  decide (x.ring.unread + s.reserved h + need ≤ x.ring.len)

/-- Voices of a hall that has closed under the number that a HALL_CREATE asks for still sound. DEDUCED (assumption log 37). -/
def State.ghosts (s : State) (c : Cmd) : Bool := s.voices.any fun v => v.hall == f8 c.pay 0 && v.ended.isNone

/-- The channel that a CONV_LOAD names fades out after its release. DEDUCED (assumption log 58). -/
def State.fadingCh (s : State) (c : Cmd) : Bool := (s.spec.ch.get (Fin.ofNat 8 (f8 c.pay 0))).leaving

/-- A command that CP0 does not take as the device stands, and that its hall therefore does not have ready (R363): HALL_CREATE,
CONV_LOAD, a lift by FENCE_STATUS, the update path. DEDUCED (assumption log 37, 58, 83). -/
def State.defers (s : State) (c : Cmd) : Bool :=
  match c.op with
  | 0x0201 => !(s.hall (f8 c.pay 0)).alive && s.ghosts c
  | 0x0701 => s.fadingCh c
  | 0x0902 => f8 c.pay 0 == 1 && s.fence.busy.isSome
  | 0x0A01 => s.mgmt.flash.isSome
  | 0x0A02 => s.mgmt.flash.isSome
  | 0x0A03 => s.mgmt.flash.isSome
  | 0x0A04 => s.mgmt.flash.isSome
  | _ => false

/-- A mailbox command stands in a hall's port, none of the hall's waiting and nothing in its ring (R341). -/
def State.mbxReady (s : State) (h : Fin 8) : Bool :=
  let x := s.halls.get h
  x.alive && x.wait.isNone && decide (x.ring.waiting = 0) && (match x.port? with
    | some p => (s.port p).st == .uhp2 && (s.port p).mbxBusy
    | none => false)

/-- A hall has a command ready (R363). -/
def State.ready (s : State) (h : Fin 8) : Bool :=
  ((s.halls.get h).port?.isSome && (match s.nextCmd h with
    | .none => false
    | .cmd c _ => !s.defers c
    | .bulk _ => true
    | .tooLong _ => true)) || s.mbxReady h

/-- It is hall `h`'s turn: no hall after the one served last and before `h` has a command ready (R363).
DESIGN CHOICE (assumption log 116). -/
def State.turn (s : State) (h : Fin 8) : Bool :=
  (List.range ((h.val + 7 - s.foyer.last.val) % 8)).all fun i => !s.ready (Fin.ofNat 8 (s.foyer.last.val + 1 + i))

/-- CP0 has served a hall. -/
def State.served (s : State) (h : Fin 8) : State := { s with foyer := { s.foyer with last := h } }

/-- CP0 finds no room for the completion of a hall's command: the ring stalls, and CP0 goes on to other halls (R346). -/
def State.stall (s : State) (h : Fin 8) : State := (s.updRing h fun r => { r with stalled := true }).served h

/-- CP0 takes a command's entries from a hall's ring and begins to carry it out, with `need` entries reserved for its completion. -/
def State.takeEntries (s : State) (h : Fin 8) (n : Nat) (need : Nat := 1) : State :=
  ((s.updRing h fun r => { r with cmdHead := r.cmdHead + BitVec.ofNat 16 n, stalled := false }).served h).taking h need

/-- CP0 takes the command at the head of hall `h` in the hall's turn, where it is one that `sel` picks and does not put off; without
room for its completion the ring stalls, and a time-stamped one waits for room in the event queue (R22, R346, R355, R363). One too
long for the ring is never put off: TOO_LONG is all that comes of it. DEDUCED (assumption log 65). -/
def Opcode.take (o : Opcode) (sel : Cmd → Bool) (h : Fin 8) (s : State) : State :=
  let x := s.halls.get h
  if s.cp0Runs = false ∨ x.port?.isNone = true ∨ s.turn h = false then s else
  match s.nextCmd h with
  | .cmd c n =>
    if sel c = false ∨ s.defers c = true then s
    else if s.room h (o.need s h c) = false then s.stall h
    else if o.timed = true ∧ s.queueRoom h = false then s.served h
    else
      let t := s.takeEntries h n (o.need s h c)
      t.finish h c (o.need s h c) (o.run t h c)
  | .tooLong c =>
    if sel c = false then s
    else if s.room h 1 = false then s.stall h
    else (s.takeEntries h 1).taken.complete h c.op c.tag c.quiet .ring 0x12 []
  | .bulk _ => s
  | .none => s

/-- The command is of the opcode. -/
def Opcode.is (o : Opcode) (c : Cmd) : Bool := c.op == o.op

/-- The row of an opcode that is one row. -/
def Opcode.row (o : Opcode) (h : Fin 8) (s : State) : Out' := .next (o.take o.is h s)

/-! ### Time-stamped commands (R365) -/

/-- A time-stamped command goes to SCHED: the time checks of R46 and R55, and the completion that tells the applied time. -/
def State.timed (s : State) (h : Fin 8) (c : Cmd) (kind : EvKind) (extra : List Byte) : Res :=
  let a := s.time.et
  let t := if c.immediate then a + s.lead else f64 c.pay 0
  if s.timeOk t = false then .done s 0x16 [] else
  let (s, at', late) := s.arrive h 0 c.tag c.tag a t kind
  .done s (if late then 1 else 0) (leBytes 8 at' ++ extra)

/-! ### Checks that commands share -/

/-- A 24-bit value sign-extended in 32 bits. DEDUCED (assumption log 77). -/
def isS24 (v : Int) : Bool := decide (-8388608 ≤ v) && decide (v ≤ 8388607)

/-- The bus lies in the hall's write mask. -/
def State.inMask (s : State) (h : Fin 8) (b : Nat) : Bool := (Stepped.now 0 (s.halls.get h).mask).getLsbD b

/-- The first of the checks that fails decides the status (R360). -/
def firstFail : List (Bool × Nat) → Option Nat
  | [] => none
  | (ok, st) :: cs => if ok then firstFail cs else some st

/-- A command whose checks all pass goes on. -/
def State.checked (s : State) (cs : List (Bool × Nat)) (go : State → Res) : Res :=
  match firstFail cs with
  | some st => .done s st []
  | none => go s

end Sys2Proof.Machine
end

