-- ==== Sys2Proof/Machine/CmdsA.lean ====
section
/-! DEFINITION. The session and hall commands (spec/13_command_set.md R368–R373, spec/12_host_ports_and_mailboxes.md R337, R349,
R351, spec/07_voice_allocation_and_capacity.md R193–R196, R212–R223, spec/09_wave_memory.md R253). -/

namespace Sys2Proof.Machine

/-! ### Session -/

/-- The HELLO answer data (R337). -/
def State.helloData (s : State) (p : Fin 2) (version width flags : Nat) : List Byte :=
  let h := s.attached p
  leBytes 2 version ++ [byte width, byte p.val] ++ leBytes 4 s.sys.fwVer.toNat ++ leBytes 4 s.sys.rvAvail.toNat ++
    leBytes 4 s.grade.toNat ++ leBytes 8 s.nv.uid ++
    [byte (h.getD 255), byte (match h with | some n => (s.hall n).ring.len | none => 0), byte flags] ++ List.replicate 5 0#8

/-- The version that a port has negotiated. -/
def Port.nowVersion (q : Port) : Nat := if q.st = .uhp3 then q.version else 0

def cmdHelloEcho (s : State) (h : Fin 8) (_c : Cmd) : Res :=
  match (s.halls.get h).port? with
  | some p =>
    let q := s.port p
    .done s 0 (s.helloData p q.nowVersion q.width (at_ (s.foyer.sup == some p) 0 + (q.helloFlags / 2 % 4) * 2))
  | none => .done s 0 []

/-- GET_INFO's result. -/
def State.hallInfo (s : State) (h : Fin 8) : List Byte :=
  let x := s.halls.get h
  [byte x.rv, byte s.fl, byte (at_ s.fe882 0), byte h.val] ++ leBytes 4 s.lead ++ leBytes 4 s.cb ++ leBytes 2 s.out.p ++
    leBytes 2 s.out.q ++ leBytes 4 x.hb ++ [byte x.nHe, byte x.hs] ++ leBytes 2 (x.hd / 64) ++ leBytes 2 x.quota ++
    leBytes 2 (s.mem.used h.val) ++ leBytes 8 (Stepped.now 0 x.mask).toNat ++ leBytes 2 x.kaMs ++
    [byte x.ring.modCount, byte x.ring.len] ++ leBytes 2 x.ring.modTime ++
    [byte (at_ x.kaLapsed 0 + at_ (s.hallFenced h) 1 + at_ (x.engs.any HallEng.dark) 2 + at_ x.kaSusp 3)] ++
    List.replicate 13 0#8

def cmdGetInfo (s : State) (h : Fin 8) (_c : Cmd) : Res := .done s 0 (s.hallInfo h)

def cmdBye (s : State) (h : Fin 8) (c : Cmd) : Res :=
  s.checked [(decide (f8 c.pay 0 ≤ 1) && zero c.pay 1 3, 0x22)] fun s =>
    if f8 c.pay 0 = 0 then .done (s.lapse h) 0 []
    else .done (s.updHall h fun x => { x with kaSusp := true }) 0 []

def cmdKeepalive (s : State) (_h : Fin 8) (_c : Cmd) : Res := .done s 0 (leBytes 8 s.time.et)

/-- PORT_SLEEP: its completion, once posted, sets the port asleep (R351). -/
def cmdPortSleep (s : State) (_h : Fin 8) (_c : Cmd) : Res := .done s 0 []

/-- MOD_SET: the new values apply from the completion onward (R351, R370). DEDUCED (assumption log 67). -/
def cmdModSet (s : State) (h : Fin 8) (c : Cmd) : Res :=
  let n := f8 c.pay 0
  s.checked [(zero c.pay 1 1 && decide (1 ≤ n ∧ n ≤ 64), 0x22)] fun s =>
    .done (s.updRing h fun r => { r with modCount := n, modTime := f16 c.pay 2 }) 0 []

def opHelloEcho : Opcode := { op := 0x0101, sup := false, timed := false, len := .fixed 0, need := needOne, body := cmdHelloEcho }
def opGetInfo : Opcode := { op := 0x0102, sup := false, timed := false, len := .fixed 0, need := needOne, body := cmdGetInfo }
def opBye : Opcode := { op := 0x0103, sup := false, timed := false, len := .fixed 4, need := needOne, body := cmdBye }
def opKeepalive : Opcode := { op := 0x0104, sup := false, timed := false, len := .fixed 0, need := needOne, body := cmdKeepalive }
def opPortSleep : Opcode := { op := 0x0105, sup := false, timed := false, len := .fixed 0, need := needOne, body := cmdPortSleep }
def opModSet : Opcode := { op := 0x0106, sup := false, timed := false, len := .fixed 4, need := needOne, body := cmdModSet }

/-- HELLO_ECHO. -/
def execHelloEcho (h : Fin 8) (s : State) : Out' := opHelloEcho.row h s
/-- GET_INFO. -/
def execGetInfo (h : Fin 8) (s : State) : Out' := opGetInfo.row h s
/-- BYE. -/
def execBye (h : Fin 8) (s : State) : Out' := opBye.row h s
/-- KEEPALIVE. -/
def execKeepalive (h : Fin 8) (s : State) : Out' := opKeepalive.row h s
/-- PORT_SLEEP. -/
def execPortSleep (h : Fin 8) (s : State) : Out' := opPortSleep.row h s
/-- MOD_SET. -/
def execModSet (h : Fin 8) (s : State) : Out' := opModSet.row h s

/-! ### The payload of HALL_CREATE and HALL_RESIZE -/

def ringLenOk (n : Nat) : Bool := n == 0 || n == 8 || n == 16 || n == 32 || n == 64
def ringLenOf (n : Nat) : Nat := if n = 0 then 64 else n

/-- The ranges of the payload's groups (R371). -/
def geomOk (cb : Nat) (p : List Byte) : Bool :=
  decide (f8 p 8 ≤ 64) && decide (1 ≤ f8 p 9 ∧ f8 p 9 ≤ 32) && decide (f16 p 10 ≤ 1024) && decide (1 ≤ f32 p 12 ∧ f32 p 12 ≤ cb)
def quotaOk (p : List Byte) : Bool := decide (f16 p 16 ≤ 4096)
def modOk (p : List Byte) : Bool := decide (1 ≤ f8 p 3 ∧ f8 p 3 ≤ 64)

/-- A binding in the layout of HALLn_BIND, within its encoding. DEDUCED (assumption log 75). -/
def bindOk (w : Word) : Bool := bits w 31 30 != 3 && bits w 29 16 == 0 && (bits w 31 30 != 2 || bits w 13 12 != 3)

/-- The binding names a port already attached, or a serial port whose role is already bound, to a hall but `h` (R371, R373).
DEDUCED (assumption log 75). -/
def State.bindTaken (s : State) (h : Fin 8) (w : Word) : Bool :=
  (List.finRange 8).any fun n => n != h && (s.halls.get n).alive &&
    (match bits w 31 30 with
     | 1 => (s.halls.get n).port? == some (Fin.ofNat 2 (bits w 0 0))
     | 2 => (s.halls.get n).ser? == some (Fin.ofNat 4 (bits w 15 14))
     | _ => false)

/-- The quota sum of R253 with `q` pages for hall `h`. -/
def State.quotaFits (s : State) (h : Fin 8) (q : Nat) : Bool :=
  decide (sumOf (fun n => if n = h ∨ (s.halls.get n).alive = false then 0 else (s.halls.get n).quota) (List.finRange 8) + q
    + s.mem.inState .retired ≤ 4096)

/-! ### HALL_CREATE -/

/-- A hall as HALL_CREATE gives it, with no hall engine yet. -/
def newHall (now : Nat) (p : List Byte) : Hall :=
  { Hall.reset with
    alive := true, rv := f8 p 1, binding := w32 p 20, nHe := f8 p 8, hs := f8 p 9, hd := 64 * f16 p 10, hb := f32 p 12,
    quota := f16 p 16, mask := [(0, BitVec.ofNat 64 (f64 p 24))], kaMs := f16 p 6, kaLast := now,
    ring := { Ring.reset with len := ringLenOf (f8 p 2), modCount := f8 p 3, modTime := f16 p 4 } }

/-- A physical engine that takes hall engines, or would once its parked gallery had been powered up (R218). -/
def State.usableAwake (s : State) (e : Nat) : Bool :=
  let g := s.gal.get (galOf e)
  s.usable e || (g.parked && !g.fenced && !(s.eng.get (engIx e)).fenced)

/-- A mapping that finds no room unparks a gallery and waits, where `can` says that it finds room with every parked gallery
powered up; it is refused where it does not (R196, R218). DESIGN CHOICE (assumption log 38). -/
def State.mapWait (s : State) (payload : List Byte) (can : Bool) : Res :=
  match (if can then s.unparkOne else none) with
  | some x => .wait x.1 (.mapping payload)
  | none => .done s 0x13 []

/-- HALL_CREATE once its checks have passed: the hall is mapped and exists; a fence of an earlier hall of its number that no lift
has ended still stands (R482). -/
def State.hallMake (s : State) (p : List Byte) : Res :=
  let h := hallIx (f8 p 0)
  let x := { newHall s.time.rclk p with fenced := (s.halls.get h).fenced, fenceReq := (s.halls.get h).fenceReq }
  let map (ok : Nat → Bool) : Option (Tab Hall 8) := addEngs s.cb ok h s.openFrame (List.range x.nHe) (s.halls.put h x)
  match map s.usable with
  | none => s.mapWait p (map s.usableAwake).isSome
  | some halls =>
    let s := { s with halls := halls }
    .done (s.irqHall h) 0 []

/-- The checks of HALL_CREATE (R371). -/
def State.createChecks (s : State) (p : List Byte) : List (Bool × Nat) :=
  let h := hallIx (f8 p 0)
  let w := w32 p 20
  [ (decide (1 ≤ f8 p 0 ∧ f8 p 0 ≤ 7) && ringLenOk (f8 p 2) && modOk p && geomOk s.cb p && quotaOk p && bindOk w && zero p 18 2
      && zero p 32 8, 0x22),
    (!(s.halls.get h).alive && !s.bindTaken h w, 0x22),
    (decide (1 ≤ f8 p 1 ∧ f8 p 1 ≤ 32) && bit s.sys.rvAvail (f8 p 1 - 1), 0x30),
    (s.quotaFits h (f16 p 16), 0x14) ]

def cmdHallCreate (s : State) (_h : Fin 8) (c : Cmd) : Res := s.checked (s.createChecks c.pay) fun s => s.hallMake c.pay

/-! ### HALL_RESIZE -/

/-- The fields outside the groups selected are 0, and those selected are in range (R371, R372). DEDUCED (assumption log 76). -/
def resizeOk (cb : Nat) (p : List Byte) : Bool :=
  let g := f8 p 1
  let sel (k : Nat) : Bool := g / 2 ^ k % 2 == 1
  decide (f8 p 0 ≤ 7) && decide (g < 64) && (if sel 0 then geomOk cb p else zero p 8 8) && (if sel 1 then quotaOk p else zero p 16 2)
    && (if sel 2 then true else zero p 24 8) && (if sel 3 then ringLenOk (f8 p 2) else zero p 2 1)
    && (if sel 4 then modOk p else zero p 3 3) && (if sel 5 then true else zero p 6 2) && zero p 18 6 && zero p 32 8

/-- Both rings of a hall are empty (R349). -/
def Ring.empty (r : Ring) : Bool := r.cmdHead == r.cmdTail && r.cplHead == r.cplTail

/-- A physical engine holds more than it may (R194). -/
def overFull (cb : Nat) (halls : Tab Hall 8) (e : Nat) : Bool :=
  let xs := mappedOn halls e
  decide (sumOf (·.hb) xs > cb) || decide (sumOf (·.hs) xs > 32) || decide (sumOf (·.hd) xs > 65536)

/-- Hall engines that no longer fit on their physical engines move by first fit at frame `f`, and dark ones are mapped (R196,
R219): of several on one physical engine the lowest-numbered first, until the rest fit. DESIGN CHOICE (assumption log 134). -/
def moveOver (cb : Nat) (ok : Nat → Bool) (h : Fin 8) (f : Nat) : List Nat → Tab Hall 8 → Option (Tab Hall 8)
  | [], hs => some hs
  | he :: rest, hs =>
    match ((hs.get h).engs.find? fun x => x.he == he).bind HallEng.now with
    | some e =>
      if overFull cb hs e then
        let off := hs.upd h fun x => putEng x he f none
        match firstFit cb off ok (hs.get h).hb (hs.get h).hs (hs.get h).hd with
        | some e' => moveOver cb ok h f rest (off.upd h fun x => putEng x he f (some e'))
        | none => none
      else moveOver cb ok h f rest hs
    | none =>
      match firstFit cb hs ok (hs.get h).hb (hs.get h).hs (hs.get h).hd with
      | some e => moveOver cb ok h f rest (hs.upd h fun x => putEng x he f (some e))
      | none => none

/-- A hall takes a new geometry: hall engines above the new count drain, those that stay take it, one that drains and is below the
new count among them. DESIGN CHOICE (assumption log 134). -/
def Hall.regeom (x : Hall) (n hb hs hd : Nat) : Hall :=
  { x with nHe := n, hb := hb, hs := hs, hd := hd,
           engs := x.engs.map fun e =>
             if e.left then e else if e.he < n then { e with hb := hb, hs := hs, hd := hd, drain := false } else { e with drain := true } }

/-- The halls after a change of geometry from frame `f` on, with the physical engines that `ok` allows; none where a hall engine
finds no room (R196, R219). -/
def State.regeom (s : State) (ok : Nat → Bool) (h : Fin 8) (p : List Byte) (f : Nat) : Option (Tab Hall 8) :=
  let n := f8 p 8
  let hs := s.halls.upd h fun x => x.regeom n (f32 p 12) (f8 p 9) (64 * f16 p 10)
  let have_ := ((hs.get h).engs.filter fun e => !e.left).map (·.he)
  match moveOver s.cb ok h f ((List.range n).filter have_.contains) hs with
  | some hs => addEngs s.cb ok h f ((List.range n).filter fun k => !have_.contains k) hs
  | none => none

/-- Routes of a hall into buses that have left its mask are freed (R280). -/
def State.freeRoutes (s : State) (h : Fin 8) (keep : Nat → Bool) : State :=
  (List.range 32).foldl (fun s k =>
    let r := Stepped.now { cfg := 0#32, lvl := 0#32 } (s.mez.routes.get (Fin.ofNat 32 k))
    if bit r.cfg 31 = true ∧ bits r.cfg 30 28 = h.val ∧ keep (bits r.cfg 5 0) = false
    then s.setRoute k s.nextFrame { cfg := 0#32, lvl := 0#32 } else s) s

/-- The write mask of a hall changes from the next frame boundary on (R98, R364). -/
def State.setMask (s : State) (h : Fin 8) (m : BitVec 64) : State :=
  (s.updHall h fun x => { x with mask := Stepped.set x.mask s.nextFrame m }).freeRoutes h fun b => m.getLsbD b

/-- The groups of a HALL_RESIZE but its geometry. -/
def State.resizeRest (s : State) (h : Fin 8) (p : List Byte) : State :=
  let sel (k : Nat) : Bool := f8 p 1 / 2 ^ k % 2 == 1
  let s := if sel 1 then s.updHall h fun x => { x with quota := f16 p 16 } else s
  let s := if sel 2 then s.setMask h (BitVec.ofNat 64 (f64 p 24)) else s
  let s := if sel 3 then s.updRing h fun r =>
      { r with len := ringLenOf (f8 p 2), cmdTail := 0, cmdHead := 0, cplTail := 0, cplHead := 0, posted := [], stalled := false }
    else s
  let s := if sel 3 then s.updHall h Hall.bulksNext else s
  let s := if sel 4 then s.updRing h fun r => { r with modCount := f8 p 3, modTime := f16 p 4 } else s
  let s := if sel 5 then s.updHall h fun x => { x with kaMs := f16 p 6 } else s
  s.irqHall h

/-- HALL_RESIZE once its checks but the mapping have passed. DEDUCED (assumption log 76). -/
def State.hallResize (s : State) (p : List Byte) : Res :=
  let h := hallIx (f8 p 0)
  let m := s.openFrame
  let mark (s : State) : State := (s.resizeRest h p).updHall h fun x => { x with resizeAt := some m }
  if f8 p 1 % 2 = 0 then .done (mark s) 0 [] else
  match s.regeom s.usable h p m with
  | none => s.mapWait p (s.regeom s.usableAwake h p m).isSome
  | some halls =>
    let n := movedEngs s.halls halls
    let s := { s with halls := halls, sched := { s.sched with migCnt := satInc s.sched.migCnt n,
                                                               migAt := if n = 0 then s.sched.migAt else some m } }
    .done (mark s) 0 []

/-- The checks of HALL_RESIZE (R372). DEDUCED (assumption log 76). -/
def State.resizeChecks (s : State) (p : List Byte) : List (Bool × Nat) :=
  let h := hallIx (f8 p 0)
  let x := s.halls.get h
  let sel (k : Nat) : Bool := f8 p 1 / 2 ^ k % 2 == 1
  [ (resizeOk s.cb p, 0x22), (x.alive, 0x22), (!sel 3 || x.ring.empty, 0x11), (!sel 1 || s.quotaFits h (f16 p 16), 0x14) ]

def cmdHallResize (s : State) (_h : Fin 8) (c : Cmd) : Res := s.checked (s.resizeChecks c.pay) fun s => s.hallResize c.pay

/-- A gallery has woken: a HALL_CREATE or HALL_RESIZE that waits for its mapping tries again (R218). -/
def State.mapAgain (s : State) (h : Fin 8) : State :=
  match (s.halls.get h).wait with
  | some w => (match w.what with
    | .mapping p =>
      (match (if w.op = 0x0201 then s.hallMake p else s.checked (s.resizeChecks p) fun s => s.hallResize p) with
      | .done s st data => s.endWait h st data
      | .wait s _ => s)
    | _ => s)
  | none => s

/-! ### HALL_BIND and HALL_CLOSE -/

/-- DEDUCED (assumption log 75). -/
def cmdHallBind (s : State) (_h : Fin 8) (c : Cmd) : Res :=
  let n := f8 c.pay 0
  let w := w32 c.pay 4
  let h := hallIx n
  s.checked [(zero c.pay 1 3 && decide (n ≤ 7) && bindOk w, 0x22), (n != 0 && (s.halls.get h).alive && !s.bindTaken h w, 0x22)] fun s =>
    let old := (s.halls.get h).port?
    let s := s.updHall h fun x => { x with binding := w, kaLast := s.time.rclk, kaSusp := false }
    let s := match old with | some p => s.irqEval p | none => s
    .done (s.irqHall h) 0 []

/-- The pages that a hall holds, but those of convolution channels, whose returns still fade. -/
def State.pagesOf (s : State) (h : Fin 8) : List Nat :=
  let conv := s.spec.ch.toList.flatMap fun c => if c.owner = some h.val then c.allPages else []
  (s.mem.pages.filter fun x => x.2.hall == h.val && (match x.2.state with | .free => false | .wiping => false | _ => true) &&
    !conv.contains x.1).map (·.1)

/-- The staging buffers of a hall's BULKs are freed (R338). -/
def State.dropBulks (s : State) (h : Fin 8) : State :=
  (s.halls.get h).bulks.foldl (fun s j => s.updPort j.port fun q => { q with bufs := q.bufs.put j.buf false }) s

/-- A hall that has closed, its hall engines unmapped from frame `m` on; what its last frames still read stays, and so does its fence
until it is lifted (R223, R366, R482). -/
def Hall.closed (x : Hall) (m : Nat) : Hall :=
  { Hall.reset with
    fenced := x.fenced, fenceReq := x.fenceReq, rv := x.rv, mask := x.mask, ctl := x.ctl, tempo := x.tempo, detIn := x.detIn,
    engs := x.engs.map (fun (e : HallEng) => { e with phys := Stepped.set e.phys m none }) }

/-- HALL_CLOSE (R223, R242, R280, R366); the pages that its voices read in the frames before M are overwritten after them.
DEDUCED (assumption log 60). -/
def State.closeHall (s : State) (h : Fin 8) : State :=
  let m := s.openFrame
  let n := m * s.fl
  let port := (s.halls.get h).port?
  let s := s.mapVoices fun v => if v.hall = h.val ∧ v.ended.isNone = true then v.stopBy n (n * 512) .close else v
  let s := { s with voices := s.voices.filter fun v => v.hall != h.val || v.ended.isNone }
  let s := s.specReleaseHall h.val
  let late := s.voices.any fun v => v.hall == h.val && v.ended.isNone
  let s := (if late then s.wipeLate (s.pagesOf h) else s.wipePages (s.pagesOf h)).freeRoutes h fun _ => false
  let s := (s.dropBulks h).erasePkg h
  let mask := (s.halls.get h).mask
  let tails := s.mez.tails.map fun (t : Tail) => if t.hall = h.val ∧ t.closed = none then { t with closed := some mask } else t
  let ch := s.spec.ch.map fun (c : SpecCh) => if c.owner = some h.val ∧ c.closed = none then { c with closed := some mask } else c
  let s := s.dropMappedOf h
  let trg := s.time.trg.map fun (g : Trig) => match g.map with
    | some m => if m.hall = h.val then { g with map := none } else g
    | none => g
  let s := { s with mez := { s.mez with tails := tails }, spec := { s.spec with ch := ch }, time := { s.time with trg := trg } }
  let s := s.updHall h fun x => x.closed m
  match port with | some p => s.irqEval p | none => s

def cmdHallClose (s : State) (_h : Fin 8) (c : Cmd) : Res :=
  let n := f8 c.pay 0
  s.checked [(zero c.pay 1 3 && decide (1 ≤ n ∧ n ≤ 7), 0x22), ((s.hall n).alive, 0x22)] fun s => .done (s.closeHall (hallIx n)) 0 []

def opHallCreate : Opcode := { op := 0x0201, sup := true, timed := false, len := .fixed 40, need := needOne, body := cmdHallCreate }
def opHallResize : Opcode := { op := 0x0202, sup := true, timed := false, len := .fixed 40, need := needOne, body := cmdHallResize }
def opHallBind : Opcode := { op := 0x0203, sup := true, timed := false, len := .fixed 8, need := needOne, body := cmdHallBind }
def opHallClose : Opcode := { op := 0x0204, sup := true, timed := false, len := .fixed 4, need := needOne, body := cmdHallClose }

/-- HALL_CREATE: taken once the voices of a closed hall of that number have stopped. DEDUCED (assumption log 37). -/
def execHallCreate (h : Fin 8) (s : State) : Out' := opHallCreate.row h s
/-- HALL_RESIZE. -/
def execHallResize (h : Fin 8) (s : State) : Out' := opHallResize.row h s
/-- HALL_BIND. -/
def execHallBind (h : Fin 8) (s : State) : Out' := opHallBind.row h s
/-- HALL_CLOSE. -/
def execHallClose (h : Fin 8) (s : State) : Out' := opHallClose.row h s

end Sys2Proof.Machine
end

