-- ==== Sys2Proof/Machine/CmdsB.lean ====
section
/-! DEFINITION. The commands of programs and wave memory (spec/13_command_set.md R374–R377, spec/03_voice_programs.md R84–R105,
spec/09_wave_memory.md R253–R260, R509). -/

namespace Sys2Proof.Machine

/-! ### Pages as commands name them -/

/-- A page is one that the hall may name to read: its own, but no stored form (R256, R260). -/
def State.mayRead (s : State) (h : Fin 8) (p : Nat) : Bool :=
  let x := s.mem.page p
  decide (p < 4096) && x.hall == h.val &&
    (match x.state with | .owned => true | .sealed => true | .sealing => true | .retired => true
                        | .free => false | .wiping => false | .stored => false)

/-- Why a hall may not write a page (R256). -/
def State.pageFault (s : State) (h : Fin 8) (p : Nat) : Option Nat :=
  let x := s.mem.page p
  match x.state with
  | .free => some 0x21
  | .wiping => some 0x21
  | .stored => some 0x21
  | .owned => if x.hall = h.val then none else some 0x21
  | .sealed => if x.hall = h.val then some 0x1D else some 0x21
  | .sealing => if x.hall = h.val then some 0x1D else some 0x21
  | .retired => if x.hall = h.val ∨ 8 ≤ x.hall then some 0x1C else some 0x21

/-- The status that several pages give: the first of an order that any of them gives (R256). -/
def worst (order : List Nat) (fs : List (Option Nat)) : Option Nat := order.find? fun st => fs.contains (some st)

/-- A loaded or draining program of the hall references the page through a sample (R89). -/
def State.referenced (s : State) (h : Fin 8) (p : Nat) : Bool := (s.halls.get h).progs.any fun e => e.prog.samplePages.contains p

/-- The pages of a run. -/
def runOf (first n : Nat) : List Nat := (List.range n).map (· + first)

/-- The pages that `n` bytes span from the start of page `first` on. -/
def spanOf (first n : Nat) : List Nat := runOf first ((n + 65535) / 65536)

/-- The codewords of the first `n` bytes of a run. -/
def runCws (first n : Nat) : List Nat := (List.range ((n + 63) / 64)).map (· + first * 1024)

/-! ### PROG_LOAD (R102, R104, R509) -/

/-- The image that is checked and stored: a PF3 image as translated (R104). -/
def imageOf (bs : List Byte) : List Byte × Bool :=
  if bs.take 4 = [0x50#8, 0x46#8, 0x33#8, 0x00#8] then
    (match translatePf3 bs with
     | .image x => (x, true)
     | .unsupported _ => (bs, true)
     | .malformed _ => (bs, true))
  else (bs, false)

/-- Checks 14, 15 and 17 of R102 on a program. -/
def State.progChecks (s : State) (h : Fin 8) (p : Prog) : Option Nat :=
  let x := s.halls.get h
  if s.frameCost p > x.nHe * x.hb then some 0x13
  else if (p.samplePages.any fun q => !s.mayRead h q) = true ∨ (p.sends.any fun z => !z.spec && !s.inMask h z.target) = true
  then some 0x21
  else none

/-- The byte at fault where check 15 fails: the first_page of a sample reference whose pages are not the hall's, or the target of a
send (R102), counted in the PF4 image, for a PF3 image in its translation. DEDUCED (assumption log 64). -/
def State.ownFault (s : State) (h : Fin 8) (im : Image) (p : Prog) : Nat :=
  (firstFault ((p.tables.zipIdx.map fun (t, j) =>
      ((match t with
        | .sample r => r.pages.all (s.mayRead h)
        | .wave .. => true
        | .curve _ => true
        | .coefs _ => true), secBase im 7 + 28 + 32 * j)) ++
    p.sends.zipIdx.map fun (z, k) => (z.spec || s.inMask h z.target, secBase im 6 + 4 * k + 1))).getD 0

/-- A PROG_LOAD whose image has passed checks 1 to 15 takes its pages, or waits for them (R102, R509). -/
def State.progTake (s : State) (h : Fin 8) (bs : List Byte) (p : Prog) : Res :=
  let image := imageOf bs
  match s.pagesFor h p.storedPages false with
  | .none => .done s 0x14 (progFail 0 0)
  | .take ps =>
    if (s.halls.get h).freeIdx.isNone then .done s 0x18 (progFail 0 0)
    else .wait { s with mem := s.mem.claim ps h.val .stored } (.progLoad image.1 image.2 ps)
  | .wait =>
    if (s.halls.get h).freeIdx.isNone then .done s 0x18 (progFail 0 0)
    else .wait s (.progPages image.1 image.2 p.storedPages)

/-- Checks 3 to 15 on the staged bytes. DESIGN CHOICE (assumption log 20); DEDUCED (assumption log 64). -/
def State.progStaged (s : State) (h : Fin 8) (first len : Nat) : Res :=
  let cws := runCws first len
  let s := s.memDo (s.mem.readCws cws)
  match cws.zipIdx.find? fun x => s.mem.flagged x.1 with
  | some x => .done s 0x15 (progFail 0x0A (64 * x.2))
  | none =>
    let bs := s.mem.rdList (first * 65536) len
    match parseImage 0x15 0x30 (s.halls.get h).rv bs.toArray with
    | .error e => .done s e.status (progFail e.reason e.off)
    | .ok p =>
      match s.progChecks h p with
      | some st => .done s st (progFail 0 (if st = 0x21 then s.ownFault h (imageOf bs).1.toArray p else 0))
      | none => s.progTake h bs p

def cmdProgLoad (s : State) (h : Fin 8) (c : Cmd) : Res :=
  let first := f16 c.pay 0
  let len := f32 c.pay 4
  if zero c.pay 2 2 = false ∨ first > 4095 then .done s 0x22 (progFail 0 0)
  else if len = 0 then .done s 0 (progFail 0 0)
  else if len > 8388608 ∨ first + (len + 65535) / 65536 > 4096 then .done s 0x12 (progFail 0 0)
  else if ((spanOf first len).all (s.mayRead h)) = false then .done s 0x21 (progFail 0 0)
  else s.progStaged h first len

/-! ### PROG_FREE and PROG_INFO (R88, R374) -/

def cmdProgFree (s : State) (h : Fin 8) (c : Cmd) : Res :=
  let handle := f16 c.pay 0
  s.checked [(zero c.pay 2 2, 0x22), (((s.halls.get h).prog? handle).isSome, 0x19)] fun s =>
    let free (p : ProgEnt) : ProgEnt := if handleOf p.idx p.gen = handle then { p with draining := true } else p
    .done ((s.updHall h fun x => { x with progs := x.progs.map free }).reap h) 0 []

/-- PROG_INFO's result. -/
def State.progInfo (s : State) (h : Fin 8) (e : ProgEnt) : List Byte :=
  let handle := handleOf e.idx e.gen
  let n := (s.voices.filter fun v => v.hall == h.val && v.handle == handle && v.counted).length
  [byte (at_ e.draining 0), byte (at_ e.prog.fromPf3 0), byte (s.halls.get h).rv, 0#8] ++ leBytes 2 e.prog.cost ++ [0#8, 0#8] ++
    leBytes 4 (s.frameCost e.prog) ++ leBytes 4 e.prog.delayMax ++ leBytes 4 e.prog.progId ++ leBytes 4 e.prog.compiler ++
    leBytes 2 e.pages.length ++ leBytes 2 n

def cmdProgInfo (s : State) (h : Fin 8) (c : Cmd) : Res :=
  if zero c.pay 2 2 = false then .done s 0x22 [] else
  match (s.halls.get h).progs.find? fun p => handleOf p.idx p.gen == f16 c.pay 0 with
  | some e => .done s 0 (s.progInfo h e)
  | none => .done s 0x19 []

/-! ### Pages (R254–R257, R375, R376) -/

def cmdPageAlloc (s : State) (h : Fin 8) (c : Cmd) : Res :=
  let n := f16 c.pay 0
  let contig := f8 c.pay 2 % 2 == 1
  s.checked [(decide (f8 c.pay 2 < 2) && zero c.pay 3 1, 0x22), (decide (n ≤ 4096), 0x12)] fun s =>
    if n = 0 then .done s 0 [] else
    match s.pageAllocNow h n contig with
    | some (s, st, data) => .done s st data
    | none => .wait s (.pages n contig)

/-- The pages of a PAGE_FREE. -/
def pagesOfPay (p : List Byte) : List Nat := (List.range (f16 p 0)).map fun i => f16 p (4 + 2 * i)

/-- Why a page may not be freed (R89, R255, R256, R259). DEDUCED (assumption log 63). -/
def State.freeFault (s : State) (h : Fin 8) (p : Nat) : Option Nat :=
  let x := s.mem.page p
  if x.hall ≠ h.val then some 0x21 else
  match x.state with
  | .free => some 0x21
  | .wiping => some 0x21
  | .stored => some 0x21
  | .sealing => some 0x1D
  | _ => if s.referenced h p then some 0x17 else none

def noDup : List Nat → Bool
  | [] => true
  | x :: xs => !xs.contains x && noDup xs

/-- PAGE_FREE (R255, R376): the first of NOT_OWNER, SEALED and IN_USE that any page incurs. DEDUCED (assumption log 63). -/
def cmdPageFree (s : State) (h : Fin 8) (c : Cmd) : Res :=
  let ps := pagesOfPay c.pay
  s.checked [(zero c.pay 2 2 && (ps.all fun p => decide (p < 4096)) && noDup ps, 0x22)] fun s =>
    match worst [0x21, 0x1D, 0x17] (ps.map (s.freeFault h)) with
    | some st => .done s st []
    | none => .done (s.wipePages ps) 0 []

/-- A write of data into wave pages (R256, R257). -/
def State.waveWrite (s : State) (h : Fin 8) (page off : Nat) (data : List Byte) : Res :=
  let a := page * 65536 + off
  if page > 4095 ∨ off > 65535 then .done s 0x22 []
  else if data = [] then .done s 0 []
  else if a + data.length > 4096 * 65536 then .done s 0x12 []
  else match worst [0x21, 0x1D, 0x1C] ((runOf page ((off + data.length + 65535) / 65536)).map (s.pageFault h)) with
    | some st => .done s st []
    | none => .done (s.memDo (s.mem.writeBytes a data)) 0 []

def cmdWaveWrite (s : State) (h : Fin 8) (c : Cmd) : Res :=
  if zero c.pay 2 2 = false then .done s 0x22 [] else s.waveWrite h (f16 c.pay 0) (f32 c.pay 4) (c.pay.drop 12)

/-- CP0 takes a BULK, a WAVE_WRITE of the data in its staging buffer (R338). -/
def State.takeBulk (s : State) (h : Fin 8) (j : BulkJob) : State :=
  let c : Cmd := { op := 0x0403, tag := j.tag, flags := 0, len := 12, pay := [], via := .bulk j.port j.buf }
  if s.room h 1 = false then s.stall h else
  let s := (s.updHall h fun x => { x with bulks := x.bulks.tail }).takeEntries h 0
  s.finish h c 1 (if s.hallFenced h then .done s 0x20 []
    else s.waveWrite h (j.addr / 65536) (j.addr % 65536) (s.sramRead (stageBase j.port j.buf) j.len))

/-! ### WAVE_LOAD_SEALED (R258, R259, R377) -/

/-- A header field that is not as check 4 of R258 wants it; the version is judged by itself. -/
def sealedBad (at_ : Nat → Nat → List Byte) : Bool :=
  at_ 0 4 != [0x54#8, 0x42#8, 0x53#8, 0x50#8] || decide (leNat (at_ 7 1) > 1) || leNat (at_ 0x14 4) != 0 || leNat (at_ 0x4C 4) != 0
    || leNat (at_ 0x10 4) == 0

/-- The package key is unwrapped into the Alcove, where the key slot holds a key and the unwrap passes its integrity check (check 6 of
R258, R468). -/
def State.unwrapPkg (s : State) (h : Fin 8) (stage : Nat) : State :=
  let at_ (o n : Nat) : List Byte := s.mem.rdList (stage * 65536 + o) n
  let slot := (at_ 6 1).headD 0#8
  let kek := s.mgmt.alcove.readList (32 * (slot.toNat % 8)) 32
  if slot.toNat > 7 ∨ (kek.all (· == 0#8)) = true ∨ s.mgmt.noKeys = true ∨ s.mgmt.keysIn = false then s
  else match keyUnwrap (natsOf kek) (natsOf (at_ 0x18 40)) with
    | none => s
    | some key => s.updMgmt fun m => { m with alcove := m.alcove.writeList (pkgKeyAt h) ((bytesOf key).take 32), pkgIn := h.val :: m.pkgIn }

/-- DEDUCED (assumption log 63). -/
def cmdWaveLoadSealed (s : State) (h : Fin 8) (c : Cmd) : Res :=
  let stage := f16 c.pay 0
  let sn := f16 c.pay 2
  let dest := f16 c.pay 4
  let dn := f16 c.pay 6
  if zero c.pay 8 4 = false ∨ stage > 4095 ∨ dest > 4095 then .done s 0x22 []
  else if sn = 0 ∨ dn = 0 then .done s 0 []
  else if stage + sn > 4096 ∨ dest + dn > 4096 then .done s 0x12 []
  else
    let bytes (o n : Nat) : List Byte := s.mem.rdList (stage * 65536 + o) n
    let len := leNat (bytes 0x10 4)
    let ds := runOf dest dn
    let mine (p : Nat) : Bool := (s.mem.page p).hall == h.val && (match (s.mem.page p).state with
      | .free => false | .wiping => false | .stored => false | _ => true)
    if 0x50 + len + 16 > sn * 65536 ∨ len > dn * 65536 then .done s 0x12 []
    else if ((runOf stage sn ++ ds).all mine) = false then .done s 0x21 []
    else
      let cws := runCws stage (0x60 + len)
      let s := s.memDo (s.mem.readCws cws)
      if (cws.any fun w => s.mem.flagged w) = true ∨ sealedBad bytes = true then .done s 0x15 []
      else if leNat (bytes 4 2) ≠ 1 then .done s 0x30 []
      else match worst [0x1D, 0x1C] (ds.map (s.pageFault h)) with
        | some st => .done s st []
        | none =>
          if ds.any (s.referenced h) then .done s 0x17 []
          else .wait ({ s with mem := s.mem.claim ds h.val .sealing }.unwrapPkg h stage) (.sealed stage ds len)

/-! ### The rows -/

/-- The entries to reserve for a PAGE_ALLOC (R375). -/
def needPages (s : State) (h : Fin 8) (_c : Cmd) : Nat := 1 + min 8 ((s.halls.get h).ring.len - 1)

def opProgLoad : Opcode := { op := 0x0301, sup := false, timed := false, len := .fixed 8, need := needOne, body := cmdProgLoad }
def opProgFree : Opcode := { op := 0x0302, sup := false, timed := false, len := .fixed 4, need := needOne, body := cmdProgFree }
def opProgInfo : Opcode := { op := 0x0303, sup := false, timed := false, len := .fixed 4, need := needOne, body := cmdProgInfo }
def opPageAlloc : Opcode := { op := 0x0401, sup := false, timed := false, len := .fixed 4, need := needPages, body := cmdPageAlloc }
def opPageFree : Opcode :=
  { op := 0x0402, sup := false, timed := false, len := .counted 4 0 2 2 65535, need := needOne, body := cmdPageFree }
def opWaveWrite : Opcode :=
  { op := 0x0403, sup := false, timed := false, len := .counted 12 8 4 1 4076, need := needOne, body := cmdWaveWrite }
def opWaveLoadSealed : Opcode :=
  { op := 0x0404, sup := false, timed := false, len := .fixed 12, need := needOne, body := cmdWaveLoadSealed }

/-- PROG_LOAD; other halls that wait for pages are served. -/
def execProgLoad (h : Fin 8) (s : State) : Out' := .next (opProgLoad.take opProgLoad.is h s).servePages
/-- PROG_FREE. -/
def execProgFree (h : Fin 8) (s : State) : Out' := opProgFree.row h s
/-- PROG_INFO. -/
def execProgInfo (h : Fin 8) (s : State) : Out' := opProgInfo.row h s
/-- PAGE_ALLOC; other halls that wait for pages are served. -/
def execPageAlloc (h : Fin 8) (s : State) : Out' := .next (opPageAlloc.take opPageAlloc.is h s).servePages
/-- PAGE_FREE. -/
def execPageFree (h : Fin 8) (s : State) : Out' := opPageFree.row h s
/-- WAVE_WRITE, from the ring or as a BULK. -/
def execWaveWrite (h : Fin 8) (s : State) : Out' :=
  .next (match s.nextCmd h with
    | .bulk j => if s.cp0Runs && s.turn h then s.takeBulk h j else s
    | _ => opWaveWrite.take opWaveWrite.is h s)
/-- WAVE_LOAD_SEALED. -/
def execWaveLoadSealed (h : Fin 8) (s : State) : Out' := opWaveLoadSealed.row h s

end Sys2Proof.Machine
end

