-- ==== Sys2Proof/Machine/CmdsC.lean ====
section
/-! DEFINITION. The voice events and the commands of buses and outputs (spec/13_command_set.md R378–R383,
spec/07_voice_allocation_and_capacity.md R200, R201, spec/06_envelopes_and_modulation.md R169–R175,
spec/10_output_chain.md R280–R290, R297, spec/11_analog_outputs.md R318). -/

namespace Sys2Proof.Machine

/-! ### Voice events -/

/-- The note attributes of a VOICE_START, limited to 24 bits (R378). -/
def attrsOf (p : List Byte) (off : Nat) : List Int := (List.range 8).map fun i => sat24 (s32 p (off + 4 * i))

/-- The priority of a VOICE_START. -/
def prioOf (n : Nat) : Option Nat := if n = 0xFFFF then none else some n

/-- A start that can never be placed (R201). -/
def State.tooDear (s : State) (h : Fin 8) (p : Prog) : Bool :=
  let x := s.halls.get h
  x.nHe == 0 || decide (s.frameCost p > x.hb) || decide (p.words > x.hd)

/-- The own checks of VOICE_START (R378). -/
def State.startChecks (s : State) (h : Fin 8) (p : List Byte) : List (Bool × Nat) :=
  let prio := f16 p 12
  let prog := (s.halls.get h).prog? (f16 p 10)
  [ (zero p 15 1 && decide (f8 p 14 < 2) && f16 p 8 != 0xFFFF && (decide (prio < 256) || prio == 0xFFFF) && f32 p 24 == 0, 0x22),
    (prog.isSome, 0x19),
    (match prog with | some e => !s.tooDear h e.prog | none => true, 0x13) ]

/-- The start that a VOICE_START's payload describes. -/
def startOf (p : List Byte) : StartSpec :=
  { key := f16 p 8, handle := f16 p 10, prio := prioOf (f16 p 12), notify := f8 p 14 % 2 == 1, attrs := attrsOf p 16 }

def cmdVoiceStart (s : State) (h : Fin 8) (c : Cmd) : Res :=
  s.checked (s.startChecks h c.pay) fun s => s.timed h c (.start (startOf c.pay)) []

/-- The voices that a key addresses in a release or kill. -/
def whoOf (k : Nat) : Who := if k = 0xFFFF then .all else .key k

def cmdVoiceRelease (s : State) (h : Fin 8) (c : Cmd) : Res :=
  s.checked [(zero c.pay 10 2, 0x22)] fun s => s.timed h c (.release (whoOf (f16 c.pay 8)) (s32 c.pay 12)) []

def cmdVoiceKill (s : State) (h : Fin 8) (c : Cmd) : Res :=
  s.checked [(zero c.pay 10 2, 0x22)] fun s => s.timed h c (.kill (whoOf (f16 c.pay 8))) []

/-- The voices that a PARAM_SET or PARAM_RAMP addresses. -/
def paramWho (p : List Byte) : Who := if f16 p 8 = 0xFFFF then .prog (f16 p 10) else .key (f16 p 8)

/-- The checks of PARAM_SET and PARAM_RAMP (R380): fields, the handle, the slot. -/
def State.paramChecks (s : State) (h : Fin 8) (p : List Byte) (ramp : Bool) : List (Bool × Nat) :=
  let key := f16 p 8
  let slot := f8 p 12
  let prog : Option Prog := if key = 0xFFFF then ((s.halls.get h).prog? (f16 p 10)).map (·.prog)
    else (s.keyVoice h.val key).map (·.prog)
  [ (zero p 13 3 && (decide (slot < 64) || (slot == 0xFE && !ramp)) && (key == 0xFFFF || f16 p 10 == 0xFFFF)
      && (!ramp || decide (f64 p 20 < 2 ^ 40)), 0x22),
    (key != 0xFFFF || prog.isSome, 0x19),
    (match prog with | some q => slotOk q slot | none => true, 0x1A) ]

def cmdParamSet (s : State) (h : Fin 8) (c : Cmd) : Res :=
  s.checked (s.paramChecks h c.pay false) fun s => s.timed h c (.param (paramWho c.pay) (f8 c.pay 12) (s32 c.pay 16) none) []

def cmdParamRamp (s : State) (h : Fin 8) (c : Cmd) : Res :=
  s.checked (s.paramChecks h c.pay true) fun s =>
    s.timed h c (.param (paramWho c.pay) (f8 c.pay 12) (s32 c.pay 16) (some (f64 c.pay 20))) []

/-- The checks of HALL_CTRL (R380). -/
def ctrlOk (p : List Byte) : Bool :=
  let t := f8 p 8
  let m := f8 p 9
  zero p 10 2 && (decide (t < 32) || t == 0x80) && decide (m ≤ 1) && !(t == 0x80 && m == 1) && decide (f64 p 16 < 2 ^ 40)
    && (m == 1 || f64 p 16 == 0)

/-- The change that a HALL_CTRL makes. -/
def ctrlOf (p : List Byte) : EvKind :=
  if f8 p 8 = 0x80 then .tempo (s32 p 12) else .ctl (f8 p 8) (s32 p 12) (if f8 p 9 = 1 then some (f64 p 16) else none)

def cmdHallCtrl (s : State) (h : Fin 8) (c : Cmd) : Res := s.checked [(ctrlOk c.pay, 0x22)] fun s => s.timed h c (ctrlOf c.pay) []

def opVoiceStart : Opcode := { op := 0x0501, sup := false, timed := true, len := .fixed 48, need := needOne, body := cmdVoiceStart }
def opVoiceRelease : Opcode := { op := 0x0502, sup := false, timed := true, len := .fixed 16, need := needOne, body := cmdVoiceRelease }
def opVoiceKill : Opcode := { op := 0x0503, sup := false, timed := true, len := .fixed 12, need := needOne, body := cmdVoiceKill }
def opParamSet : Opcode := { op := 0x0504, sup := false, timed := true, len := .fixed 20, need := needOne, body := cmdParamSet }
def opParamRamp : Opcode := { op := 0x0505, sup := false, timed := true, len := .fixed 28, need := needOne, body := cmdParamRamp }
def opHallCtrl : Opcode := { op := 0x0506, sup := false, timed := true, len := .fixed 24, need := needOne, body := cmdHallCtrl }

/-- VOICE_START. -/
def execVoiceStart (h : Fin 8) (s : State) : Out' := opVoiceStart.row h s
/-- VOICE_RELEASE. -/
def execVoiceRelease (h : Fin 8) (s : State) : Out' := opVoiceRelease.row h s
/-- VOICE_KILL. -/
def execVoiceKill (h : Fin 8) (s : State) : Out' := opVoiceKill.row h s
/-- PARAM_SET. -/
def execParamSet (h : Fin 8) (s : State) : Out' := opParamSet.row h s
/-- PARAM_RAMP. -/
def execParamRamp (h : Fin 8) (s : State) : Out' := opParamRamp.row h s
/-- HALL_CTRL. -/
def execHallCtrl (h : Fin 8) (s : State) : Out' := opHallCtrl.row h s

/-! ### BUS_ROUTE (R381) -/

/-- The hall that holds an input route, set or asked for by an event that waits (R280). -/
def State.routeOwner (s : State) (k : Nat) : Option Nat :=
  let r := Stepped.now { cfg := 0#32, lvl := 0#32 } (s.mez.routes.get (Fin.ofNat 32 k))
  if bit r.cfg 31 then some (bits r.cfg 30 28)
  else (List.range 8).find? fun h => (s.hall h).queue.any fun e => match e.kind with | .inRoute k' .. => k' == k | _ => false

/-- The route that an IN_ROUTE uses: the one named, or the lowest free one. -/
def State.routeFor (s : State) (index : Nat) : Option Nat :=
  if index = 0xFF then (List.range 32).find? fun k => (s.routeOwner k).isNone else some index

/-- The bytes of a BUS_ROUTE that no op uses are 0. DEDUCED (assumption log 77). -/
def busZero (p : List Byte) : Bool := zero p 14 2 && zero p 20 4

/-- DEDUCED (assumption log 77). -/
def cmdInRoute (s : State) (h : Fin 8) (c : Cmd) : Res :=
  let p := c.pay
  let i := f8 p 9
  s.checked [(busZero p && f8 p 8 == 0 && (decide (i < 32) || i == 0xFF) && decide (f8 p 10 ≤ 1) && decide (f8 p 11 ≤ 15)
      && decide (f8 p 12 < 64) && isS24 (s32 p 16), 0x22), (s.inMask h (f8 p 12), 0x21)] fun s =>
    match s.routeFor i with
    | none => .done s 0x13 []
    | some k =>
      if s.routeOwner k = none ∨ s.routeOwner k = some h.val then
        s.timed h c (.inRoute k (f8 p 10) (f8 p 11) (f8 p 12) (w32 p 16 &&& 0x00FFFFFF#32)) [byte k]
      else .done s 0x21 []

def cmdInFree (s : State) (h : Fin 8) (c : Cmd) : Res :=
  let i := f8 c.pay 9
  s.checked [(busZero c.pay && decide (i < 32), 0x22), (s.routeOwner i == none || s.routeOwner i == some h.val, 0x21)] fun s =>
    s.timed h c (.inFree i) []

def cmdTdmDest (s : State) (h : Fin 8) (c : Cmd) : Res :=
  let p := c.pay
  s.checked [(busZero p && decide (f8 p 9 < 64) && decide (f8 p 10 ≤ 1) && decide (f8 p 12 < 64), 0x22), (h == 0, 0x21)] fun s =>
    s.timed h c (.tdmDest (f8 p 9) (f8 p 10 == 1) (f8 p 12)) []

def cmdDacDest (s : State) (h : Fin 8) (c : Cmd) : Res :=
  let p := c.pay
  let ch := f8 p 9
  s.checked [(busZero p && decide (ch < 16) && decide (f8 p 10 ≤ 1) && decide (f8 p 11 < 3) && decide (f8 p 12 < 64)
      && decide (f8 p 13 ≤ 1), 0x22), (h == 0, 0x21),
      (s.nv.a16 || (decide (ch < 8) && f8 p 11 != 2), 0x1F)] fun s =>
    s.timed h c (.dacDest ch (f8 p 10 == 1) (f8 p 11) (f8 p 12) (f8 p 13 == 1)) []

def cmdSync (s : State) (h : Fin 8) (c : Cmd) : Res :=
  let m := BitVec.ofNat 64 (f64 c.pay 24)
  s.checked [(busZero c.pay, 0x22), (m &&& ~~~ (Stepped.now 0 (s.halls.get h).mask) == 0, 0x21)] fun s => s.timed h c (.sync m) []

/-- The op of a BUS_ROUTE; the row of op 0 takes those whose op is none. -/
def busOp (c : Cmd) : Nat := if f8 c.pay 8 ≤ 4 then f8 c.pay 8 else 0

def opBus (body : State → Fin 8 → Cmd → Res) : Opcode :=
  { op := 0x0601, sup := false, timed := true, len := .fixed 32, need := needOne, body := body }

/-- A row of BUS_ROUTE. -/
def busRow (op : Nat) (body : State → Fin 8 → Cmd → Res) (h : Fin 8) (s : State) : Out' :=
  .next ((opBus body).take (fun c => c.op == 0x0601 && busOp c == op) h s)

/-- IN_ROUTE. -/
def execInRoute (h : Fin 8) (s : State) : Out' := busRow 0 cmdInRoute h s
/-- IN_FREE. -/
def execInFree (h : Fin 8) (s : State) : Out' := busRow 1 cmdInFree h s
/-- TDM_DEST. -/
def execTdmDest (h : Fin 8) (s : State) : Out' := busRow 2 cmdTdmDest h s
/-- DAC_DEST. -/
def execDacDest (h : Fin 8) (s : State) : Out' := busRow 3 cmdDacDest h s
/-- SYNC. -/
def execSync (h : Fin 8) (s : State) : Out' := busRow 4 cmdSync h s

/-! ### EQ, delay, detectors (R382, R383) -/

/-- The coefficients of an EQ_LOAD. -/
def eqVals (p : List Byte) : List Int :=
  (List.range 40).map fun i => if f8 p 1 = 0 then s32 p (4 + 4 * i) else s16 p (4 + 2 * i) * 128

/-- Forty values as the coefficients of eight sections. -/
def coefsOf (vs : List Int) : List Coefs :=
  (List.range 8).map fun k =>
    { b0 := vs.getD (5 * k) 0, b1 := vs.getD (5 * k + 1) 0, b2 := vs.getD (5 * k + 2) 0, a1 := vs.getD (5 * k + 3) 0,
      a2 := vs.getD (5 * k + 4) 0 }

def cmdEqLoad (s : State) (h : Fin 8) (c : Cmd) : Res :=
  let p := c.pay
  let bus := f8 p 0
  s.checked [(zero p 2 2 && decide (bus < 64) && decide (f8 p 1 ≤ 1) && (eqVals p).all isS24, 0x22), (s.inMask h bus, 0x21)] fun s =>
    let load := (h.val, coefsOf (eqVals p))
    .wait (s.updOut (Fin.ofNat 64 bus) fun c => { c with loads := c.loads ++ [load] }) (.eqLoad bus)

def cmdEqSwap (s : State) (h : Fin 8) (c : Cmd) : Res :=
  let p := c.pay
  s.checked [(zero p 9 1 && decide (f8 p 8 < 64), 0x22), (decide (f16 p 10 ≤ 4096), 0x12), (s.inMask h (f8 p 8), 0x21)] fun s =>
    s.timed h c (.eqSwap (f8 p 8) (f16 p 10)) []

def cmdDelaySet (s : State) (h : Fin 8) (c : Cmd) : Res :=
  let p := c.pay
  s.checked [(decide (f8 p 8 < 64), 0x22), (decide (f16 p 10 ≤ 4095) && decide (f8 p 9 ≤ 63), 0x12), (s.inMask h (f8 p 8), 0x21)] fun s =>
    s.timed h c (.delaySet (f8 p 8) (f16 p 10) (f8 p 9)) []

/-- The coefficients of a detector are written (R290). -/
def State.detCoefs (s : State) (bus : Nat) (p : List Byte) : State :=
  s.updOut (Fin.ofNat 64 bus) fun c => { c with apk := w32 p 4, arms := w32 p 8, aatt := w32 p 12, arel := w32 p 16 }

/-- A detector input of a hall is bound, or not, from the next frame boundary on (R187, R383). DEDUCED (assumption log 52). -/
def State.detBind (s : State) (h : Fin 8) (i bus which : Nat) : State :=
  let b : Option (Nat × Nat) := if which = 3 then none else some (bus, which)
  s.updHall h fun x => { x with detIn := x.detIn.upd (Fin.ofNat 8 i) (fun l => Stepped.set l s.nextFrame b) }

def cmdDetectorCfg (s : State) (h : Fin 8) (c : Cmd) : Res :=
  let p := c.pay
  let i := f8 p 1
  s.checked [(decide (f8 p 0 < 64) && (decide (i < 8) || i == 0xFF) && decide (f8 p 2 ≤ 3) && decide (f8 p 3 < 2)
      && ([4, 8, 12, 16].all fun o => decide (f32 p o < 2 ^ 24)), 0x22), (s.inMask h (f8 p 0), 0x21)] fun s =>
    let s := if f8 p 3 = 1 then s.detCoefs (f8 p 0) p else s
    .done (if i = 0xFF then s else s.detBind h i (f8 p 0) (f8 p 2)) 0 []

def opEqLoad : Opcode := { op := 0x0602, sup := false, timed := false, len := .eqLoad, need := needOne, body := cmdEqLoad }
def opEqSwap : Opcode := { op := 0x0603, sup := false, timed := true, len := .fixed 12, need := needOne, body := cmdEqSwap }
def opDelaySet : Opcode := { op := 0x0604, sup := false, timed := true, len := .fixed 12, need := needOne, body := cmdDelaySet }
def opDetectorCfg : Opcode := { op := 0x0605, sup := false, timed := false, len := .fixed 20, need := needOne, body := cmdDetectorCfg }

/-- EQ_LOAD. -/
def execEqLoad (h : Fin 8) (s : State) : Out' := opEqLoad.row h s
/-- EQ_SWAP. -/
def execEqSwap (h : Fin 8) (s : State) : Out' := opEqSwap.row h s
/-- DELAY_SET. -/
def execDelaySet (h : Fin 8) (s : State) : Out' := opDelaySet.row h s
/-- DETECTOR_CFG. -/
def execDetectorCfg (h : Fin 8) (s : State) : Out' := opDetectorCfg.row h s

end Sys2Proof.Machine
end

