-- ==== Sys2Proof/Machine/CmdsD.lean ====
section
/-! DEFINITION. The spectral, time and status commands (spec/13_command_set.md R384–R388, spec/08_spectral_unit.md R224–R250,
spec/18_power_reset_faults.md R486–R490, spec/17_management_update_alcove.md R456). -/

namespace Sys2Proof.Machine

/-! ### CONV_LOAD (R235, R240) -/

/-- The certified SPEC budget (R224). -/
def scb : Nat := 786432

/-- The build that a CONV_LOAD asks for. -/
def buildOf (p : List Byte) : Build :=
  let fmt := f8 p 1
  let taps := f32 p 8
  { taps := taps, gain := signed 8 (f8 p 2), fmt := fmt, staged := spanOf (f16 p 4) (tapBytes fmt * taps), pages := [] }

/-- The load with the new configuration of a channel in place of the old (R224, R235, R240). -/
def State.convFits (s : State) (k : Fin 8) (b : Build) : Bool :=
  let sp := { s.spec with ch := s.spec.ch.upd k (fun c => { c with build := some b }) }
  decide (sp.parts ≤ 11264) && decide (sp.rounds ≤ scb)

/-- A CONV_LOAD that is admitted takes its pages, or waits for them (R240, R509). -/
def State.convTake (s : State) (h k : Fin 8) (b : Build) : Res :=
  let own (s : State) : State := s.updSpec k fun c => { c with owner := some h.val, build := some b }
  match s.pagesFor h (convPages b.parts) false with
  | .none => .done s 0x14 []
  | .take ps => .wait ((own s).convBuild k h.val ps) (.conv k.val)
  | .wait => .wait (own s) (.convPages k.val)

/-- CONV_LOAD (R235, R240, R361, R384); with T = 0 it completes OK while SPEC is halted too. DEDUCED (assumption log 140). -/
def cmdConvLoad (s : State) (h : Fin 8) (c : Cmd) : Res :=
  let p := c.pay
  let g := signed 8 (f8 p 2)
  let first := f16 p 4
  let T := f32 p 8
  let n := tapBytes (f8 p 1) * T
  if zero p 3 1 = false ∨ zero p 6 2 = false ∨ f8 p 0 > 7 ∨ f8 p 1 > 1 ∨ g < -16 ∨ g > 16 ∨ first > 4095 then .done s 0x22 []
  else if T = 0 then .done s 0 []
  else if T > 2097152 ∨ first + (n + 65535) / 65536 > 4096 then .done s 0x12 []
  else
    let k := Fin.ofNat 8 (f8 p 0)
    let b := buildOf p
    let mine : Bool := match (s.spec.ch.get k).owner with | some o => o == h.val | none => true
    if s.spec.halted then .done s 0x1B []
    else if mine = false ∨ ((spanOf first n).all (s.mayRead h)) = false then .done s 0x21 []
    else
      let s := s.memDo (s.mem.readCws (runCws first n))
      if ((runCws first n).any fun w => s.mem.flagged w) then .done s 0x15 []
      else if s.convFits k b = false then .done s 0x13 []
      else s.convTake h k b

/-! ### CONV_ROUTE (R237, R242, R384) -/

/-- The fields of a CONV_ROUTE that does not release (R360, step 5). -/
def convRouteOk (p : List Byte) : Bool :=
  zero p 6 2 && zero p 20 4 && decide (f8 p 2 ≤ 2) && (f8 p 2 != 1 || decide (f8 p 3 < 64)) && (f8 p 2 != 2 || decide (f8 p 3 < 32))
    && decide (f8 p 4 < 64) && decide (f8 p 5 < 64) && ([8, 12, 16].all fun o => isS24 (s32 p o))

/-- A channel is configured as a CONV_ROUTE says, from the next frame boundary on. -/
def State.convRoute (s : State) (k : Fin 8) (p : List Byte) : State :=
  let fl := f8 p 1
  let sel := if f8 p 2 = 0 then 0 else f8 p 3
  let cfg : ChCfg := { src := word (f8 p 2 * 2 ^ 30 + sel), lvl := w32 p 8 &&& 0x00FFFFFF#32,
                       ret := word (fl / 4 % 2 * 2 ^ 31 + fl / 2 % 2 * 2 ^ 15 + f8 p 5 * 2 ^ 7 + f8 p 4) }
  (s.setChCfg k fun _ => cfg).setRet k.val s.nextFrame (w32 p 12 &&& 0x00FFFFFF#32, w32 p 16 &&& 0x00FFFFFF#32)

def cmdConvRoute (s : State) (h : Fin 8) (c : Cmd) : Res :=
  let p := c.pay
  let fl := f8 p 1
  let k := Fin.ofNat 8 (f8 p 0)
  let x := s.spec.ch.get k
  let buses := (if fl / 2 % 2 = 1 then [f8 p 4] else []) ++ (if fl / 4 % 2 = 1 then [f8 p 5] else []) ++
    (if f8 p 2 = 1 then [f8 p 3] else [])
  s.checked [ (decide (f8 p 0 < 8) && decide (fl < 8) && (fl % 2 == 1 || convRouteOk p), 0x22), (!s.spec.halted, 0x1B),
      (x.owner == some h.val && !x.leaving, 0x21), (fl % 2 == 1 || buses.all (s.inMask h), 0x21) ] fun s =>
    .done (if fl % 2 = 1 then s.convRelease k else s.convRoute k p) 0 []

/-! ### RESYN_CFG (R225, R243, R384) -/

/-- The fields of a RESYN_CFG. DEDUCED (assumption log 59). -/
def resynOk (p : List Byte) : Bool :=
  zero p 7 1 && zero p 12 4 && decide (f8 p 0 < 2) && decide (f8 p 1 < 2) && decide (f8 p 2 ≤ 2)
    && decide (f8 p 3 < (match f8 p 2 with | 0 => 8 | 1 => 64 | _ => 32)) && decide (f8 p 4 ≤ 3)
    && decide (1 ≤ f8 p 5 ∧ f8 p 5 ≤ 8) && (f8 p 6 == 0 || f8 p 6 == 16) && decide (f32 p 8 < 2 ^ 23)

/-- SPEC_ANa_CFG and SPEC_ANa_SRC as a RESYN_CFG sets them. -/
def anCfgOf (h : Nat) (p : List Byte) : Word := word (2 ^ 31 + h * 2 ^ 26 + f8 p 4 * 2 ^ 24 + at_ (f8 p 6 == 16) 23 + f32 p 8)
def anSrcOf (p : List Byte) : Word := word (f8 p 2 * 2 ^ 30 + (f8 p 5 - 1) * 2 ^ 6 + f8 p 3)

/-- An analyser is configured: it starts afresh at the next frame boundary. -/
def State.anSet (s : State) (a : Fin 2) (h : Nat) (p : List Byte) : State :=
  let f := s.nextFrame
  (s.updAn a fun _ => { Analyser.reset with cfg := anCfgOf h p, src := anSrcOf p, from_ := f, next := f * s.fl / 256 }).unstruck (.an a)

/-- The source of an analyser is the hall's (R243); a channel is until its fade has ended (R242). DEDUCED (assumption log 141). -/
def State.anMine (s : State) (h : Fin 8) (p : List Byte) : Bool :=
  match f8 p 2 with
  | 0 => (s.spec.ch.get (Fin.ofNat 8 (f8 p 3))).owner == some h.val
  | 1 => s.inMask h (f8 p 3)
  | _ => true

/-- The load with an analyser configured. -/
def State.anFits (s : State) (a : Fin 2) (h : Nat) (p : List Byte) : Bool :=
  decide ({ s.spec with an := s.spec.an.upd a (fun x => { x with cfg := anCfgOf h p }) }.rounds ≤ scb)

/-- The hall that holds an analyser. -/
def anOwner (a : Analyser) : Option Nat := if bit a.cfg 31 then some (bits a.cfg 28 26) else none

/-- DEDUCED (assumption log 59). -/
def cmdResynCfg (s : State) (h : Fin 8) (c : Cmd) : Res :=
  let p := c.pay
  let a := Fin.ofNat 2 (f8 p 0)
  let own := anOwner (s.spec.an.get a)
  let set := f8 p 1 == 1
  s.checked [ (resynOk p, 0x22), (!s.spec.halted, 0x1B), (own == some h.val || (own == none && set), 0x21),
      (!set || s.anMine h p, 0x21), (!set || s.anFits a h.val p, 0x13) ] fun s =>
    if set = false then .done (s.anRelease a) 0 []
    else
      let t := s.anSet a h.val p
      if t.pwr.on pdSpec then .done t 0 [] else .wait (t.switchOn pdSpec) (.specPower p)

/-- PD_SPEC has woken: a RESYN_CFG that waited for it completes, its analyser started now (R225). -/
def State.specAwake (s : State) (h : Fin 8) : State :=
  match (s.halls.get h).wait with
  | some w => (match w.what with
    | .specPower p => (s.anSet (Fin.ofNat 2 (f8 p 0)) h.val p).endWait h 0 []
    | _ => s)
  | none => s

def opConvLoad : Opcode := { op := 0x0701, sup := false, timed := false, len := .fixed 12, need := needOne, body := cmdConvLoad }
def opConvRoute : Opcode := { op := 0x0702, sup := false, timed := false, len := .fixed 24, need := needOne, body := cmdConvRoute }
def opResynCfg : Opcode := { op := 0x0703, sup := false, timed := false, len := .fixed 16, need := needOne, body := cmdResynCfg }

/-- CONV_LOAD: taken once the channel's fade has ended; other halls that wait for pages are served. DEDUCED (assumption log 58). -/
def execConvLoad (h : Fin 8) (s : State) : Out' :=
  .next (opConvLoad.take opConvLoad.is h s).servePages
/-- CONV_ROUTE. -/
def execConvRoute (h : Fin 8) (s : State) : Out' := opConvRoute.row h s
/-- RESYN_CFG. -/
def execResynCfg (h : Fin 8) (s : State) : Out' := opResynCfg.row h s

/-! ### Time -/

def cmdTimeGet (s : State) (_h : Fin 8) (_c : Cmd) : Res :=
  .done s 0 (leBytes 8 s.time.et ++ leBytes 8 s.openAt ++ leBytes 4 s.lead ++ [byte s.fl, byte (at_ s.fe882 0)])

/-- TRIGGER_MAP (R386, R431). -/
def cmdTriggerMap (s : State) (h : Fin 8) (c : Cmd) : Res :=
  let p := c.pay
  let t := Fin.ofNat 8 (f8 p 0)
  let map := (s.time.trg.get t).map
  let m : TrigMap := { hall := h.val, edges := f8 p 1 / 2 % 4, tag := f16 p 2, opcode := f16 p 4, offset := f64 p 8, template := p.drop 16 }
  s.checked [ (decide (f8 p 0 < 8) && decide (f8 p 1 < 8) && (templateLen (f16 p 4)).isSome && zero p 6 2 && decide (f64 p 8 < 2 ^ 41), 0x22),
      (match map with | some m => m.hall == h.val | none => true, 0x21) ] fun s =>
    .done (s.updTrg t fun g => { g with map := if f8 p 1 % 2 = 1 then some m else none }) 0 []

def opTimeGet : Opcode := { op := 0x0801, sup := false, timed := false, len := .fixed 0, need := needOne, body := cmdTimeGet }
def opTriggerMap : Opcode := { op := 0x0802, sup := false, timed := false, len := .template, need := needOne, body := cmdTriggerMap }

/-- TIME_GET. -/
def execTimeGet (h : Fin 8) (s : State) : Out' := opTimeGet.row h s
/-- TRIGGER_MAP. -/
def execTriggerMap (h : Fin 8) (s : State) : Out' := opTriggerMap.row h s

/-! ### Status -/

/-- STATS's result. -/
def State.stats (s : State) (h : Fin 8) : List Byte :=
  let x := s.halls.get h
  let vs := (s.hallVoices h.val).filter (·.counted)
  let ch := sumOf (fun (k : Fin 8) => at_ ((s.spec.ch.get k).owner == some h.val) k.val) (List.finRange 8)
  let an := sumOf (fun (a : Fin 2) => at_ (anOwner (s.spec.an.get a) == some h.val) a.val) (List.finRange 2)
  leBytes 2 vs.length ++ [byte (x.engs.filter HallEng.draining).length, 0#8] ++ leBytes 4 (stepsOf s.fl vs) ++
    leBytes 4 x.stealCnt.toNat ++ leBytes 4 x.refuseCnt.toNat ++ leBytes 4 x.lostCnt.toNat ++ leBytes 4 x.lateCnt.toNat ++
    leBytes 4 x.excCnt.toNat ++ leBytes 4 x.satCnt.toNat ++ leBytes 4 x.ring.lostSum ++ leBytes 2 x.queue.length ++
    leBytes 2 x.qHigh ++ leBytes 2 (x.progs.filter fun p => !p.draining).length ++ leBytes 2 (x.progs.filter (·.draining)).length ++
    [byte ch, byte an] ++ List.replicate 10 0#8

def cmdStats (s : State) (h : Fin 8) (_c : Cmd) : Res := .done s 0 (s.stats h)

/-- The records that concern a hall, from number `from_` on, up to six (R387, R490). -/
def State.fenceList (s : State) (h : Fin 8) (from_ : Nat) : List Byte :=
  let rs := s.fence.list.filter fun r => r.halls / 2 ^ h.val % 2 == 1
  leBytes 2 rs.length ++ List.replicate 6 0#8 ++ ((rs.drop from_).take 6).flatMap FenceRec.bytes

def cmdFenceStatus (s : State) (h : Fin 8) (c : Cmd) : Res :=
  s.checked [(f8 c.pay 0 == 0, 0x22)] fun s => .done s 0 (s.fenceList h (f16 c.pay 2))

/-- FENCE_STATUS op 1 (R387, R486): it waits while a request is busy. -/
def cmdFenceLift (s : State) (h : Fin 8) (c : Cmd) : Res :=
  s.checked [(h == 0, 0x21)] fun s =>
    let s := s.liftUnit (f8 c.pay 1) (f16 c.pay 2)
    if s.fence.busy.isSome then .wait s (.lift (f8 c.pay 1) (f16 c.pay 2)) else .done s (fenceStatus s.fence.code) []

/-- The most entries of a LOG_READ (R388). -/
def State.logMax (s : State) (h : Fin 8) : Nat := 1 + 2 * min 8 ((s.halls.get h).ring.len - 1)

/-- The entries of a log, oldest first, in ascending order of number: those after the number's wrap come first (R456). -/
def byNumber : List LogEnt → List LogEnt
  | [] => []
  | e :: es => (es.filter fun x => decide (x.num < e.num)) ++ e :: es.filter fun x => decide (e.num ≤ x.num)

/-- The entries that a LOG_READ returns (R456). -/
def State.logList (s : State) (h : Fin 8) (p : List Byte) : List LogEnt :=
  let src := byNumber (if f8 p 5 = 0 then s.nv.flashLog else s.mgmt.volLog)
  (src.filter fun e => decide (f32 p 0 ≤ e.num) && (h == 0 || e.hall == some h.val)).take (f8 p 4)

/-- The result of a LOG_READ. -/
def logResult (from_ : Nat) (es : List LogEnt) : List Byte :=
  let next := match es.getLast? with | some e => (e.num + 1) % 2 ^ 32 | none => from_
  let head := leBytes 4 next ++ [byte es.length, 0#8, 0#8, 0#8]
  match es with
  | [] => head
  | e :: rest => head ++ e.bytes ++ (if rest = [] then [] else List.replicate 16 0#8 ++ rest.flatMap LogEnt.bytes)

def cmdLogRead (s : State) (h : Fin 8) (c : Cmd) : Res :=
  let p := c.pay
  s.checked [(decide (f8 p 5 ≤ 1) && zero p 6 2, 0x22), (decide (f8 p 4 ≤ s.logMax h), 0x12)] fun s =>
    .done s 0 (logResult (f32 p 0) (s.logList h p))

/-- The entries to reserve for a LOG_READ. -/
def needLog (s : State) (h : Fin 8) (c : Cmd) : Nat := if f8 c.pay 4 ≤ s.logMax h then 1 + f8 c.pay 4 / 2 else 1

def opStats : Opcode := { op := 0x0901, sup := false, timed := false, len := .fixed 0, need := needOne, body := cmdStats }
def opFenceStatus : Opcode := { op := 0x0902, sup := false, timed := false, len := .fixed 4, need := needOne, body := cmdFenceStatus }
def opFenceLift : Opcode := { op := 0x0902, sup := false, timed := false, len := .fixed 4, need := needOne, body := cmdFenceLift }
def opLogRead : Opcode := { op := 0x0903, sup := false, timed := false, len := .fixed 8, need := needLog, body := cmdLogRead }

/-- STATS. -/
def execStats (h : Fin 8) (s : State) : Out' := opStats.row h s
/-- FENCE_STATUS, op 0 (and an op that is none). -/
def execFenceStatus (h : Fin 8) (s : State) : Out' :=
  .next (opFenceStatus.take (fun c => opFenceStatus.is c && f8 c.pay 0 != 1) h s)
/-- FENCE_STATUS, op 1; not taken while another request is busy. DEDUCED (assumption log 83). -/
def execFenceStatusLift (h : Fin 8) (s : State) : Out' :=
  .next (opFenceLift.take (fun c => opFenceLift.is c && f8 c.pay 0 == 1) h s)
/-- LOG_READ. -/
def execLogRead (h : Fin 8) (s : State) : Out' := opLogRead.row h s

end Sys2Proof.Machine
end

