-- ==== Sys2Proof/Machine/Ed25519.lean ====
section
/-! DEFINITION. Ed25519 of RFC 8032 with SHA-512 of FIPS 180-4, the standards by which a firmware image and a console session are
signed (spec/17_management_update_alcove.md, image header and R465). PRESUMED: the standards' own text is not part of the spec. -/

namespace Sys2Proof.Machine

/-! ### SHA-512 -/

/-- The greatest r below 2^`bits` with r^k ≤ n. -/
def rootK (k bits n : Nat) : Nat :=
  (List.range bits).foldl (fun r i => let x := r + 2 ^ (bits - 1 - i); if x ^ k ≤ n then x else r) 0

def isPrime (n : Nat) : Bool := decide (2 ≤ n) && (List.range (n - 2)).all fun i => n % (i + 2) != 0

/-- The first 80 primes. -/
def primes80 : List Nat := (List.range 410).filter isPrime

/-- The constants of SHA-512: fractions of cube and square roots of primes. -/
def shaK : List Nat := primes80.map fun p => rootK 3 72 (p * 2 ^ 192) % 2 ^ 64
def shaH : List Nat := (primes80.take 8).map fun p => rootK 2 70 (p * 2 ^ 128) % 2 ^ 64

def m64 (n : Nat) : Nat := n % 2 ^ 64
def rotr (n x : Nat) : Nat := x / 2 ^ n + x % 2 ^ n * 2 ^ (64 - n)
def shr (n x : Nat) : Nat := x / 2 ^ n

/-- The message schedule, newest word first. -/
def shaSched : Nat → List Nat → List Nat
  | 0, w => w
  | n + 1, w =>
    let a := w.getD 1 0
    let b := w.getD 14 0
    let s1 := rotr 19 a ^^^ rotr 61 a ^^^ shr 6 a
    let s0 := rotr 1 b ^^^ rotr 8 b ^^^ shr 7 b
    shaSched n (m64 (s1 + w.getD 6 0 + s0 + w.getD 15 0) :: w)

/-- One round on the eight working variables. -/
def shaRound (v : List Nat) (kw : Nat) : List Nat :=
  match v with
  | [a, b, c, d, e, f, g, h] =>
    let t1 := h + (rotr 14 e ^^^ rotr 18 e ^^^ rotr 41 e) + ((e &&& f) ^^^ ((2 ^ 64 - 1 - e) &&& g)) + kw
    let t2 := (rotr 28 a ^^^ rotr 34 a ^^^ rotr 39 a) + ((a &&& b) ^^^ (a &&& c) ^^^ (b &&& c))
    [m64 (t1 + t2), a, b, c, m64 (d + t1), e, f, g]
  | _ => v

def beWords : Nat → List Nat → List Nat
  | 0, _ => []
  | n + 1, bs => (bs.take 8).foldl (fun a b => a * 256 + b) 0 :: beWords n (bs.drop 8)

def shaBlock (H : List Nat) (block : List Nat) : List Nat :=
  let w := (shaSched 64 (beWords 16 block).reverse).reverse
  let v := ((shaK.zip w).map fun x => x.1 + x.2).foldl shaRound H
  (H.zip v).map fun x => m64 (x.1 + x.2)

def shaBlocks : Nat → List Nat → List Nat → List Nat
  | 0, H, _ => H
  | n + 1, H, bs => shaBlocks n (shaBlock H (bs.take 128)) (bs.drop 128)

def beBytes (n x : Nat) : List Nat := (List.range n).map fun i => x / 256 ^ (n - 1 - i) % 256

/-- SHA-512 of bytes. PRESUMED (assumption log 24). -/
def sha512 (bs : List Nat) : List Nat :=
  let pad := (239 - bs.length % 128) % 128
  let msg := bs ++ 0x80 :: (List.replicate pad 0 ++ beBytes 16 (8 * bs.length))
  (shaBlocks (msg.length / 128) shaH msg).flatMap (beBytes 8)

/-! ### The curve -/

def edP : Nat := 2 ^ 255 - 19
def edL : Nat := 2 ^ 252 + 27742317777372353535851937790883648493

/-- `b`^`e` modulo 2^255 − 19. -/
def edPow (b e : Nat) : Nat :=
  (List.range 256).foldl (fun a i => let a := a * a % edP; if e / 2 ^ (255 - i) % 2 = 1 then a * b % edP else a) 1

def edSub (a b : Nat) : Nat := (a + edP - b % edP) % edP
def edD : Nat := edSub 0 (121665 * edPow 121666 (edP - 2) % edP)

/-- A point in extended coordinates (X : Y : Z : T). -/
structure EdPt where
  x : Nat
  y : Nat
  z : Nat
  t : Nat
  deriving DecidableEq, Repr

def EdPt.zero : EdPt := { x := 0, y := 1, z := 1, t := 0 }

/-- The sum of two points, `k` being 2d. -/
def EdPt.add (k : Nat) (p q : EdPt) : EdPt :=
  let a := edSub p.y p.x * edSub q.y q.x % edP
  let b := (p.y + p.x) * (q.y + q.x) % edP
  let c := p.t * k % edP * q.t % edP
  let d := 2 * p.z * q.z % edP
  let e := edSub b a
  let f := edSub d c
  let g := (d + c) % edP
  let h := (b + a) % edP
  { x := e * f % edP, y := g * h % edP, z := f * g % edP, t := e * h % edP }

/-- `n` times a point. -/
def EdPt.mul (k n : Nat) (p : EdPt) : EdPt :=
  (List.range 256).foldl (fun (a : EdPt) i =>
    let a := a.add k a
    if n / 2 ^ (255 - i) % 2 = 1 then a.add k p else a) EdPt.zero

def EdPt.same (p q : EdPt) : Bool := p.x * q.z % edP == q.x * p.z % edP && p.y * q.z % edP == q.y * p.z % edP

/-- The point that 32 bytes encode (RFC 8032, 5.1.3). -/
def edDecode (bs : List Nat) : Option EdPt :=
  let n := bs.foldr (fun b a => a * 256 + b) 0
  let sign := n / 2 ^ 255 % 2
  let y := n % 2 ^ 255
  if bs.length ≠ 32 ∨ y ≥ edP then none else
  let u := edSub (y * y) 1
  let v := (edD * (y * y % edP) + 1) % edP
  let v3 := v * v % edP * v % edP
  let x := u * v3 % edP * edPow (u * (v3 * v3 % edP * v % edP) % edP) ((edP - 5) / 8) % edP
  let vx2 := v * (x * x % edP) % edP
  let root := if vx2 = u then some x else if vx2 = edSub 0 u then some (x * edPow 2 ((edP - 1) / 4) % edP) else none
  match root with
  | none => none
  | some x =>
    if x = 0 ∧ sign = 1 then none else
    let x := if x % 2 = sign then x else edSub 0 x
    some { x := x, y := y, z := 1, t := x * y % edP }

/-- The base point. -/
def edBase : Option EdPt := edDecode (0x58 :: List.replicate 31 0x66)

def leNum (bs : List Nat) : Nat := bs.foldr (fun b a => a * 256 + b) 0

/-- Verification of a signature of 64 bytes (RFC 8032, 5.1.7), without the cofactor. PRESUMED (assumption log 24). -/
def edVerify (key msg sig : List Nat) : Bool :=
  let s := leNum (sig.drop 32)
  match edBase, edDecode key, edDecode (sig.take 32) with
  | some b, some a, some r =>
    let k := leNum (sha512 (sig.take 32 ++ key ++ msg)) % edL
    let d2 := 2 * edD % edP
    decide (sig.length = 64) && decide (s < edL) && (EdPt.mul d2 s b).same (r.add d2 (EdPt.mul d2 k a))
  | _, _, _ => false

end Sys2Proof.Machine
end

