-- ==== Sys2Proof/Machine/Update.lean ====
section
/-! DEFINITION. Firmware slots, the update state, the life cycle: what commands and console lines share
(spec/17_management_update_alcove.md R457–R469). -/

namespace Sys2Proof.Machine

/-! ### Images (R458) -/

/-- The longest image. -/
def fwMax : Nat := 6291456

/-- The header of an image that lies in `bs` is as the manual lays it out. DEDUCED (assumption log 78). -/
def fwHeaderOk (bs : List Byte) : Bool :=
  bs.take 4 == [0x54#8, 0x42#8, 0x46#8, 0x57#8] && decide (128 ≤ f32 bs 8 ∧ f32 bs 8 ≤ fwMax) && decide (f32 bs 8 ≤ bs.length)
    && decide (f8 bs 12 ≤ 64) && decide (f8 bs 13 ≤ 1) && zero bs 14 2 && zero bs 0x14 44

/-- The signature of an image verifies under the boot ROM key that it names. -/
def fwSigned (bs : List Byte) : Bool :=
  fwHeaderOk bs &&
    edVerify (natsOf (Config.signKey (f8 bs 13))) (sha512 (natsOf (bs.take 0x40 ++ (bs.take (f32 bs 8)).drop 0x80)))
      (natsOf ((bs.drop 0x40).take 64))

/-- What the conditions of R458 and SYS read of a slot's image. -/
structure FwInfo where
  signed   : Bool
  version  : Nat
  rollback : Nat
  rvMask   : Nat
  deriving DecidableEq, Repr

/-- The image of a slot. Firmware 3.4 as shipped offers RV1 only; its rollback index is the counter's at shipping (R508).
DESIGN CHOICE (assumption log 6). -/
def FwSlot.info : FwSlot → FwInfo
  | .shipped => { signed := true, version := 0x03040000 + Config.fwBuild % 65536, rollback := 0, rvMask := 1 }
  | .written bs => { signed := fwSigned bs, version := f32 bs 4, rollback := f8 bs 12, rvMask := f32 bs 16 }

/-- The rollback index and the revisions of an image pass against the fuses and the running image. -/
def State.fwFits (s : State) (i : FwInfo) : Bool :=
  decide (s.nv.fuses ≤ i.rollback) && word i.rvMask &&& s.sys.rvAvail == s.sys.rvAvail

/-- The image of a slot is acceptable (R458). -/
def State.acceptable (s : State) (n : Fin 2) : Bool :=
  let i := (s.nv.slots.get n).info
  i.signed && s.fwFits i

def otherSlot (n : Fin 2) : Fin 2 := if n = 0 then 1 else 0

/-! ### The update (R459–R463) -/

/-- A firmware image is told to the log by its slot. -/
def State.logUpd (s : State) (code : Nat) (n : Fin 2) : State := s.log code none [byte n.val]

/-- An update is opened: the slot not running is erased; a trial or rollback that rested on it is void.
DEDUCED (assumption log 78). -/
def State.updOpen (s : State) (len : Nat) (con : Option (Fin 4)) : State :=
  let n := otherSlot s.mgmt.slot
  let s := s.updRec sectorBoot fun v => { v with slots := v.slots.put n (.written []), trial := none, fails := 0, selected := none }
  (s.updMgmt fun m => { m with upd := some { len := len, slot := n, done := 0 }, flash := some (.erase len n con) }).logUpd 0x0901 n

/-- Data are accepted for the slot: the flash programs them. -/
def State.updProgram (s : State) (data : List Byte) (con : Option (Fin 4)) : State :=
  s.updMgmt fun m => { m with flash := some (.program data con) }

/-- Why data at an offset are refused: the status. DEDUCED (assumption log 78). -/
def State.updRefuse (s : State) (off n : Nat) : Option Nat :=
  match s.mgmt.upd with
  | some u => if off + n > u.len then some 0x12 else if off ≠ u.done then some 0x22 else none
  | none => some 0x22

/-- UPD_COMMIT's own checks and effect (R461). DEDUCED (assumption log 78, 79). -/
def State.updCommit (s : State) (restart : Bool) : State × Nat :=
  match s.mgmt.upd with
  | none => (s, 0x22)
  | some u =>
    if u.done < u.len then (s, 0x22) else
    let i := (s.nv.slots.get u.slot).info
    if i.signed = false then (s, 0x31)
    else if s.fwFits i = false then (s, 0x30)
    else
      let s := s.updRec sectorBoot fun v => { v with trial := some u.slot.val, fails := 0, selected := none }
      ((s.updMgmt fun m => { m with upd := none, rst := if restart then some .update else m.rst }).logUpd 0x0902 u.slot, 0)

/-- UPD_ROLLBACK (R463). -/
def State.updRollback (s : State) : State × Nat :=
  let n := otherSlot s.mgmt.slot
  if s.acceptable n then ((s.updRec sectorBoot fun v => { v with selected := some n.val }).logUpd 0x0906 n, 0) else (s, 0x30)

/-! ### The life cycle (R467) -/

/-- A transition that LIFECYCLE may ask for, and those that only the console may. -/
def lifeAllowed (console : Bool) : LifeCycle → LifeCycle → Bool
  | .blank, .provisioned => console
  | .provisioned, .field => console
  | .field, .service => true
  | .service, .field => true
  | .field, .retired => true
  | .service, .retired => true
  | _, _ => false

/-- A sealed page gives up what it holds (R467). -/
def State.unseal (s : State) (p : Nat) : State :=
  let s := s.memDo (s.mem.writeBytes (p * 65536) (List.replicate 65536 0#8))
  { s with mem := s.mem.setPage p { (s.mem.page p) with state := .owned } }

/-- The pages that are SEALED or SEALING. -/
def State.sealedPages (s : State) : List Nat :=
  (s.mem.pages.filter fun x => match x.2.state with | .sealed => true | .sealing => true | _ => false).map (·.1)

/-- A sealed load in progress fails. DEDUCED (assumption log 63, 81). -/
def State.failSealed (s : State) (h : Fin 8) : State :=
  match (s.halls.get h).wait with
  | some w => (match w.what with | .sealed _ _ _ => s.endWait h 0x31 [] | _ => s)
  | none => s

/-- The unit enters a state of its life cycle: the toggle between FIELD and SERVICE is a write of the key store's sector (R457, R467), the
others are fuses. DEDUCED (assumption log 81). -/
def State.lifeTo (s : State) (t : LifeCycle) : State :=
  let old := s.nv.life
  let enter (v : Nv) : Nv := { v with life := t }
  let s := (if t = .service ∨ (old = .service ∧ t = .field) then s.updRec sectorKeys enter else s.updNv enter).alcoveWipe .lc
  let s := s.log 0x0A01 none [byte old.code, byte t.code]
  match t with
  | .service => (List.finRange 8).foldl State.failSealed (s.sealedPages.foldl State.unseal s)
  | .field => if old = .service then s.updMgmt fun m => { m with noKeys := true } else s
  | .retired => s.updRec sectorKeys fun v => { v with keys := Vector.replicate 8 .none, serviceKey := false }
  | .blank => s
  | .provisioned => s

/-- LIFECYCLE's check and effect. -/
def State.lifeChange (s : State) (console : Bool) (cur tgt : Nat) : State × Nat :=
  match LifeCycle.ofCode tgt with
  | none => (s, 0x22)
  | some t => if cur = s.nv.life.code ∧ lifeAllowed console s.nv.life t = true then (s.lifeTo t, 0) else (s, 0x22)

end Sys2Proof.Machine
end

