-- ==== Sys2Proof/Machine/CmdsE.lean ====
section
/-! DEFINITION. The commands of update, life cycle and power (spec/13_command_set.md R389, spec/17_management_update_alcove.md
R459–R463, R467, spec/07_voice_allocation_and_capacity.md R217, R218). -/

namespace Sys2Proof.Machine

/-! ### Update and life cycle -/

def cmdUpdBegin (s : State) (_h : Fin 8) (c : Cmd) : Res :=
  let n := f32 c.pay 0
  s.checked [(zero c.pay 4 4, 0x22), (decide (n ≤ fwMax), 0x12)] fun s =>
    if n = 0 then .done s 0 []
    else if s.mgmt.onTrial then .done s 0x22 []
    else .wait (s.updOpen n none) .erase

/-- A page of hall 0 that an UPD_CHUNK may not copy. DEDUCED (assumption log 78). -/
def State.chunkFault (s : State) (h : Fin 8) (ps : List Nat) : Option Nat := worst [0x21, 0x1D, 0x1C] (ps.map (s.pageFault h))

def cmdUpdChunk (s : State) (h : Fin 8) (c : Cmd) : Res :=
  let off := f32 c.pay 0
  let first := f16 c.pay 4
  let n := f32 c.pay 8
  if zero c.pay 6 2 = false ∨ first > 4095 then .done s 0x22 []
  else if n = 0 then .done s 0 []
  else if first * 65536 + n > 4096 * 65536 then .done s 0x12 []
  else match s.updRefuse off n with
    | some st => .done s st []
    | none =>
      match s.chunkFault h (spanOf first n) with
      | some st => .done s st []
      | none =>
        let s := s.memDo (s.mem.readCws (runCws first n))
        .wait (s.updProgram (s.mem.rdList (first * 65536) n) none) .program

def cmdUpdCommit (s : State) (_h : Fin 8) (c : Cmd) : Res :=
  s.checked [(decide (f8 c.pay 0 < 2) && zero c.pay 1 3, 0x22)] fun s =>
    let r := s.updCommit (f8 c.pay 0 == 1)
    .done r.1 r.2 []

def cmdUpdRollback (s : State) (_h : Fin 8) (_c : Cmd) : Res := .done s.updRollback.1 s.updRollback.2 []

def cmdLifecycle (s : State) (_h : Fin 8) (c : Cmd) : Res :=
  s.checked [(zero c.pay 2 2, 0x22)] fun s =>
    let r := s.lifeChange false (f8 c.pay 0) (f8 c.pay 1)
    .done r.1 r.2 []

def opUpdBegin : Opcode := { op := 0x0A01, sup := true, timed := false, len := .fixed 8, need := needOne, body := cmdUpdBegin }
def opUpdChunk : Opcode := { op := 0x0A02, sup := true, timed := false, len := .fixed 12, need := needOne, body := cmdUpdChunk }
def opUpdCommit : Opcode := { op := 0x0A03, sup := true, timed := false, len := .fixed 4, need := needOne, body := cmdUpdCommit }
def opUpdRollback : Opcode := { op := 0x0A04, sup := true, timed := false, len := .fixed 0, need := needOne, body := cmdUpdRollback }
def opLifecycle : Opcode := { op := 0x0A05, sup := true, timed := false, len := .fixed 4, need := needOne, body := cmdLifecycle }

/-- UPD_BEGIN; a command of the update path is taken once what the flash does has ended (R466). DEDUCED (assumption log 83). -/
def execUpdBegin (h : Fin 8) (s : State) : Out' := opUpdBegin.row h s
/-- UPD_CHUNK. -/
def execUpdChunk (h : Fin 8) (s : State) : Out' := opUpdChunk.row h s
/-- UPD_COMMIT. -/
def execUpdCommit (h : Fin 8) (s : State) : Out' := opUpdCommit.row h s
/-- UPD_ROLLBACK. -/
def execUpdRollback (h : Fin 8) (s : State) : Out' := opUpdRollback.row h s
/-- LIFECYCLE. -/
def execLifecycle (h : Fin 8) (s : State) : Out' := opLifecycle.row h s

/-- A command of the update path that waits for the flash completes, where it waits as `sel` says. -/
def State.flashAnswer (s : State) (sel : WaitFor → Bool) (data : List Byte) : State :=
  (List.finRange 8).foldl (fun s h =>
    match (s.halls.get h).wait with
    | some w => if sel w.what then s.endWait h 0 data else s
    | none => s) s

/-- What a console line of serial port `n` answers: it stands as the console's last answer and is transmitted (R465). -/
def State.say (s : State) (n : Fin 4) (bs : List Byte) : State :=
  (s.updMgmt fun m => { m with answer := bs }).updSer n fun p => p.transmit bs

def crlf : List Byte := [0x0D#8, 0x0A#8]

/-- The characters of a text. -/
def ascii (t : String) : List Byte := t.toList.map fun c => byte c.toNat

/-- FLASH_ERASE_DONE: the slot is erased; UPD_BEGIN answers the slot (R389, R459). -/
def execFlashEraseDone (s : State) : Out' :=
  .next (match s.mgmt.flash with
    | some (.erase _ n con) =>
      let s := (s.updMgmt fun m => { m with flash := none }).flashWrote (sectorSlot n) (sectorSlot n + 96)
      (match con with
       | some k => s.say k ((ascii "SLOT ") ++ [byte (0x41 + n.val)] ++ crlf ++ (ascii "OK") ++ crlf)
       | none => s.flashAnswer (· == .erase) [byte n.val])
    | _ => s)

/-- FLASH_PROGRAM_DONE: the data are in the slot (R460). -/
def execFlashProgramDone (s : State) : Out' :=
  .next (match s.mgmt.flash, s.mgmt.upd with
    | some (.program data con), some u =>
      let more : FwSlot → FwSlot := fun x => match x with
        | .written bs => .written (bs ++ data)
        | .shipped => .shipped
      let at_ (k : Nat) : Nat := sectorSlot u.slot + k / 65536
      let s := (s.updNv fun v => { v with slots := v.slots.upd u.slot more }).flashWrote (at_ u.done)
        (at_ (u.done + data.length + 65535))
      let s := s.updMgmt fun m => { m with flash := none, upd := some { u with done := u.done + data.length } }
      (match con with
       | some k => s.say k ((ascii "OK") ++ crlf)
       | none => s.flashAnswer (· == .program) [])
    | _, _ => s)

/-! ### Power -/

/-- POWER_POLICY (R69–R71, R450, R451, R476). DEDUCED (assumption log 82). -/
def cmdPowerPolicy (s : State) (_h : Fin 8) (c : Cmd) : Res :=
  let fl := f8 c.pay 0
  let meas := fl / 2 % 2 == 1
  s.checked [(decide (fl < 8) && zero c.pay 2 6, 0x22), (!meas || s.calOk, 0x1F)] fun s =>
    let s := { s with pwr := { s.pwr with policy := putFlag s.pwr.policy 31 (fl % 2 == 1) } }
    let s := (s.setMargin (f8 c.pay 1)).updMgmt fun m => { m with shed := fl / 4 % 2 == 1 }
    .done (s.measSet meas) 0 []

/-- The halls with the hall engines of a gallery mapped elsewhere from frame `f` on; none where one finds no room (R217). -/
def State.parkMap (s : State) (g : Fin 8) (f : Nat) : Option (Tab Hall 8) :=
  let ok (e : Nat) : Bool := s.usable e && galOf e != g
  let here (x : HallEng) : Bool := match x.now with | some e => galOf e == g | none => false
  let off := s.halls.map fun (h : Hall) =>
    { h with engs := h.engs.map fun (x : HallEng) => if here x then { x with phys := Stepped.set x.phys f none } else x }
  (List.finRange 8).foldl (fun (acc : Option (Tab Hall 8)) n =>
    ((s.halls.get n).engs.filter here).foldl (fun (acc : Option (Tab Hall 8)) x =>
      acc.bind fun hs => (firstFit s.cb hs ok x.hb x.hs x.hd).map fun e => hs.upd n fun h => putEng h x.he f (some e)) acc) (some off)

/-- A gallery is to be parked: its hall engines migrate at the first frame whose list is open (R215, R217). -/
def State.parkGal (s : State) (g : Fin 8) : Option State :=
  let m := s.openFrame
  (s.parkMap g m).map fun halls =>
    let n := movedEngs s.halls halls
    let mig (a b : Hall) : Hall := if a.engs = b.engs then b else { b with resizeAt := some m }
    { s with halls := Vector.ofFn fun (k : Fin 8) => mig (s.halls.get k) (halls.get k),
             sched := { s.sched with migCnt := satInc s.sched.migCnt n,
                                     migAt := if n = 0 then s.sched.migAt else some m } }.updGal g fun x =>
      { x with parkReq := true }

def cmdGalleryPark (s : State) (_h : Fin 8) (c : Cmd) : Res :=
  let g := Fin.ofNat 8 (f8 c.pay 0)
  s.checked [(decide (f8 c.pay 0 < 8) && f8 c.pay 1 == 0 && zero c.pay 2 2, 0x22)] fun s =>
    if (s.gal.get g).parked = true ∧ s.pwr.is (pdGal g) .goingOff = false then .done s 0 []
    else if (s.gal.get g).parked then .wait s (.park g)
    else match s.parkGal g with
      | some s => .wait s (.park g)
      | none => .done s 0x13 []

def cmdGalleryUnpark (s : State) (_h : Fin 8) (c : Cmd) : Res :=
  let g := Fin.ofNat 8 (f8 c.pay 0)
  s.checked [(decide (f8 c.pay 0 < 8) && zero c.pay 2 2, 0x22)] fun s =>
    if (s.gal.get g).parked then .wait (s.switchOn (pdGal g)) (.unpark g) else .done s 0 []

def opPowerPolicy : Opcode := { op := 0x0B01, sup := true, timed := false, len := .fixed 8, need := needOne, body := cmdPowerPolicy }
def opGalleryPark : Opcode := { op := 0x0B02, sup := true, timed := false, len := .fixed 4, need := needOne, body := cmdGalleryPark }
def opGalleryUnpark : Opcode := { op := 0x0B02, sup := true, timed := false, len := .fixed 4, need := needOne, body := cmdGalleryUnpark }

/-- POWER_POLICY. -/
def execPowerPolicy (h : Fin 8) (s : State) : Out' := opPowerPolicy.row h s
/-- GALLERY_PARK, op 0 (and an op that is none). -/
def execGalleryPark (h : Fin 8) (s : State) : Out' := .next (opGalleryPark.take (fun c => opGalleryPark.is c && f8 c.pay 1 != 1) h s)
/-- GALLERY_PARK, op 1. -/
def execGalleryUnpark (h : Fin 8) (s : State) : Out' :=
  .next (opGalleryUnpark.take (fun c => opGalleryUnpark.is c && f8 c.pay 1 == 1) h s)

end Sys2Proof.Machine
end

