-- ==== Sys2Proof/Machine/CmdsF.lean ====
section
/-! DEFINITION. The commands of the serial ports (spec/14_serial_show_ports.md R390, R399, R404, R409, R413;
spec/18_power_reset_faults.md R472). -/

namespace Sys2Proof.Machine

/-! ### Roles (R399) -/

/-- The rates that a role admits. DEDUCED (assumption log 84). -/
def roleRateOk (role rate : Nat) : Bool :=
  match role with
  | 0 => rate == 0
  | 1 => rate == 0 || rate == 31250
  | 2 => rate == 0 || rate == 250000
  | 3 => rate == 0 || rate == 1000000 || rate == 3000000
  | _ => rate == 0 || decide (300 ≤ rate ∧ rate ≤ 3000000)

/-- The addresses that a role admits. -/
def roleAddrOk (role addr : Nat) : Bool :=
  match role with
  | 2 => decide (1 ≤ addr ∧ addr ≤ 4095)
  | 3 => decide (addr ≤ 254)
  | _ => true

/-- The rate that a role runs at; 0 for auto-baud. -/
def roleRate (role rate : Nat) : Nat := match role with | 1 => 31250 | 2 => 250000 | _ => rate

/-- A role that may sleep. DEDUCED (assumption log 84). -/
def roleSleeps (role : Nat) : Bool := role == 0 || role == 2 || role == 4

/-- SERn_BAUD.div for a rate (R390). -/
def divOf (fe882 : Bool) (rate : Nat) : Nat := (rdiv ((refHz fe882 * 128 : Nat) : Int) (rate : Int)).toNat

/-- The seed of the back-off draws of port `n` (R413). DEDUCED (assumption log 88). -/
def tsbSeed (uid n : Nat) : BitVec 32 := finaliser (word uid ^^^ word (uid / 2 ^ 32) ^^^ word (n * 2 ^ 28))

/-- A port takes a role (R399); a receiver that is fenced stays so. DEDUCED (assumption log 84, 88). -/
def State.setRole (s : State) (n : Fin 4) (role rate addr : Nat) : State :=
  let r := roleRate role rate
  let auto := r == 0 && decide (role ≥ 3)
  let div := if r = 0 then 0 else divOf s.nv.cfg.fe882 r
  let cfg := role * 2 ^ 29 + (if role = 4 then s.nv.cfg.consolePar * 16 else 0) + at_ (role == 2) 3
  let tsb := { Tsb.reset with gen := tsbSeed s.nv.uid n.val, nextBeacon := s.time.rclk + s.edgesUs 100000 }
  s.updSer n fun p =>
    let q := { p with
      cfg := word cfg, baud := word (at_ auto 31 + div), ctrl := putFlag p.ctrl 30 (roleSleeps role),
      locked := role != 0 && !auto, feRun := 0, mapped := 0, addr := addr, xoffRx := false, xoffTx := false, txHeld := [],
      sent := [], de := role == 4, txTo := min p.txTo (s.line64 false), pend := none, midi := Midi.reset,
      dmx := { Dmx.reset with start := if role = 2 then 1 else 0, last := s.time.et }, tsb := tsb, lineBuf := [], lines := [] }
    if p.rx = .fenced then q else { q with rx := q.freshRx }

/-- The hall bound to the present role of a port: a MIDI port, a DMX universe or a TSB address (R28). -/
def State.serHall (s : State) (n : Fin 4) : Option (Fin 8) :=
  let p := s.ser.get n
  (List.finRange 8).find? fun h =>
    let w := (s.halls.get h).binding
    (s.halls.get h).ser? == some n && bits w 13 12 + 1 == p.role && (p.role == 1 || bits w 11 0 == p.addr)

/-- A role is given; PD_SERIAL is powered down where no port has one left (R472). DEDUCED (assumption log 84). -/
def State.giveRole (s : State) (p : List Byte) : State :=
  let s := s.setRole (Fin.ofNat 4 (f8 p 0)) (f8 p 1) (f32 p 4) (f16 p 8)
  if s.serRoles = false ∧ s.pwr.on pdSerial = true then s.switchOff pdSerial else s

def cmdSerRole (s : State) (_h : Fin 8) (c : Cmd) : Res :=
  let p := c.pay
  let role := f8 p 1
  s.checked [ (decide (f8 p 0 < 4) && decide (role ≤ 4) && zero p 2 2 && zero p 10 2, 0x22),
      (roleRateOk role (f32 p 4) && roleAddrOk role (f16 p 8) && (s.serHall (Fin.ofNat 4 (f8 p 0))).isNone, 0x22) ] fun s =>
    if role = 0 ∨ s.pwr.on pdSerial = true then .done (s.giveRole p) 0 [] else .wait (s.switchOn pdSerial) (.serPower p)

/-- PD_SERIAL has woken: a SER_ROLE that waited for it completes (R472). -/
def State.serAwake (s : State) (h : Fin 8) : State :=
  match (s.halls.get h).wait with
  | some w => (match w.what with
    | .serPower p => (s.giveRole p).endWait h 0 []
    | _ => s)
  | none => s

/-! ### DMX (R404, R409) -/

/-- The entries of a DMX_PATCH. -/
def patchOf (p : List Byte) : List Patch :=
  (List.range (f16 p 2)).map fun i =>
    { hall := f8 p 1, first := f16 p (8 + 8 * i), wide := f8 p (10 + 8 * i) == 2, ctl := f8 p (11 + 8 * i), smooth := f16 p (12 + 8 * i) }

/-- The fields of a DMX_PATCH lie in their encodings. DEDUCED (assumption log 87). -/
def patchOk (p : List Byte) : Bool :=
  decide (f8 p 0 < 4) && decide (f8 p 1 < 8) && zero p 4 4 && (List.range (f16 p 2)).all fun i =>
    decide (1 ≤ f16 p (8 + 8 * i) ∧ f16 p (8 + 8 * i) ≤ 512) && (f8 p (10 + 8 * i) == 1 || f8 p (10 + 8 * i) == 2)
      && decide (f8 p (11 + 8 * i) < 32) && zero p (14 + 8 * i) 2

/-- Every absolute slot of a patch exists, the start address being `start`. -/
def slotsFit (start : Nat) (es : List Patch) : Bool := es.all fun e => decide (start + e.first - 1 + (if e.wide then 1 else 0) ≤ 512)

/-- DMX_PATCH; a count of zero changes nothing (R361). DEDUCED (assumption log 87). -/
def cmdDmxPatch (s : State) (_h : Fin 8) (c : Cmd) : Res :=
  let p := c.pay
  if f16 p 2 = 0 then s.checked [(patchOk p, 0x22)] fun s => .done s 0 [] else
  let n := Fin.ofNat 4 (f8 p 0)
  let x := s.ser.get n
  let es := patchOf p
  let rest := x.dmx.patch.filter fun e => e.hall != f8 p 1
  s.checked [ (patchOk p, 0x22), (decide (rest.length + es.length ≤ 64), 0x12),
      (x.role == 2 && slotsFit x.dmx.start es && noDup (es.map (·.ctl)) && (s.hall (f8 p 1)).alive, 0x22) ] fun s =>
    .done (s.updSer n fun x => { x with dmx := { x.dmx with patch := rest ++ es } }) 0 []

/-- A label: ASCII, padded with zeros. DEDUCED (assumption log 87). -/
def labelOk (bs : List Byte) : Bool :=
  let body := bs.takeWhile (· != 0#8)
  (body.all fun b => decide (b.toNat < 128)) && ((bs.drop body.length).all (· == 0#8))

def cmdRdmIdent (s : State) (_h : Fin 8) (c : Cmd) : Res :=
  let p := c.pay
  let n := Fin.ofNat 4 (f8 p 0)
  let x := s.ser.get n
  let start := f16 p 2
  let foot := f16 p 4
  s.checked [ (decide (f8 p 0 < 4) && zero p 1 1 && decide (1 ≤ start ∧ start ≤ 512) && zero p 6 2 && labelOk (p.drop 8), 0x22),
      (x.role == 2 && decide (start + foot ≤ 513) && slotsFit start x.dmx.patch, 0x22) ] fun s =>
    .done (s.updSer n fun x => { x with dmx := { x.dmx with start := start, foot := foot, label := (p.drop 8).takeWhile (· != 0#8) } }) 0 []

def opSerRole : Opcode := { op := 0x0C01, sup := true, timed := false, len := .fixed 12, need := needOne, body := cmdSerRole }
def opDmxPatch : Opcode := { op := 0x0C02, sup := true, timed := false, len := .counted 8 2 2 8 64, need := needOne, body := cmdDmxPatch }
def opRdmIdent : Opcode := { op := 0x0C03, sup := true, timed := false, len := .fixed 40, need := needOne, body := cmdRdmIdent }

/-- SER_ROLE. -/
def execSerRole (h : Fin 8) (s : State) : Out' := opSerRole.row h s
/-- DMX_PATCH. -/
def execDmxPatch (h : Fin 8) (s : State) : Out' := opDmxPatch.row h s
/-- RDM_IDENT. -/
def execRdmIdent (h : Fin 8) (s : State) : Out' := opRdmIdent.row h s

/-! ### Opcodes that are none (R360) -/

/-- The opcodes of firmware 3.4. -/
def opcodes : List Nat :=
  [0x0101, 0x0102, 0x0103, 0x0104, 0x0105, 0x0106, 0x0201, 0x0202, 0x0203, 0x0204, 0x0301, 0x0302, 0x0303, 0x0401, 0x0402, 0x0403,
   0x0404, 0x0501, 0x0502, 0x0503, 0x0504, 0x0505, 0x0506, 0x0601, 0x0602, 0x0603, 0x0604, 0x0605, 0x0701, 0x0702, 0x0703, 0x0801,
   0x0802, 0x0901, 0x0902, 0x0903, 0x0A01, 0x0A02, 0x0A03, 0x0A04, 0x0A05, 0x0B01, 0x0B02, 0x0C01, 0x0C02, 0x0C03]

/-- A command whose opcode is not in the table: BAD_OPCODE, or FENCED in a fenced hall outside groups 0x01 and 0x09. -/
def cmdUndefined (s : State) (h : Fin 8) (c : Cmd) : Res :=
  .done s (if s.hallFenced h = true ∧ c.op / 256 ≠ 1 ∧ c.op / 256 ≠ 9 then 0x20 else 0x10) []

/-- How a command of no opcode is carried out: no check comes before its own. -/
def Opcode.runUndefined (h : Fin 8) (s : State) : State :=
  if s.cp0Runs = false ∨ (s.halls.get h).port?.isNone = true ∨ s.turn h = false then s else
  match s.nextCmd h with
  | .cmd c n =>
    if opcodes.contains c.op then s
    else if s.room h 1 = false then s.stall h
    else
      let t := s.takeEntries h n
      t.finish h c 1 (cmdUndefined t h c)
  | .tooLong c =>
    if opcodes.contains c.op then s
    else if s.room h 1 = false then s.stall h
    else (s.takeEntries h 1).taken.complete h c.op c.tag c.quiet .ring 0x12 []
  | .bulk _ => s
  | .none => s

/-- UNDEFINED_OPCODE. -/
def execUndefinedOpcode (h : Fin 8) (s : State) : Out' := .next (Opcode.runUndefined h s)

end Sys2Proof.Machine
end

