-- ==== Sys2Proof/Machine/Reset.lean ====
section
/-! DEFINITION. Resets and the start-up sequence (spec/18_power_reset_faults.md R477–R481, R491,
spec/17_management_update_alcove.md R458, R461–R464, R468, spec/15_timebase_timers_triggers.md R416, R418,
spec/12_host_ports_and_mailboxes.md R329). -/

namespace Sys2Proof.Machine

/-! ### Resets (R479, R480) -/

/-- The device is in no reset: RESET_n is high and no brownout holds it. -/
def Pins.free (p : Pins) : Bool := !p.resetLow && !p.brown

/-- TIME samples RESET_n high (R416): the first such edge counts as edge 1. -/
def State.release (s : State) : State :=
  if s.pins.free then { s with time := { s.time with counting := true, rclk := at_ s.time.refclk 0 } } else s

/-- A reset of cause `c`, the pins being `pins`: what survives is what R480 lists. DESIGN CHOICE (assumption log 2). -/
def State.restart (s : State) (c : RstCause) (pins : Pins) : State :=
  let por := c == .por
  let r := State.fromReset s.nv (if por then 1#32 else setFlag s.pwr.cause c.code) (if por then 0#32 else satInc s.pwr.rstCnt 1)
  { r with nv := { r.nv with powered := s.poweredS },
           mgmt := { r.mgmt with volLog := if por then [] else s.mgmt.volLog },
           time := { r.time with refclk := s.time.refclk }, pins := pins, pending := s.pending, fresh := s.fresh }

/-- An internal reset, after its 1 ms (R479). -/
def State.internalReset (s : State) (c : RstCause) : State := (s.restart c s.pins).release

/-- RESET_RELEASE. -/
def execResetRelease (s : State) : Out' :=
  .next (s.when s.pins.resetLow fun s => { s with pins := { s.pins with resetLow := false } }.release)

/-- RESET_ASSERT, seen through bank SYS (R496). -/
def execResetAssert (s : State) : Out' :=
  .next (s.when (!s.pins.resetLow && s.bankOn .sys) fun s => s.restart .pin { s.pins with resetLow := true })

/-- INTERNAL_RESET: the restart that UPD_COMMIT has asked for (R461). DEDUCED (assumption log 79). -/
def execInternalReset (s : State) : Out' :=
  .next (match s.mgmt.rst with
    | some c => s.internalReset c
    | none => s)

/-- JTAG_RESET: accepted in SERVICE only; elsewhere the instruction acts as BYPASS (R503). It comes through bank SYS (R496). -/
def execJtagReset (s : State) : Out' :=
  .next (s.when (s.bankOn .sys) fun s =>
    (s.tapInstr .reset).when (s.pins.free && s.nv.life == .service) fun s => s.internalReset .jtag)

/-- POWER_ON_RESET: RESET_n is asserted again until the supplies have come back (R477, R478). DESIGN CHOICE (assumption log 11). -/
def execPowerOnReset (s : State) : Out' := .next (s.restart .por { s.pins with resetLow := true, brown := false })

/-- BROWNOUT: the MP holds the internal reset (R478). -/
def execBrownout (s : State) : Out' :=
  .next (s.when s.pins.free fun s => s.restart .brownout { s.pins with brown := true })

/-- BROWNOUT_SUPPLY_RESTORED. -/
def execBrownoutSupplyRestored (s : State) : Out' :=
  .next (s.when s.pins.brown fun s => { s with pins := { s.pins with brown := false } }.release)

/-! ### The choice of the slot (R458, R461–R464) -/

/-- The slot that flash selects and whether it is on trial; what flash holds from then on. DEDUCED (assumption log 13). -/
def State.bootChoice (s : State) : State × Fin 2 × Bool :=
  match s.nv.selected with
  | some n =>
    if s.nv.trial = some n then (s.updRec sectorBoot fun v => { v with selected := none }, Fin.ofNat 2 n, true)
    else (s.updRec sectorBoot fun v => { v with selected := none, trial := none, committed := n }, Fin.ofNat 2 n, false)
  | none =>
    match s.nv.trial with
    | some n => (s, Fin.ofNat 2 n, true)
    | none => (s, Fin.ofNat 2 s.nv.committed, false)

/-- The slot that starts; none where neither is acceptable. DEDUCED (assumption log 13, 80). -/
def State.bootSlot (s : State) : State × Option (Fin 2 × Bool) :=
  let c := s.bootChoice
  let s := c.1
  let n := c.2.1
  if s.acceptable n then (s, some (n, c.2.2))
  else if s.acceptable (otherSlot n) then
    ((s.updRec sectorBoot fun v => { v with trial := none, committed := (otherSlot n).val }).logUpd 0x0905 (otherSlot n), some (otherSlot n, false))
  else (s, none)

/-! ### Keys (R468, R469) -/

/-- The 32 bytes that a device key slot of the Alcove gets; one that does not unwrap is empty. -/
def KeyEnt.bytes : KeyEnt → List Byte
  | .none => []
  | .library => Config.libraryKey.take 32
  | .wrapped bs =>
    match keyUnwrap (natsOf Config.unitKey) (natsOf bs) with
    | some k => (bytesOf k).take 32
    | Option.none => []

/-- The key store is loaded into the Alcove. DEDUCED (assumption log 14). -/
def State.loadKeys (s : State) : State :=
  if s.pins.tamper then s else
  let keys : Memory := (List.finRange 8).foldl (fun (m : Memory) k => m.writeList (32 * k.val) (s.nv.keys.get k).bytes) []
  let keys := if s.nv.serviceKey then keys.writeList 0x100 (Config.serviceKey.take 32) else keys
  if s.nv.life = .field then s.updMgmt fun m => { m with alcove := keys, keysIn := true }
  else s.updMgmt fun m => { m with alcove := keys.filter fun x => 0x100 ≤ x.1 }

/-! ### Start-up (R481) -/

/-- A domain is ON at the end of its wake. DESIGN CHOICE (assumption log 12). -/
def State.bootDomain (s : State) (d : Fin 16) : State :=
  let us := min (Config.startWake s.fresh) (wakeMax d false)
  ({ s with fresh := s.fresh + 1 }.updDom d fun x => { x with st := .on, wake := us }).raise 5

/-- A gallery is powered, or parked. -/
def State.bootGallery (s : State) (g : Fin 8) : State :=
  if s.nv.cfg.galOn.testBit g.val then s.bootDomain (pdGal g) else s.updGal g fun x => { x with parked := true }

/-- A codeword that fails the test at start-up: its page starts RETIRED and is no hall's (R270). -/
def State.bootBad (s : State) (cw : Nat) : State :=
  let p := cw / 1024
  if (s.mem.page p).state = .retired then s
  else s.memDo ((s.mem.setPage p { s.mem.page p with hall := 8 }).retire p cw MemEvents.none)

/-- The wave memory after training, fill and test, in which the codewords `bad` fail (R270), the default reservation table loaded
(R276). DESIGN CHOICE (assumption log 12). -/
def State.bootMem (s : State) (bad : List (Fin 4194304)) : State :=
  let ch : Tab MemCh 4 := s.mem.ch.map fun (c : MemCh) => { c with trained := true, act := defaultTable, shd := defaultTable }
  let m : WaveMem := { s.mem with ch := ch, ready := true }
  let s := { s with mem := s.nv.retired.foldl (fun (m : WaveMem) p => m.setPage p { state := .retired, hall := 8, poisoned := false }) m }
  bad.foldl (fun s cw => s.bootBad cw.val) s

/-- The roles that the configuration record gives. -/
def State.bootRoles (s : State) : State :=
  if s.nv.cfg.roles.all fun r => r.1 == 0 then s else
  (List.finRange 4).foldl (fun s n =>
    match s.nv.cfg.roles.drop n.val with
    | (role, rate, addr) :: _ => if role = 0 then s else s.setRole n role rate addr
    | [] => s) (s.bootDomain pdSerial)

/-- A channel stands in its configured range (R316, R318). -/
def State.bootRange (s : State) (n : Fin 16) : State :=
  match s.nv.cfg.ranges.drop n.val with
  | r :: _ => if s.hasDac n = false ∨ r > 2 ∨ s.badRange r = true then s
              else s.updDac n fun c => { c with ctrl := setBits c.ctrl 29 28 r, stage := r }
  | [] => s

/-- PD_ANA and the analog outputs (R307, R310, R313, R322). DESIGN CHOICE (assumption log 12). -/
def State.bootAna (s : State) : State :=
  let s := { s with dac := { s.dac with nr := (rdiv s.nv.cfg.fo.hz 500).toNat,
                                        cal := if s.nv.calValid then word (2 ^ 31 + s.nv.calVer % 65536) else 0#32 } }
  if s.nv.cfg.anaUnused then s
  else
    let s := (s.bootDomain pdAna).loadTrims
    (List.finRange 16).foldl State.bootRange { s with dac := { s.dac with vrefOk := true } }

/-- The control firmware's own setting up: OUT_CFG, TDM_CFG, the routing, the supervisor's port (R26, R291, R300). -/
def State.bootFirmware (s : State) : State :=
  let c := s.nv.cfg
  let r := c.fo.ratio (feHz c.fe882)
  { s with
    out := { s.out with p := r.1, q := r.2, track := c.track, master := bit c.tdm 31,
                        cfg := word (at_ c.track 31 + r.1 * 65536 + r.2) },
    tdm := { s.tdm with cfg := c.tdm &&& 0x8000000F#32 },
    irqf := s.irqf.fwSetup,
    foyer := { s.foyer with sup := c.supPort } }

/-- REFCLK has come to its edge `n`. -/
def State.clockTo (s : State) (n : Nat) : State := s.advance (n - s.time.rclk)

/-- A port opens (R329). -/
def Port.opened (q : Port) : Port := { q with st := .opened, width := 1, rdy := true }

/-- RECOVERY (R464): the console on SER0 at 115,200 bit/s, 8N1. -/
def State.recovery (s : State) : State :=
  let s := (s.updMgmt fun m => { m with recovery := true }).log 0x0907 none []
  ((s.bootDomain pdSerial).setRole 0 4 115200 0).updSer 0 fun p => { p with cfg := 0x80000000#32, de := false }

/-- Steps 4 to 10 and 12: image `i` of slot `n` is started. Step 11, the first health report, is HEALTH_REPORT.
DESIGN CHOICE (assumption log 12). -/
def State.startFirmware (s : State) (bad : List (Fin 4194304)) (n : Fin 2) (trial : Bool) (i : FwInfo) : State :=
  let s := s.updMgmt fun m => { m with slot := n, onTrial := trial }
  let s := [pdCtrl, pdFoyer, pdMem].foldl State.bootDomain s.loadKeys
  let s := { s with sys := { s.sys with fwVer := word i.version, rvAvail := word i.rvMask } }
  let s := (List.finRange 8).foldl State.bootGallery ((s.bootMem bad).bootDomain pdOut)
  let s := s.bootRoles.bootAna.bootFirmware
  let s := s.clockTo (120 * refHz s.ref882 / 1000)
  let s := s.schedCfg (word (2 ^ 31 + at_ s.nv.cfg.frame16 0))
  let s := s.clockTo s.time.bringupEdge
  { s with foyer := { s.foyer with port := s.foyer.port.map Port.opened } }

/-- STARTUP. Which codewords fail the memory test of the start-up after this one, and whether a TAMPER_n that was asserted still is,
are free. DESIGN CHOICE (assumption log 1, 11, 12). -/
def execStartup (s : State) : Out' :=
  .next (s.when (s.pins.free && s.time.counting && s.time.refclk && !s.pwr.on pdCtrl && !s.mgmt.recovery) fun s =>
    let bad := s.pins.memBad
    let s := { s with
      time := { s.time with ok := true }, fresh := s.fresh + 1,
      pins := { s.pins with tamper := s.pins.tamper && Config.tamperHeld s.fresh, memBad := Config.memBad s.fresh } }
    let s := if s.nv.life = .blank then s else s.updRec sectorBoot fun v => { v with boots := v.boots + 1 }
    let s := if s.nv.calValid then s else s.log 0x0102 none []
    let r := s.bootSlot
    match r.2 with
    | some (n, trial) => r.1.startFirmware bad n trial (r.1.nv.slots.get n).info
    | none => r.1.recovery)

end Sys2Proof.Machine
end

