-- ==== Sys2Proof/Machine/MgmtRows.lean ====
section
/-! DEFINITION. Management at work: sensors, the thermal policy, the health of the control firmware, the log's bucket, trials, the
Alcove's detectors, the summary (spec/17_management_update_alcove.md R447–R471) and the raising of an interrupt source
(spec/16_interrupt_fabric.md R433). -/

namespace Sys2Proof.Machine

/-- IRQ_RAISE; source 255 is the control firmware's health report (R453). DEDUCED (assumption log 93). -/
def execIrqRaise (n : Fin 256) (s : State) : Out' := .next (if n.val = 255 then (s.raise 255).healthy else s.raise n.val)

/-! ### Sensors (R447–R451, R469) -/

/-- A reading that wipes the Alcove (R469). -/
def tempWipes (t : Int) : Bool := decide (t < -50 * 16 ∨ 130 * 16 < t)

/-- A thermal step is entered: its source, its log entry. DEDUCED (assumption log 94). -/
def State.thermStep (s : State) (t : Therm) : State :=
  ((s.updMgmt fun m => { m with therm := t }).raise (207 + t.code)).log (0x0800 + t.code) none (leBytes 2 (wrapU 16 s.mgmt.tj).toNat)

/-- HALT mutes the outputs and fences every gallery at the next frame boundary (R313, R452). DEDUCED (assumption log 94). -/
def State.thermHalt (s : State) : State :=
  let s := ({ s with dac := { s.dac with thermal := true } }.dacErr 3).muteNow
  { s with gal := s.gal.map fun (g : Gallery) => { g with fenceReq := some 3 } }

/-- The thermal steps that Tj enters (R451). DEDUCED (assumption log 94). -/
def State.thermEnter (s : State) : State :=
  let tj := s.mgmt.tj
  let s := if s.mgmt.therm = .normal ∧ tj > 110 * 16 then (s.thermStep .warn).guar 6 else s
  let s := if s.mgmt.therm = .warn ∧ tj ≥ 115 * 16 then s.thermStep .shed else s
  if s.mgmt.therm = .shed ∧ tj ≥ 125 * 16 then (s.thermStep .halt).thermHalt else s

/-- TEMP_SAMPLE: the ten readings, in 1/16 °C. -/
def execTempSample (temps : List Int) (s : State) : Out' :=
  if (Instr.tempSample temps).wf = false then .refused .illFormed else
  let s := s.updMgmt fun m => { m with temps := Vector.ofFn fun (k : Fin 10) => temps.getD k.val 0 }
  let s := if temps.any tempWipes then s.alcoveWipe .temp else s
  .next s.thermEnter

/-- THERMAL_STEP_EXIT: Tj has stood for 1 s at or below the step's exit (R451). DEDUCED (assumption log 94). -/
def execThermalStepExit (s : State) : Out' :=
  let tj := s.mgmt.tj
  .next (match s.mgmt.therm with
    | .normal => s
    | .warn => s.when (decide (tj ≤ 107 * 16)) fun s => s.updMgmt fun m => { m with therm := .normal }
    | .shed => s.when (decide (tj ≤ 110 * 16)) fun s => s.updMgmt fun m => { m with therm := .warn }
    | .halt => s.when (decide (tj ≤ 110 * 16)) fun s =>
        { s with dac := { s.dac with thermal := false }, mgmt := { s.mgmt with therm := .warn } })

/-- Domain `d` reads `mv` (R449). -/
def State.voltOne (s : State) (d : Fin 16) (mv : Nat) : State :=
  let was := s.mgmt.vmonBad.get d
  let bad := s.pwr.on d && !s.vmonIn d mv
  let s := s.updMgmt fun m => { m with volts := m.volts.put d mv, vmonBad := m.vmonBad.put d bad,
                                       vmonOut := m.vmonOut.put d (m.vmonOut.get d || bad),
                                       vmonSum := m.vmonSum ||| at_ bad d.val }
  let s := s.raiseIf bad 211
  if bad = true ∧ was = false then s.log 0x0804 none (byte d.val :: leBytes 2 mv) else s

/-- VOLTAGE_SAMPLE: the sixteen readings, in mV. DEDUCED (assumption log 95). -/
def execVoltageSample (mv : List Nat) (s : State) : Out' :=
  if (Instr.voltageSample mv).wf = false then .refused .illFormed else
  let s := (List.finRange 16).foldl (fun s d => s.voltOne d (mv.getD d.val 0)) s
  .next (if s.coreLow then s.guar 6 else s)

/-- The lower of a lowest reading, if there is one, and a new one. -/
def lower (a : Option Nat) (b : Nat) : Option Nat := some (match a with | some x => min x b | none => b)

/-- A reading enters the window of a gallery; those too old for any window to come leave it (R69). -/
def State.notePace (s : State) (g : Fin 8) (reading : Nat) : State :=
  if s.time.running = false then s else
  s.updGal g fun x => { x with
    paces := (s.time.et, reading) :: x.paces.filter fun y => decide (s.start s.sched.nextMb ≤ y.1 + 64 * s.fl * 512) }

/-- PACE_READING (R448, R69). -/
def execPaceReading (k : Fin 10) (reading : Nat) (s : State) : Out' :=
  if (Instr.paceReading k reading).wf = false then .refused .illFormed else
  let s := s.updMgmt fun m => { m with pace := m.pace.put k reading, paceLow := m.paceLow.upd k fun x => lower x reading }
  let s := if k.val < 8 then s.notePace (Fin.ofNat 8 k.val) reading else s
  .next (s.raise 212)

/-! ### The control firmware (R453) -/

/-- The control firmware has been started and not been declared stopped. -/
def State.fwStarted (s : State) : Bool := s.pwr.on pdCtrl && !s.mgmt.stopped

/-- HEALTH_REPORT. -/
def execHealthReport (s : State) : Out' := .next (s.when s.fwStarted fun s => (s.raise 255).healthy)

/-- A port goes to DOWN (R329, R352). -/
def Port.shut (q : Port) : Port := { q with st := .down, rdy := false, irq := false }

/-- FIRMWARE_STOP: 2 ms have passed with no report. DEDUCED (assumption log 93). -/
def execFirmwareStop (s : State) : Out' :=
  .next (s.when (s.fwStarted && s.mgmt.fwOk) fun s =>
    let s := s.updMgmt fun m => { m with stopped := true, fwOk := false, pulse := false }
    let s := { s with foyer := { s.foyer with port := s.foyer.port.map Port.shut }, dac := { s.dac with fwStop := true } }
    let s := { s with ser := s.ser.map fun (p : Ser) => p.release (s.line64 false) }
    (s.muteNow.raise 214).log 0x0805 none [])

/-- AUTO_RESTART: 1 s after the stop. A stop during a trial is TRIAL_FAIL's. DEDUCED (assumption log 79). -/
def execAutoRestart (s : State) : Out' :=
  .next (s.when (s.mgmt.stopped && s.nv.cfg.autoRestart && !s.mgmt.onTrial) fun s => s.internalReset .fwStop)

/-! ### The log and the flash (R455, R457) -/

/-- LOG_TOKEN_REFILL. -/
def execLogTokenRefill (s : State) : Out' := .next (s.updMgmt fun m => { m with tokens := min 256 (m.tokens + 1) })

/-- A sector is to be rewritten: a 512-byte unit showed 2 or more corrected bits, or 5 years of powered time have passed since its last
write (R457). -/
def Sector.old (x : Sector) (bits : List Nat) (now : Nat) : Bool := (bits.any fun b => decide (2 ≤ b)) || decide (x.written + 157788000 ≤ now)

/-- Sector `k` is read, its 512-byte units showing `bits` corrected bits, and rewritten where it has to be: the copy stands in a spare,
is verified, and the original is erased and becomes a spare; its contents stay the same (R457). -/
def State.refreshed (s : State) (k : Fin 224) (bits : List Nat) : State :=
  let x := s.nv.sectors.get k
  let now := s.poweredS
  match x.old bits now, s.nv.spares with
  | true, p :: ps => s.updNv fun v => { v with sectors := v.sectors.put k { place := p, written := now, read := now }, spares := ps ++ [x.place] }
  | _, _ => s.updNv fun v => { v with sectors := v.sectors.put k { x with read := now } }

/-- FLASH_REFRESH: the MP reads a sector. DESIGN CHOICE (assumption log 104). -/
def execFlashRefresh (k : Fin 224) (bits : List Nat) (s : State) : Out' := .next (s.refreshed k bits)

/-! ### Trials (R462) -/

/-- TRIAL_CONFIRM: 60 s after bring-up. -/
def execTrialConfirm (s : State) : Out' :=
  .next (s.when (s.mgmt.onTrial && s.mgmt.fwOk && s.time.running && decide (60 * feHz s.fe882 * 512 ≤ s.time.et)) fun s =>
    let n := s.mgmt.slot
    let r := (s.nv.slots.get n).info.rollback
    let s := s.updRec sectorBoot fun v => { v with committed := n.val, trial := none, fails := 0, fuses := min 64 (max v.fuses r) }
    (s.updMgmt fun m => { m with onTrial := false }).logUpd 0x0903 n)

/-- TRIAL_FAIL: no health report within 10 s of the release, or a stop before confirmation. DEDUCED (assumption log 79, 80). -/
def execTrialFail (s : State) : Out' :=
  let late := !s.mgmt.fwOk && decide (s.edgesUs 10000000 ≤ s.time.rclk)
  .next (s.when (s.mgmt.onTrial && (s.mgmt.stopped || late)) fun s =>
    let n := s.mgmt.slot
    let void := decide (s.nv.fails + 1 ≥ 2)
    let s := s.updRec sectorBoot fun v => { v with fails := v.fails + 1, trial := if void then none else v.trial }
    let s := (s.logUpd 0x0904 n).internalReset .trial
    if void then s.logUpd 0x0905 (otherSlot n) else s)

/-! ### The Alcove's detectors (R469) -/

/-- TAMPER: TAMPER_n is asserted, seen through bank SYS (R496). -/
def execTamper (s : State) : Out' :=
  .next (s.when (s.bankOn .sys) fun s => { s with pins := { s.pins with tamper := true } }.alcoveWipe .pin)

/-- GLITCH_DETECT. -/
def execGlitchDetect (s : State) : Out' := .next (s.alcoveWipe .glitch)

/-! ### The summary (R471) -/

/-- The 64 bytes of the summary that is written next. DEDUCED (assumption log 95). -/
def State.summary (s : State) : List Byte :=
  let m := s.mgmt
  let sixteen (t : Int) : List Byte := leBytes 2 (wrapU 16 t).toNat
  leBytes 4 (m.sumSeq + 1) ++ sixteen m.tj ++ [byte m.therm.code, byte s.nv.life.code] ++ m.temps.toList.flatMap sixteen ++
    [byte m.slot.val, byte (at_ m.onTrial 0 + at_ m.wiped 1 + at_ m.keysIn 2), byte s.nv.fuses, 0#8] ++
    leBytes 2 m.vmonSum ++ [0#8, 0#8] ++
    (List.finRange 10).flatMap (fun k => leBytes 2 ((m.paceLow.get k).getD (m.pace.get k))) ++ leBytes 4 s.nv.logNext ++
    List.replicate 4 0#8

/-- SUMMARY_WRITE. -/
def execSummaryWrite (s : State) : Out' :=
  .next (s.when (s.pwr.on pdFoyer) fun s =>
    (s.sramWrite 0x12000 s.summary).updMgmt fun m =>
      { m with sumSeq := (m.sumSeq + 1) % 2 ^ 32, vmonSum := 0, paceLow := Vector.replicate 10 none })

end Sys2Proof.Machine
end

