-- ==== Sys2Proof/Machine/Made.lean ====
section
/-! DEFINITION. Events that a trigger mapping or a serial role makes, checked as if the hall had posted them
(spec/13_command_set.md R386, spec/14_serial_show_ports.md R400). -/

namespace Sys2Proof.Machine

/-- The own checks of an event opcode on a payload. -/
def State.evChecks (s : State) (h : Fin 8) (op : Nat) (p : List Byte) : List (Bool × Nat) :=
  match op with
  | 0x0501 => s.startChecks h p
  | 0x0502 => [(zero p 10 2, 0x22)]
  | 0x0503 => [(zero p 10 2, 0x22)]
  | 0x0504 => s.paramChecks h p false
  | 0x0505 => s.paramChecks h p true
  | _ => [(ctrlOk p, 0x22)]

/-- What an event opcode does with a payload. -/
def evKindOf (op : Nat) (p : List Byte) : EvKind :=
  match op with
  | 0x0501 => .start (startOf p)
  | 0x0502 => .release (whoOf (f16 p 8)) (s32 p 12)
  | 0x0503 => .kill (whoOf (f16 p 8))
  | 0x0504 => .param (paramWho p) (f8 p 12) (s32 p 16) none
  | 0x0505 => .param (paramWho p) (f8 p 12) (s32 p 16) (some (f64 p 20))
  | _ => ctrlOf p

/-- An event of an opcode with a template (R386, R411): what it does, where it passes its checks, else the status of the first that
fails. -/
def State.checkMade (s : State) (h : Fin 8) (t op : Nat) (template : List Byte) : Except Nat EvKind :=
  let p := leBytes 8 t ++ template
  if s.hallFenced h then .error 0x20 else
  match templateLen op with
  | none => .error 0x10
  | some n =>
    if template.length ≠ n then .error 0x11 else
    match firstFail (s.evChecks h op p) with
    | some st => .error st
    | none => .ok (evKindOf op p)

/-- Such an event goes to SCHED at once: the status. -/
def State.make (s : State) (h : Fin 8) (src tag org a t op : Nat) (template : List Byte) : State × Nat :=
  match s.checkMade h t op template with
  | .error st => (s, st)
  | .ok k => s.deliver h src tag org a t k

end Sys2Proof.Machine
end

