-- ==== Sys2Proof/Machine/SerRows.lean ====
section
/-! DEFINITION. The rows of the serial receivers and of the MIDI and DMX roles (spec/14_serial_show_ports.md R390–R406). -/

namespace Sys2Proof.Machine

/-! ### Receivers -/

/-- The receiver of a port runs: its domain is on, its bank has its supply. -/
def State.serOn (s : State) : Bool := s.pwr.on pdSerial && s.bankOn .ser

/-- SPn_DE now; none where the bank has no supply (R491, R496). -/
def State.serDe (s : State) (n : Fin 4) : Option Bool :=
  if s.bankOn .ser then some (s.pwr.on pdSerial && (s.ser.get n).deAt (s.line64 false)) else none

/-- A receiver that takes characters. -/
def Ser.takes (p : Ser) : Bool := (p.rx == .hunting || p.rx == .receiving) && !p.waitHigh

/-- An entry passes to the holding register (R393); one unread there is replaced. DEDUCED (assumption log 85). -/
def Ser.store (p : Ser) (c : RxChar) : Ser :=
  let ovf := p.hold.isSome
  { p with hold := some { c with ovr := ovf }, ovrCnt := satInc p.ovrCnt (if ovf then 1 else 0),
           feCnt := satInc p.feCnt (if c.fe then 1 else 0), peCnt := satInc p.peCnt (if c.pe then 1 else 0),
           brkCnt := satInc p.brkCnt (if c.brk then 1 else 0), gap := false, feRun := if c.fe then p.feRun + 1 else 0 }

/-- The error bits of a stored entry. -/
def storeMask (p : Ser) (c : RxChar) : Nat := at_ c.fe 0 + at_ c.pe 1 + at_ p.hold.isSome 2 + at_ c.brk 3

/-- A port stores an entry: its errors, its receive source (R415). -/
def State.serStore (s : State) (n : Fin 4) (c : RxChar) : State :=
  let mask := storeMask (s.ser.get n) c
  ((s.updSer n fun p => p.store c).serErr n mask).raise (161 + 2 * n.val)

/-- The edges of 0x55: nine of them, one bit period apart. DESIGN CHOICE (assumption log 110). -/
def edges55 (es : List Nat) : Bool :=
  let t := es.getLastD 0
  decide (es.length = 9) && es.zipIdx.all fun x => decide (2 * (x.2 + 1) * t ≤ 18 * x.1 + t) && decide (18 * x.1 ≤ 2 * (x.2 + 1) * t + t)

/-- The divisor that auto-baud measures (R396), none where the character is ignored. -/
def Ser.measure (p : Ser) (fe882 : Bool) (ch : SerChar) : Option Nat :=
  let num := 72 * refHz fe882
  let t := ch.edges.getLastD 0
  let near (r : Nat) : Bool := decide (9 * r * t ≤ 10 * num) && decide (10 * num ≤ 11 * r * t)
  if edges55 ch.edges = false ∨ t = 0 ∨ num < 300 * t ∨ 3000000 * t < num then none
  else if p.role = 3 then
    if near 1000000 then some (divOf fe882 1000000) else if near 3000000 then some (divOf fe882 3000000) else none
  else some (rdiv ((16 * t : Nat) : Int) 9).toNat

/-- Data and parity bits of the configured character. -/
def Ser.dataLen (p : Ser) : Nat := 8 + (if bits p.cfg 5 4 = 0 then 0 else 1)

/-- The character that a receiver makes of its samples (R391–R393), stamped `ts`; `now` is the instant in the line's unit. -/
def Ser.charOf (p : Ser) (ts now : Nat) (m : Sampler) (fin : CharEnd) : RxChar :=
  { data := dataBits m.got, fe := fin != .stopHigh, pe := parityBad (bits p.cfg 5 4) m.got, ovr := false, brk := false, ts := ts,
    idle := p.idleBefore m.count now }

/-- Where the receiver and the line stand after a character (R392). -/
def Ser.afterChar (p : Ser) (now : Nat) (m : Sampler) : CharEnd → Ser
  | .stopHigh => { p with rx := .hunting, line := true, high := some (now - (m.high - 1) * p.div / 16) }
  | .earlyEdge => { p with rx := .receiving, line := false, high := none }
  | .stopLow => { p with rx := .receiving, line := false, high := none, waitHigh := true }

/-- The stamp of an instant: ET in 1/512 es, and the half of its REFCLK period (R45). -/
def State.stamp (s : State) (half : Bool) : Nat := s.time.et + (if half then 1 else 0)

/-- A character that auto-baud has measured: the first preamble byte of a TSB port, consumed by the console. -/
def autoChar (ts : Nat) : RxChar := { data := 0x55#8, fe := false, pe := false, ovr := false, brk := false, idle := true, ts := ts }

/-- A character arrives while auto-baud waits (R396). -/
def State.autobaud (s : State) (n : Fin 4) (ch : SerChar) : State :=
  let p := s.ser.get n
  match p.measure s.nv.cfg.fe882 ch with
  | none => s
  | some d =>
    let s := s.updSer n fun p => { p with baud := setBits p.baud 23 0 d, locked := true, rx := .hunting, line := true, feRun := 0,
                                          high := some (s.line64 ch.half) }
    if p.role = 3 then s.serStore n (autoChar (s.stamp ch.half)) else s.raise (161 + 2 * n.val)

/-- XON and XOFF as the console role handles them in hardware (R397). -/
def Ser.flow (p : Ser) (c : RxChar) : Option Ser :=
  if p.role ≠ 4 ∨ c.tagged = true then none
  else if c.data = 0x13#8 then some { p with xoffRx := true, feRun := 0 }
  else if c.data = 0x11#8 then
    some (if p.txHeld = [] then { p with xoffRx := false, feRun := 0 }
          else { p with xoffRx := false, feRun := 0, sent := p.txHeld, txHeld := [] })
  else none

/-- A completed character is stored, and four framing errors in a row arm auto-baud again (R393, R396). -/
def State.serKeep (s : State) (n : Fin 4) (c : RxChar) : State :=
  (s.serStore n c).updSer n fun p => if p.feRun ≥ 4 then p.rearm else p

/-- A character completes while a receiver takes characters. One whose samples are all low may be the beginning of a break: it is
stored when the line goes high before that (R392, R394). DEDUCED (assumption log 85). -/
def State.serChar (s : State) (n : Fin 4) (m : Sampler) (fin : CharEnd) (half : Bool) : State :=
  let p := s.ser.get n
  let now := s.line64 half
  let c := p.charOf (s.stamp half) now m fin
  match p.flow c with
  | some q => (s.updSer n fun _ => ({ q with sent := if s.serDrives n then q.sent else p.sent } : Ser).afterChar now m fin).raise (161 + 2 * n.val)
  | none =>
    let s := s.updSer n fun p => p.afterChar now m fin
    if m.low then s.updSer n fun p => { p with pend := some c } else s.serKeep n c

/-- Traffic that a fenced receiver does not take: it stores nothing (R395), and where the line has come to stand stays known, for the port
that may transmit once the fence is lifted (R413). -/
def Ser.overhears (p : Ser) : Bool := p.rx == .fenced && !p.waitHigh

/-- SERIAL_CHARACTER. -/
def execSerialCharacter (n : Fin 4) (ch : SerChar) (s : State) : Out' :=
  let p := s.ser.get n
  let m := sampled p.dataLen ch.samples
  .next (s.when s.serOn fun s =>
    if p.rx = .autobaud then s.autobaud n ch
    else if p.takes then (match m.fin with | some fin => s.serChar n m fin ch.half | none => s)
    else if p.overhears then
      (match m.fin with | some fin => s.updSer n fun p => { p.afterChar (s.line64 ch.half) m fin with rx := .fenced } | none => s)
    else s)

/-- A receiver that a break can come to: one that takes characters, or whose last one was all low. -/
def Ser.breakable (p : Ser) : Bool := p.takes || p.pend.isSome

/-- SERIAL_BREAK: SPn_RX has been low for 2 character times (R394). DEDUCED (assumption log 85). -/
def execSerialBreak (e : LineBreak) (s : State) : Out' :=
  let n := e.port
  let p := s.ser.get n
  let idle := match p.pend with
    | some c => c.idle
    | none => p.idleBefore (32 * p.charBits) (s.line64 e.half)
  .next (s.when (s.serOn && (p.breakable || p.overhears)) fun s =>
    if p.rx = .fenced then s.updSer n fun p => { p with line := false, waitHigh := true, high := none } else
    (s.serStore n { data := 0#8, fe := false, pe := false, ovr := false, brk := true, idle := idle, ts := s.stamp e.half }).updSer n fun p =>
      { p with rx := .brk, line := false, waitHigh := true, pend := none, high := none })

/-- FALSE_START (R391). -/
def execFalseStart (n : Fin 4) (s : State) : Out' :=
  .next (s.when (s.serOn && ((s.ser.get n).takes || (s.ser.get n).overhears)) fun s => s.updSer n fun p =>
    { p with rx := if p.rx = .fenced then .fenced else .hunting, line := true, high := some (s.line64 false), gap := p.idleBefore 8 (s.line64 false) })

/-- The line of a receiver that waits for it is high: it hunts again. -/
def Ser.lineHigh (p : Ser) (now : Nat) : Ser :=
  let rx := match p.rx with
    | .brk => p.freshRx
    | .receiving => p.freshRx
    | r => r
  { p with rx := rx, line := true, waitHigh := false, pend := none, high := some now }

/-- BREAK_LINE_HIGH (R392, R394): also by a bank that has lost its supply, whose inputs read high (R496). -/
def execBreakLineHigh (n : Fin 4) (s : State) : Out' :=
  .next (s.when (s.pwr.on pdSerial && (s.ser.get n).waitHigh) fun s =>
    let c := (s.ser.get n).pend
    let s := s.updSer n fun p => p.lineHigh (s.line64 false)
    match c with
    | some c => s.serKeep n c
    | none => s)

/-- A receiver that can be fenced for a line stuck low. -/
def Ser.canStick (p : Ser) : Bool :=
  match p.rx with
  | .none => false
  | .fenced => false
  | .asleep => false
  | .hunting => true
  | .receiving => true
  | .brk => true
  | .autobaud => true

/-- A serial receiver is fenced (R395, R475). -/
def State.fenceSer (s : State) (n : Fin 4) (cause : Nat) : State :=
  let halls := match s.serHall n with | some h => 2 ^ h.val | none => 0
  let s := (s.updSer n fun p => { p.silence (s.line64 false) with rx := .fenced, fenceCnt := satInc p.fenceCnt 1 }).serErr n 16
  (s.log 0x0602 none [byte n.val, 0#8]).fenceAdd 5 cause n.val halls

/-- SERIAL_STUCK: SPn_RX has been low for longer than SERn_STUCK.ms. -/
def execSerialStuck (n : Fin 4) (s : State) : Out' :=
  .next (s.when (s.serOn && (s.ser.get n).canStick) fun s =>
    (s.updSer n fun p => { p with line := false, waitHigh := true, pend := none, high := none }).fenceSer n 10)

/-- SERIAL_AUTO_LIFT: the line of a fenced receiver has been high for 10 character times, as one without supply reads (R496). -/
def execSerialAutoLift (n : Fin 4) (s : State) : Out' :=
  .next (s.when (s.pwr.on pdSerial && (s.ser.get n).rx == .fenced && bit (s.ser.get n).ctrl 31) fun s =>
    (s.updSer n fun p =>
      let since := s.line64 false - 10 * p.charBits * p.div
      { p with line := true, waitHigh := false, gap := true, high := some (min since (p.high.getD since)) }).liftSer n)

/-- SERIAL_SLEEP: 1 s without a start edge, under the automatic power policy, in a role that tolerates it (R398).
DEDUCED (assumption log 85). -/
def execSerialSleep (n : Fin 4) (s : State) : Out' :=
  .next (s.when (s.serOn && bit s.pwr.policy 31 && bit (s.ser.get n).ctrl 30 && roleSleeps (s.ser.get n).role &&
      ((s.ser.get n).rx == .hunting || (s.ser.get n).rx == .autobaud)) fun s => s.updSer n fun p => { p with rx := .asleep })

/-- SERIAL_WAKE: a falling edge on SPn_RX. The character that it begins is lost, and those more whose start edges precede readiness;
a line that is low at readiness has to go high first (R398). DEDUCED (assumption log 85). -/
def execSerialWake (e : LineWake) (s : State) : Out' :=
  let n := e.port
  .next (s.when (s.serOn && (s.ser.get n).rx == .asleep) fun s =>
    (s.updSer n fun p => { p with rx := p.freshRx, wakeLost := satInc p.wakeLost (1 + e.more), waitHigh := e.low, line := !e.low, gap := true,
                                  high := if e.low then none else some (s.line64 false) }).serErr n 32)

/-! ### MIDI (R401, R402) -/

/-- CP1 runs: its firmware works and no debugger holds it. -/
def State.cp1Runs (s : State) : Bool := s.mgmt.fwOk && !s.mgmt.stopped && !s.time.dbg.get 1

/-- A message, request or event of a port is dropped (R400). -/
def State.serDrop (s : State) (n : Fin 4) : State := (s.updSer n fun p => { p with dropCnt := satInc p.dropCnt 1 }).serErr n 64

/-- The start of a note (R401). -/
def noteOn (ch key vel : Nat) (idx : Nat) : StartSpec :=
  { key := 128 * ch + key, handle := handleByIndex idx, prio := none, notify := false,
    attrs := [c7 vel, ((key : Int) - 69) * 1024, 0, 0, (ch : Int), 0, 0, 0] }

/-- What a MIDI message makes of the parser's state, and its event. DEDUCED (assumption log 87). -/
def Midi.event (m : Midi) (x : MidiMsg) : Midi × Option EvKind :=
  let ch := x.status % 16
  let whole := Who.range (128 * ch) (128 * ch + 127)
  let key := Who.key (128 * ch + x.d1)
  match x.status / 16 with
  | 8 => (m, some (.release key (c7 x.d2)))
  | 9 => (m, some (if x.d2 = 0 then .release key (c7 64) else .start (noteOn ch x.d1 x.d2 (Sparse.get 0 m.prog ch))))
  | 10 => (m, some (.param key 0xFE (c7 x.d2) none))
  | 11 =>
    if 1 ≤ x.d1 ∧ x.d1 ≤ 31 then ({ m with msb := Sparse.put 0 m.msb x.d1 x.d2 }, some (.ctl x.d1 (c7 x.d2) none))
    else if 33 ≤ x.d1 ∧ x.d1 ≤ 63 then
      (m, some (.ctl (x.d1 - 32) (c14 ((Sparse.get 0 m.msb (x.d1 - 32) * 128) ||| x.d2)) none))
    else if x.d1 = 120 then (m, some (.kill whole))
    else if x.d1 = 123 then (m, some (.release whole 0))
    else (m, none)
  | 12 => ({ m with prog := Sparse.put 0 m.prog ch x.d1 }, none)
  | 13 => (m, some (.param whole 0xFE (c7 x.d1) none))
  | 14 => (m, some (.ctl 0 (((x.d1 + 128 * x.d2 : Nat) - 8192 : Int) * 1024) none))
  | _ => (m, none)

/-- A start by MIDI whose program can never be placed fails (R201); what its index holds is looked up when the start takes effect
(R402). -/
def State.midiOk (s : State) (h : Fin 8) : EvKind → Bool
  | .start x => (match (s.halls.get h).startProg? x.handle with | some e => !s.tooDear h e.prog | none => true)
  | _ => true

/-- A message of a port becomes an event of the hall bound to its role. DEDUCED (assumption log 87). -/
def State.midiMake (s : State) (n : Fin 4) (ts : Nat) (kind : EvKind) : State :=
  match s.serHall n with
  | none => s.serDrop n
  | some h =>
    if s.midiOk h kind = false then s.serDrop n else
    let tag := (s.ser.get n).mapped % 65536
    let r := s.deliver h 2 tag n.val ts (ts + s.lead) kind
    if r.2 > 1 then s.serDrop n
    else r.1.updSer n fun p => { p with mapped := p.mapped + 1, msgCnt := satInc p.msgCnt 1 }

/-- Valid traffic for the hall of a port's role (R212, R400). -/
def State.serTraffic (s : State) (n : Fin 4) : State := match s.serHall n with | some h => s.traffic h | none => s

/-- MIDI_MESSAGE: the oldest message complete. -/
def execMidiMessage (n : Fin 4) (s : State) : Out' :=
  .next (match (s.ser.get n).midi.ready with
    | [] => s
    | x :: xs => s.when (s.cp1Runs && (s.ser.get n).role == 1) fun s =>
      let r := (s.ser.get n).midi.event x
      let s := (s.updSer n fun p => { p with midi := { r.1 with ready := xs } }).serTraffic n
      match r.2 with
      | some k => s.midiMake n x.ts k
      | none => s)

/-! ### DMX (R403–R406) -/

/-- The slots after a dimmer packet: later slots keep their values. -/
def Dmx.take (d : Dmx) (ts : Nat) (data : List Byte) : Dmx :=
  { d with slots := Sparse.putList 0#8 d.slots 1 data, inLast := data.length, last := ts, loss := false }

/-- The control point at which a packet received at `ts` acts, whenever the packet is handled; what an engine has stored for that point
by then stays (R167, R174, R405). DESIGN CHOICE (assumption log 132). -/
def State.dmxPoint (s : State) (ts : Nat) : Nat := s.start (s.frameOf ts + 1)

/-- A controller is ramped to a patched value (R170, R174, R405): before the HALL_CTRLs of its control point. -/
def State.dmxRamp (s : State) (t : Nat) (p : Patch) (v : Int) : State :=
  let dur := (rdiv ((p.smooth * feHz s.fe882 * 512 : Nat) : Int) 1000).toNat
  let e : LineEv := { src := .dmx, key := cpKey t 0, t := t, ramp := true, v := v, dur := dur }
  (s.updHall (hallIx p.hall) fun h => { h with ctl := h.ctl.upd (Fin.ofNat 32 p.ctl) fun c => (c.1, lineInsert e c.2) }).guar 5

/-- A patched value that a packet has changed is applied; one of a fenced hall, or of none, is dropped.
DEDUCED (assumption log 41). -/
def State.dmxApply (s : State) (n : Fin 4) (old new : Dmx) (t : Nat) (p : Patch) : State :=
  if old.value p = new.value p then s
  else if (s.hall p.hall).alive = false ∨ s.hallFenced (hallIx p.hall) = true then s.serDrop n
  else s.dmxRamp t p (new.value p)

/-- DMX_PACKET: the oldest dimmer packet complete. -/
def execDmxPacket (n : Fin 4) (s : State) : Out' :=
  .next (match (s.ser.get n).dmx.ready with
    | [] => s
    | x :: xs => s.when (s.cp1Runs && (s.ser.get n).role == 2) fun s =>
      let old := (s.ser.get n).dmx
      let new := { old.take x.1 x.2 with ready := xs }
      let changed := old.patch.any fun p => old.value p != new.value p
      let s := (s.updSer n fun p => { p with dmx := new, pktCnt := satInc p.pktCnt 1,
                                             mapped := p.mapped + (if changed then 1 else 0),
                                             msgCnt := satInc p.msgCnt (if changed then 1 else 0) }).serTraffic n
      old.patch.foldl (fun s p => s.dmxApply n old new (s.dmxPoint x.1) p) s)

/-- DMX_LOSS: no dimmer packet for 1.25 s. -/
def execDmxLoss (n : Fin 4) (s : State) : Out' :=
  let p := s.ser.get n
  .next (s.when (s.time.running && p.role == 2 && !p.dmx.loss && decide (s.time.et ≥ p.dmx.last + 640 * feHz s.fe882)) fun s =>
    ((s.updSer n fun p => { p with dmx := { p.dmx with loss := true } }).serErr n 128).log 0x0603
      ((s.serHall n).map (·.val)) [byte n.val])

end Sys2Proof.Machine
end

