-- ==== Sys2Proof/Machine/ShowBus.lean ====
section
/-! DEFINITION. The RDM responder and the Trambivan Show Bus (spec/14_serial_show_ports.md R407–R413). PRESUMED: the byte layout of
RDM packets, its command classes and NACK reason codes are those of ANSI E1.20, to which the manual refers. -/

namespace Sys2Proof.Machine

/-! ### RDM (R407–R409) -/

/-- `n` bytes of a number, the most significant first. -/
def bigEnd (n v : Nat) : List Byte := (leBytes n v).reverse

/-- The responder's UID (R407). -/
def State.rdmUid (s : State) (n : Fin 4) : Nat := 0x5A71 * 2 ^ 32 + (s.nv.uid % 2 ^ 30) * 4 + n.val

/-- The 16-bit sum of the bytes of a packet. -/
def rdmSum (bs : List Byte) : Nat := (bs.foldl (fun a b => a + b.toNat) 0) % 65536

/-- A request with its fields: who sent it, transaction number, command class, parameter, data; whether it was broadcast. -/
structure RdmReq where
  src   : Nat
  tn    : Nat
  cc    : Nat
  pid   : Nat
  data  : List Byte
  bcast : Bool
  deriving DecidableEq, Repr

/-- The length or the checksum of a packet fails. -/
def rdmBad (bs : List Byte) : Bool :=
  let len := f8 bs 2
  decide (len < 24) || bs.length != len + 2 || f8 bs 23 + 24 != len || rdmSum (bs.take len) != beNat (bs.drop len)

/-- The request of a packet that is processed (R407). PRESUMED (assumption log 26). -/
def State.rdmReq (s : State) (n : Fin 4) (bs : List Byte) : Option RdmReq :=
  let dst := beNat ((bs.drop 3).take 6)
  let bcast := dst == 2 ^ 48 - 1 || dst == 0x5A71 * 2 ^ 32 + (2 ^ 32 - 1)
  if f8 bs 0 = 0xCC ∧ f8 bs 1 = 1 ∧ (bcast = true ∨ dst = s.rdmUid n) then
    some { src := beNat ((bs.drop 9).take 6), tn := f8 bs 15, cc := f8 bs 20, pid := beNat ((bs.drop 21).take 2),
           data := (bs.drop 24).take (f8 bs 23), bcast := bcast }
  else none

/-- What a request comes to: no answer, an ACK with data, a NACK with its reason, the answer of discovery. -/
inductive RdmAns where
  | silent
  | ack (data : List Byte)
  | nack (reason : Nat)
  | found
  deriving DecidableEq, Repr

/-- The decimal digits of a number. -/
def decimal (n : Nat) : List Byte := ascii (toString n)

/-- DEVICE_INFO's data. -/
def State.rdmInfo (s : State) (d : Dmx) : List Byte :=
  bigEnd 2 0x0100 ++ bigEnd 2 0x2048 ++ bigEnd 2 0x0901 ++ bigEnd 4 s.sys.fwVer.toNat ++ bigEnd 2 d.foot ++ [1#8, 1#8] ++
    bigEnd 2 d.start ++ bigEnd 2 0 ++ [0#8]

/-- SOFTWARE_VERSION_LABEL's text. -/
def State.rdmLabel (s : State) : List Byte :=
  ascii "TB-2048 fw " ++ decimal (bits s.sys.fwVer 31 24) ++ ascii "." ++ decimal (bits s.sys.fwVer 23 16)

/-- A request is carried out (R408): the role's data after it, and the answer to a unicast one. PRESUMED (assumption log 26). -/
def State.rdmDo (s : State) (n : Fin 4) (d : Dmx) (r : RdmReq) : Dmx × RdmAns :=
  let known := [0x0001, 0x0002, 0x0003, 0x0050, 0x0060, 0x0082, 0x00C0, 0x00F0, 0x1000].contains r.pid
  let v16 := beNat (r.data.take 2)
  match r.cc, r.pid with
  | 0x10, 0x0001 =>
    let lo := beNat (r.data.take 6)
    let hi := beNat ((r.data.drop 6).take 6)
    let uid := s.rdmUid n
    (d, if r.data.length = 12 ∧ d.muted = false ∧ lo ≤ uid ∧ uid ≤ hi then .found else .silent)
  | 0x10, 0x0002 => ({ d with muted := true }, .ack [0#8, 0#8])
  | 0x10, 0x0003 => ({ d with muted := false }, .ack [0#8, 0#8])
  | 0x20, 0x0050 => (d, .ack (bigEnd 2 0x0082 ++ bigEnd 2 0x00C0))
  | 0x20, 0x0060 => (d, .ack (s.rdmInfo d))
  | 0x20, 0x0082 => (d, .ack d.label)
  | 0x20, 0x00C0 => (d, .ack s.rdmLabel)
  | 0x20, 0x00F0 => (d, .ack (bigEnd 2 d.start))
  | 0x30, 0x00F0 =>
    if r.data.length = 2 ∧ 1 ≤ v16 ∧ v16 ≤ 512 ∧ v16 + d.foot ≤ 513 ∧ slotsFit v16 d.patch = true
    then ({ d with start := v16 }, .ack []) else (d, .nack 6)
  | 0x20, 0x1000 => (d, .ack [if d.ident then 1#8 else 0#8])
  | 0x30, 0x1000 =>
    if r.data = [0#8] ∨ r.data = [1#8] then ({ d with ident := r.data == [1#8] }, .ack []) else (d, .nack 6)
  | _, _ => (d, .nack (if known then 5 else 0))

/-- The response packet of a request. PRESUMED (assumption log 26). -/
def State.rdmPacket (s : State) (n : Fin 4) (r : RdmReq) (kind : Nat) (data : List Byte) : List Byte :=
  let body := [0xCC#8, 1#8, byte (24 + data.length)] ++ bigEnd 6 r.src ++ bigEnd 6 (s.rdmUid n) ++
    [byte r.tn, byte kind, 0#8, 0#8, 0#8, byte (r.cc + 1)] ++ bigEnd 2 r.pid ++ [byte data.length] ++ data
  body ++ bigEnd 2 (rdmSum body)

/-- The answer of DISC_UNIQUE_BRANCH: 7 bytes 0xFE, 0xAA, the encoded UID and its checksum. PRESUMED (assumption log 26). -/
def State.rdmFound (s : State) (n : Fin 4) : List Byte :=
  let enc (bs : List Byte) : List Byte := bs.flatMap fun b => [b ||| 0xAA#8, b ||| 0x55#8]
  let u := enc (bigEnd 6 (s.rdmUid n))
  List.replicate 7 0xFE#8 ++ [0xAA#8] ++ u ++ enc (bigEnd 2 (rdmSum u))

/-- The bytes that answer a request; a broadcast is answered by discovery alone. -/
def State.rdmAnswer (s : State) (n : Fin 4) (r : RdmReq) : RdmAns → Option (List Byte)
  | .found => some (s.rdmFound n)
  | .silent => none
  | .ack data => if r.bcast then none else some (s.rdmPacket n r 0 data)
  | .nack reason => if r.bcast then none else some (s.rdmPacket n r 2 (bigEnd 2 reason))

/-- Microseconds on the serial lines. -/
def State.us64 (s : State) (us : Nat) : Nat := 128 * s.edgesUs us

/-- A response is sent: between 200 µs and 400 µs after its request, SPn_DE from 4 µs before its break, or its first character where
it is that of discovery, to 4 µs after its last stop bit (R408). The spec gives neither the delay nor the break's length.
DESIGN CHOICE (assumption log 111). -/
def State.rdmSend (s : State) (n : Fin 4) (bs : List Byte) (found : Bool) : State :=
  let at_ := s.line64 false + s.us64 (200 + Config.rdmDelay s.fresh % 201)
  let first := if found then 0 else s.us64 (Config.rdmBreak s.fresh)
  { s.updSer n fun p => { p with sent := bs, txFrom := at_ - s.us64 4, txTo := at_ + first + bs.length * p.charBits * p.div + s.us64 4 }
    with fresh := s.fresh + 1 }

/-- A request is processed. -/
def State.rdmServe (s : State) (n : Fin 4) (r : RdmReq) : State :=
  let d := (s.ser.get n).dmx
  let (d', a) := s.rdmDo n d r
  let s := s.updSer n fun p => { p with dmx := d' }
  let s := if r.cc = 0x30 ∧ r.pid = 0x1000 ∧ a = .ack [] then s.log 0x0605 none [byte n.val, if d'.ident then 1#8 else 0#8] else s
  match s.rdmAnswer n r a with
  | some bs => if (s.ser.get n).rx = .fenced ∨ s.bankOn .ser = false then s else s.rdmSend n bs (a == .found)
  | none => s

/-- RDM_REQUEST: the oldest RDM packet received. -/
def execRdmRequest (n : Fin 4) (s : State) : Out' :=
  .next (match (s.ser.get n).dmx.rdm with
    | [] => s
    | x :: xs => s.when (s.cp1Runs && (s.ser.get n).role == 2) fun s =>
      let s := s.updSer n fun p => { p with dmx := { p.dmx with rdm := xs } }
      if rdmBad x.2 then s.serDrop n
      else match s.rdmReq n x.2 with
        | some r => s.rdmServe n r
        | none => s)

/-! ### The show bus (R410–R413) -/

/-- Whether the port transmits: it has a rate, and its receiver runs (R412, R489). -/
def Ser.mayTalk (p : Ser) : Bool := p.role == 3 && p.locked && p.rx != .fenced

/-- For how long the line has been idle, its own transmission over; 0 while it is low (R413). -/
def Ser.quiet (p : Ser) (now : Nat) : Nat := match p.high with | some h => now - max h p.txTo | none => 0

/-- The first frame of the queue starts where the line has been idle for 2 character times and for the back-off; one whose
transmission is over has gone without collision (R413). DESIGN CHOICE (assumption log 86). -/
def Ser.tsbGo (p : Ser) (now : Nat) : Ser :=
  let t := if p.tsb.going = true ∧ p.txTo ≤ now then { p.tsb with tx := p.tsb.tx.tail, going := false, coll := 0 } else p.tsb
  match t.tx with
  | f :: _ =>
    if t.going = false ∧ 2 * p.charBits * p.div * (1 + t.back.getD 0) ≤ p.quiet now then
      { p with tsb := { t with going := true, back := none }, sent := f, txFrom := now, txTo := now + (f.length * p.charBits + 1) * p.div }
    else { p with tsb := t }
  | [] => { p with tsb := t }

/-- A frame is to be sent: behind those that wait. -/
def State.tsbSend (s : State) (n : Fin 4) (f : List Byte) : State :=
  if (s.ser.get n).mayTalk = true ∧ s.bankOn .ser = true then
    s.updSer n fun p => ({ p with tsb := { p.tsb with tx := p.tsb.tx ++ [f] } } : Ser).tsbGo (s.line64 false)
  else s

/-- The version for a frame to an address (R412). -/
def Tsb.verFor (t : Tsb) (addr ver : Nat) : Nat :=
  match t.peers.find? fun p => p.addr == addr with
  | some p => min 2 p.ver
  | none => ver

/-- A BEACON is received (R412). -/
def State.tsbHear (s : State) (n : Fin 4) (src : Nat) (pl : List Byte) : State :=
  let t := (s.ser.get n).tsb
  let uid := f64 pl 4
  let clash := src == (s.ser.get n).addr
  let old := t.peers.find? fun p => p.uid == uid
  let told := match old with | some p => p.told | none => false
  let me : Peer := { uid := uid, addr := src, ver := f8 pl 0, seen := s.time.rclk, told := told || clash }
  let peers := match old with
    | some _ => t.peers.map fun p => if p.uid = uid then me else p
    | none => if t.peers.length < 32 then t.peers ++ [me] else t.peers
  let s := s.updSer n fun p => { p with tsb := { p.tsb with peers := peers } }
  if clash = false then s else
  let s := s.serErr n 512
  if told then s else s.log 0x0604 none ([byte n.val, byte src] ++ leBytes 8 uid)

/-- The checks of an EVENT, and its event: the status (R411). -/
def State.tsbEvent (s : State) (n : Fin 4) (ts : Nat) (pl : List Byte) : State × Nat :=
  match s.serHall n with
  | none => (s, 0x21)
  | some h =>
    let s := s.traffic h
    if s.hallFenced h then (s, 0x20)
    else if pl.length < 12 then (s, 0x11)
    else if f8 pl 4 ≥ 2 ∨ zero pl 5 3 = false ∨ f32 pl 8 ≥ 2 ^ 31 then (s, 0x22)
    else s.make h 2 (f16 pl 0) n.val ts (ts + s.lead + f32 pl 8) (f16 pl 2) (pl.drop 12)

/-- An EVENT is received. -/
def State.tsbTake (s : State) (n : Fin 4) (ts ver src dst : Nat) (pl : List Byte) : State :=
  let (s, st) := s.tsbEvent n ts pl
  let s := if st > 1 then s.serDrop n
    else s.updSer n fun p => { p with mapped := p.mapped + 1, msgCnt := satInc p.msgCnt 1 }
  if dst = (s.ser.get n).addr ∧ f8 pl 4 % 2 = 1 then
    let t := (s.ser.get n).tsb
    s.tsbSend n (tsbFrame (t.verFor src ver) (s.ser.get n).addr src 3 (leBytes 2 (f16 pl 0) ++ [byte st]))
  else s

/-- TSB_FRAME: the oldest frame with a valid CRC. -/
def execTsbFrame (n : Fin 4) (s : State) : Out' :=
  .next (match (s.ser.get n).tsb.ready with
    | [] => s
    | x :: xs => s.when (s.cp1Runs && (s.ser.get n).role == 3) fun s =>
      let s := s.updSer n fun p => { p with tsb := { p.tsb with ready := xs } }
      let bs := x.2
      let ver := f8 bs 0
      let pl := (bs.drop (if ver = 1 then 5 else 6)).dropLast.dropLast
      let dst := f8 bs 2
      if dst ≠ (s.ser.get n).addr ∧ dst ≠ 255 then s
      else match f8 bs 3 with
        | 1 => if pl.length = 16 then s.tsbHear n (f8 bs 1) pl else s
        | 2 => s.tsbTake n x.1 ver (f8 bs 1) dst pl
        | _ => s)

/-- TSB_BEACON (R412). DEDUCED (assumption log 88). -/
def execTsbBeacon (n : Fin 4) (s : State) : Out' :=
  let t := (s.ser.get n).tsb
  .next (s.when (s.cp1Runs && s.serOn && (s.ser.get n).mayTalk && decide (s.time.rclk ≥ t.nextBeacon)) fun s =>
    let pl := [2#8, 0#8] ++ leBytes 2 100 ++ leBytes 8 s.nv.uid ++ leBytes 4 t.seq
    let s := s.updSer n fun p =>
      { p with tsb := { p.tsb with seq := (t.seq + 1) % 2 ^ 32, nextBeacon := t.nextBeacon + s.edgesUs 100000 } }
    s.tsbSend n (tsbFrame 1 (s.ser.get n).addr 255 1 pl))

/-- TSB_PEER_TIMEOUT (R412). -/
def execTsbPeerTimeout (n : Fin 4) (s : State) : Out' :=
  .next (s.updSer n fun p =>
    { p with tsb := { p.tsb with peers := p.tsb.peers.filter fun x => decide (s.time.rclk < x.seen + s.edgesUs 350000) } })

/-- A frame collides (R413): the state, and whether the frame is dropped. -/
def Tsb.collide (t : Tsb) : Tsb × Bool :=
  if t.coll + 1 ≥ 16 then ({ t with coll := 0, going := false, tx := t.tx.tail, back := none }, true)
  else
    let g := drawState t.gen
    let r := (drawValue g % p2 (min (t.coll + 1) 10)).toNat
    ({ t with gen := g, coll := t.coll + 1, going := false, back := some r }, false)

/-- TSB_COLLISION: a character of the frame under way is read back wrong; SPn_DE is released after it. -/
def execTsbCollision (n : Fin 4) (s : State) : Out' :=
  let p := s.ser.get n
  .next (s.when (p.mayTalk && p.tsb.going && decide (s.line64 false < p.txTo)) fun s =>
    let r := p.tsb.collide
    let s := s.updSer n fun p => { p.release (s.line64 false) with
      tsb := r.1, collCnt := satInc p.collCnt 1, tsbDrop := satInc p.tsbDrop (if r.2 then 1 else 0) }
    if r.2 then s.serErr n 256 else s)

/-- TSB_BACKOFF_END: the line has been idle for 2 character times, and for the back-off; the frame is sent again, or the next.
DEDUCED (assumption log 88). -/
def execTsbBackoffEnd (n : Fin 4) (s : State) : Out' :=
  .next (s.when (s.cp1Runs && s.serOn && (s.ser.get n).mayTalk) fun s => s.updSer n fun p => p.tsbGo (s.line64 false))

end Sys2Proof.Machine
end

