-- ==== Sys2Proof/Machine/ConsoleRows.lean ====
section
/-! DEFINITION. The service console (spec/17_management_update_alcove.md R464–R467, spec/14_serial_show_ports.md R414). -/

namespace Sys2Proof.Machine

/-! ### Lines -/

/-- A line cut at its spaces. -/
def conWords (bs : List Byte) : List (List Byte) :=
  (bs.foldr (fun b (acc : List (List Byte)) =>
    if b = 0x20#8 then [] :: acc else
    match acc with
    | w :: ws => (b :: w) :: ws
    | [] => [[b]]) [[]]).filter (· ≠ [])

/-- The value of a digit. -/
def digitOf (b : Byte) : Option Nat :=
  let n := b.toNat
  if 0x30 ≤ n ∧ n ≤ 0x39 then some (n - 0x30)
  else if 0x41 ≤ n ∧ n ≤ 0x46 then some (n - 0x37)
  else if 0x61 ≤ n ∧ n ≤ 0x66 then some (n - 0x57) else none

/-- A number written in digits of a base. -/
def numOf (base : Nat) (bs : List Byte) : Option Nat :=
  if bs = [] then none else
  bs.foldl (fun (acc : Option Nat) b => acc.bind fun a => (digitOf b).bind fun d => if d < base then some (a * base + d) else none) (some 0)

/-- Bytes written as pairs of hexadecimal digits. -/
def hexOf : List Byte → Option (List Byte)
  | [] => some []
  | [_] => none
  | a :: b :: bs => (digitOf a).bind fun x => (digitOf b).bind fun y => (hexOf bs).map fun r => byte (16 * x + y) :: r

def hexDigit (n : Nat) : Byte := if n < 10 then byte (0x30 + n) else byte (0x37 + n)

/-- Bytes as pairs of hexadecimal digits. -/
def hexText (bs : List Byte) : List Byte := bs.flatMap fun b => [hexDigit (b.toNat / 16), hexDigit (b.toNat % 16)]

/-- The commands of the console. -/
inductive Con where
  | ver | stat | log | auth | resp | updBegin | updD | updCommit | rollback | lc | key
  deriving DecidableEq, Repr

/-- The command of a line, with its arguments; none for a line that is no command. DEDUCED (assumption log 89). -/
def conOf (line : List Byte) : Option (Con × List (List Byte)) :=
  match conWords line with
  | [] => none
  | w :: r =>
    if w = ascii "VER" then some (.ver, r)
    else if w = ascii "STAT" then some (.stat, r)
    else if w = ascii "LOG" then some (.log, r)
    else if w = ascii "AUTH" then some (.auth, r)
    else if w = ascii "RESP" then some (.resp, r)
    else if w = ascii "ROLLBACK" then some (.rollback, r)
    else if w = ascii "LC" then some (.lc, r)
    else if w = ascii "KEY" then some (.key, r)
    else if w = ascii "UPD" then
      (match r with
       | v :: q =>
         if v = ascii "BEGIN" then some (.updBegin, q)
         else if v = ascii "D" then some (.updD, q)
         else if v = ascii "COMMIT" then some (.updCommit, q) else none
       | [] => none)
    else none

/-- A command that RECOVERY lacks. -/
def Con.normalOnly (k : Con) : Bool := k == .lc || k == .key

/-- A command that needs a session. -/
def Con.session (k : Con) : Bool :=
  match k with
  | .ver => false | .stat => false | .log => false | .auth => false | .resp => false
  | .updBegin => true | .updD => true | .updCommit => true | .rollback => true | .lc => true | .key => true

/-- A command of the update path, which waits while the flash is at work (R466). -/
def Con.update (k : Con) : Bool := k == .updBegin || k == .updD || k == .updCommit || k == .rollback

/-! ### Answers -/

/-- The name of a status (The firmware 3.4 command set). -/
def statusName : Nat → String
  | 0x10 => "BAD_OPCODE" | 0x12 => "TOO_LONG" | 0x22 => "BAD_ARG" | 0x30 => "VERSION" | _ => "AUTH_FAIL"

/-- The last line of an answer. -/
def conLast (st : Nat) : List Byte := (if st = 0 then ascii "OK" else ascii "ERR " ++ ascii (statusName st)) ++ crlf

/-- A console line of port `n` is answered. -/
def State.conSay (s : State) (n : Fin 4) (text : List Byte) (st : Nat) : State := s.say n (text ++ conLast st)

/-- The console of a port runs: for CP1, or for the MP in RECOVERY. -/
def State.conRuns (s : State) (n : Fin 4) : Bool :=
  s.serOn && (s.ser.get n).role == 4 && (s.cp1Runs || (s.mgmt.recovery && n == 0))

/-- The front line is taken. -/
def State.conTake (s : State) (n : Fin 4) : State := s.updSer n fun p => { p with lines := p.lines.drop 1 }

/-- Lines at the front that are no commands are answered. -/
def State.conUnknown (s : State) (n : Fin 4) : State :=
  ((s.ser.get n).lines.takeWhile fun l => (conOf l).isNone).foldl (fun s _ => (s.conTake n).conSay n [] 0x10) s

/-- The front line is acted on where it is command `k`. DEDUCED (assumption log 89). -/
def State.conRow (s : State) (n : Fin 4) (k : Con) (f : List (List Byte) → List Byte → State → State) : State :=
  if s.conRuns n = false then s else
  let s := s.conUnknown n
  match (s.ser.get n).lines with
  | [] => s
  | line :: _ =>
    match conOf line with
    | none => s
    | some (c, args) =>
      if c ≠ k ∨ (k.update = true ∧ s.mgmt.flash.isSome = true) then s else
      let t := s.conTake n
      if k.normalOnly = true ∧ s.mgmt.recovery = true then t.conSay n [] 0x10
      else if k.session = true ∧ s.mgmt.session.map (·.1) ≠ some n then t.conSay n [] 0x31
      else f args line t

/-- A status, the state that goes with it, as an answer of its last line alone. DESIGN CHOICE (assumption log 22). -/
def State.conEnd (n : Fin 4) (r : State × Nat) : State := r.1.conSay n [] r.2

/-! ### Commands without a session -/

/-- What VER shows of a slot: version, rollback index, state (1 running, 2 on trial, 4 committed). -/
def State.slotFacts (s : State) (n : Fin 2) : List Nat :=
  let i := (s.nv.slots.get n).info
  [i.version, i.rollback, at_ (s.mgmt.slot == n && !s.mgmt.recovery) 0 + at_ (s.nv.trial == some n.val) 1 + at_ (s.nv.committed == n.val) 2]

def conVer (n : Fin 4) (args : List (List Byte)) (_ : List Byte) (s : State) : State :=
  if args ≠ [] then s.conSay n [] 0x22
  else s.conSay n (Config.consoleText 0 (s.slotFacts 0 ++ s.slotFacts 1 ++ [s.nv.fuses])) 0

def conStat (n : Fin 4) (args : List (List Byte)) (_ : List Byte) (s : State) : State :=
  if args ≠ [] then s.conSay n [] 0x22 else s.conSay n (Config.consoleText 1 (natsOf s.summary)) 0

def conLog (n : Fin 4) (args : List (List Byte)) (_ : List Byte) (s : State) : State :=
  match args.map (numOf 10) with
  | [some k] =>
    if k > 128 then s.conSay n [] 0x12
    else
      let es := s.mgmt.volLog.drop (s.mgmt.volLog.length - k)
      s.conSay n (Config.consoleText 2 (natsOf (es.flatMap LogEnt.bytes))) 0
  | _ => s.conSay n [] 0x22

/-- DESIGN CHOICE (assumption log 22). -/
def conAuth (n : Fin 4) (args : List (List Byte)) (_ : List Byte) (s : State) : State :=
  if args ≠ [] then s.conSay n [] 0x22 else
  let c := leBytes 8 (Config.challenge s.fresh).toNat
  (({ s with fresh := s.fresh + 1 }.updMgmt fun m => { m with chal := some (n, c) })).conSay n (hexText c ++ crlf) 0

/-- The public key that a session is opened under; none once the key store is erased. DEDUCED (assumption log 14). -/
def State.consoleKey (s : State) : Option (List Byte) :=
  if s.nv.life = .blank then some Config.factoryKey else if s.nv.serviceKey then some Config.serviceKey else none

/-- A signature of the last challenge of port `n` verifies. -/
def State.respOk (s : State) (n : Fin 4) (sig : List Byte) : Bool :=
  match s.mgmt.chal, s.consoleKey with
  | some (k, c), some key => k == n && edVerify (natsOf key) (natsOf c) (natsOf sig)
  | _, _ => false

/-- DEDUCED (assumption log 89). -/
def conResp (n : Fin 4) (args : List (List Byte)) (_ : List Byte) (s : State) : State :=
  match args.map hexOf with
  | [some sig] =>
    if sig.length ≠ 64 then s.conSay n [] 0x22
    else
      let t := s.updMgmt fun m => { m with chal := none }
      if s.respOk n sig then (t.openSession n).conSay n [] 0
      else t.conSay n [] 0x31
  | _ => s.conSay n [] 0x22

/-! ### The update -/

def conUpdBegin (n : Fin 4) (args : List (List Byte)) (_ : List Byte) (s : State) : State :=
  match args.map (numOf 10) with
  | [some len] =>
    if len > fwMax then s.conSay n [] 0x12
    else if len = 0 then s.conSay n [] 0
    else if s.mgmt.onTrial then s.conSay n [] 0x22
    else s.updOpen len (some n)
  | _ => s.conSay n [] 0x22

/-- The offset and the data of a line UPD D whose CRC holds: its last four characters, over all before them.
DEDUCED (assumption log 89). -/
def updDLine (line : List Byte) : Option (Nat × List Byte) :=
  let body := line.take (line.length - 4)
  match (conWords body).drop 2, numOf 16 (line.drop (line.length - 4)) with
  | [off, hex], some c => if crc16 body = c then (numOf 10 off).bind fun o => (hexOf hex).map fun d => (o, d) else none
  | _, _ => none

def conUpdD (n : Fin 4) (_ : List (List Byte)) (line : List Byte) (s : State) : State :=
  match updDLine line with
  | none => s.conSay n [] 0x22
  | some (off, data) =>
    if data.length > 64 then s.conSay n [] 0x12
    else match s.updRefuse off data.length with
      | some st => s.conSay n [] st
      | none => s.updProgram data (some n)

def conUpdCommit (n : Fin 4) (args : List (List Byte)) (_ : List Byte) (s : State) : State :=
  if args ≠ [] then s.conSay n [] 0x22 else State.conEnd n (s.updCommit true)

def conRollback (n : Fin 4) (args : List (List Byte)) (_ : List Byte) (s : State) : State :=
  if args ≠ [] then s.conSay n [] 0x22 else State.conEnd n s.updRollback

/-! ### Life cycle and keys -/

def conLc (n : Fin 4) (args : List (List Byte)) (_ : List Byte) (s : State) : State :=
  match args.map (numOf 10) with
  | [some cur, some tgt] => State.conEnd n (s.lifeChange true cur tgt)
  | _ => s.conSay n [] 0x22

/-- DEDUCED (assumption log 89). -/
def conKey (n : Fin 4) (args : List (List Byte)) (_ : List Byte) (s : State) : State :=
  match args with
  | [a, b] =>
    match numOf 10 a, hexOf b with
    | some k, some w =>
      if s.nv.life = .provisioned ∧ k < 8 ∧ w.length = 40 then
        (s.updRec sectorKeys fun v => { v with keys := v.keys.put (Fin.ofNat 8 k) (.wrapped w) }).conSay n [] 0
      else s.conSay n [] 0x22
    | _, _ => s.conSay n [] 0x22
  | _ => s.conSay n [] 0x22

/-! ### The rows -/

/-- VER. -/
def execConsoleVer (n : Fin 4) (s : State) : Out' := .next (s.conRow n .ver (conVer n))
/-- STAT. -/
def execConsoleStat (n : Fin 4) (s : State) : Out' := .next (s.conRow n .stat (conStat n))
/-- LOG n. -/
def execConsoleLog (n : Fin 4) (s : State) : Out' := .next (s.conRow n .log (conLog n))
/-- AUTH. -/
def execConsoleAuth (n : Fin 4) (s : State) : Out' := .next (s.conRow n .auth (conAuth n))
/-- RESP sig. -/
def execConsoleResp (n : Fin 4) (s : State) : Out' := .next (s.conRow n .resp (conResp n))
/-- UPD BEGIN len. -/
def execConsoleUpdBegin (n : Fin 4) (s : State) : Out' := .next (s.conRow n .updBegin (conUpdBegin n))
/-- UPD D off hex. -/
def execConsoleUpdD (n : Fin 4) (s : State) : Out' := .next (s.conRow n .updD (conUpdD n))
/-- UPD COMMIT. -/
def execConsoleUpdCommit (n : Fin 4) (s : State) : Out' := .next (s.conRow n .updCommit (conUpdCommit n))
/-- ROLLBACK. -/
def execConsoleRollback (n : Fin 4) (s : State) : Out' := .next (s.conRow n .rollback (conRollback n))
/-- LC cur tgt. -/
def execConsoleLc (n : Fin 4) (s : State) : Out' := .next (s.conRow n .lc (conLc n))
/-- KEY slot wrapped. -/
def execConsoleKey (n : Fin 4) (s : State) : Out' := .next (s.conRow n .key (conKey n))

/-- CONSOLE_SESSION_TIMEOUT: 10 min without input. -/
def execConsoleSessionTimeout (s : State) : Out' :=
  .next (match s.mgmt.session with
    | some (_, t) =>
      s.when (decide (t + s.edgesUs 600000000 ≤ s.time.rclk)) State.endSession
    | none => s)

end Sys2Proof.Machine
end

