-- ==== Sys2Proof/Machine/PowerRows.lean ====
section
/-! DEFINITION. Power domains at work, self-tests, parity errors of the Foyer and of SCHED (spec/18_power_reset_faults.md R472–R488,
spec/07_voice_allocation_and_capacity.md R217, R218). -/

namespace Sys2Proof.Machine

/-- Every hall whose command waits has it looked at. -/
def State.waits (s : State) (f : State → Fin 8 → WaitFor → State) : State :=
  (List.finRange 8).foldl (fun s h =>
    match (s.halls.get h).wait with
    | some w => f s h w.what
    | none => s) s

/-- What hangs on gallery `g` being unparked completes. -/
def State.unparked (s : State) (g : Fin 8) (st : Nat) : State :=
  s.waits fun s h w => match w with
    | .unpark k => if k = g then s.endWait h st [] else s
    | _ => s

/-- What hangs on gallery `g` being parked completes, and its source is raised (R217, R437).
DESIGN CHOICE (assumption log 38); DEDUCED (assumption log 97). -/
def State.parkDone (s : State) (g : Fin 8) : State :=
  (s.raise (34 + 8 * g.val)).waits fun s h w => match w with
    | .park k => if k = g then s.endWait h 0 [] else s
    | _ => s

/-! ### Wakes (R472–R475) -/

/-- The µs that the wake under way has taken. DEDUCED (assumption log 97). -/
def State.wakeUs (s : State) (x : Domain) : Nat := (s.time.rclk - x.since) * 1000000 / refHz s.ref882

/-- What waits for a domain goes on; a gallery that has woken raises its source (R437). -/
def State.awake (s : State) (d : Fin 16) : State :=
  if isGal d.val then
    let g := galOfDom d
    let s := (s.updGal g fun x => { x with parked := false, parkReq := false, idle := none }).raise (34 + 8 * g.val)
    (List.finRange 8).foldl State.mapAgain (s.unparked g 0)
  else if d = pdSpec then ((List.finRange 8).foldl State.specAwake s).specRest
  else if d = pdSerial then (List.finRange 8).foldl State.serAwake s
  else if d = pdAna then s.loadTrims
  else s

/-- DOMAIN_READY: the domain has reported ready. -/
def execDomainReady (d : Fin 16) (s : State) : Out' :=
  let x := s.pwr.dom.get d
  .next (s.when (x.st == .waking) fun s =>
    ((s.updDom d fun x => { x with st := .on, wake := s.wakeUs x }).raise 5).awake d)

/-- The commands that wait for PD_SPEC complete with HALTED (R475). DEDUCED (assumption log 98). -/
def State.specLost (s : State) : State :=
  s.specHalt.waits fun s h w => match w with
    | .conv k =>
      let k := Fin.ofNat 8 k
      let s := match (s.spec.ch.get k).build with | some b => s.wipePages b.pages | none => s
      (s.convGiveUp k).endWait h 0x1B []
    | .specPower p => (s.anRelease (Fin.ofNat 2 (f8 p 0))).endWait h 0x1B []
    | _ => s

/-- The commands that wait for PD_SERIAL complete with FENCED, every receiver fenced (R475). DEDUCED (assumption log 98). -/
def State.serLost (s : State) : State :=
  ((List.finRange 4).foldl (fun s n => if (s.ser.get n).rx = .fenced then s else s.fenceSer n 5) s).waits fun s h w => match w with
    | .serPower _ => s.endWait h 0x20 []
    | _ => s

/-- What a wake timeout brings about, by domain (R475). DEDUCED (assumption log 98). -/
def State.wakeLost (s : State) (d : Fin 16) : State :=
  if isGal d.val then
    let g := galOfDom d
    (List.finRange 8).foldl State.mapAgain ((s.fenceGallery g 5).unparked g 0x20)
  else if d = pdSpec then s.specLost
  else if d = pdSerial then s.serLost
  else s

/-- A domain is OFF, or RETAINED: its count, its source (R474, R476). DESIGN CHOICE (assumption log 49). -/
def State.domOff (s : State) (d : Fin 16) (st : DomSt) : State :=
  let s := if d = pdAna then { s with dac := { s.dac with ch := s.dac.ch.map DacCh.dark, vrefOk := false } } else s
  (s.updDom d fun x => { x with st := st, swCnt := satInc x.swCnt 1 }).raise 5

/-- WAKE_TIMEOUT: four times the maximum wake have passed. -/
def execWakeTimeout (d : Fin 16) (s : State) : Out' :=
  let x := s.pwr.dom.get d
  .next (s.when (x.st == .waking && decide (x.since + s.edgesUs (4 * wakeMax d x.fromRet) ≤ s.time.rclk)) fun s =>
    let s := (s.pwrErr 2).logAs .crit (Config.wakeLogCode % 65536) none [byte d.val]
    (s.domOff d .off).wakeLost d)

/-- WAKE_RETRY: the MP wakes PD_ANA again, 1 s after a wake that timed out (R475). DEDUCED (assumption log 98). -/
def execWakeRetry (s : State) : Out' :=
  let x := s.pwr.dom.get pdAna
  .next (s.when (x.st == .off && s.pwr.on pdCtrl && !s.nv.cfg.anaUnused && decide (x.since + s.edgesUs 1000000 ≤ s.time.rclk))
    fun s => s.switchOn pdAna)

/-- DOMAIN_SWITCHED_OFF: the isolated domain's supply is off; a gallery may be retained (R474). -/
def execDomainSwitchedOff (d : Fin 16) (s : State) : Out' :=
  let x := s.pwr.dom.get d
  .next (s.when (x.st == .goingOff) fun s =>
    if isGal d.val then (s.domOff d (if x.ret then .retained else .off)).parkDone (galOfDom d) else s.domOff d .off)

/-- A gallery that has carried no hall engine for the idle time (R476). -/
def State.idleLong (s : State) (g : Fin 8) : Bool :=
  match (s.gal.get g).idle with
  | some t => s.pwr.on (pdGal g) && !(s.gal.get g).parkReq && s.galEmpty g &&
      decide (t + s.edgesUs (1000 * max 1 (bits s.pwr.policy 15 0)) ≤ s.time.rclk)
  | none => false

/-- AUTO_PARK: every such gallery is parked under the automatic policy. DEDUCED (assumption log 39). -/
def execAutoPark (s : State) : Out' :=
  .next (s.when (bit s.pwr.policy 31) fun s =>
    (List.finRange 8).foldl (fun s g => if s.idleLong g then s.switch (pdGal g) false else s) s)

/-! ### Fences (R482–R488) -/

/-- SELFTEST_DONE: the self-test of a lift (Kinds of fence). DEDUCED (assumption log 99). -/
def execSelftestDone (e : Fin 64) (pass : Bool) (s : State) : Out' :=
  .next (s.when ((s.eng.get e).selftest && s.fence.busy == some (.selftest e.val)) fun s =>
    let s := (s.updEng e fun x => { x with selftest := false, fenced := !pass }).fenceLift 1 e.val
    if pass then s.fenceDone 0 else (((s.fenceAdd 1 6 e.val 0).raise (33 + 8 * (galOf e.val).val)).noteFenced e).fenceDone 3)

/-- FOYER_PARITY_ERROR: in the hall's rings, index block or held notices. -/
def execFoyerParityError (h : Fin 8) (s : State) : Out' := .next (s.when (s.pwr.on pdFoyer) fun s => s.fenceHall h 12)

/-- QUEUE_PARITY_ERROR: in the hall's event queue, which its samples read (R78). DEDUCED (assumption log 115). -/
def execQueueParityError (h : Fin 8) (s : State) : Out' := .next (s.when (s.pwr.on pdCtrl) fun s => (s.guar 4).fenceHall h 13)

end Sys2Proof.Machine
end

