-- ==== Sys2Proof/Machine/TimeRows.lean ====
section
/-! DEFINITION. REFCLK, timers, triggers, the debugger and banks without VDDIO as events (spec/15_timebase_timers_triggers.md R416–R432,
spec/13_command_set.md R386, spec/19_electrical_and_package.md R496, R503). -/

namespace Sys2Proof.Machine

/-! ### REFCLK (R419) -/

/-- refclk_ok is cleared: the flag, the count and the entry of a loss. -/
def State.refBad (s : State) (still : Bool) : State :=
  (({ s with time := { s.time with refclk := still, ok := false, lossCnt := satInc s.time.lossCnt 1 } }).timeErr 0).log 0x0701 none []

/-- No edge of REFCLK comes: in master mode the word clock stops, and a deglitcher's hold ends (R296, R307, R419). DESIGN CHOICE
(assumption log 136). -/
def State.edgesGone (s : State) : State :=
  let s := { s with dac := { s.dac with ch := s.dac.ch.map fun (c : DacCh) => { c with held := none } } }
  if s.out.master = true ∧ s.out.wclkOk = true then s.wclkGone else s

/-- REFCLK_LOST: no edge has arrived for 1 µs, or edges still come whose frequency lies outside ±5 %. With no edges nothing in TIME
advances, and in master mode the word clock stops. Which of the two it is, is free. DESIGN CHOICE (assumption log 29). -/
def execRefclkLost (s : State) : Out' :=
  .next (s.when s.time.refclk fun s =>
    let still := Config.refclkStill s.fresh
    let s := { s with fresh := s.fresh + 1 }
    if s.time.ok = false ∧ still = true then s else
    let s := s.refBad still
    if still then s else s.edgesGone)

/-- The device's own word clock runs again. -/
def State.wclkBack (s : State) : State :=
  if s.out.master = true ∧ s.time.running = true ∧ s.mgmt.stopped = false then
    { s with out := { s.out with wclkOk := true, locked := true }, dac := { s.dac with wclkOk := true },
             tdm := { s.tdm with running := true } }
  else s

/-- The supply of bank SYS is gone, and with it REFCLK's edges, which the MP finds within 1 µs (R419, R496). DESIGN CHOICE
(assumption log 101). -/
def State.refclkGone (s : State) : State :=
  if s.time.refclk = false then s else (s.refBad false).edgesGone

/-- REFCLK_RESTORED: REFCLK has run for 1 ms within its tolerance, bank SYS having its supply (R496). DESIGN CHOICE (assumption log 29). -/
def execRefclkRestored (s : State) : Out' :=
  .next (s.when ((!s.time.refclk || !s.time.ok) && s.bankOn .sys) fun s =>
    let r := { s with time := { s.time with refclk := true } }
    let s := (if s.time.refclk then r else r.wclkBack).pass (s.edgesUs 1000)
    { s with time := { s.time with ok := true } })

/-! ### Timers (R422–R427) -/

/-- TIME comes to the tick that is timer `n`'s `k`-th from now; the state stays where time alone never brings it. -/
def State.toTick (s : State) (n : Fin 16) (k : Nat) : State :=
  if s.time.counting = false ∨ s.time.refclk = false then s else
  match s.time.settled.edgesFor 16 n k with
  | some e => s.pass e
  | none => s

/-- TIMER_OVERFLOW: the step of timer `n` from RELOAD to 0. DEDUCED (assumption log 90). -/
def execTimerOverflow (n : Fin 16) (s : State) : Out' := .next (s.toTick n (s.time.tmr.get n).settle.toZero)

/-- TIMER_COMPARE_MATCH: the step of timer `n` onto TMRn_CMP. DEDUCED (assumption log 90). -/
def execTimerCompareMatch (n : Fin 16) (s : State) : Out' :=
  .next (match (s.time.tmr.get n).settle.toMatch with
    | some k => s.toTick n k
    | none => s)

/-! ### The debugger (R424, R503) -/

/-- DEBUG_HALT: accepted in SERVICE only; elsewhere the instruction acts as BYPASS. It comes through bank SYS (R496).
DEDUCED (assumption log 92). -/
def execDebugHalt (cp : Fin 2) (s : State) : Out' :=
  .next (s.when (s.bankOn .sys) fun s =>
    (s.tapInstr .debug).when (s.nv.life == .service && s.pwr.on pdCtrl) fun s =>
      { s with time := { s.time with dbg := s.time.dbg.put cp true } })

/-- DEBUG_HALT_RELEASED, through bank SYS (R496). -/
def execDebugHaltReleased (cp : Fin 2) (s : State) : Out' :=
  .next (s.when (s.bankOn .sys) fun s => { s with time := { s.time with dbg := s.time.dbg.put cp false } })

/-! ### Triggers (R428–R431) -/

/-- Timers that count the edges of trigger `t` have a tick at the next REFCLK edge (R422, R425). -/
def State.trigTick (s : State) (t : Fin 8) : State := { s with time := { s.time with hits := setFlag s.time.hits t.val } }

/-- The event of a stamped edge of a mapped trigger (R386), checked by the mapping that stands at the stamp, goes on its way to SCHED
(R431). -/
def State.trigEvent (s : State) (t : Fin 8) (rising : Bool) (stamp : Nat) : State :=
  match (s.time.trg.get t).map with
  | none => s
  | some m =>
    if m.edges.testBit (if rising then 0 else 1) = false then s else
    match s.checkMade (hallIx m.hall) (stamp + m.offset) m.opcode m.template with
    | .error _ => s.updTrg t fun g => { g with drop := satInc g.drop 1 }
    | .ok k =>
      let e : Mapped := { trig := t.val, hall := m.hall, tag := m.tag, stamp := stamp, time := stamp + m.offset, kind := k }
      { s with sched := { s.sched with mapped := mappedInsert e s.sched.mapped } }

/-- An accepted edge gets its stamp (R429, R430). -/
def State.trigStamp (s : State) (t : Fin 8) (rising : Bool) (stamp : Nat) : State :=
  let r := (s.time.trg.get t).push stamp
  let s := s.updTrg t fun _ => r.1
  let s := if r.2 then s.timeErr 2 else s
  (s.raiseIf (bit (s.time.trg.get t).ctrl 30) (192 + t.val)).trigEvent t rising stamp

/-- Where an edge crossed the ball (R429): the command comes TRGt_CTRL.filter REFCLK periods after it, when it is known whether the
edge is accepted; `half`: in the second half of its period. In half REFCLK periods of the count `c`, or in 1/512 es of ET `c`. -/
def Trig.crossing (g : Trig) (c : Int) (half : Bool) : Int := c - 2 * bits g.ctrl 7 0 + (if half then 1 else 0)

/-- TRIGGER_EDGE: an edge of TRIGt, its new level holding for `ns` nanoseconds; it comes when the filter has passed.
DEDUCED (assumption log 91). -/
def execTriggerEdge (t : Fin 8) (rising : Bool) (ns : Nat) (half : Bool) (s : State) : Out' :=
  let g := s.time.trg.get t
  let fe := s.ref882
  let now := (g.crossing (2 * s.time.rclk) half).toNat
  let at' := g.crossing s.time.et half
  .next (s.when (s.bankOn .sys) fun s =>
    let s := s.updTrg t fun g => { g with level := rising }
    if bit g.ctrl 31 = false ∨ s.time.counting = false ∨ s.time.refclk = false then s
    else if g.dead fe now then s.updTrg t fun g => { g with miss := satInc g.miss 1 }
    else if g.selects rising = false ∨ g.holds fe ns = false then s
    else
      let s := (s.updTrg t fun g => { g with cap := satInc g.cap 1, last := some now }).trigTick t
      if s.time.running = true ∧ 0 ≤ at' then s.trigStamp t rising at'.toNat else s)

/-! ### Banks (R496) -/

/-- Bank SYS reads as idle: TAMPER_n high, REFCLK without edges (R496). DESIGN CHOICE (assumption log 101). -/
def State.sysGone (s : State) : State := { s with pins := { s.pins with tamper := false } }.refclkGone

/-- BANK_VDDIO_LOST: the inputs of the bank read as idle. DESIGN CHOICE (assumption log 101). -/
def execBankVddioLost (b : Bank) (s : State) : Out' :=
  let s := { s with pins := { s.pins with absent := if s.pins.absent.contains b then s.pins.absent else b :: s.pins.absent } }
  .next (if b = .ser then { s with ser := s.ser.map fun (p : Ser) =>
    { p with line := true, high := some (p.high.getD (s.line64 false)) } } else if b = .sys then s.sysGone else s)

/-- Bank TDM is back: the next edge of WCLK_IN is the first from now on, the edges between having gone unseen (R496).
DESIGN CHOICE (assumption log 101). -/
def State.edgesSeen (s : State) : State :=
  if s.out.master then s else
  let e := s.firstGrid
  { s with dac := { s.dac with edge := max s.dac.edge e },
           tdm := { s.tdm with edge := max s.tdm.edge e, inEdge := max s.tdm.inEdge e } }

/-- BANK_VDDIO_RESTORED. -/
def execBankVddioRestored (b : Bank) (s : State) : Out' :=
  let t := { s with pins := { s.pins with absent := s.pins.absent.filter (· != b) } }
  .next (if b = .tdm ∧ s.bankOn .tdm = false then t.edgesSeen else t)

end Sys2Proof.Machine
end

