-- ==== Sys2Proof/Machine/PortRows.lean ====
section
/-! DEFINITION. UHP-3 transactions (spec/12_host_ports_and_mailboxes.md R323–R339, R343–R351, R512,
spec/01_architecture.md R26, R28, R37). -/

namespace Sys2Proof.Machine

/-! ### What every transaction goes through -/

/-- DESIGN CHOICE (assumption log 101). -/
def portBank (p : Fin 2) : Bank := if p = 0 then .ha else .hb

/-- The port sees its pins: the Foyer is powered, the bank's supply is there (R491, R496). DESIGN CHOICE (assumption log 101). -/
def State.portOn (s : State) (p : Fin 2) : Bool := s.pwr.on pdFoyer && !s.pins.absent.contains (portBank p)

/-- A result is recorded in STATUS, HPp_LAST and HPp_ERR (R334, R353). -/
def State.portRecord (s : State) (p : Fin 2) (code seq : Nat) (r : PortRes) : State :=
  let s := s.updPort p fun q => { q with lastCode := code, lastSeq := seq, lastRes := r.code }
  match r.errBit with
  | some b => s.portErr p b
  | none => s

/-- HA_RDY falls at the end of a transaction (R325). -/
def State.portBusy (s : State) (p : Fin 2) : State := s.updPort p fun q => { q with rdy := false }

/-- The transaction was begun while HA_RDY was low (R325). DEDUCED (assumption log 73). -/
def State.notReady (s : State) (p : Fin 2) (code seq : Nat) : State := s.portRecord p code seq .notReady

/-- A port of no hall becomes the supervisor's by its first valid transaction, where the record names none (R26).
DEDUCED (assumption log 71). -/
def State.claimSup (s : State) (p : Fin 2) : State :=
  if s.foyer.sup.isNone = true ∧ p = 0 then
    { s with foyer := { s.foyer with sup := some 0 } }.updHall 0 fun h => { h with binding := word (2 ^ 30) }
  else s

/-- What every valid transaction brings (R26, R212, R328, R339, R351). DEDUCED (assumption log 71). -/
def State.validTxn (s : State) (p : Fin 2) : State :=
  let s := s.claimSup p
  let s := s.updPort p fun q => { q with crcRun := 0, txnCnt := satInc q.txnCnt 1, asleep := false }
  match s.attached p with
  | some h => s.traffic (hallIx h)
  | none => s

/-- The bytes that a response phase drives after the sync byte (R333). -/
def answerBytes (r : PortRes) (seq : Nat) (data : List Byte) : List Byte :=
  let body := [byte r.code, byte seq] ++ (if r = .ok then data else [])
  let c := crc16 body
  body ++ [byte (c / 256), byte c]

/-- What a response phase drives: busy bytes until the answer is ready, the sync byte, the answer (R326). How many busy bytes is
free (assumption log 117). -/
def driven (busy : Nat) (ans : List Byte) : List Byte := List.replicate busy 0xFF#8 ++ 0x5A#8 :: ans

/-- The end of a transaction: its response phase, if it has one, its result, HA_RDY, HA_IRQ_n. DEDUCED (assumption log 70). -/
def State.portEnd (s : State) (p : Fin 2) (code seq : Nat) (resp : Bool) (ph : Phase) (r : PortRes) (data : List Byte) : State :=
  let whole := ph == .whole
  let s := if resp && whole then
      { s with fresh := s.fresh + 1 }.updPort p fun q => { q with answer := driven (Config.busyBytes s.fresh) (answerBytes r seq data) }
    else s
  let r := if resp && !whole then .aborted else r
  ((s.portRecord p code seq r).portBusy p).irqEval p

/-- A valid transaction that did not end in OK is counted (HPp_REFUSE_CNT). DEDUCED (assumption log 70). -/
def State.refuseIf (s : State) (p : Fin 2) (b : Bool) : State :=
  if b then s.updPort p fun q => { q with refuse := satInc q.refuse 1 } else s

/-- Codes whose header is followed directly by the CRC (R335). DEDUCED (assumption log 70). -/
def readType (code : Nat) : Bool := code == 0x30 || code == 0x34 || code == 0x37

/-- A complete transaction with a correct CRC. `act` is what its code does on the states that allow it, from the length check on:
the state, the result, the answer data. -/
def State.txn (s : State) (p : Fin 2) (code seq : Nat) (ph : Phase) (act : State → State × PortRes × List Byte) : State :=
  if s.portOn p = false then s else
  let q := s.port p
  if q.rdy = false then s.notReady p code seq else
  let isHello := code == 0x3F
  -- 3.2 lets the host clock the result of a write; a read and a HELLO always have a response phase
  let resp := readType code || isHello || (q.st == .uhp3 && q.version == 0x0302 && ph != .none)
  match q.st with
  | .down => s
  | .uhp2 => (s.refuseIf p true).portBusy p
  | .fenced =>
    if isHello then
      let x := act (s.validTxn p)
      (x.1.refuseIf p (x.2.1 != .ok)).portEnd p code seq resp ph x.2.1 x.2.2
    else s.portEnd p code seq false ph .fenced []
  | .opened =>
    if isHello then
      let x := act (s.validTxn p)
      (x.1.refuseIf p (x.2.1 != .ok)).portEnd p code seq resp ph x.2.1 x.2.2
    else s.portEnd p code seq resp ph (if codeDefined 0x0302 code then .notNegotiated else .unknownCode) []
  | .uhp3 =>
    if codeDefined q.version code then
      let x := act (s.validTxn p)
      (x.1.refuseIf p (x.2.1 != .ok)).portEnd p code seq resp ph x.2.1 x.2.2
    else s.portEnd p code seq resp ph .unknownCode []

/-- A result without effect. -/
def State.res (s : State) (r : PortRes) : State × PortRes × List Byte := (s, r, [])

/-- The length check and the attachment of a code whose length is not fixed (R28, R334). -/
def State.attachedOp (s : State) (p : Fin 2) (len max : Nat) (f : Fin 8 → State × PortRes × List Byte) : State × PortRes × List Byte :=
  if len = 0 then s.res .ok
  else if len > max then s.res .tooLong
  else match s.attached p with
    | some h => f (hallIx h)
    | none => s.res .notAttached

/-- The same where the length is fixed. -/
def State.attachedFix (s : State) (p : Fin 2) (len fix : Nat) (f : Fin 8 → State × PortRes × List Byte) : State × PortRes × List Byte :=
  if len ≠ fix then s.res .badLength
  else match s.attached p with
    | some h => f (hallIx h)
    | none => s.res .notAttached

/-! ### READ and WRITE (R336, R345) -/

/-- Areas of the Foyer SRAM that are a hall's own. -/
inductive Area where
  | cmd | cpl | index
  deriving DecidableEq, Repr

/-- The area that a transfer lies wholly in. -/
def areaOf (h : Fin 8) (addr n : Nat) : Option Area :=
  let within (lo size : Nat) : Bool := decide (0x20000000 + lo ≤ addr ∧ addr + n ≤ 0x20000000 + lo + size)
  if within (cmdBase h) 0x1000 then some .cmd
  else if within (cplBase h) 0x1000 then some .cpl
  else if within (0x10000 + 0x20 * h.val) 0x20 then some .index
  else none

/-- The bytes that a READ of a hall's own area returns. -/
def State.areaRead (s : State) (h : Fin 8) (addr n : Nat) : Area → List Byte
  | .index => ((s.indexBlock h).drop (addr - (0x20010000 + 0x20 * h.val))).take n
  | .cmd => s.sramRead (addr - 0x20000000) n
  | .cpl => s.sramRead (addr - 0x20000000) n

/-- DEDUCED (assumption log 69). -/
def State.doRead (s : State) (p : Fin 2) (addr len : Nat) : State × PortRes × List Byte :=
  s.attachedOp p len 4096 fun h =>
    match areaOf h addr len with
    | some a => (s, .ok, s.areaRead h addr len a)
    | none => s.res .denied

/-- A slot of the command ring holds a posted entry that CP0 has not taken (R345). -/
def Ring.slotPosted (r : Ring) (slot : Nat) : Bool :=
  (List.range r.waiting).any fun i => (r.cmdHead + BitVec.ofNat 16 i).toNat % r.len == slot

/-- A transfer of `n` bytes at offset `rel` of the command ring touches such a slot. -/
def Ring.touchesPosted (r : Ring) (rel n : Nat) : Bool :=
  (List.range ((rel + n - 1) / 64 + 1 - rel / 64)).any fun i => r.slotPosted (rel / 64 + i)

/-- DEDUCED (assumption log 69). -/
def State.doWrite (s : State) (p : Fin 2) (addr : Nat) (bs : List Byte) : State × PortRes × List Byte :=
  s.attachedOp p bs.length 4096 fun h =>
    match areaOf h addr bs.length with
    | some .cmd =>
      let rel := addr - 0x20000000 - cmdBase h
      if (s.halls.get h).ring.touchesPosted rel bs.length then s.res .slotPosted
      else (s.sramWrite (addr - 0x20000000) bs, .ok, [])
    | _ => s.res .denied

/-! ### DOORBELL and CPL_ACK (R344, R348) -/

def State.doDoorbell (s : State) (p : Fin 2) (bs : List Byte) : State × PortRes × List Byte :=
  s.attachedFix p bs.length 2 fun h =>
    let r := s.newTail h (BitVec.ofNat 16 (leNat bs))
    (r.1, if r.2 then .ok else .indexRange, [])

/-- A new completion head is accepted: the entries before it are free, the interrupt is acknowledged (R348, R350). -/
def State.ackTo (s : State) (h : Fin 8) (p : Fin 2) (k : BitVec 16) : State :=
  let s := s.updRing h fun r => { r with cplHead := k, posted := r.posted.drop (k - r.cplHead).toNat, lastAck := s.time.rclk }
  (s.updPort p fun q => { q with irq := false }).pump h

def State.doAck (s : State) (p : Fin 2) (bs : List Byte) : State × PortRes × List Byte :=
  s.attachedFix p bs.length 2 fun h =>
    let r := (s.halls.get h).ring
    let k := BitVec.ofNat 16 (leNat bs)
    if (k - r.cplHead).toNat ≤ r.unread then (s.ackTo h p k, .ok, []) else s.res .indexRange

/-! ### REG_READ and REG_WRITE (R336, R37) -/

/-- The checks of the register window: length, permission, range. -/
def State.regOp (s : State) (p : Fin 2) (addr len : Nat) (f : State × PortRes × List Byte) : State × PortRes × List Byte :=
  if len = 0 then s.res .ok
  else if len % 4 ≠ 0 then s.res .badLength
  else if len > 256 then s.res .tooLong
  else if s.foyer.sup ≠ some p then s.res .denied
  else if addr % 4 ≠ 0 then s.res .denied
  else f

/-- Words read in ascending address. -/
def State.regWords (s : State) (addr : Nat) : Nat → State × List Byte
  | 0 => (s, [])
  | n + 1 =>
    let r := State.regWords s addr n
    let t := r.1.busRead .window ((addr + 4 * n) % 2 ^ 32)
    (t, r.2 ++ leBytes 4 t.bus.data.toNat)

def State.doRegRead (s : State) (p : Fin 2) (addr len : Nat) : State × PortRes × List Byte :=
  s.regOp p addr len (let r := s.regWords addr (len / 4); (r.1, .ok, r.2))

/-- The address is the low word of a 64-bit pair. -/
def pairLoAddr (a : Nat) : Bool := match blockOf a with | some (b, off) => isPairLo b off | none => false

/-- Words written in ascending address; of a pair that lies whole in the transfer the high word is written first (R12, R336). -/
def State.regPutWords (s : State) : List (Nat × Word) → State
  | [] => s
  | [x] => s.busWrite .window x.1 x.2
  | x :: y :: rest =>
    if pairLoAddr x.1 then State.regPutWords ((s.busWrite .window y.1 y.2).busWrite .window x.1 x.2) rest
    else State.regPutWords (s.busWrite .window x.1 x.2) (y :: rest)

/-- The words of a REG_WRITE with their addresses. -/
def regPairs (addr : Nat) (bs : List Byte) : List (Nat × Word) :=
  (List.range (bs.length / 4)).map fun i => ((addr + 4 * i) % 2 ^ 32, word (leNat ((bs.drop (4 * i)).take 4)))

def State.doRegWrite (s : State) (p : Fin 2) (addr : Nat) (bs : List Byte) : State × PortRes × List Byte :=
  s.regOp p addr bs.length (s.regPutWords (regPairs addr bs), .ok, [])

/-! ### BULK (R338) -/

/-- A staging buffer that is free. -/
def Port.freeBuf (q : Port) : Option (Fin 2) := (List.finRange 2).find? fun b => !q.bufs.get b

/-- The payload is staged; the WAVE_WRITE stands behind every entry that a doorbell has covered. DEDUCED (assumption log 69). -/
def State.stage (s : State) (h : Fin 8) (p b : Fin 2) (addr : Nat) (bs : List Byte) : State :=
  let data := bs.drop 4
  let s := (s.sramWrite (stageBase p b) data).updPort p fun q => { q with bufs := q.bufs.put b true }
  s.updHall h fun x => { x with bulks := x.bulks ++
    [{ port := p, buf := b, tag := f16 bs 0, addr := addr, len := data.length, after := x.ring.cmdTail }] }

/-- DEDUCED (assumption log 69). -/
def State.doBulk (s : State) (p : Fin 2) (addr : Nat) (bs : List Byte) : State × PortRes × List Byte :=
  if 0 < bs.length ∧ bs.length < 4 then s.res .badLength else
  s.attachedOp p bs.length 32772 fun h =>
    match (s.port p).freeBuf with
    | none => s.res .notReady
    | some b => (s.stage h p b addr bs, .ok, [])

/-! ### STATUS, BYE, HELLO (R329, R337, R512) -/

/-- The STATUS answer as the port stands. -/
def State.statusData (s : State) (p : Fin 2) : List Byte :=
  let q := s.port p
  let h := s.attached p
  let heads := match h with
    | some n => leBytes 2 (s.hall n).ring.cmdHead.toNat ++ leBytes 2 (s.hall n).ring.cplTail.toNat
    | none => List.replicate 4 0#8
  [byte q.st.code, byte q.width] ++ leBytes 2 q.nowVersion ++
    [byte (h.getD 255), byte (at_ q.asleep 0 + at_ q.irq 1 + at_ (s.foyer.sup == some p) 2 + q.free * 8),
     byte q.lastRes, byte q.lastSeq, byte q.lastCode, byte q.crcRun] ++ leBytes 2 q.crcCnt.toNat ++ heads

/-- A port goes back to OPEN (R329). -/
def Port.toOpen (q : Port) : Port := { q.irqLeft with st := .opened, width := 1, version := 0, asleep := false }

def State.doBye (s : State) (p : Fin 2) (len : Nat) : State × PortRes × List Byte :=
  if len = 0 then (s.updPort p Port.toOpen, .ok, []) else s.res .badLength

/-- A HELLO that finds version `v`. -/
def State.helloTo (s : State) (p : Fin 2) (v : Nat) (bs : List Byte) : State × PortRes × List Byte :=
  let q := s.port p
  let fenced := q.st == .fenced
  let flags := at_ (s.foyer.sup == some p) 0 + at_ fenced 1 + at_ (!q.helloed) 2
  let w := grantWidth v (f8 bs 4)
  let s := if fenced then s.fenceLift 4 p.val else s
  let s := s.updPort p fun q =>
    { q with st := .uhp3, version := v, width := w, hostLo := w32 bs 8, hostHi := w32 bs 12, helloed := true, helloFlags := flags / 2 * 2 }
  let s := s.log (Config.helloLogCode % 65536) none ((bs.drop 8).take 8)
  (s, .ok, s.helloData p v w flags)

def State.doHello (s : State) (p : Fin 2) (bs : List Byte) : State × PortRes × List Byte :=
  if bs.length ≠ 16 then s.res .badLength
  else match chooseVersion (f16 bs 0) (f16 bs 2) with
    | none => s.res .version
    | some v => s.helloTo p v bs

/-! ### The rows -/

/-- READ. -/
def execRead (p : Fin 2) (seq : Byte) (addr : Word) (len : BitVec 16) (ph : Phase) (s : State) : Out' :=
  .next (s.txn p 0x30 seq.toNat ph fun s => s.doRead p addr.toNat len.toNat)

/-- WRITE. -/
def execWrite (p : Fin 2) (seq : Byte) (addr : Word) (payload : List Byte) (ph : Phase) (s : State) : Out' :=
  if payloadWf payload = false then .refused .illFormed else
  .next (s.txn p 0x31 seq.toNat ph fun s => s.doWrite p addr.toNat payload)

/-- DOORBELL. -/
def execDoorbell (p : Fin 2) (seq : Byte) (_addr : Word) (payload : List Byte) (ph : Phase) (s : State) : Out' :=
  if payloadWf payload = false then .refused .illFormed else .next (s.txn p 0x32 seq.toNat ph fun s => s.doDoorbell p payload)

/-- CPL_ACK. -/
def execCplAck (p : Fin 2) (seq : Byte) (_addr : Word) (payload : List Byte) (ph : Phase) (s : State) : Out' :=
  if payloadWf payload = false then .refused .illFormed else .next (s.txn p 0x33 seq.toNat ph fun s => s.doAck p payload)

/-- REG_READ. -/
def execRegRead (p : Fin 2) (seq : Byte) (addr : Word) (len : BitVec 16) (ph : Phase) (s : State) : Out' :=
  .next (s.txn p 0x34 seq.toNat ph fun s => s.doRegRead p addr.toNat len.toNat)

/-- REG_WRITE. -/
def execRegWrite (p : Fin 2) (seq : Byte) (addr : Word) (payload : List Byte) (ph : Phase) (s : State) : Out' :=
  if payloadWf payload = false then .refused .illFormed else
  .next (s.txn p 0x35 seq.toNat ph fun s => s.doRegWrite p addr.toNat payload)

/-- BULK. -/
def execBulk (p : Fin 2) (seq : Byte) (addr : Word) (payload : List Byte) (ph : Phase) (s : State) : Out' :=
  if payloadWf payload = false then .refused .illFormed else .next (s.txn p 0x36 seq.toNat ph fun s => s.doBulk p addr.toNat payload)

/-- STATUS: the port as it stood before. -/
def execStatus (p : Fin 2) (seq : Byte) (_addr : Word) (len : BitVec 16) (ph : Phase) (s : State) : Out' :=
  let before := s.statusData p
  .next (s.txn p 0x37 seq.toNat ph fun s => if len.toNat = 16 then (s, .ok, before) else s.res .badLength)

/-- BYE. -/
def execByeTransaction (p : Fin 2) (seq : Byte) (_addr : Word) (payload : List Byte) (ph : Phase) (s : State) : Out' :=
  if payloadWf payload = false then .refused .illFormed else .next (s.txn p 0x3E seq.toNat ph fun s => s.doBye p payload.length)

/-- HELLO. -/
def execHello (p : Fin 2) (seq : Byte) (_addr : Word) (payload : List Byte) (ph : Phase) (s : State) : Out' :=
  if payloadWf payload = false then .refused .illFormed else .next (s.txn p 0x3F seq.toNat ph fun s => s.doHello p payload)

/-- RESERVED_TRANSACTION_CODE: it is defined in no version, so it has no effect of its own. -/
def execReservedTransactionCode (p : Fin 2) (code seq : Byte) (_addr : Word) (payload : List Byte) (ph : Phase) (s : State) : Out' :=
  if payloadWf payload = false ∨ ¬ (0x38 ≤ code.toNat ∧ code.toNat ≤ 0x3D) then .refused .illFormed
  else .next (s.txn p code.toNat seq.toNat ph fun s => s.res .unknownCode)

/-! ### Noise (R327, R335, R339) -/

/-- The 16th CRC error in a row fences the port. -/
def State.fencePort (s : State) (p : Fin 2) : State :=
  let halls := match s.attached p with | some h => 2 ^ h | none => 0
  let s := s.updPort p fun q => { q with st := .fenced, width := 1, asleep := false, fenceCnt := satInc q.fenceCnt 1 }
  ((s.portErr p 6).log 0x0601 none [byte p.val]).fenceAdd 4 9 p.val halls

/-- A CRC error counts; the result that it gets. -/
def State.crcFail (s : State) (p : Fin 2) : State × PortRes :=
  let q := s.port p
  let s := (s.updPort p fun q => { q with crcCnt := satInc q.crcCnt 1, crcRun := min 16 (q.crcRun + 1) }).portErr p 0
  if q.st = .fenced then (s, .fenced)
  else if q.crcRun + 1 ≥ 16 then (s.fencePort p, .crc)
  else (s, .crc)

/-- The codes that open a UHP-3 frame. DEDUCED (assumption log 72). -/
def uhp3Code (code : Nat) : Bool := decide (0x30 ≤ code ∧ code ≤ 0x3F)

/-- A transaction with a wrong CRC, or an incomplete one, with the response phase that it has. DEDUCED (assumption log 72). -/
def State.noise (s : State) (p : Fin 2) (code seq : Nat) (resp : Bool) (ph : Phase) : State :=
  if s.portOn p = false then s
  else if (s.port p).rdy = false then s.notReady p code seq
  else match (s.port p).st with
    | .down => s
    | .uhp2 => (s.refuseIf p true).portBusy p
    | .opened => let r := s.crcFail p; r.1.portEnd p code seq resp ph r.2 []
    | .uhp3 => let r := s.crcFail p; r.1.portEnd p code seq resp ph r.2 []
    | .fenced => let r := s.crcFail p; r.1.portEnd p code seq false ph r.2 []

/-- PORT_CRC_ERROR: a framed transaction whose CRC is wrong. -/
def execPortCrcError (p : Fin 2) (code seq : Byte) (ph : Phase) (s : State) : Out' :=
  let q := s.port p
  let resp := readType code.toNat || code == 0x3F#8 || (q.st == .uhp3 && q.version == 0x0302 && ph != .none)
  .next (s.when (uhp3Code code.toNat) fun s => s.noise p code.toNat seq.toNat resp ph)

/-- A transaction whose first byte opens no frame in the port's state, with the seq that is recorded (R335).
DESIGN CHOICE (assumption log 18). -/
def State.unframed (s : State) (p : Fin 2) (code : Nat) : State :=
  let seq := Config.unframedSeq s.fresh % 256
  let s := { s with fresh := s.fresh + 1 }
  if s.portOn p = false then s
  else if (s.port p).rdy = false then s.notReady p code seq
  else match (s.port p).st with
    | .down => s
    | .uhp2 => (s.refuseIf p true).portBusy p
    | .fenced => s.portEnd p code seq false .none .fenced []
    | .uhp3 =>
      if code < 0x20 then s.portEnd p code seq false .none .unknownCode []
      else let r := s.crcFail p; r.1.portEnd p code seq false .none r.2 []
    | .opened =>
      if code < 0x20 then (s.refuseIf p true).portBusy p
      else let r := s.crcFail p; r.1.portEnd p code seq false .none r.2 []

/-- INCOMPLETE_TRANSACTION: HA_CS_n has risen before the last byte. -/
def execIncompleteTransaction (p : Fin 2) (code seq : Byte) (s : State) : Out' :=
  .next (if uhp3Code code.toNat then s.noise p code.toNat seq.toNat false .none else s.unframed p code.toNat)

/-- A selection that ends before its first byte leaves the port as it is. -/
def State.selectionIgnored (s : State) (_p : Fin 2) : State := s

/-- SHORT_SELECTION. -/
def execShortSelection (p : Fin 2) (s : State) : Out' := .next (s.selectionIgnored p)

/-- UNFRAMEABLE_FIRST_BYTE. DEDUCED (assumption log 72). -/
def execUnframeableFirstByte (p : Fin 2) (code : Byte) (s : State) : Out' :=
  .next (s.when (!uhp3Code code.toNat) fun s => s.unframed p code.toNat)

/-- NOT_READY_TRANSACTION. DEDUCED (assumption log 73). -/
def execNotReadyTransaction (p : Fin 2) (code seq : Byte) (s : State) : Out' :=
  .next (s.when (s.portOn p && !(s.port p).rdy) fun s => s.notReady p code.toNat seq.toNat)

/-- PORT_READY. -/
def execPortReady (p : Fin 2) (s : State) : Out' :=
  .next (s.when (s.portOn p && (s.port p).st != .down) fun s => s.updPort p fun q => { q with rdy := true })

/-! ### The host's interrupt (R350) -/

/-- IRQ_MOD_TIMEOUT: the instant at which the unread entries of a hall assert HA_IRQ_n. DEDUCED (assumption log 68). -/
def execIrqModTimeout (h : Fin 8) (s : State) : Out' :=
  let r := (s.halls.get h).ring
  .next (match (s.halls.get h).port?, s.irqTime r with
    | some p, some t =>
      s.when (s.time.counting && s.time.refclk) fun s =>
        let at' := if r.countDue (s.port p).asleep then s.irqBlank r else max t (s.irqBlank r)
        (s.pass (at' - s.time.rclk)).irqEval p
    | _, _ => s)

end Sys2Proof.Machine
end

