-- ==== Sys2Proof/Machine/Uhp2Rows.lean ====
section
/-! DEFINITION. UHP-2 operations and the TB-320 mailbox (spec/12_host_ports_and_mailboxes.md R328, R329, R340–R342). -/

namespace Sys2Proof.Machine

/-! ### What every operation goes through -/

/-- A complete UHP-2 operation of a code that is one (R328, R329): on a port in OPEN it fixes the generation, then it is carried out;
on a port in UHP3 or FENCED its first byte frames nothing (R335). DEDUCED (assumption log 74). -/
def State.uhp2 (s : State) (p : Fin 2) (code : Nat) (act : State → State) : State :=
  let take (s : State) : State :=
    (((act ((s.validTxn p).updPort p fun q => { q with st := .uhp2 })).portBusy p).irqEval p)
  if s.portOn p = false ∨ (s.port p).rdy = false then s.unframed p code
  else match (s.port p).st with
    | .opened => take s
    | .uhp2 => take s
    | .uhp3 => s.unframed p code
    | .fenced => s.unframed p code
    | .down => s.unframed p code

/-! ### The window of the TB-320 -/

/-- A word of the window as it reads (R340). -/
def State.windowRead (s : State) (p : Fin 2) (a : Nat) : BitVec 16 :=
  let q := s.port p
  match a with
  | 0 => 0x0320
  | 1 => q.mbxStat
  | 3 => 0x2048
  | 4 => BitVec.ofNat 16 (s.sys.fwVer.toNat / 65536)
  | a =>
    if 0x10 ≤ a ∧ a ≤ 0x2F then q.mbxArg.get (Fin.ofNat 32 (a - 0x10))
    else if 0x30 ≤ a ∧ a ≤ 0x4F then q.mbxRsp.get (Fin.ofNat 32 (a - 0x30))
    else 0

/-- MBX_STAT as a write leaves it: done is cleared by a 1, irq_en takes its bit. -/
def mbxStatAfter (old v : BitVec 16) : BitVec 16 :=
  (old &&& 0x80FF) ||| (old &&& ~~~v &&& 0x4000) ||| (v &&& 0x2000)

/-- A word of the window is written. -/
def Port.windowWrite (q : Port) (a : Nat) (v : BitVec 16) : Port :=
  match a with
  | 1 => { q with mbxStat := mbxStatAfter q.mbxStat v }
  | 2 => { q with mbxStat := q.mbxStat ||| 0x8000 }
  | a => if 0x10 ≤ a ∧ a ≤ 0x2F ∧ q.mbxBusy = false then { q with mbxArg := q.mbxArg.put (Fin.ofNat 32 (a - 0x10)) v } else q

/-- Words are written at ascending addresses. -/
def Port.windowWrites (q : Port) (a : Nat) : List (BitVec 16) → Port
  | [] => q
  | w :: ws => Port.windowWrites (q.windowWrite a w) (a + 1) ws

/-- WR's effect: an operation that would run beyond the window is ignored whole and counted. DEDUCED (assumption log 74). -/
def State.windowWr (s : State) (p : Fin 2) (a : Nat) (ws : List (BitVec 16)) : State :=
  if a + ws.length > 0x10000 then s.refuseIf p true else s.updPort p fun q => q.windowWrites a ws

/-- RD's effect. -/
def State.windowRd (s : State) (p : Fin 2) (a n : Nat) : State :=
  if a + n > 0x10000 then s.refuseIf p true
  else
    let ws := (List.range n).map fun i => s.windowRead p (a + i)
    s.updPort p fun q => { q with rdData := ws }

/-! ### The commands of the mailbox (R341, R342) -/

/-- The 3.x command of a TB-320 code. -/
def mbxOpcode : Nat → Option Opcode
  | 0x01 => some opGetInfo
  | 0x02 => some opVoiceStart
  | 0x03 => some opVoiceRelease
  | 0x04 => some opVoiceKill
  | 0x05 => some opParamSet
  | 0x06 => some opHallCtrl
  | 0x07 => some opProgLoad
  | 0x08 => some opProgFree
  | 0x09 => some opWaveWrite
  | 0x0A => some opKeepalive
  | _ => none

/-- A list brought to a length. -/
def toLength (n : Nat) (bs : List Byte) : List Byte := bs.take n ++ List.replicate (n - bs.length) 0#8

/-- The command block translated: an event of a time-stamped command is IMMEDIATE, so its event time is A + LEAD (R342); a
WAVE_WRITE takes at most 48 bytes. DESIGN CHOICE (assumption log 21). -/
def mbxCmd (o : Opcode) (p : Fin 2) (q : Port) : Cmd :=
  let raw := Config.tb320Payload (q.mbxArg.get 0).toNat (q.mbxArg.get 1).toNat (q.mbxArg.toList.drop 2)
  let pay : List Byte := match o.len with
    | .fixed n => if o.timed then List.replicate 8 0#8 ++ toLength (n - 8) raw else toLength n raw
    | .counted fix _ _ _ _ =>
      let data := (raw.drop fix).take 48
      (toLength fix raw).take 2 ++ [0#8, 0#8] ++ ((toLength fix raw).drop 4).take 4 ++ leBytes 4 data.length ++ data
    | _ => raw
  { op := o.op, tag := 0, flags := if o.timed then 1 else 0, len := pay.length, pay := pay, via := .mbx p }

/-- A code outside the table: TB-320 status 0x02. DESIGN CHOICE (assumption log 21). -/
def mbxUnknown (q : Port) : Port :=
  { q with mbxRsp := q.mbxRsp.put 0 2, mbxStat := (q.mbxStat &&& 0x2000) ||| 0x4002 }

/-- The command of a hall's port goes through the hall's rings (R341): once nothing stands in the command ring, in the hall's turn and
where an event finds room in the queue, the firmware reads the completion ring, posts the command's entries, and CP0 takes them; the
completion comes behind what is held (R346, R347, R355, R362, R363). DESIGN CHOICE (assumption log 21). -/
def State.mbxHall (s : State) (p : Fin 2) (h : Fin 8) (o : Opcode) : State :=
  let c := mbxCmd o p (s.port p)
  if s.mbxReady h = false ∨ s.nextCmd h ≠ .none ∨ s.turn h = false then s
  else if o.timed = true ∧ s.queueRoom h = false then s.served h
  else
    let s := State.readRing h 64 s
    if s.room h (o.need s h c) = false then s.stall h
    else
      let t := (s.postCmd h c (entriesOf c.len)).takeEntries h (entriesOf c.len) (o.need s h c)
      t.finish h c (o.need s h c) (o.run t h c)

/-- What a port of no hall answers INFO with: GET_INFO's fields, those of a hall 0. DESIGN CHOICE (assumption log 21). -/
def State.unitInfo (s : State) : List Byte :=
  [0#8, byte s.fl, byte (at_ s.fe882 0), 0xFF#8] ++ leBytes 4 s.lead ++ leBytes 4 s.cb ++ leBytes 2 s.out.p ++ leBytes 2 s.out.q ++
    List.replicate 40 0#8

/-- The mailbox of a port of no hall (R28, R341): INFO and PING are answered, every other code fails with NOT_OWNER. -/
def State.mbxAlone (s : State) (code : Nat) (q : Port) : Port :=
  match mbxOpcode code with
  | some o => if o.op = opGetInfo.op then mbxAnswer q 0 s.unitInfo
    else if o.op = opKeepalive.op then mbxAnswer q 0 (leBytes 8 s.time.et) else mbxAnswer q 0x21 []
  | none => mbxAnswer q 0x21 []

/-- The firmware takes the command of the mailbox. DESIGN CHOICE (assumption log 21). -/
def State.mbxRun (s : State) (p : Fin 2) : State :=
  let code := ((s.port p).mbxArg.get 0).toNat
  match s.attached p with
  | none => (s.updPort p (s.mbxAlone code)).irqEval p
  | some h =>
    match mbxOpcode code with
    | none => (s.updPort p mbxUnknown).irqEval p
    | some o => let t := s.mbxHall p (hallIx h) o; if code = 7 then t.servePages else t

/-- The write of MBX_GO, where none is running. -/
def State.mbxStart (s : State) (p : Fin 2) : State :=
  if (s.port p).mbxBusy then s else s.uhp2 p 0x02 fun s => s.windowWr p 2 [1]

/-! ### The rows -/

/-- NOP. -/
def execNop (p : Fin 2) (s : State) : Out' := .next (s.uhp2 p 0x00 fun s => s)

/-- WR. -/
def execWr (p : Fin 2) (addr : BitVec 16) (words : List (BitVec 16)) (s : State) : Out' :=
  if words.length ≥ 256 then .refused .illFormed else .next (s.uhp2 p 0x02 fun s => s.windowWr p addr.toNat words)

/-- RD. -/
def execRd (p : Fin 2) (addr : BitVec 16) (count : Byte) (s : State) : Out' :=
  .next (s.uhp2 p 0x03 fun s => s.windowRd p addr.toNat count.toNat)

/-- UHP2_BYE. -/
def execUhp2Bye (p : Fin 2) (s : State) : Out' := .next (s.uhp2 p 0x1F fun s => s.updPort p Port.toOpen)

/-- MBX_GO: the command in MBX_ARG is started, and the firmware carries it out. DEDUCED (assumption log 74). -/
def execMbxGo (p : Fin 2) (s : State) : Out' :=
  let s := s.mbxStart p
  .next (if (s.port p).mbxBusy && s.cp0Runs then s.mbxRun p else s)

end Sys2Proof.Machine
end

