-- ==== Sys2Proof/Machine/Dispatch.lean ====
section
/-! DEFINITION. The effect of each command: one arm per constructor. -/

namespace Sys2Proof.Machine

def exec (i : Instr) (s : State) : Host.Outcome State Fault Refusal :=
  match i with
  | .wrongWidthAccess ini addr write => Sys2Proof.Machine.execWrongWidthAccess ini addr write s
  | .unmappedAccess ini addr write => Sys2Proof.Machine.execUnmappedAccess ini addr write s
  | .deniedAccess ini addr write => Sys2Proof.Machine.execDeniedAccess ini addr write s
  | .offDomainAccess ini addr write => Sys2Proof.Machine.execOffDomainAccess ini addr write s
  | .registerWrite ini addr v => Sys2Proof.Machine.execRegisterWrite ini addr v s
  | .pairLoRead ini addr => Sys2Proof.Machine.execPairLoRead ini addr s
  | .pairHiWrite ini addr v => Sys2Proof.Machine.execPairHiWrite ini addr v s
  | .pairLoWrite ini addr v => Sys2Proof.Machine.execPairLoWrite ini addr v s
  | .schedCfgWrite ini v => Sys2Proof.Machine.execSchedCfgWrite ini v s
  | .renderBringup => Sys2Proof.Machine.execRenderBringup s
  | .measCtrlWrite ini v => Sys2Proof.Machine.execMeasCtrlWrite ini v s
  | .mbRecompute => Sys2Proof.Machine.execMbRecompute s
  | .eventListClose => Sys2Proof.Machine.execEventListClose s
  | .eventApply => Sys2Proof.Machine.execEventApply s
  | .frameBoundary => Sys2Proof.Machine.execFrameBoundary s
  | .engineRenderFrame e upsets => Sys2Proof.Machine.execEngineRenderFrame e upsets s
  | .engineStall e => Sys2Proof.Machine.execEngineStall e s
  | .engineSramError e => Sys2Proof.Machine.execEngineSramError e s
  | .galleryVmonFence g => Sys2Proof.Machine.execGalleryVmonFence g s
  | .mezzanineFrameComplete => Sys2Proof.Machine.execMezzanineFrameComplete s
  | .outTakeFrame => Sys2Proof.Machine.execOutTakeFrame s
  | .eqFadeEnd n => Sys2Proof.Machine.execEqFadeEnd n s
  | .dacLatch => Sys2Proof.Machine.execDacLatch s
  | .rangeSettleEnd n => Sys2Proof.Machine.execRangeSettleEnd n s
  | .muteCause c => Sys2Proof.Machine.execMuteCause c s
  | .muteLeadElapsed => Sys2Proof.Machine.execMuteLeadElapsed s
  | .muteRelease => Sys2Proof.Machine.execMuteRelease s
  | .muteLeadHoldEnd n => Sys2Proof.Machine.execMuteLeadHoldEnd n s
  | .dacMuteReqWrite ini v => Sys2Proof.Machine.execDacMuteReqWrite ini v s
  | .dacEnWrite ini n v => Sys2Proof.Machine.execDacEnWrite ini n v s
  | .dacSineWrite ini n v => Sys2Proof.Machine.execDacSineWrite ini n v s
  | .dacRangeWrite ini n v => Sys2Proof.Machine.execDacRangeWrite ini n v s
  | .dacSelWrite ini n v => Sys2Proof.Machine.execDacSelWrite ini n v s
  | .tdmOutputFrame => Sys2Proof.Machine.execTdmOutputFrame s
  | .tdmInputFrame lanes => Sys2Proof.Machine.execTdmInputFrame lanes s
  | .lockLost => Sys2Proof.Machine.execLockLost s
  | .wclkRelock phi edge => Sys2Proof.Machine.execWclkRelock phi edge s
  | .wclkLost => Sys2Proof.Machine.execWclkLost s
  | .wclkReturn phi => Sys2Proof.Machine.execWclkReturn phi s
  | .specBlock upsets => Sys2Proof.Machine.execSpecBlock upsets s
  | .resynBlock a => Sys2Proof.Machine.execResynBlock a s
  | .resynCtrlWrite a => Sys2Proof.Machine.execResynCtrlWrite a s
  | .convSwitch k => Sys2Proof.Machine.execConvSwitch k s
  | .specWmError u => Sys2Proof.Machine.execSpecWmError u s
  | .specRestart ini v => Sys2Proof.Machine.execSpecRestart ini v s
  | .arbiterDecision c present withdrew => Sys2Proof.Machine.execArbiterDecision c present withdrew s
  | .resSwap ini c v => Sys2Proof.Machine.execResSwap ini c v s
  | .prioWrite ini c which v => Sys2Proof.Machine.execPrioWrite ini c which v s
  | .scrubPatrolRead c upsets => Sys2Proof.Machine.execScrubPatrolRead c upsets s
  | .scrubWriteBack c upsets => Sys2Proof.Machine.execScrubWriteBack c upsets s
  | .pageScrubEnd c upsets => Sys2Proof.Machine.execPageScrubEnd c upsets s
  | .sealedLoadDone h => Sys2Proof.Machine.execSealedLoadDone h s
  | .progLoadDone h => Sys2Proof.Machine.execProgLoadDone h s
  | .read p seq addr len ph => Sys2Proof.Machine.execRead p seq addr len ph s
  | .write p seq addr payload ph => Sys2Proof.Machine.execWrite p seq addr payload ph s
  | .doorbell p seq addr payload ph => Sys2Proof.Machine.execDoorbell p seq addr payload ph s
  | .cplAck p seq addr payload ph => Sys2Proof.Machine.execCplAck p seq addr payload ph s
  | .regRead p seq addr len ph => Sys2Proof.Machine.execRegRead p seq addr len ph s
  | .regWrite p seq addr payload ph => Sys2Proof.Machine.execRegWrite p seq addr payload ph s
  | .bulk p seq addr payload ph => Sys2Proof.Machine.execBulk p seq addr payload ph s
  | .status p seq addr len ph => Sys2Proof.Machine.execStatus p seq addr len ph s
  | .byeTransaction p seq addr payload ph => Sys2Proof.Machine.execByeTransaction p seq addr payload ph s
  | .hello p seq addr payload ph => Sys2Proof.Machine.execHello p seq addr payload ph s
  | .portCrcError p code seq ph => Sys2Proof.Machine.execPortCrcError p code seq ph s
  | .incompleteTransaction p code seq => Sys2Proof.Machine.execIncompleteTransaction p code seq s
  | .shortSelection p => Sys2Proof.Machine.execShortSelection p s
  | .unframeableFirstByte p code => Sys2Proof.Machine.execUnframeableFirstByte p code s
  | .notReadyTransaction p code seq => Sys2Proof.Machine.execNotReadyTransaction p code seq s
  | .portReady p => Sys2Proof.Machine.execPortReady p s
  | .nop p => Sys2Proof.Machine.execNop p s
  | .wr p addr words => Sys2Proof.Machine.execWr p addr words s
  | .rd p addr count => Sys2Proof.Machine.execRd p addr count s
  | .uhp2Bye p => Sys2Proof.Machine.execUhp2Bye p s
  | .mbxGo p => Sys2Proof.Machine.execMbxGo p s
  | .hallDbWrite ini h v => Sys2Proof.Machine.execHallDbWrite ini h v s
  | .hppLift ini p v => Sys2Proof.Machine.execHppLift ini p v s
  | .hppClose ini p v => Sys2Proof.Machine.execHppClose ini p v s
  | .irqModTimeout h => Sys2Proof.Machine.execIrqModTimeout h s
  | .keepaliveLapse h => Sys2Proof.Machine.execKeepaliveLapse h s
  | .keepaliveKill h => Sys2Proof.Machine.execKeepaliveKill h s
  | .helloEcho h => Sys2Proof.Machine.execHelloEcho h s
  | .getInfo h => Sys2Proof.Machine.execGetInfo h s
  | .bye h => Sys2Proof.Machine.execBye h s
  | .keepalive h => Sys2Proof.Machine.execKeepalive h s
  | .portSleep h => Sys2Proof.Machine.execPortSleep h s
  | .modSet h => Sys2Proof.Machine.execModSet h s
  | .hallCreate h => Sys2Proof.Machine.execHallCreate h s
  | .hallResize h => Sys2Proof.Machine.execHallResize h s
  | .hallBind h => Sys2Proof.Machine.execHallBind h s
  | .hallClose h => Sys2Proof.Machine.execHallClose h s
  | .progLoad h => Sys2Proof.Machine.execProgLoad h s
  | .progFree h => Sys2Proof.Machine.execProgFree h s
  | .progInfo h => Sys2Proof.Machine.execProgInfo h s
  | .pageAlloc h => Sys2Proof.Machine.execPageAlloc h s
  | .pageFree h => Sys2Proof.Machine.execPageFree h s
  | .waveWrite h => Sys2Proof.Machine.execWaveWrite h s
  | .waveLoadSealed h => Sys2Proof.Machine.execWaveLoadSealed h s
  | .voiceStart h => Sys2Proof.Machine.execVoiceStart h s
  | .voiceRelease h => Sys2Proof.Machine.execVoiceRelease h s
  | .voiceKill h => Sys2Proof.Machine.execVoiceKill h s
  | .paramSet h => Sys2Proof.Machine.execParamSet h s
  | .paramRamp h => Sys2Proof.Machine.execParamRamp h s
  | .hallCtrl h => Sys2Proof.Machine.execHallCtrl h s
  | .inRoute h => Sys2Proof.Machine.execInRoute h s
  | .inFree h => Sys2Proof.Machine.execInFree h s
  | .tdmDest h => Sys2Proof.Machine.execTdmDest h s
  | .dacDest h => Sys2Proof.Machine.execDacDest h s
  | .sync h => Sys2Proof.Machine.execSync h s
  | .eqLoad h => Sys2Proof.Machine.execEqLoad h s
  | .eqSwap h => Sys2Proof.Machine.execEqSwap h s
  | .delaySet h => Sys2Proof.Machine.execDelaySet h s
  | .detectorCfg h => Sys2Proof.Machine.execDetectorCfg h s
  | .convLoad h => Sys2Proof.Machine.execConvLoad h s
  | .convRoute h => Sys2Proof.Machine.execConvRoute h s
  | .resynCfg h => Sys2Proof.Machine.execResynCfg h s
  | .timeGet h => Sys2Proof.Machine.execTimeGet h s
  | .triggerMap h => Sys2Proof.Machine.execTriggerMap h s
  | .stats h => Sys2Proof.Machine.execStats h s
  | .fenceStatus h => Sys2Proof.Machine.execFenceStatus h s
  | .fenceStatusLift h => Sys2Proof.Machine.execFenceStatusLift h s
  | .logRead h => Sys2Proof.Machine.execLogRead h s
  | .updBegin h => Sys2Proof.Machine.execUpdBegin h s
  | .updChunk h => Sys2Proof.Machine.execUpdChunk h s
  | .updCommit h => Sys2Proof.Machine.execUpdCommit h s
  | .updRollback h => Sys2Proof.Machine.execUpdRollback h s
  | .lifecycle h => Sys2Proof.Machine.execLifecycle h s
  | .powerPolicy h => Sys2Proof.Machine.execPowerPolicy h s
  | .galleryPark h => Sys2Proof.Machine.execGalleryPark h s
  | .galleryUnpark h => Sys2Proof.Machine.execGalleryUnpark h s
  | .serRole h => Sys2Proof.Machine.execSerRole h s
  | .dmxPatch h => Sys2Proof.Machine.execDmxPatch h s
  | .rdmIdent h => Sys2Proof.Machine.execRdmIdent h s
  | .flashEraseDone => Sys2Proof.Machine.execFlashEraseDone s
  | .flashProgramDone => Sys2Proof.Machine.execFlashProgramDone s
  | .serialCharacter n ch => Sys2Proof.Machine.execSerialCharacter n ch s
  | .serialBreak e => Sys2Proof.Machine.execSerialBreak e s
  | .serialStuck n => Sys2Proof.Machine.execSerialStuck n s
  | .serialAutoLift n => Sys2Proof.Machine.execSerialAutoLift n s
  | .serLift ini n v => Sys2Proof.Machine.execSerLift ini n v s
  | .serRearm ini n v => Sys2Proof.Machine.execSerRearm ini n v s
  | .serialSleep n => Sys2Proof.Machine.execSerialSleep n s
  | .serialWake e => Sys2Proof.Machine.execSerialWake e s
  | .serRxRead ini n => Sys2Proof.Machine.execSerRxRead ini n s
  | .serTxWrite ini n v => Sys2Proof.Machine.execSerTxWrite ini n v s
  | .midiMessage n => Sys2Proof.Machine.execMidiMessage n s
  | .dmxPacket n => Sys2Proof.Machine.execDmxPacket n s
  | .dmxLoss n => Sys2Proof.Machine.execDmxLoss n s
  | .rdmRequest n => Sys2Proof.Machine.execRdmRequest n s
  | .tsbFrame n => Sys2Proof.Machine.execTsbFrame n s
  | .tsbBeacon n => Sys2Proof.Machine.execTsbBeacon n s
  | .tsbPeerTimeout n => Sys2Proof.Machine.execTsbPeerTimeout n s
  | .tsbCollision n => Sys2Proof.Machine.execTsbCollision n s
  | .tsbBackoffEnd n => Sys2Proof.Machine.execTsbBackoffEnd n s
  | .consoleVer n => Sys2Proof.Machine.execConsoleVer n s
  | .consoleStat n => Sys2Proof.Machine.execConsoleStat n s
  | .consoleLog n => Sys2Proof.Machine.execConsoleLog n s
  | .consoleAuth n => Sys2Proof.Machine.execConsoleAuth n s
  | .consoleResp n => Sys2Proof.Machine.execConsoleResp n s
  | .consoleUpdBegin n => Sys2Proof.Machine.execConsoleUpdBegin n s
  | .consoleUpdD n => Sys2Proof.Machine.execConsoleUpdD n s
  | .consoleUpdCommit n => Sys2Proof.Machine.execConsoleUpdCommit n s
  | .consoleRollback n => Sys2Proof.Machine.execConsoleRollback n s
  | .consoleLc n => Sys2Proof.Machine.execConsoleLc n s
  | .consoleKey n => Sys2Proof.Machine.execConsoleKey n s
  | .consoleSessionTimeout => Sys2Proof.Machine.execConsoleSessionTimeout s
  | .resetRelease => Sys2Proof.Machine.execResetRelease s
  | .startup => Sys2Proof.Machine.execStartup s
  | .resetAssert => Sys2Proof.Machine.execResetAssert s
  | .internalReset => Sys2Proof.Machine.execInternalReset s
  | .jtagReset => Sys2Proof.Machine.execJtagReset s
  | .powerOnReset => Sys2Proof.Machine.execPowerOnReset s
  | .brownout => Sys2Proof.Machine.execBrownout s
  | .refclkLost => Sys2Proof.Machine.execRefclkLost s
  | .refclkRestored => Sys2Proof.Machine.execRefclkRestored s
  | .timeGo ini v => Sys2Proof.Machine.execTimeGo ini v s
  | .timerOverflow n => Sys2Proof.Machine.execTimerOverflow n s
  | .timerCompareMatch n => Sys2Proof.Machine.execTimerCompareMatch n s
  | .timerCountRead ini n => Sys2Proof.Machine.execTimerCountRead ini n s
  | .debugHalt cp => Sys2Proof.Machine.execDebugHalt cp s
  | .triggerEdge t rising ns half => Sys2Proof.Machine.execTriggerEdge t rising ns half s
  | .triggerTsRead ini t => Sys2Proof.Machine.execTriggerTsRead ini t s
  | .irqRaise n => Sys2Proof.Machine.execIrqRaise n s
  | .irqfDbWrite ini t v => Sys2Proof.Machine.execIrqfDbWrite ini t v s
  | .irqAck ini t => Sys2Proof.Machine.execIrqAck ini t s
  | .irqEoi ini t v => Sys2Proof.Machine.execIrqEoi ini t v s
  | .irqfCfgWrite ini v => Sys2Proof.Machine.execIrqfCfgWrite ini v s
  | .routeChange ini n v => Sys2Proof.Machine.execRouteChange ini n v s
  | .tempSample temps => Sys2Proof.Machine.execTempSample temps s
  | .thermalStepExit => Sys2Proof.Machine.execThermalStepExit s
  | .voltageSample mv => Sys2Proof.Machine.execVoltageSample mv s
  | .paceReading k reading => Sys2Proof.Machine.execPaceReading k reading s
  | .healthReport => Sys2Proof.Machine.execHealthReport s
  | .firmwareStop => Sys2Proof.Machine.execFirmwareStop s
  | .autoRestart => Sys2Proof.Machine.execAutoRestart s
  | .logTokenRefill => Sys2Proof.Machine.execLogTokenRefill s
  | .flashRefresh sector bits => Sys2Proof.Machine.execFlashRefresh sector bits s
  | .trialConfirm => Sys2Proof.Machine.execTrialConfirm s
  | .trialFail => Sys2Proof.Machine.execTrialFail s
  | .tamper => Sys2Proof.Machine.execTamper s
  | .glitchDetect => Sys2Proof.Machine.execGlitchDetect s
  | .alcoveWipe ini v => Sys2Proof.Machine.execAlcoveWipe ini v s
  | .alcoveRetention ini v => Sys2Proof.Machine.execAlcoveRetention ini v s
  | .summaryWrite => Sys2Proof.Machine.execSummaryWrite s
  | .pwrOnWrite ini d v => Sys2Proof.Machine.execPwrOnWrite ini d v s
  | .pwrRetWrite ini d v => Sys2Proof.Machine.execPwrRetWrite ini d v s
  | .domainReady d => Sys2Proof.Machine.execDomainReady d s
  | .wakeTimeout d => Sys2Proof.Machine.execWakeTimeout d s
  | .wakeRetry => Sys2Proof.Machine.execWakeRetry s
  | .autoPark => Sys2Proof.Machine.execAutoPark s
  | .fenceCtrlLift ini v => Sys2Proof.Machine.execFenceCtrlLift ini v s
  | .fenceCtrlFence ini v => Sys2Proof.Machine.execFenceCtrlFence ini v s
  | .selftestDone e pass => Sys2Proof.Machine.execSelftestDone e pass s
  | .foyerParityError h => Sys2Proof.Machine.execFoyerParityError h s
  | .queueParityError h => Sys2Proof.Machine.execQueueParityError h s
  | .reservedTransactionCode p code seq addr payload ph => Sys2Proof.Machine.execReservedTransactionCode p code seq addr payload ph s
  | .undefinedOpcode h => Sys2Proof.Machine.execUndefinedOpcode h s
  | .falseStart n => Sys2Proof.Machine.execFalseStart n s
  | .breakLineHigh n => Sys2Proof.Machine.execBreakLineHigh n s
  | .domainSwitchedOff d => Sys2Proof.Machine.execDomainSwitchedOff d s
  | .brownoutSupplyRestored => Sys2Proof.Machine.execBrownoutSupplyRestored s
  | .debugHaltReleased cp => Sys2Proof.Machine.execDebugHaltReleased cp s
  | .vrefInRange => Sys2Proof.Machine.execVrefInRange s
  | .bankVddioLost b => Sys2Proof.Machine.execBankVddioLost b s
  | .bankVddioRestored b => Sys2Proof.Machine.execBankVddioRestored b s

end Sys2Proof.Machine
end

