-- ==== Sys2Proof/Safety.lean ====
section
/-! DEFINITION. What a safe step is: it answers a next state. -/

namespace Sys2Proof.Machine

/-- The step answers a next state. -/
def Answers (o : Host.Outcome State Fault Refusal) : Prop := ∃ t, o = .next t

/-- The step from `s` is safe: it neither faults nor refuses. -/
def Safe (s : State) : Prop := Answers (step s)

/-- How far a life cycle has come (R467): FIELD and SERVICE are one stage. -/
def LifeCycle.stage : LifeCycle → Nat
  | .blank => 0 | .provisioned => 1 | .field => 2 | .service => 2 | .retired => 3

/-- The memories are in canonical form. -/
def State.memoriesWf (s : State) : Bool := s.foyer.sram.wf && s.mem.wf

/-- No command that waits is ill-formed. -/
def State.queueWf (s : State) : Bool := s.pending.all Instr.wf

/-- CP0 takes host command `c`, of `n` entries, from the head of hall `h`'s ring as one of opcode `o`: CP0 runs, the hall is bound
to a host port and has the turn (R363), its completion has room (R346), a time-stamped one has room in the event queue (R355), none of the
checks that every opcode has in common fails (R360), and CP0 does not put it off (assumption log 37, 58, 83). -/
abbrev State.Takes (s : State) (o : Opcode) (h : Fin 8) (c : Cmd) (n : Nat) : Prop :=
  s.cp0Runs = true ∧ (s.halls.get h).port?.isSome = true ∧ s.turn h = true ∧ s.nextCmd h = .cmd c n ∧ c.op = o.op ∧
    s.room h (o.need s h c) = true ∧ (o.timed = true → s.queueRoom h = true) ∧ o.check (s.takeEntries h n) h c = none ∧
    s.defers c = false

/-- A host command has completed with a status and result data (R356, R357), `need` entries having been reserved for it. -/
def State.answered (s : State) (h : Fin 8) (c : Cmd) (status : Nat) (data : List Byte) (need : Nat := 1) : State :=
  s.taken.complete h c.op c.tag c.quiet c.via status data need

/-- A host command has begun, and its completion waits (R362); `need` entries stand reserved for it. DEDUCED (assumption log 66). -/
def State.begun (s : State) (h : Fin 8) (c : Cmd) (need : Nat) (what : WaitFor) : State :=
  s.taken.updHall h fun x => { x with wait := some { op := c.op, tag := c.tag, quiet := c.quiet, via := c.via, reserve := need, what := what } }

end Sys2Proof.Machine
end

