-- ==== Sys2Proof/Certificates/Slice0/Obligations.lean ====
section
/-! DEFINITION. The statements for the provers. Each says which rules of spec/ it rests on; where a statement speaks of an order or a
value that the model chose, its docstring names the assumption-log entry. -/

open Sys2Proof Sys2Proof.Machine

/-! ### The queue and the whole machine -/

/-- A step takes the command at the front of the queue and is exec of it on the state with the queue's rest. -/
def Obligations.StepRunsTheFrontCommand : Prop :=
  ∀ (s : State) (c : Instr) (cs : List Instr), s.pending = c :: cs → step s = exec c { s with pending := cs }

/-- With no command waiting one REFCLK edge passes (the model's choice, assumption log 1): away from the bring-up edge, where REFCLK
runs and RESET_n has been sampled high, the edge count rises by one and, once rendering runs, ET by 2/512 es; where no event of a
mapped trigger is on its way to SCHED (its arrival is the model's choice, assumption log 91), no hall, no voice, no memory changes. -/
def Obligations.AnEmptyQueuePassesOneEdge : Prop :=
  ∀ (s : State), s.pending = [] →
    ∃ t, step s = .next t ∧ t.pending = [] ∧
      (s.time.armed = false → s.time.refclk = true → s.time.counting = true →
        t.time.rclk = s.time.rclk + 1 ∧ t.time.et = (if s.time.running then s.time.et + 2 else s.time.et) ∧
        (s.sched.mapped = [] → t = { s with time := t.time, irqf := t.irqf })) ∧
      (s.time.refclk = false ∨ s.time.counting = false → t = s.forward ∧ (s.sched.mapped = [] → t = s))

/-- From reset nothing waits, both memories list nothing, the device is held by RESET_n and the power-on cause is recorded (R478,
R480). The model's readings and choices: assumption log 8; that RESET_n is low at
reset is its choice too, assumption log 11. -/
def Obligations.ResetIsWellFormed : Prop :=
  State.reset.memoriesWf = true ∧ State.reset.queueWf = true ∧ State.reset.pending = [] ∧ State.reset.pins.resetLow = true ∧
    State.reset.pwr.cause = 1#32 ∧ State.reset.time.running = false ∧ State.reset.voices = [] ∧ State.reset.sys.err = 0#32

/-- Every step keeps both memories in canonical form: addresses strictly rising, no entry equal to what an unlisted address reads
as; the wave memory's flips, poisons and pages too. -/
def Obligations.EveryStepKeepsTheMemoriesCanonical : Prop :=
  ∀ (s t : State), s.memoriesWf = true → step s = .next t → t.memoriesWf = true

/-- Every step takes exactly the command at the front of the queue: the queue after it is the rest of the queue before it. -/
def Obligations.EveryStepTakesOneCommand : Prop :=
  ∀ (s t : State), step s = .next t → t.pending = s.pending.tail

/-- A queue of well-formed commands never stops the block, however many steps are taken. -/
def Obligations.WellFormedQueuesNeverStop : Prop :=
  ∀ (s : State) (k : Nat), s.queueWf = true → ∃ t : State, core.run k s = .next t ∧ t.pending = s.pending.drop k

/-- The only commands that are refused are those whose operands no row of the table admits; every other completes. That such a command
is refused, and which operands a row admits, is the model's choice, assumption log 10. -/
def Obligations.OnlyIllFormedCommandsAreRefused : Prop :=
  ∀ (c : Instr) (s : State), (c.wf = false → exec c s = .refused .illFormed) ∧ (c.wf = true → ∃ t : State, exec c s = .next t)

/-- What never comes back: the unit's identifier and grade stay; the rollback fuses never fall; the life cycle never goes back a
stage; a retired page of the flash list stays in it. Over every step (R41, R467, R463, R270). The counter of free values, which is
the model's own, never falls. The model's readings and choices: assumption log 2. -/
def Obligations.WhatEveryStepKeeps : Prop :=
  ∀ (s t : State), step s = .next t →
    t.nv.uid = s.nv.uid ∧ t.nv.a16 = s.nv.a16 ∧ (s.nv.fuses ≤ 64 → s.nv.fuses ≤ t.nv.fuses ∧ t.nv.fuses ≤ 64) ∧
    s.nv.life.stage ≤ t.nv.life.stage ∧ (∀ p ∈ s.nv.retired, p ∈ t.nv.retired) ∧ s.fresh ≤ t.fresh

/-! ### The register bus (spec/00_scope.md R8–R12, spec/01_architecture.md R33–R42, R473) -/

/-- The four accesses that reach no register: nothing is read or written, read data are zero, the flag of the access is set, and the
address is captured where the register of errors was all zero (R8, R34, R35, R42, R473). That an address from 0x4000_0000 on that lies
in no block counts as register space is the model's choice, assumption log 107. -/
def Obligations.AccessesThatReachNothing : Prop :=
  ∀ (s : State) (i : Initiator) (a : Word) (write : Bool),
    (regSpace a.toNat = true → ∃ t : State, exec (.wrongWidthAccess i a write) s = .next t ∧ t.sys.err = setFlag s.sys.err 0 ∧
      t.sys.errAddr = (if s.sys.err = 0#32 then a else s.sys.errAddr) ∧ (write = false → t.bus.data = 0#32) ∧
      t = { s with sys := { s.sys with err := t.sys.err, errAddr := t.sys.errAddr }, irqf := t.irqf, bus := { s.bus with data := t.bus.data } }) ∧
    (s.reach i a.toNat = .unmapped → ∃ t : State, exec (.unmappedAccess i a write) s = .next t ∧ t.sys.err = setFlag s.sys.err 1 ∧
      t.sys.errAddr = (if s.sys.err = 0#32 then a else s.sys.errAddr) ∧ (write = false → t.bus.data = 0#32) ∧
      t = { s with sys := { s.sys with err := t.sys.err, errAddr := t.sys.errAddr }, irqf := t.irqf, bus := { s.bus with data := t.bus.data } }) ∧
    (s.reach i a.toNat = .denied → ∃ t : State, exec (.deniedAccess i a write) s = .next t ∧ t.sys.err = setFlag s.sys.err 2 ∧
      t.sys.errAddr = (if s.sys.err = 0#32 then a else s.sys.errAddr) ∧ (write = false → t.bus.data = 0#32) ∧
      (s.mgmt.withheld = 0 → s.mgmt.tokens > 0 → t.nv.logNext = (s.nv.logNext + 1) % 2 ^ 32) ∧
      t = { s with sys := { s.sys with err := t.sys.err, errAddr := t.sys.errAddr }, irqf := t.irqf, bus := { s.bus with data := t.bus.data },
                   nv := t.nv, mgmt := t.mgmt }) ∧
    (∀ b, s.reach i a.toNat = .off b → ∃ t : State, exec (.offDomainAccess i a write) s = .next t ∧ t.pwr.err = setFlag s.pwr.err 0 ∧
      t.pwr.errAddr = (if s.pwr.err = 0#32 then a else s.pwr.errAddr) ∧ (write = false → t.bus.data = 0#32) ∧
      t = { s with pwr := { s.pwr with err := t.pwr.err, errAddr := t.pwr.errAddr }, bus := { s.bus with data := t.bus.data } })

/-- SYS_ERR_ADDR captures the address only when an error arrives while SYS_ERR is all zero, and the first setting of a bit raises
source 0 (R42). -/
def Obligations.SysErrAddrCapturesTheFirst : Prop :=
  ∀ (s : State) (n : Nat) (a : Word),
    ((s.sysErr n a).sys.errAddr = if s.sys.err = 0#32 then a else s.sys.errAddr) ∧
    (s.sys.err = 0#32 → (s.sysErr n a).irqf = s.irqf.raise 0) ∧ (s.sys.err ≠ 0#32 → (s.sysErr n a).irqf = s.irqf) ∧
    (∀ i v, i = .mp ∨ i = .cp0 → (s.busWrite i 0x40000030 v).sys.errAddr = s.sys.errAddr ∧
      (s.busWrite i 0x40000030 v).sys.err = s.sys.err &&& ~~~v)

/-- A write that reaches a register with no behaviour of its own is the write that the register's access code lets through:
SYS_SCRATCH takes it, SYS_ERR is cleared where it holds ones, SYS_STEP and a reserved offset ignore it (R9, and the access codes of the
register table in spec/01_architecture.md); nothing else changes. Through the register window the supervisor rings no other hall's
doorbell and writes no other hall's rings or staging buffers (R29; how far that reaches is the model's reading, assumption log 124). -/
def Obligations.PlainRegisterWrites : Prop :=
  ∀ (s : State) (i : Initiator) (v : Word),
    exec (.registerWrite i 0x4000003C#32 v) s = .next { s with sys := { s.sys with scratch := v } } ∧
    exec (.registerWrite i 0x40000030#32 v) s = .next { s with sys := { s.sys with err := s.sys.err &&& ~~~v } } ∧
    exec (.registerWrite i 0x40000004#32 v) s = .next s ∧ exec (.registerWrite i 0x40000038#32 v) s = .next s ∧
    (∀ a b off, s.reach i a.toNat = .ok b off → s.writeEffect i b off v = none → isPairLo b off = false → isPairHi b off = false →
      (b = .sram ∨ b = .rom ∨ b = .wave ∨ b = .alcove) ∨ exec (.registerWrite i a v) s = .next (s.regPut b off v)) ∧
    (∀ h : Fin 8, h ≠ 0 → s.pwr.answers pdCtrl = true → exec (.hallDbWrite .window h v) s = .next s) ∧
    (∀ a off, s.reach .window a.toNat = .ok .sram off → s.inOtherHall off = true → exec (.registerWrite .window a v) s = .next s)

/-- A read of the low word of a 64-bit pair answers it and holds the high word, and the read of the high word that follows returns
what was held, whatever the live value is; a write of the high word is held and has no effect until the write of the low word, which
commits both (R11, R12). That a write of a low word for which no high word is held writes the low half only is the model's choice,
assumption log 107. -/
def Obligations.PairsAreReadAndWrittenWhole : Prop :=
  ∀ (s : State) (i : Initiator) (a : Word) (b : Block) (off : Nat) (v w : Word),
    s.reach i a.toNat = .ok b off →
    (isPairLo b off = true → s.readEffect i b off = none →
      ∃ t : State, exec (.pairLoRead i a) s = .next t ∧ t.bus.data = s.regVal b off ∧
        t = { s with bus := { s.bus with data := t.bus.data, rdHold := t.bus.rdHold } } ∧
        ∀ u : State, u.bus.rdHold = t.bus.rdHold → (u.pairHi b (off + 4) (a.toNat + 4)).2 = s.regVal b (off + 4)) ∧
    (isPairHi b off = true → 4 ≤ a.toNat →
      exec (.pairHiWrite i a v) s = .next { s with bus := { s.bus with
        wrHold := (a.toNat - 4, v) :: s.bus.wrHold.filter fun x => x.1 != a.toNat - 4 } }) ∧
    (isPairLo b off = true → s.bus.wrHold.find? (fun x => x.1 == a.toNat) = some (a.toNat, w) →
      exec (.pairLoWrite i a v) s = .next (({ s with bus := { s.bus with
        wrHold := s.bus.wrHold.filter fun x => x.1 != a.toNat } }.regPut b (off + 4) w).regPut b off v)) ∧
    (isPairLo b off = true → s.bus.wrHold.find? (fun x => x.1 == a.toNat) = none →
      exec (.pairLoWrite i a v) s = .next (s.regPut b off v))

/-! ### SCHED: bring-up, frames, events, rendering (spec/02, spec/07) -/

/-- SCHED_CFG takes its first write, which with run arms render bring-up; every later write is ignored (R47, R48, R418). Render
bring-up falls on the first REFCLK edge whose count is a positive multiple of 3,686,400: ET starts from 0, the count is recorded,
frame 0 begins and hall 0 exists (R418, R25, R193). -/
def Obligations.RenderBringup : Prop :=
  (
    ∀ (s : State) (i : Initiator) (v : Word), s.pwr.answers pdCtrl = true →
      (s.sched.cfgSet = true → exec (.schedCfgWrite i v) s = .next s) ∧
      (s.sched.cfgSet = false → bit v 31 = false → exec (.schedCfgWrite i v) s =
        .next { s with sched := { s.sched with cfg := v &&& 0x80000001#32, cfgSet := true } }) ∧
      (s.sched.cfgSet = false → bit v 31 = true → s.time.rclk < bringupStep → exec (.schedCfgWrite i v) s =
        .next { s with sched := { s.sched with cfg := v &&& 0x80000001#32, cfgSet := true }, time := { s.time with armed := true } }) ∧
      (s.sched.cfgSet = false → bit v 31 = true → bringupStep ≤ s.time.rclk → ∃ t : State, exec (.schedCfgWrite i v) s = .next t ∧
        t.time.armed = true ∧ t.time.late = true ∧ t.time.err = setFlag s.time.err 1 ∧ t.sched.cfgSet = true ∧ t.halls = s.halls)) ∧
  (
    ∀ (s : State), s.time.armed = true → s.time.counting = true → s.time.refclk = true →
      ∃ t : State, exec .renderBringup s = .next t ∧ t.time.running = true ∧ t.time.et = 0 ∧ t.time.armed = false ∧
        s.time.rclk < t.time.rclk ∧ t.time.rclk % bringupStep = 0 ∧ t.time.rclk ≤ s.time.rclk + bringupStep ∧
        t.time.bringup = word t.time.rclk ∧ t.sched.nextClose = 2 ∧ t.sched.nextBound = 1 ∧ t.mez.next = 0 ∧ t.out.next = 0 ∧
        (t.halls.get 0).alive = true ∧ t.nv = s.nv ∧ t.foyer = s.foyer)

/-- Measured admission follows the supervisor's writes of SCHED_MEAS_CTRL: meas_en is set with a calibration record and ignored
without one, cleared at once in the register and at the next frame boundary in admission; a write by another initiator writes the
margin only. MB_g is recomputed every 64 frames from the lowest reading of the 64 frames before, a margin of 0 counting as 1
(R69–R71, R450). When the 64 frames begin, and what a gallery without a reading keeps: the model's choice, assumption log 106. -/
def Obligations.MeasuredBudgets : Prop :=
  ∀ (s : State),
    (∀ v, s.pwr.answers pdCtrl = true → bit v 31 = true → s.nv.calValid = true →
      ∃ t : State, exec (.measCtrlWrite .window v) s = .next t ∧ t.sched.measured = true ∧ bit t.sched.meas 31 = true ∧
        bits t.sched.meas 15 8 = bits v 15 8 ∧ t.sched.guar = setFlag s.sched.guar 1 ∧ t.halls = s.halls ∧ t.voices = s.voices) ∧
    (∀ v, s.pwr.answers pdCtrl = true → bit v 31 = true → s.nv.calValid = false →
      ∃ t : State, exec (.measCtrlWrite .window v) s = .next t ∧ bit t.sched.meas 31 = bit s.sched.meas 31 ∧
        bits t.sched.meas 15 8 = bits v 15 8 ∧ t = { s with sched := { s.sched with meas := t.sched.meas } }) ∧
    (∀ v, s.pwr.answers pdCtrl = true → bit v 31 = false →
      ∃ t : State, exec (.measCtrlWrite .window v) s = .next t ∧ t.sched.measured = s.sched.measured ∧ bit t.sched.meas 31 = false ∧
        bits t.sched.meas 15 8 = bits v 15 8 ∧ t.sched.measOff = (s.sched.measOff || bit s.sched.meas 31) ∧
        t = { s with sched := { s.sched with meas := t.sched.meas, measOff := t.sched.measOff } }) ∧
    (∀ F, F = s.sched.nextBound → s.reaches (s.start F) = true → bit s.sched.meas 31 = false → s.time.armed = false →
      ∃ t : State, exec .frameBoundary s = .next t ∧ ∀ hl x, t.heBudget hl x = hl.hb) ∧
    (∀ i v, i ≠ .window → s.reach i 0x40200020 = .ok .sched 0x20 →
      ∃ t : State, exec (.measCtrlWrite i v) s = .next t ∧ bit t.sched.meas 31 = bit s.sched.meas 31 ∧
        bits t.sched.meas 15 8 = bits v 15 8 ∧ t = { s with sched := { s.sched with meas := t.sched.meas } }) ∧
    (s.reaches (s.start s.sched.nextMb) = false → exec .mbRecompute s = .next s) ∧
    (∀ u, s.reaches (s.start s.sched.nextMb) = true → u = s.passTo (s.start s.sched.nextMb) →
      ∃ t : State, exec .mbRecompute s = .next t ∧
        t = { u with sched := { u.sched with mb := t.sched.mb, nextMb := s.sched.nextMb + 64 } } ∧
        ∀ g : Fin 8, (u.paceMin g s.sched.nextMb = none → t.sched.mb.get g = u.sched.mb.get g) ∧
          ∀ p, u.paceMin g s.sched.nextMb = some p → t.sched.mb.get g = min (2 * u.cb)
            (u.cb * p * max 1 (bits u.sched.meas 15 8) / (max 1 ((u.nv.paceCert u.fe882).getD g.val 1) * 256)))

/-- The event list of the next frame closes one frame before its start, once the frame four before it has been rendered, and the one
after it is next; an event outside the flight takes effect at its applied time; a frame boundary is followed by the next frame's
(R49, R54, R18, R199). The model's readings and choices: assumption log 30, 34. -/
def Obligations.FramesFollowEachOther : Prop :=
  ∀ (s : State),
    (∀ F, F = s.sched.nextClose → s.reaches (s.start (F - 1)) = true →
      (F < 4 ∨ (s.runTo (s.start (F - 1))).rendered (F - 4) = true) →
      ∃ t : State, exec .eventListClose s = .next t ∧ t = (s.runTo (s.start (F - 1))).closeList F ∧
        t.sched.nextClose = F + 1 ∧ t.sched.wait = false) ∧
    (∀ F, F = s.sched.nextClose → s.reaches (s.start (F - 1)) = true → 4 ≤ F →
      (s.runTo (s.start (F - 1))).rendered (F - 4) = false →
      ∃ t : State, exec .eventListClose s = .next t ∧ t.sched.wait = true ∧ t.voices = (s.runTo (s.start (F - 1))).voices) ∧
    (∀ u, s.nextOther = some u → s.reaches u = true → s.time.armed = false →
      ∃ t : State, exec .eventApply s = .next t ∧ u ≤ t.time.et ∧
        ∀ h, ∀ e ∈ (t.halls.get h).queue, e.kind.inFlight = true ∨ t.time.et < e.time) ∧
    (∀ F, F = s.sched.nextBound → s.reaches (s.start F) = true →
      ∃ t : State, exec .frameBoundary s = .next t ∧ t = (s.runTo (s.start F)).boundary F ∧ t.sched.nextBound = F + 1)

/-- An engine that may render its next frame renders it: the frame is done, the next one follows, and time, queues and buses are
untouched (R50, R58). Symbol errors may have appeared in wave memory meanwhile. A memory error or a stall fences its engine at once,
an error of the gallery's voltage its gallery; each is recorded, counted and raised, and the memory error sets SCHED_GUAR.ue (R78,
R220, R482, R483, R449). The model's readings and choices: assumption log 34, 61, 115. -/
def Obligations.EnginesRenderFramesOrAreFenced : Prop :=
  (
    ∀ (s : State) (e : Fin 64) (upsets : Upsets) (f : Nat), Upsets.wf upsets = true →
      ({ s with mem := s.mem.upset upsets } : State).engFrame e.val = some f →
      ({ s with mem := s.mem.upset upsets } : State).mayRender e f = true →
      ∃ t : State, exec (.engineRenderFrame e upsets) s = .next t ∧ t = ({ s with mem := s.mem.upset upsets } : State).render e f ∧
        (t.eng.get e).next = f + 1 ∧ (t.eng.get e).done = word f ∧ t.time = s.time ∧ t.out = s.out ∧ t.dac = s.dac) ∧
  (
    ∀ (s : State) (e : Fin 64) (g : Fin 8),
      (s.pwr.on (pdGal (galOf e.val)) = true → (s.eng.get e).fenced = false →
        ∃ t : State, exec (.engineSramError e) s = .next t ∧ t = (s.guar 4).fenceEngine e 1 ∧ bit t.sched.guar 4 = true ∧
          (t.eng.get e).fenced = true ∧ t.fence.cnt.get 1 = satInc (s.fence.cnt.get 1) 1) ∧
      (s.pwr.on (pdGal (galOf e.val)) = true → (s.engFrame e.val).isSome = true → (s.eng.get e).fenced = false →
        ∃ t : State, exec (.engineStall e) s = .next t ∧ t = s.fenceEngine e 2 ∧ (t.eng.get e).fenced = true ∧
          t.fence.cnt.get 1 = satInc (s.fence.cnt.get 1) 1) ∧
      (s.mgmt.vmonBad.get (pdGal g) = true → (s.gal.get g).fenced = false →
        ∃ t : State, exec (.galleryVmonFence g) s = .next t ∧ t = s.fenceGallery g 4 ∧ (t.gal.get g).fenced = true ∧
          t.fence.cnt.get 2 = satInc (s.fence.cnt.get 2) 1))

/-- A parity error in a hall's rings or in its event queue fences the hall from the first frame whose event list is open; its
programs, pages, geometry and binding are kept (R488). A hall that has been silent for its keepalive time lapses: its flag is set,
its queue discarded, its voices released; 10 s later the voices that the lapse released are killed, and a later lapse waits for its
own 10 s (R213). The model's readings: that a parity error of the event queue sets SCHED_GUAR.ue, assumption log 115; that the lapse
releases with velocity 0, assumption log 31. -/
def Obligations.HallFaultsAndSilence : Prop :=
  (
    ∀ (s : State) (h : Fin 8), (s.halls.get h).alive = true → Stepped.now false (s.halls.get h).fenced = false →
      (s.pwr.on pdFoyer = true → ∃ t : State, exec (.foyerParityError h) s = .next t ∧ t = s.fenceHall h 12 ∧
        (t.halls.get h).fenceReq = some s.openFrame ∧ Stepped.now false (t.halls.get h).fenced = true ∧
        (t.halls.get h).progs = (s.halls.get h).progs ∧ t.mem = s.mem ∧ t.voices = s.voices ∧
        (t.halls.get h).binding = (s.halls.get h).binding ∧ (t.halls.get h).engs = (s.halls.get h).engs ∧
        (t.halls.get h).nHe = (s.halls.get h).nHe ∧ (t.halls.get h).hb = (s.halls.get h).hb ∧ (t.halls.get h).hs = (s.halls.get h).hs ∧
        (t.halls.get h).hd = (s.halls.get h).hd) ∧
      (s.pwr.on pdCtrl = true → ∃ t : State, exec (.queueParityError h) s = .next t ∧ t = (s.guar 4).fenceHall h 13 ∧
        bit t.sched.guar 4 = true ∧
        (t.halls.get h).fenceReq = some s.openFrame ∧ Stepped.now false (t.halls.get h).fenced = true ∧
        (t.halls.get h).progs = (s.halls.get h).progs ∧ t.mem = s.mem ∧ t.voices = s.voices ∧
        (t.halls.get h).binding = (s.halls.get h).binding ∧ (t.halls.get h).engs = (s.halls.get h).engs ∧
        (t.halls.get h).nHe = (s.halls.get h).nHe ∧ (t.halls.get h).hb = (s.halls.get h).hb ∧ (t.halls.get h).hs = (s.halls.get h).hs ∧
        (t.halls.get h).hd = (s.halls.get h).hd)) ∧
  (
    ∀ (s : State) (h : Fin 8),
      (s.silent h = true → ∃ t : State, exec (.keepaliveLapse h) s = .next t ∧ (t.halls.get h).kaLapsed = true ∧
        (t.halls.get h).queue = [] ∧ (t.halls.get h).lapses = (s.halls.get h).lapses ++ [(s.time.rclk, s.openAt)] ∧ t.time = s.time ∧
        t.voices = s.voices.map (fun v => if v.hall = h.val ∧ v.alive = true then v.releaseAt s.openAt 0 else v)) ∧
      (∀ r T rest, (s.halls.get h).lapses = (r, T) :: rest → r + s.edgesUs 10000000 ≤ s.time.rclk →
        exec (.keepaliveKill h) s = .next ((s.lapseKill h T).updHall h fun x => { x with lapses := rest })) ∧
      (∀ r T rest, (s.halls.get h).lapses = (r, T) :: rest → s.time.rclk < r + s.edgesUs 10000000 →
        exec (.keepaliveKill h) s = .next s))

/-- The supervisor's lift and fence requests act on the unit that FENCE_CTRL names: BAD_UNIT where no such unit exists or the kind
may not be fenced, NOT_FENCED where nothing stands; a self-test that passes puts the engine back, one that fails fences it again
(R483, R486, R487). The model's readings and choices: assumption log 99. -/
def Obligations.FenceRequestsAct : Prop :=
  ∀ (s : State) (v : Word), bit v 31 = true →
    (s.fence.busy = none →
      exec (.fenceCtrlLift .window v) s = .next (s.liftUnit (bits v 26 24) (bits v 11 0)) ∧
      exec (.fenceCtrlFence .window v) s = .next (s.fenceUnit (bits v 26 24) (bits v 11 0))) ∧
    (∀ k n, unitCount k ≤ n → s.liftUnit k n = { s with fence := { s.fence with code := 4 } } ∧
      s.fenceUnit k n = { s with fence := { s.fence with code := 4 } }) ∧
    (∀ k n, n < unitCount k → s.fence.standing? k n = none → s.liftUnit k n = { s with fence := { s.fence with code := 1 } }) ∧
    (∀ k n, k = 0 ∨ k = 4 ∨ k = 5 ∨ k = 6 → s.fenceUnit k n = { s with fence := { s.fence with code := 4 } }) ∧
    (∀ e : Fin 64, (s.eng.get e).selftest = true → s.fence.busy = some (.selftest e.val) →
      (∃ t : State, exec (.selftestDone e true) s = .next t ∧ (t.eng.get e).selftest = false ∧ (t.eng.get e).fenced = false ∧
        t.fence.busy = none ∧ t.fence.code = 0) ∧
      (∃ t : State, exec (.selftestDone e false) s = .next t ∧ (t.eng.get e).selftest = false ∧ (t.eng.get e).fenced = true ∧
        t.fence.busy = none ∧ t.fence.code = 3))

/-! ### Commands of the halls (spec/13_command_set.md) -/

/-- A command that CP0 takes and that fails one of the checks common to every opcode completes with that check's status: nothing but
the ring's head and its completion changes (R360). A command whose opcode the table does not hold completes BAD_OPCODE, in a fenced
hall outside groups 0x01 and 0x09 FENCED, and changes nothing else (R360). No command of a hall is taken while another hall, nearer
in the turn after the hall served last, has one ready (R363). The model's readings and choices: assumption log 65, 116. -/
def Obligations.ChecksCommonToEveryCommand : Prop :=
  (
    ∀ (s : State) (o : Opcode) (h : Fin 8) (c : Cmd) (n st : Nat),
      s.cp0Runs = true → (s.halls.get h).port?.isSome = true → s.turn h = true → s.nextCmd h = .cmd c n → c.op = o.op →
      s.room h (o.need s h c) = true → (o.timed = true → s.queueRoom h = true) → o.check (s.takeEntries h n) h c = some st →
      s.defers c = false →
      o.take o.is h s = (s.takeEntries h n (o.need s h c)).answered h c st [] (o.need s h c)) ∧
  (
    ∀ (s : State) (h : Fin 8) (c : Cmd) (n : Nat), s.cp0Runs = true → (s.halls.get h).port?.isSome = true →
      s.turn h = true → s.nextCmd h = .cmd c n → c.op ∉ opcodes → s.room h 1 = true →
      exec (.undefinedOpcode h) s = .next ((s.takeEntries h n).answered h c
        (if (s.takeEntries h n).hallFenced h = true ∧ c.op / 256 ≠ 1 ∧ c.op / 256 ≠ 9 then 0x20 else 0x10) [])) ∧
  (
    ∀ (s : State) (o : Opcode) (h k : Fin 8), (k.val + 7 - s.foyer.last.val) % 8 < (h.val + 7 - s.foyer.last.val) % 8 →
      s.ready k = true → o.take o.is h s = s ∧ exec (.undefinedOpcode h) s = .next s)

/-- The commands that read: their completion carries what R337, GET_INFO, R368, R385 and STATS give, and nothing else happens. BYE
lapses the hall (type 0) or suspends its keepalive (type 1), MOD_SET gives the new moderation, PORT_SLEEP only completes: its
posting sets the port asleep (R351, R369, R370). The model's readings and choices: assumption log 67. -/
def Obligations.ReadingAndSessionCommandsComplete : Prop :=
  (
    ∀ (s : State) (h : Fin 8) (c : Cmd) (n : Nat),
      (∀ p, s.Takes opHelloEcho h c n → ((s.takeEntries h n).halls.get h).port? = some p →
        exec (.helloEcho h) s = .next ((s.takeEntries h n).answered h c 0
          ((s.takeEntries h n).helloData p (s.port p).nowVersion (s.port p).width
            (at_ (s.foyer.sup == some p) 0 + ((s.port p).helloFlags / 2 % 4) * 2)))) ∧
      (s.Takes opGetInfo h c n →
        exec (.getInfo h) s = .next ((s.takeEntries h n).answered h c 0 ((s.takeEntries h n).hallInfo h))) ∧
      (s.Takes opKeepalive h c n →
        exec (.keepalive h) s = .next ((s.takeEntries h n).answered h c 0 (leBytes 8 s.time.et))) ∧
      (s.Takes opTimeGet h c n →
        exec (.timeGet h) s = .next ((s.takeEntries h n).answered h c 0
          (leBytes 8 s.time.et ++ leBytes 8 s.openAt ++ leBytes 4 s.lead ++ [byte s.fl, byte (at_ s.fe882 0)]))) ∧
      (s.Takes opStats h c n →
        exec (.stats h) s = .next ((s.takeEntries h n).answered h c 0 ((s.takeEntries h n).stats h)))) ∧
  (
    ∀ (s : State) (h : Fin 8) (c : Cmd) (n : Nat),
      (s.Takes opBye h c n → c.pay = [0#8, 0#8, 0#8, 0#8] →
        exec (.bye h) s = .next (((s.takeEntries h n).lapse h).answered h c 0 [])) ∧
      (s.Takes opBye h c n → c.pay = [1#8, 0#8, 0#8, 0#8] →
        exec (.bye h) s = .next (((s.takeEntries h n).updHall h fun x => { x with kaSusp := true }).answered h c 0 [])) ∧
      (s.Takes opModSet h c n → zero c.pay 1 1 = true → 1 ≤ f8 c.pay 0 → f8 c.pay 0 ≤ 64 →
        exec (.modSet h) s = .next (((s.takeEntries h n).updRing h fun r =>
          { r with modCount := f8 c.pay 0, modTime := f16 c.pay 2 }).answered h c 0 [])) ∧
      (s.Takes opPortSleep h c n → exec (.portSleep h) s = .next ((s.takeEntries h n).answered h c 0 [])) ∧
      (∀ p x, (s.halls.get h).port? = some p → x.sleep = true → isLost x = false → ((s.postItem h x).port p).asleep = true))

/-- HALL_CREATE makes a hall of the number its payload names, as the payload describes it, its hall engines mapped by first fit;
HALL_RESIZE changes the groups that are selected; HALL_BIND rebinds; HALL_CLOSE closes (R371–R373, R223, R193–R195). The model's
readings and choices: assumption log 37; that a HALL_BIND
of kind 0 unbinds is its reading, assumption log 75, and so is what a selected ring length equal to the present one does, log 76. -/
def Obligations.HallCommandsComplete : Prop :=
  ∀ (s : State) (h : Fin 8) (c : Cmd) (n : Nat) (t : State), t = s.takeEntries h n →
    (∀ halls, s.Takes opHallCreate h c n → s.ghosts c = false → firstFail (t.createChecks c.pay) = none →
      addEngs t.cb t.usable (hallIx (f8 c.pay 0)) t.openFrame (List.range (f8 c.pay 8))
        (t.halls.put (hallIx (f8 c.pay 0)) (newHall t.time.rclk c.pay)) = some halls →
      exec (.hallCreate h) s = .next (({ t with halls := halls }.irqHall (hallIx (f8 c.pay 0))).answered h c 0 [])) ∧
    (s.Takes opHallResize h c n → firstFail (t.resizeChecks c.pay) = none → f8 c.pay 1 % 2 = 0 →
      exec (.hallResize h) s = .next (((t.resizeRest (hallIx (f8 c.pay 0)) c.pay).updHall (hallIx (f8 c.pay 0)) fun x =>
        { x with resizeAt := some t.openFrame }).answered h c 0 [])) ∧
    (s.Takes opHallBind h c n → zero c.pay 1 3 = true → 1 ≤ f8 c.pay 0 → f8 c.pay 0 ≤ 7 → bindOk (w32 c.pay 4) = true →
      (t.halls.get (hallIx (f8 c.pay 0))).alive = true → t.bindTaken (hallIx (f8 c.pay 0)) (w32 c.pay 4) = false →
      ∃ u : State, exec (.hallBind h) s = .next (u.answered h c 0 []) ∧ (u.halls.get (hallIx (f8 c.pay 0))).binding = w32 c.pay 4 ∧
        u.voices = s.voices ∧ u.mem = s.mem ∧ ∀ k, k ≠ hallIx (f8 c.pay 0) → u.halls.get k = t.halls.get k) ∧
    (s.Takes opHallClose h c n → zero c.pay 1 3 = true → 1 ≤ f8 c.pay 0 → f8 c.pay 0 ≤ 7 →
      (t.hall (f8 c.pay 0)).alive = true →
      exec (.hallClose h) s = .next ((t.closeHall (hallIx (f8 c.pay 0))).answered h c 0 []))

/-- PROG_LOAD claims the pages of the stored form and its completion waits for the load; PROG_FREE sets the program draining;
PROG_INFO tells what R374 lists; other halls that wait for pages are served after PROG_LOAD (R102, R88, R374, R509). A load that
waits ends as R84–R87 and R258, R259 say: the program is stored and its handle is answered; the decrypted payload fills the
destination, or, where check 6 of R258 fails, the pages are zeroed and the status is AUTH_FAIL. That the index of a stored program is
the lowest free one is the model's choice, assumption log 108; its other readings and choices: assumption log 62, 66. -/
def Obligations.ProgramCommandsComplete : Prop :=
  (
    ∀ (s : State) (h : Fin 8) (c : Cmd) (n : Nat) (t : State), t = s.takeEntries h n →
      (∀ p ps u bs, s.Takes opProgLoad h c n → zero c.pay 2 2 = true → f16 c.pay 0 ≤ 4095 → f32 c.pay 4 ≠ 0 →
        f32 c.pay 4 ≤ 8388608 → f16 c.pay 0 + (f32 c.pay 4 + 65535) / 65536 ≤ 4096 →
        (spanOf (f16 c.pay 0) (f32 c.pay 4)).all (t.mayRead h) = true →
        u = t.memDo (t.mem.readCws (runCws (f16 c.pay 0) (f32 c.pay 4))) →
        ((runCws (f16 c.pay 0) (f32 c.pay 4)).all fun w => !u.mem.flagged w) = true →
        bs = u.mem.rdList (f16 c.pay 0 * 65536) (f32 c.pay 4) →
        parseImage 0x15 0x30 (u.halls.get h).rv bs.toArray = .ok p → u.progChecks h p = none →
        u.pagesFor h p.storedPages false = .take ps → (u.halls.get h).freeIdx.isSome = true →
        exec (.progLoad h) s = .next (({ u with mem := u.mem.claim ps h.val .stored }.begun h c 1
          (.progLoad (imageOf bs).1 (imageOf bs).2 ps)).servePages)) ∧
      (s.Takes opProgFree h c n → zero c.pay 2 2 = true → ((t.halls.get h).prog? (f16 c.pay 0)).isSome = true →
        exec (.progFree h) s = .next (((t.updHall h fun x => { x with progs := x.progs.map (fun (e : ProgEnt) =>
          if (handleOf e.idx e.gen = f16 c.pay 0) then { e with draining := true } else e) }).reap h).answered h c 0 [])) ∧
      (∀ e, s.Takes opProgInfo h c n → zero c.pay 2 2 = true →
        (t.halls.get h).progs.find? (fun p => handleOf p.idx p.gen == f16 c.pay 0) = some e →
        exec (.progInfo h) s = .next (t.answered h c 0 (t.progInfo h e)))) ∧
  (
    ∀ (s : State) (h : Fin 8) (w : Wait), (s.halls.get h).wait = some w →
      (∀ image pf3 ps p, w.what = .progLoad image pf3 ps →
        parsePf4 0x15 0x30 (s.halls.get h).rv image.toArray pf3 = .ok p →
        exec (.progLoadDone h) s = .next (s.storeProg h image p ps)) ∧
      (∀ stage dest len u, w.what = .sealed stage dest len →
        u = s.memDo (s.mem.readCws (cwSpan (stage * 65536) (0x60 + len))) →
        exec (.sealedLoadDone h) s = .next (match u.openPackage h stage len with
          | some bs => ((dest.zipIdx.foldl (fun (v : State) x => v.fillPage x.1 (bs.drop (65536 * x.2)) .sealed) u).erasePkg h).endWait h 0
              (leBytes 4 len)
          | none => ((dest.foldl (fun (v : State) p => v.fillPage p [] .owned) u).erasePkg h).endWait h 0x31 [])))

/-- PAGE_ALLOC claims the pages that R254 gives and answers them; PAGE_FREE gives pages to their wipe; WAVE_WRITE, from the ring or
as a BULK, writes its data; WAVE_LOAD_SEALED claims its destination and waits for the decryption (R254–R259, R375–R377, R338). The
model's readings and choices: assumption log 63, 66; the order in which waiting
halls are then served is its choice, assumption log 62. -/
def Obligations.PageCommandsComplete : Prop :=
  ∀ (s : State) (h : Fin 8) (c : Cmd) (n : Nat) (t : State), t = s.takeEntries h n →
    (∀ ps, s.Takes opPageAlloc h c n → f8 c.pay 2 < 2 → zero c.pay 3 1 = true → f16 c.pay 0 ≠ 0 → f16 c.pay 0 ≤ 4096 →
      t.pagesFor h (f16 c.pay 0) (f8 c.pay 2 % 2 == 1) = .take ps → 1 + pageExt ps ≤ (t.halls.get h).ring.len →
      exec (.pageAlloc h) s = .next (({ s.takeEntries h n (needPages s h c) with mem := t.mem.claim ps h.val .owned }.answered h c 0
        (pageResult ps) (needPages s h c)).servePages)) ∧
    (s.Takes opPageFree h c n → zero c.pay 2 2 = true → ((pagesOfPay c.pay).all fun p => decide (p < 4096)) = true →
      noDup (pagesOfPay c.pay) = true → ((pagesOfPay c.pay).all fun p => (t.freeFault h p).isNone) = true →
      exec (.pageFree h) s = .next ((t.wipePages (pagesOfPay c.pay)).answered h c 0 [])) ∧
    (s.Takes opWaveWrite h c n → zero c.pay 2 2 = true → f16 c.pay 0 ≤ 4095 → f32 c.pay 4 ≤ 65535 → c.pay.drop 12 ≠ [] →
      f16 c.pay 0 * 65536 + f32 c.pay 4 + (c.pay.drop 12).length ≤ 4096 * 65536 →
      ((runOf (f16 c.pay 0) ((f32 c.pay 4 + (c.pay.drop 12).length + 65535) / 65536)).all fun p => (t.pageFault h p).isNone) = true →
      exec (.waveWrite h) s = .next ((t.memDo (t.mem.writeBytes (f16 c.pay 0 * 65536 + f32 c.pay 4) (c.pay.drop 12))).answered h c 0 [])) ∧
    (∀ j u data, s.nextCmd h = .bulk j → s.cp0Runs = true → s.room h 1 = true →
      s.turn h = true → u = (s.updHall h fun x => { x with bulks := x.bulks.tail }).takeEntries h 0 →
      data = u.sramRead (stageBase j.port j.buf) j.len → u.hallFenced h = false → data ≠ [] → j.addr / 65536 ≤ 4095 →
      j.addr + data.length ≤ 4096 * 65536 →
      ((runOf (j.addr / 65536) ((j.addr % 65536 + data.length + 65535) / 65536)).all fun p => (u.pageFault h p).isNone) = true →
      exec (.waveWrite h) s = .next ((u.memDo (u.mem.writeBytes (j.addr / 65536 * 65536 + j.addr % 65536) data)).answered h
        { op := 0x0403, tag := j.tag, flags := 0, len := 12, pay := [], via := .bulk j.port j.buf } 0 [])) ∧
    (∀ ds len, s.Takes opWaveLoadSealed h c n → zero c.pay 8 4 = true → f16 c.pay 0 + f16 c.pay 2 ≤ 4096 → f16 c.pay 0 ≤ 4095 →
      f16 c.pay 4 + f16 c.pay 6 ≤ 4096 → f16 c.pay 4 ≤ 4095 → f16 c.pay 2 ≠ 0 → f16 c.pay 6 ≠ 0 →
      ds = runOf (f16 c.pay 4) (f16 c.pay 6) → len = leNat (t.mem.rdList (f16 c.pay 0 * 65536 + 0x10) 4) →
      0x60 + len ≤ f16 c.pay 2 * 65536 → len ≤ f16 c.pay 6 * 65536 →
      ((runOf (f16 c.pay 0) (f16 c.pay 2) ++ ds).all fun p => (t.mem.page p).hall == h.val && (t.mem.page p).state == .owned) = true →
      ∀ u, u = t.memDo (t.mem.readCws (runCws (f16 c.pay 0) (0x60 + len))) →
      ((runCws (f16 c.pay 0) (0x60 + len)).all fun w => !u.mem.flagged w) = true →
      sealedBad (fun o k => t.mem.rdList (f16 c.pay 0 * 65536 + o) k) = false →
      leNat (t.mem.rdList (f16 c.pay 0 * 65536 + 4) 2) = 1 → (ds.all fun p => (u.pageFault h p).isNone && !u.referenced h p) = true →
      exec (.waveLoadSealed h) s =
        .next (({ u with mem := u.mem.claim ds h.val .sealing }.unwrapPkg h (f16 c.pay 0)).begun h c 1 (.sealed (f16 c.pay 0) ds len)))

/-- The voice events are queued at SCHED at their event time, or, IMMEDIATE, at the present plus LEAD; their completion tells the
applied time and whether the event was late (R365, R378–R380, R54, R55). The model's readings and choices: assumption log 30. -/
def Obligations.VoiceEventsAreQueued : Prop :=
  ∀ (s : State) (h : Fin 8) (c : Cmd) (n : Nat) (t : State) (T : Nat), t = s.takeEntries h n →
    T = (if c.immediate then t.time.et + t.lead else f64 c.pay 0) → t.timeOk T = true →
    (s.Takes opVoiceStart h c n → firstFail (t.startChecks h c.pay) = none →
      exec (.voiceStart h) s = .next ((t.arrive h 0 c.tag c.tag t.time.et T (.start (startOf c.pay))).1.answered h c
        (if (t.arrive h 0 c.tag c.tag t.time.et T (.start (startOf c.pay))).2.2 then 1 else 0)
        (leBytes 8 (t.arrive h 0 c.tag c.tag t.time.et T (.start (startOf c.pay))).2.1))) ∧
    (s.Takes opVoiceRelease h c n → zero c.pay 10 2 = true →
      ∃ a late u, t.arrive h 0 c.tag c.tag t.time.et T (.release (whoOf (f16 c.pay 8)) (s32 c.pay 12)) = (u, a, late) ∧
        exec (.voiceRelease h) s = .next (u.answered h c (if late then 1 else 0) (leBytes 8 a))) ∧
    (s.Takes opVoiceKill h c n → zero c.pay 10 2 = true →
      ∃ a late u, t.arrive h 0 c.tag c.tag t.time.et T (.kill (whoOf (f16 c.pay 8))) = (u, a, late) ∧
        exec (.voiceKill h) s = .next (u.answered h c (if late then 1 else 0) (leBytes 8 a))) ∧
    (s.Takes opParamSet h c n → firstFail (t.paramChecks h c.pay false) = none →
      ∃ a late u, t.arrive h 0 c.tag c.tag t.time.et T (.param (paramWho c.pay) (f8 c.pay 12) (s32 c.pay 16) none) = (u, a, late) ∧
        exec (.paramSet h) s = .next (u.answered h c (if late then 1 else 0) (leBytes 8 a))) ∧
    (s.Takes opParamRamp h c n → firstFail (t.paramChecks h c.pay true) = none →
      ∃ a late u, t.arrive h 0 c.tag c.tag t.time.et T
          (.param (paramWho c.pay) (f8 c.pay 12) (s32 c.pay 16) (some (f64 c.pay 20))) = (u, a, late) ∧
        exec (.paramRamp h) s = .next (u.answered h c (if late then 1 else 0) (leBytes 8 a))) ∧
    (s.Takes opHallCtrl h c n → ctrlOk c.pay = true →
      ∃ a late u, t.arrive h 0 c.tag c.tag t.time.et T (ctrlOf c.pay) = (u, a, late) ∧
        exec (.hallCtrl h) s = .next (u.answered h c (if late then 1 else 0) (leBytes 8 a)))

/-- An event that arrives meets LEAD and is applied at its event time, or is late and is applied at the later of its event time and
the first unrendered sample; it enters its hall's queue, and for a late one the late count rises and SCHED_GUAR.late is set (R52,
R54, R55). The model's readings and choices: assumption log 30. -/
def Obligations.ArrivalFixesTheAppliedTime : Prop :=
  ∀ (s : State) (h : Fin 8) (src tag org a T : Nat) (k : EvKind),
    (a + s.lead ≤ T → s.openAt ≤ T →
      ∃ u, s.arrive h src tag org a T k = (u, T, false) ∧ u.sched.lateCnt = s.sched.lateCnt ∧ u.sched.guar = s.sched.guar ∧
        (u.halls.get h).queue.length = (s.halls.get h).queue.length + 1) ∧
    (T < a + s.lead ∨ T < s.openAt →
      ∃ u, s.arrive h src tag org a T k = (u, max T s.openAt, true) ∧ u.sched.lateCnt = satInc s.sched.lateCnt 1 ∧
        u.sched.guar = setFlag s.sched.guar 2 ∧ (u.halls.get h).queue.length = (s.halls.get h).queue.length + 1 ∧
        (u.halls.get h).lateCnt = satInc (s.halls.get h).lateCnt 1) ∧
    (∀ u a' l, s.arrive h src tag org a T k = (u, a', l) →
      u.voices = s.voices ∧ u.time = s.time ∧ u.mem = s.mem ∧ u.foyer = s.foyer ∧ ∀ m, m ≠ h → u.halls.get m = s.halls.get m)

/-- The five operations of BUS_ROUTE are queued at SCHED as voice events are; IN_ROUTE takes the route named or the lowest free one
and answers its number, and TDM_DEST, DAC_DEST are the supervisor's (R381, R280, R283, R318, R365). The model's readings and
choices: assumption log 45; that the
fields an operation does not use may hold anything is its reading, assumption log 77. -/
def Obligations.BusRoutesAreQueued : Prop :=
  ∀ (s : State) (h : Fin 8) (c : Cmd) (n : Nat) (t : State) (T : Nat), t = s.takeEntries h n →
    T = (if c.immediate then t.time.et + t.lead else f64 c.pay 0) → t.timeOk T = true → busZero c.pay = true →
    (∀ k, s.Takes (opBus cmdInRoute) h c n → f8 c.pay 8 = 0 → (f8 c.pay 9 < 32 ∨ f8 c.pay 9 = 0xFF) → f8 c.pay 10 ≤ 1 →
      f8 c.pay 11 ≤ 15 → f8 c.pay 12 < 64 → isS24 (s32 c.pay 16) = true → t.inMask h (f8 c.pay 12) = true →
      t.routeFor (f8 c.pay 9) = some k → (t.routeOwner k = none ∨ t.routeOwner k = some h.val) →
      ∃ a late u, t.arrive h 0 c.tag c.tag t.time.et T
          (.inRoute k (f8 c.pay 10) (f8 c.pay 11) (f8 c.pay 12) (w32 c.pay 16 &&& 0x00FFFFFF#32)) = (u, a, late) ∧
        exec (.inRoute h) s = .next (u.answered h c (if late then 1 else 0) (leBytes 8 a ++ [byte k]))) ∧
    (s.Takes (opBus cmdInFree) h c n → f8 c.pay 8 = 1 → f8 c.pay 9 < 32 →
      (t.routeOwner (f8 c.pay 9) = none ∨ t.routeOwner (f8 c.pay 9) = some h.val) →
      ∃ a late u, t.arrive h 0 c.tag c.tag t.time.et T (.inFree (f8 c.pay 9)) = (u, a, late) ∧
        exec (.inFree h) s = .next (u.answered h c (if late then 1 else 0) (leBytes 8 a))) ∧
    (s.Takes (opBus cmdTdmDest) h c n → h = 0 → f8 c.pay 8 = 2 → f8 c.pay 9 < 64 → f8 c.pay 10 ≤ 1 → f8 c.pay 12 < 64 →
      ∃ a late u, t.arrive h 0 c.tag c.tag t.time.et T (.tdmDest (f8 c.pay 9) (f8 c.pay 10 == 1) (f8 c.pay 12)) = (u, a, late) ∧
        exec (.tdmDest h) s = .next (u.answered h c (if late then 1 else 0) (leBytes 8 a))) ∧
    (s.Takes (opBus cmdDacDest) h c n → h = 0 → f8 c.pay 8 = 3 → f8 c.pay 9 < 16 → f8 c.pay 10 ≤ 1 → f8 c.pay 11 < 3 →
      f8 c.pay 12 < 64 → f8 c.pay 13 ≤ 1 → (t.nv.a16 = true ∨ (f8 c.pay 9 < 8 ∧ f8 c.pay 11 ≠ 2)) →
      ∃ a late u, t.arrive h 0 c.tag c.tag t.time.et T
          (.dacDest (f8 c.pay 9) (f8 c.pay 10 == 1) (f8 c.pay 11) (f8 c.pay 12) (f8 c.pay 13 == 1)) = (u, a, late) ∧
        exec (.dacDest h) s = .next (u.answered h c (if late then 1 else 0) (leBytes 8 a))) ∧
    (s.Takes (opBus cmdSync) h c n → f8 c.pay 8 = 4 →
      BitVec.ofNat 64 (f64 c.pay 24) &&& ~~~ (Stepped.now 0 (t.halls.get h).mask) = 0 →
      ∃ a late u, t.arrive h 0 c.tag c.tag t.time.et T (.sync (BitVec.ofNat 64 (f64 c.pay 24))) = (u, a, late) ∧
        exec (.sync h) s = .next (u.answered h c (if late then 1 else 0) (leBytes 8 a)))

/-- EQ_LOAD stands with its bus and waits for the next bus frame; EQ_SWAP and DELAY_SET are queued as events; DETECTOR_CFG writes
its coefficients and binds or unbinds its detector input (R382, R383, R285–R288, R290, R187). CONV_LOAD claims the pages of its
channel and waits for the build; CONV_ROUTE configures or releases a channel; RESYN_CFG configures or releases an analyser (R240,
R225, R237, R242, R243, R384). The model's readings and choices: assumption log 45, 58, 59, 140, 141; the
order in which waiting halls are then served is its choice, assumption log 62. -/
def Obligations.OutputAndSpectralCommandsComplete : Prop :=
  (
    ∀ (s : State) (h : Fin 8) (c : Cmd) (n : Nat) (t : State) (T : Nat), t = s.takeEntries h n →
      T = (if c.immediate then t.time.et + t.lead else f64 c.pay 0) →
      (s.Takes opEqLoad h c n → zero c.pay 2 2 = true → f8 c.pay 0 < 64 → f8 c.pay 1 ≤ 1 → (eqVals c.pay).all isS24 = true →
        t.inMask h (f8 c.pay 0) = true →
        exec (.eqLoad h) s = .next ((t.updOut (Fin.ofNat 64 (f8 c.pay 0)) fun x =>
          { x with loads := x.loads ++ [(h.val, coefsOf (eqVals c.pay))] }).begun h c 1 (.eqLoad (f8 c.pay 0)))) ∧
      (s.Takes opEqSwap h c n → t.timeOk T = true → zero c.pay 9 1 = true → f8 c.pay 8 < 64 → f16 c.pay 10 ≤ 4096 →
        t.inMask h (f8 c.pay 8) = true →
        ∃ a late u, t.arrive h 0 c.tag c.tag t.time.et T (.eqSwap (f8 c.pay 8) (f16 c.pay 10)) = (u, a, late) ∧
          exec (.eqSwap h) s = .next (u.answered h c (if late then 1 else 0) (leBytes 8 a))) ∧
      (s.Takes opDelaySet h c n → t.timeOk T = true → f8 c.pay 8 < 64 → f16 c.pay 10 ≤ 4095 → f8 c.pay 9 ≤ 63 →
        t.inMask h (f8 c.pay 8) = true →
        ∃ a late u, t.arrive h 0 c.tag c.tag t.time.et T (.delaySet (f8 c.pay 8) (f16 c.pay 10) (f8 c.pay 9)) = (u, a, late) ∧
          exec (.delaySet h) s = .next (u.answered h c (if late then 1 else 0) (leBytes 8 a))) ∧
      (s.Takes opDetectorCfg h c n → f8 c.pay 0 < 64 → (f8 c.pay 1 < 8 ∨ f8 c.pay 1 = 0xFF) → f8 c.pay 2 ≤ 3 → f8 c.pay 3 < 2 →
        ([4, 8, 12, 16].all fun o => decide (f32 c.pay o < 2 ^ 24)) = true → t.inMask h (f8 c.pay 0) = true →
        ∃ u, u = (if f8 c.pay 3 = 1 then t.detCoefs (f8 c.pay 0) c.pay else t) ∧
          exec (.detectorCfg h) s = .next ((if f8 c.pay 1 = 0xFF then u
            else u.detBind h (f8 c.pay 1) (f8 c.pay 0) (f8 c.pay 2)).answered h c 0 []))) ∧
  (
    ∀ (s : State) (h : Fin 8) (c : Cmd) (n : Nat) (t : State), t = s.takeEntries h n → t.spec.halted = false →
      (∀ k b u ps, s.Takes opConvLoad h c n → s.fadingCh c = false → zero c.pay 3 1 = true → zero c.pay 6 2 = true → f8 c.pay 0 ≤ 7 →
        f8 c.pay 1 ≤ 1 → -16 ≤ signed 8 (f8 c.pay 2) → signed 8 (f8 c.pay 2) ≤ 16 → f16 c.pay 4 ≤ 4095 → f32 c.pay 8 ≠ 0 →
        f32 c.pay 8 ≤ 2097152 → f16 c.pay 4 + (tapBytes (f8 c.pay 1) * f32 c.pay 8 + 65535) / 65536 ≤ 4096 →
        k = Fin.ofNat 8 (f8 c.pay 0) → b = buildOf c.pay →
        ((t.spec.ch.get k).owner = none ∨ (t.spec.ch.get k).owner = some h.val) →
        (spanOf (f16 c.pay 4) (tapBytes (f8 c.pay 1) * f32 c.pay 8)).all (t.mayRead h) = true →
        u = t.memDo (t.mem.readCws (runCws (f16 c.pay 4) (tapBytes (f8 c.pay 1) * f32 c.pay 8))) →
        ((runCws (f16 c.pay 4) (tapBytes (f8 c.pay 1) * f32 c.pay 8)).any fun w => u.mem.flagged w) = false →
        u.convFits k b = true → u.pagesFor h (convPages b.parts) false = .take ps →
        exec (.convLoad h) s = .next ((((u.updSpec k fun x => { x with owner := some h.val, build := some b }).convBuild k h.val ps).begun
          h c 1 (.conv k.val)).servePages)) ∧
      (∀ k, s.Takes opConvRoute h c n → f8 c.pay 0 < 8 → f8 c.pay 1 < 8 → k = Fin.ofNat 8 (f8 c.pay 0) →
        (t.spec.ch.get k).owner = some h.val → (t.spec.ch.get k).leaving = false →
        (f8 c.pay 1 % 2 = 1 → exec (.convRoute h) s = .next ((t.convRelease k).answered h c 0 [])) ∧
        (f8 c.pay 1 % 2 = 0 → convRouteOk c.pay = true → (f8 c.pay 1 / 2 % 2 = 1 → t.inMask h (f8 c.pay 4) = true) →
          (f8 c.pay 1 / 4 % 2 = 1 → t.inMask h (f8 c.pay 5) = true) → (f8 c.pay 2 = 1 → t.inMask h (f8 c.pay 3) = true) →
          exec (.convRoute h) s = .next ((t.convRoute k c.pay).answered h c 0 []))) ∧
      (∀ a, s.Takes opResynCfg h c n → resynOk c.pay = true → a = Fin.ofNat 2 (f8 c.pay 0) →
        (f8 c.pay 1 = 0 → anOwner (t.spec.an.get a) = some h.val →
          exec (.resynCfg h) s = .next ((t.anRelease a).answered h c 0 [])) ∧
        (f8 c.pay 1 = 1 → (anOwner (t.spec.an.get a) = none ∨ anOwner (t.spec.an.get a) = some h.val) → t.anMine h c.pay = true →
          t.anFits a h.val c.pay = true → t.pwr.on pdSpec = true →
          exec (.resynCfg h) s = .next ((t.anSet a h.val c.pay).answered h c 0 [])) ∧
        (f8 c.pay 1 = 1 → (anOwner (t.spec.an.get a) = none ∨ anOwner (t.spec.an.get a) = some h.val) → t.anMine h c.pay = true →
          t.anFits a h.val c.pay = true → t.pwr.on pdSpec = false →
          exec (.resynCfg h) s = .next (((t.anSet a h.val c.pay).switchOn pdSpec).begun h c 1 (.specPower c.pay)))))

/-- TRIGGER_MAP sets or clears a trigger's mapping; FENCE_STATUS reads the fence records of the hall, or, by the supervisor, asks
for a lift; LOG_READ answers the entries it may see (R386–R388, R431, R456, R486). The model's readings and choices: assumption log
83. -/
def Obligations.StatusCommandsComplete : Prop :=
  ∀ (s : State) (h : Fin 8) (c : Cmd) (n : Nat) (t : State), t = s.takeEntries h n →
    (∀ g map, s.Takes opTriggerMap h c n → f8 c.pay 0 < 8 → f8 c.pay 1 < 8 → (templateLen (f16 c.pay 4)).isSome = true →
      zero c.pay 6 2 = true → f64 c.pay 8 < 2 ^ 41 → g = Fin.ofNat 8 (f8 c.pay 0) →
      ((t.time.trg.get g).map = none ∨ ((t.time.trg.get g).map.map (·.hall)) = some h.val) →
      map = (if f8 c.pay 1 % 2 = 1 then some (
        { hall := h.val, edges := f8 c.pay 1 / 2 % 4, tag := f16 c.pay 2, opcode := f16 c.pay 4, offset := f64 c.pay 8,
          template := c.pay.drop 16 } : TrigMap) else none) →
      exec (.triggerMap h) s = .next ((t.updTrg g fun x => { x with map := map }).answered h c 0 [])) ∧
    (s.Takes opFenceStatus h c n → f8 c.pay 0 = 0 →
      exec (.fenceStatus h) s = .next (t.answered h c 0 (t.fenceList h (f16 c.pay 2)))) ∧
    (∀ u, s.Takes opFenceLift h c n → f8 c.pay 0 = 1 → h = 0 → s.fence.busy = none → u = t.liftUnit (f8 c.pay 1) (f16 c.pay 2) →
      (u.fence.busy.isSome = true →
        exec (.fenceStatusLift h) s = .next (u.begun h c 1 (.lift (f8 c.pay 1) (f16 c.pay 2)))) ∧
      (u.fence.busy = none → exec (.fenceStatusLift h) s = .next (u.answered h c (fenceStatus u.fence.code) []))) ∧
    (s.Takes opLogRead h c n → f8 c.pay 5 ≤ 1 → zero c.pay 6 2 = true → f8 c.pay 4 ≤ t.logMax h →
      exec (.logRead h) s = .next ((s.takeEntries h n (needLog s h c)).answered h c 0 (logResult (f32 c.pay 0) (t.logList h c.pay))
        (needLog s h c)))

/-- The supervisor's update and life-cycle commands: UPD_BEGIN opens an update and waits for the erase, UPD_CHUNK gives its bytes to
the flash and waits, UPD_COMMIT puts the image on trial, UPD_ROLLBACK selects the other slot, LIFECYCLE moves as R467 allows (R389,
R459–R463, R467). The model's readings and choices: assumption log 78, 79. -/
def Obligations.UpdateCommandsComplete : Prop :=
  ∀ (s : State) (h : Fin 8) (c : Cmd) (n : Nat) (t : State), t = s.takeEntries h n → s.mgmt.flash = none →
    (s.Takes opUpdBegin h c n → zero c.pay 4 4 = true → f32 c.pay 0 ≤ fwMax → f32 c.pay 0 ≠ 0 → t.mgmt.onTrial = false →
      exec (.updBegin h) s = .next ((t.updOpen (f32 c.pay 0) none).begun h c 1 .erase)) ∧
    (∀ u, s.Takes opUpdChunk h c n → zero c.pay 6 2 = true → f16 c.pay 4 ≤ 4095 → f32 c.pay 8 ≠ 0 →
      f16 c.pay 4 * 65536 + f32 c.pay 8 ≤ 4096 * 65536 → t.updRefuse (f32 c.pay 0) (f32 c.pay 8) = none →
      t.chunkFault h (spanOf (f16 c.pay 4) (f32 c.pay 8)) = none →
      u = t.memDo (t.mem.readCws (runCws (f16 c.pay 4) (f32 c.pay 8))) →
      exec (.updChunk h) s = .next ((u.updProgram (u.mem.rdList (f16 c.pay 4 * 65536) (f32 c.pay 8)) none).begun h c 1 .program)) ∧
    (∀ u, s.Takes opUpdCommit h c n → f8 c.pay 0 < 2 → zero c.pay 1 3 = true → t.mgmt.upd = some u → u.len ≤ u.done →
      (t.nv.slots.get u.slot).info.signed = true → t.fwFits (t.nv.slots.get u.slot).info = true →
      ∃ v : State, exec (.updCommit h) s = .next (v.answered h c 0 []) ∧ v.nv.trial = some u.slot.val ∧ v.mgmt.upd = none ∧
        v.nv.committed = s.nv.committed ∧ v.nv.slots = s.nv.slots ∧ v.halls = t.halls ∧
        v.mgmt.rst = (if f8 c.pay 0 = 1 then some .update else s.mgmt.rst)) ∧
    (s.Takes opUpdRollback h c n → t.acceptable (otherSlot t.mgmt.slot) = true →
      ∃ v : State, exec (.updRollback h) s = .next (v.answered h c 0 []) ∧ v.nv.selected = some (otherSlot s.mgmt.slot).val ∧
        v.nv.slots = s.nv.slots ∧ v.nv.committed = s.nv.committed ∧ v.halls = t.halls) ∧
    (∀ l, s.Takes opLifecycle h c n → zero c.pay 2 2 = true → f8 c.pay 0 = s.nv.life.code → LifeCycle.ofCode (f8 c.pay 1) = some l →
      lifeAllowed false s.nv.life l = true → exec (.lifecycle h) s = .next ((t.lifeTo l).answered h c 0 []))

/-- POWER_POLICY writes the policy, the margin and measured admission; GALLERY_PARK migrates a gallery's hall engines and waits
for the power-down; GALLERY_UNPARK asks for the wake and waits for it (R69–R71, R217, R218, R389, R476). SER_ROLE gives a port its
role, at once where PD_SERIAL is on; DMX_PATCH replaces a hall's entries in a universe's patch; RDM_IDENT sets the identity of a
universe (R399, R404, R409, R472). That a DMX_PATCH whose count is zero changes nothing is the model's reading of R361 beside R404,
assumption log 87; its other readings and choices: assumption log 82, 84, 97. -/
def Obligations.PowerAndSerialCommandsComplete : Prop :=
  (
    ∀ (s : State) (h : Fin 8) (c : Cmd) (n : Nat) (t : State), t = s.takeEntries h n → zero c.pay 2 2 = true →
      (s.Takes opPowerPolicy h c n → f8 c.pay 0 < 8 → zero c.pay 2 6 = true → (f8 c.pay 0 / 2 % 2 = 1 → s.nv.calValid = true) →
        exec (.powerPolicy h) s = .next ((((({ t with pwr := { t.pwr with policy := putFlag t.pwr.policy 31 (f8 c.pay 0 % 2 == 1) } }
          : State).setMargin (f8 c.pay 1)).updMgmt fun m => { m with shed := f8 c.pay 0 / 4 % 2 == 1 }).measSet
            (f8 c.pay 0 / 2 % 2 == 1)).answered h c 0 [])) ∧
      (∀ u, s.Takes opGalleryPark h c n → f8 c.pay 0 < 8 → f8 c.pay 1 = 0 →
        (t.gal.get (Fin.ofNat 8 (f8 c.pay 0))).parked = false → t.parkGal (Fin.ofNat 8 (f8 c.pay 0)) = some u →
        exec (.galleryPark h) s = .next (u.begun h c 1 (.park (Fin.ofNat 8 (f8 c.pay 0))))) ∧
      (s.Takes opGalleryUnpark h c n → f8 c.pay 0 < 8 → f8 c.pay 1 = 1 → (t.gal.get (Fin.ofNat 8 (f8 c.pay 0))).parked = true →
        exec (.galleryUnpark h) s = .next ((t.switchOn (pdGal (Fin.ofNat 8 (f8 c.pay 0)))).begun h c 1
          (.unpark (Fin.ofNat 8 (f8 c.pay 0)))))) ∧
  (
    ∀ (s : State) (h : Fin 8) (c : Cmd) (n : Nat) (t : State) (k : Fin 4), t = s.takeEntries h n → k = Fin.ofNat 4 (f8 c.pay 0) →
      f8 c.pay 0 < 4 →
      (s.Takes opSerRole h c n → f8 c.pay 1 ≤ 4 → zero c.pay 2 2 = true → zero c.pay 10 2 = true →
        roleRateOk (f8 c.pay 1) (f32 c.pay 4) = true → roleAddrOk (f8 c.pay 1) (f16 c.pay 8) = true → t.serHall k = none →
        (f8 c.pay 1 = 0 ∨ t.pwr.on pdSerial = true → exec (.serRole h) s = .next ((t.giveRole c.pay).answered h c 0 [])) ∧
        (f8 c.pay 1 ≠ 0 → t.pwr.on pdSerial = false →
          exec (.serRole h) s = .next ((t.switchOn pdSerial).begun h c 1 (.serPower c.pay)))) ∧
      (s.Takes opDmxPatch h c n → patchOk c.pay = true → f16 c.pay 2 = 0 → exec (.dmxPatch h) s = .next (t.answered h c 0 [])) ∧
      (∀ rest, s.Takes opDmxPatch h c n → patchOk c.pay = true → f16 c.pay 2 ≠ 0 → (t.ser.get k).role = 2 →
        (t.hall (f8 c.pay 1)).alive = true →
        rest = (t.ser.get k).dmx.patch.filter (fun e => e.hall != f8 c.pay 1) → rest.length + (patchOf c.pay).length ≤ 64 →
        slotsFit (t.ser.get k).dmx.start (patchOf c.pay) = true → noDup ((patchOf c.pay).map (·.ctl)) = true →
        exec (.dmxPatch h) s = .next ((t.updSer k fun x => { x with dmx := { x.dmx with patch := rest ++ patchOf c.pay } }).answered h c 0 [])) ∧
      (s.Takes opRdmIdent h c n → zero c.pay 1 1 = true → 1 ≤ f16 c.pay 2 → f16 c.pay 2 ≤ 512 → zero c.pay 6 2 = true →
        labelOk (c.pay.drop 8) = true → (t.ser.get k).role = 2 → f16 c.pay 2 + f16 c.pay 4 ≤ 513 →
        slotsFit (f16 c.pay 2) (t.ser.get k).dmx.patch = true →
        exec (.rdmIdent h) s = .next ((t.updSer k fun x =>
          { x with dmx := { x.dmx with start := f16 c.pay 2, foot := f16 c.pay 4, label := (c.pay.drop 8).takeWhile (· != 0#8) } }).answered
            h c 0 [])))

/-! ### The Mezzanine, OUT, the DAC and TDM (spec/01 R22–R24, spec/10, spec/11) -/

/-- A frame that every engine has rendered and whose returns are there is summed: it is the Mezzanine's next no more, and it lands
with its 64 buses where OUT has not taken it already; OUT takes the next frame three frames after its start, and one that has not
landed is flagged as an underrun; a fade that is over ends (R24, R281, R291, R287). The model's readings and choices: assumption log
46. -/
def Obligations.FramesReachTheOutputs : Prop :=
  ∀ (s : State),
    (∀ F, F = s.mez.next → s.time.running = true → s.rendered F = true → F < s.sched.nextBound → s.returnsReady F = true →
      F < s.out.next + 3 → ∃ t : State, exec .mezzanineFrameComplete s = .next t ∧ t = s.settle.mezzanine F ∧ t.mez.next = F + 1 ∧
        (s.settle.out.next ≤ F → ∃ x ∈ t.mez.landing, x.frame = F ∧ x.buses.length = 64) ∧ t.voices = s.settle.voices ∧
        t.dac = s.settle.dac ∧ t.foyer = s.settle.foyer ∧ t.nv = s.settle.nv ∧ t.time = s.settle.time) ∧
    (∀ F, F = s.out.next → s.reaches (s.start (F + 3)) = true →
      ∃ t : State, exec .outTakeFrame s = .next t ∧ t = (s.runTo (s.start (F + 3))).takeFrame F ∧ t.out.next = F + 1 ∧
        (∀ x ∈ t.mez.landing, F < x.frame) ∧
        ((∀ x ∈ (s.runTo (s.start (F + 3))).mez.landing, x.frame ≠ F) → bit t.out.err 0 = true)) ∧
    (∀ (n : Fin 64) n1 xf, (s.out.ch.get n).fade = some (n1, xf) → n1 + xf ≤ s.out.next * s.fl → (s.out.ch.get n).queued = none →
      exec (.eqFadeEnd n) s = .next (s.updOut n fun c => { c with fade := none })) ∧
    (∀ (n : Fin 64) n1 xf x, (s.out.ch.get n).fade = some (n1, xf) → n1 + xf ≤ s.out.next * s.fl →
      (s.out.ch.get n).queued = some x → ∃ t : State, exec (.eqFadeEnd n) s = .next t ∧ (t.out.ch.get n).queued = none ∧
        (t.out.ch.get n).active = !(s.out.ch.get n).active ∧ t = { s with out := t.out } ∧
        ∀ m, m ≠ n → t.out.ch.get m = s.out.ch.get m)

/-- A word-clock edge is latched by every DAC channel and the next one follows; WCLK_IN is not seen through a bank without supply, and
an edge that has no place in engine time is latched and leaves the numbers of the edges as they are (R319, R496). At an edge a channel
that finds no entry keeps its value, which is counted twice over and flagged, and raises the channel's source; k rises and falls by 1
an edge, the rise after it has been applied (R308, R310). The model's readings and choices: assumption log 47, 101, 136. -/
def Obligations.DacChannelsLatchEveryEdge : Prop :=
  (∀ (s : State), s.dac.wclkOk = true → s.wclkSeen = true → s.unpaced = false → s.reaches (s.edgeEt s.dac.edge) = true →
    ∃ t : State, exec .dacLatch s = .next t ∧ t.dac.edge = s.dac.edge + 1 ∧ t.voices = (s.runTo (s.edgeEt s.dac.edge)).voices ∧
      t.mem = (s.runTo (s.edgeEt s.dac.edge)).mem ∧ t.foyer = (s.runTo (s.edgeEt s.dac.edge)).foyer) ∧
  (∀ (s : State), s.dac.wclkOk = true → s.wclkSeen = true → s.unpaced = true →
    ∃ t : State, exec .dacLatch s = .next t ∧ t.dac.edge = s.dac.edge ∧ t = { s with dac := t.dac, irqf := t.irqf } ∧
      ∀ n : Fin 16, s.hasDac n = false → t.dac.ch.get n = s.muteOff.dac.ch.get n) ∧
  (∀ (s : State), s.out.master = false → s.bankOn .tdm = false → exec .dacLatch s = .next s) ∧
  (∀ (s : State) (n : Fin 16) (T : Nat) (e : Int), s.hasDac n = true → 0 ≤ e → (∀ q ∈ (s.dac.ch.get n).queue, q.1 ≠ e) →
    ((s.latchOne T e n).dac.ch.get n).ufCnt = satInc (s.dac.ch.get n).ufCnt 1 ∧
    (s.latchOne T e n).dac.ufCnt = satInc s.dac.ufCnt 1 ∧ bit (s.latchOne T e n).dac.err 0 = true ∧
    (s.latchOne T e n).dac.mute = s.dac.mute ∧
    (s.latchOne T e n).irqf = (if s.dac.err = 0#32 then s.irqf.raise 130 else s.irqf).raise (144 + n.val) ∧
    (bit (s.dac.ch.get n).ctrl 30 = false → (s.dac.ch.get n).dests = [] →
      ((s.latchOne T e n).dac.ch.get n).last = (s.dac.ch.get n).last)) ∧
  (∀ (c : DacCh) (nr : Nat) (mute : Bool),
    (c.seq = .up → c.k < nr → (c.gain nr mute).1 = c.k ∧ (c.gain nr mute).2.k = c.k + 1) ∧
    (c.seq = .down → 0 < c.k → (c.gain nr mute).1 = c.k - 1 ∧ (c.gain nr mute).2.k = c.k - 1) ∧
    (c.seq = .settle ∨ c.seq = .lead ∨ c.seq = .zero → (c.gain nr mute).1 = 0))

/-- MUTE_n is asserted at once by each of its causes; a channel with a word clock and no range sequence ramps down from the k it
has, one without holds its value until mute_lead has elapsed and then steps to zero code; VREF out of its range brings zero code
at once (R313, R314). MUTE_n is deasserted at a word-clock edge at which no cause is present and stays asserted while one is;
every enabled channel then holds zero code for M edges and ramps up; a range that has settled ramps up too, unless the channel is
disabled or muted; VREF's return only clears its cause (R313, R315, R316). The model's readings and choices: assumption log 48, 136. -/
def Obligations.MuteIsAssertedAndReleased : Prop :=
  (
    (∀ (s : State) (c : MuteSrc), s.muteCausePresent c = true →
      ∃ t : State, exec (.muteCause c) s = .next t ∧ t.dac.mute = true ∧ t.dac.ready = false ∧ t = { s with dac := t.dac, irqf := t.irqf } ∧
        (c = .vref → t.dac.vrefOk = false ∧ (s.dac.vrefOk = true → bit t.dac.err 1 = true) ∧
          ∀ n : Fin 16, (t.dac.ch.get n).code = 0 ∧ (t.dac.ch.get n).k = 0 ∧ (t.dac.ch.get n).hold = false) ∧
        (c ≠ .vref → s.dac.mute = false → s.dac.wclkOk = true → ∀ n : Fin 16, (s.dac.ch.get n).ranging = false →
          (t.dac.ch.get n).seq = (if (s.dac.ch.get n).k = 0 then .zero else .down) ∧ (t.dac.ch.get n).k = (s.dac.ch.get n).k) ∧
        (c ≠ .vref → s.dac.wclkOk = false → ∀ n : Fin 16, (t.dac.ch.get n).hold = true ∧ (t.dac.ch.get n).code = (s.dac.ch.get n).code ∧
          ((s.dac.ch.get n).hold = false → (t.dac.ch.get n).heldAt = s.time.rclk))) ∧
    (∀ (s : State), s.dac.mute = true → ∃ t : State, exec .muteLeadElapsed s = .next t ∧
      t = { s with dac := { s.dac with ch := t.dac.ch } } ∧
      ∀ n : Fin 16, ((s.dac.ch.get n).hold = true → s.leadPast (s.dac.ch.get n).heldAt = true →
          (t.dac.ch.get n).code = 0 ∧ (t.dac.ch.get n).k = 0 ∧ (t.dac.ch.get n).hold = false) ∧
        ((s.dac.ch.get n).hold = false ∨ s.leadPast (s.dac.ch.get n).heldAt = false → t.dac.ch.get n = s.dac.ch.get n))) ∧
  (
    ∀ (s : State),
      (s.dac.cause s.anaOn = true → exec .muteRelease s = .next s) ∧
      (∀ u, s.dac.mute = true → s.dac.cause s.anaOn = false → s.wclkSeen = true → s.unpaced = false →
        s.reaches (s.edgeEt s.dac.edge) = true → u = s.runTo (s.edgeEt s.dac.edge) → u.dac.mute = true → u.dac.cause u.anaOn = false →
        ∃ t : State, exec .muteRelease s = .next t ∧ t = s.wordClock ∧ t.dac.mute = false ∧ t.dac.ready = true ∧
          t.dac.edge = s.dac.edge + 1 ∧ t.voices = u.voices ∧ t.mem = u.mem) ∧
      (s.dac.mute = true → s.dac.cause s.anaOn = false → s.wclkSeen = true → s.unpaced = true →
        ∃ t : State, exec .muteRelease s = .next t ∧ t = s.unpacedEdge ∧ t.dac.mute = false ∧ t.dac.ready = true ∧
          t.dac.edge = s.dac.edge ∧ t = { s with dac := t.dac, irqf := t.irqf }) ∧
      (s.dac.mute = true → s.dac.cause s.anaOn = false → s.muteOff.dac.mute = false ∧ s.muteOff.dac.ready = true ∧
        s.muteOff = { s with dac := s.muteOff.dac } ∧ ∀ n : Fin 16, (s.muteOff.dac.ch.get n).k = 0 ∧
          ((s.dac.ch.get n).ranging = false → (s.dac.ch.get n).en = true →
            (s.muteOff.dac.ch.get n).lead = leadEdges s.fe882 s.out.p s.out.q (bits s.dac.ctrl 3 0) ∧
            (s.muteOff.dac.ch.get n).seq = if (s.muteOff.dac.ch.get n).lead = 0 then .up else .lead)) ∧
      (∀ n : Fin 16, (s.dac.ch.get n).seq = .lead → (s.dac.ch.get n).lead = 0 → (s.dac.ch.get n).en = true → s.dac.mute = false →
        exec (.muteLeadHoldEnd n) s = .next (s.updDac n fun c => { c with seq := .up })) ∧
      (∀ n : Fin 16, (s.dac.ch.get n).seq = .settle → (s.dac.ch.get n).switch = false → (s.dac.ch.get n).left = 0 →
        exec (.rangeSettleEnd n) s = .next (s.updDac n fun c =>
          if c.en = true ∧ s.dac.mute = false then { c with seq := if c.lead = 0 then .up else .lead }
          else { c with seq := .zero, ranging := false })) ∧
      (s.anaPowered = true → exec .vrefInRange s = .next { s with dac := { s.dac with vrefOk := true } }) ∧
      (s.anaPowered = false → exec .vrefInRange s = .next s))

/-- A write of DACn_CTRL sets the channel's source, its sine switch, its enable and its target range; setting en ramps up,
clearing it ramps down; a new source governs the entries of the edges from three frames after the write on; a new range ramps down
first; a range that the grade lacks, and range 3, leave the range and set DAC_ERR.bad_range. mute_req follows the supervisor's
write of DAC_CTRL and asserts MUTE_n (R283, R309, R312, R313, R316, R318, R319). The model's readings and choices: assumption log
49, 109. -/
def Obligations.DacControlWrites : Prop :=
  ∀ (s : State) (i : Initiator) (n : Fin 16) (v : Word) (c : DacCh), c = s.dac.ch.get n → s.pwr.answers pdAna = true → s.hasDac n = true →
    (∀ x : Instr, x = .dacEnWrite i n v ∨ x = .dacSineWrite i n v ∨ x = .dacRangeWrite i n v ∨ x = .dacSelWrite i n v →
      ∃ t : State, exec x s = .next t ∧ t = { s with dac := t.dac, irqf := t.irqf } ∧
        (∀ m, m ≠ n → t.dac.ch.get m = s.dac.ch.get m) ∧ t.dac.mute = s.dac.mute ∧
        (t.dac.ch.get n).en = bit v 31 ∧ bit (t.dac.ch.get n).ctrl 30 = bit v 30 ∧ bit (t.dac.ch.get n).ctrl 23 = bit v 23 ∧
        bits (t.dac.ch.get n).ctrl 21 16 = bits v 21 16 ∧ (t.dac.ch.get n).k = c.k ∧ (t.dac.ch.get n).code = c.code ∧
        (bits v 23 23 = bits c.ctrl 23 23 → bits v 21 16 = bits c.ctrl 21 16 → c.dests = [] → (t.dac.ch.get n).dests = []) ∧
        (bits v 23 23 ≠ bits c.ctrl 23 23 ∨ bits v 21 16 ≠ bits c.ctrl 21 16 ∨ c.dests ≠ [] → (t.dac.ch.get n).dests = c.dests ++
          [{ time := s.time.et + 3 * s.fl * 512, sel := bits v 21 16, selEn := bit v 23, range := none, en := none }]) ∧
        (s.badRange (bits v 29 28) = false → (t.dac.ch.get n).target = bits v 29 28 ∧ t.dac.err = s.dac.err) ∧
        (s.badRange (bits v 29 28) = true → (t.dac.ch.get n).target = c.target ∧ bit t.dac.err 4 = true) ∧
        (c.ranging = false → bits v 29 28 = c.target → c.en = false → bit v 31 = true → s.dac.mute = false →
          (t.dac.ch.get n).seq = .up) ∧
        (c.ranging = false → bits v 29 28 = c.target → c.en = true → bit v 31 = false →
          (t.dac.ch.get n).seq = if c.k = 0 then .zero else .down) ∧
        (s.badRange (bits v 29 28) = false → c.ranging = false → bits v 29 28 ≠ c.target → bits v 29 28 ≠ c.stage → bit v 31 = c.en →
          (t.dac.ch.get n).seq = .down ∧ (t.dac.ch.get n).ranging = true)) ∧
    (∃ t : State, exec (.dacMuteReqWrite .window v) s = .next t ∧ t = { s with dac := t.dac } ∧
      bit t.dac.ctrl 31 = bit v 31 ∧ bits t.dac.ctrl 3 0 = bits v 3 0 ∧ (bit v 31 = true → t.dac.mute = true ∧ t.dac.ready = false)) ∧
    (i ≠ .window → exec (.dacMuteReqWrite i v) s = .next { s with dac := { s.dac with ctrl := setBits s.dac.ctrl 3 0 (bits v 3 0) } })

/-- A frame leaves every output lane at each TDM edge, its samples in bits 31:8 of the slot words; a lane that has none sends
zeros, which is counted and flagged, and every lane sends zeros once the firmware has been declared stopped; the frame that began
at an input edge is taken whole, bits 7:0 of its slots ignored (R22, R298, R299, R301, R304, R491). Without supply of the bank the data
inputs read idle (R496); that the frames of the device's own word clock run on meanwhile, and none comes of a WCLK_IN that is not seen,
is the model's choice, assumption log 101. Its other readings and choices: assumption log 51. -/
def Obligations.TdmFramesAreExchanged : Prop :=
  (∀ y : Int, -8388608 ≤ y → y ≤ 8388607 → slotSample (slotWord y) = y ∧ bits (slotWord y) 7 0 = 0) ∧
  ∀ (s u : State) (w : Nat),
    (s.tdm.running = true → s.wclkSeen = true → s.reaches (s.edgeEt s.tdm.edge) = true → u = s.runTo (s.edgeEt s.tdm.edge) →
      w = (if u.slots8 then 8 else 16) →
      ∃ t : State, exec .tdmOutputFrame s = .next t ∧ t.tdm.edge = u.tdm.edge + 1 ∧ t.voices = u.voices ∧ t.mem = u.mem ∧
        (u.mgmt.stopped = true → t.tdm.sent = List.replicate 4 (List.replicate w 0#32)) ∧
        (∀ (l : Fin 4), (∀ x ∈ u.tdm.lanes.get l, x.1 ≠ u.tdm.edge) → 0 ≤ u.tdm.edge →
          t.tdm.sent.getD l.val [] = List.replicate w 0#32 ∧ bit t.tdm.err (2 + l.val) = true) ∧
        (0 ≤ u.tdm.edge → t.tdm.ufCnt = satInc u.tdm.ufCnt
          ((List.finRange 4).filter fun l => (u.tdm.lanes.get l).all fun x => x.1 != u.tdm.edge).length) ∧
        (∀ (l : Fin 4) x, u.mgmt.stopped = false → (u.tdm.lanes.get l).find? (fun y => y.1 == u.tdm.edge) = some x →
          t.tdm.sent.getD l.val [] = (x.2.map slotWord).take w)) ∧
    (∀ lanes, lanesWf lanes = true → s.tdm.running = true → s.wclkSeen = true → s.reaches (s.edgeEt (s.tdm.inEdge + 1)) = true →
      u = s.runTo (s.edgeEt (s.tdm.inEdge + 1)) →
      ∃ t : State, exec (.tdmInputFrame lanes) s = .next t ∧
        t = { u with tdm := t.tdm, irqf := t.irqf, out := { u.out with err := t.out.err } } ∧ t.tdm.inEdge = u.tdm.inEdge + 1 ∧
        t.tdm.hist = ((u.tdm.inEdge, lanes.map fun l => l.map fun w => if s.bankOn .tdm then slotSample w else 0) :: u.tdm.hist).take 512) ∧
    (s.out.master = false → s.bankOn .tdm = false → exec .tdmOutputFrame s = .next s ∧
      ∀ lanes, lanesWf lanes = true → exec (.tdmInputFrame lanes) s = .next s)

/-- The word clock in slave mode: lock lost leads to tracking, 4096 good edges to a relock on a new grid, a lost clock to silence
and MUTE_n, its return to a grid on its first edge (R295, R296, R313). Before render bring-up a WCLK_IN that comes or goes is the DAC's
alone (R319, assumption log 136). Which number the first edge has is the model's reading of R295. The model's readings and choices:
assumption log 50. -/
def Obligations.WordClockEventsInSlaveMode : Prop :=
  (∀ (s : State), s.time.running = false → s.out.master = false →
    (∀ phi, s.bankOn .tdm = true → s.pwr.on pdCtrl = true →
      exec (.wclkReturn phi) s = .next { s with dac := { s.dac with wclkOk := true } }) ∧
    (s.dac.wclkOk = true → ∃ t : State, exec .wclkLost s = .next t ∧ t.dac.wclkOk = false ∧ t.dac.mute = true ∧ bit t.dac.err 2 = true ∧
      t = { s with dac := t.dac, irqf := t.irqf })) ∧
  ∀ (s : State), s.time.running = true → s.out.master = false →
    (s.out.locked = true → s.out.wclkOk = true → s.bankOn .tdm = true → ∃ t : State, exec .lockLost s = .next t ∧ t.out.locked = false ∧
      t.out.trk.isSome = true ∧ bit t.out.err 2 = true ∧ bit t.sched.guar 3 = true ∧ t.dac = s.dac ∧
      t = { s with out := { s.out with locked := false, trk := t.out.trk, err := t.out.err },
                   sched := { s.sched with guar := t.sched.guar }, irqf := t.irqf, fresh := s.fresh + 1 }) ∧
    (∀ phi edge, s.out.locked = false → s.out.track = false → s.out.wclkOk = true → s.bankOn .tdm = true → s.phiOk phi = true →
      edge = ({ s with out := { s.out with phi := phi, trk := none } } : State).firstGrid →
      ∃ t : State, exec (.wclkRelock phi edge) s = .next t ∧ t.out.phi = phi ∧ t.out.locked = true ∧ t.out.trk = none ∧
        t.out.relock = satInc s.out.relock 1 ∧ bit t.out.err 3 = true ∧ t.dac.edge = edge ∧ t.tdm.edge = edge ∧
        t = { s with out := t.out, dac := t.dac, tdm := t.tdm, irqf := t.irqf }) ∧
    (s.out.wclkOk = true → ∃ t : State, exec .wclkLost s = .next t ∧ t.out.wclkOk = false ∧ t.out.locked = false ∧
      t.tdm.running = false ∧ t.dac.mute = true ∧ bit t.out.err 1 = true ∧ bit t.dac.err 2 = true ∧
      t = { s with out := t.out, dac := t.dac, tdm := t.tdm, irqf := t.irqf }) ∧
    (∀ phi, s.out.wclkOk = false → s.bankOn .tdm = true → s.phiOk phi = true →
      ∃ t : State, exec (.wclkReturn phi) s = .next t ∧ t.out.phi = phi ∧
      t.out.wclkOk = true ∧ t.dac.wclkOk = true ∧ t.tdm.running = true ∧ t.out.locked = !s.out.track ∧ t.dac.mute = s.dac.mute ∧
      t.tdm.edge = t.dac.edge ∧ (s.out.track = true → bit t.sched.guar 3 = true) ∧ t.voices = s.voices ∧ t.mem = s.mem)

/-! ### SPEC (spec/08) -/

/-- SPEC's next block follows on the one it works; the writes of an analyser's block stand from the control point 256 es after the
block; a channel that has built a new impulse goes over to it at the first block boundary after the build ends, what SPEC still
computes before that going by the old; the fourth working-memory error within a second halts SPEC, and only
the supervisor's SPEC_CTRL.restart lifts the halt (R238, R240, R243, R249, R250). A working-memory error that a read for a unit in
use detects is counted, flagged and logged as 0x0401, and strikes the unit's block; the fourth within a second halts SPEC, which
ends the strikes; the supervisor's SPEC_CTRL.restart lifts the halt, and nothing else that is written there does (R249, R250). The
model's readings and choices: assumption log 54, 55. -/
def Obligations.SpecWorksInBlocks : Prop :=
  (
    ∀ (s : State), s.pwr.on pdSpec = true →
      (∀ upsets b, Upsets.wf upsets = true → s.time.running = true → s.spec.halted = false → b = s.spec.next →
        256 * (b + 1) ≤ s.mez.next * s.fl → (∃ k : Fin 8, (s.spec.ch.get k).owner.isSome = true) →
        ∃ t : State, exec (.specBlock upsets) s = .next t ∧ t.spec.next = b + 1 ∧ (∀ k : Fin 8, WmUnit.ch k ∉ t.spec.struck) ∧
          t.time = s.time ∧ t.voices = s.voices ∧ t.out = s.out ∧ t.spec.halted = false) ∧
      (∀ (i : Fin 2) b, b = (s.spec.an.get i).next → s.time.running = true → bit (s.spec.an.get i).cfg 31 = true →
        s.spec.halted = false → 256 * (b + 1) ≤ s.mez.next * s.fl →
        ∃ t : State, exec (.resynBlock i) s = .next t ∧ (t.spec.an.get i).next = b + 1 ∧ WmUnit.an i ∉ t.spec.struck ∧
          (WmUnit.an i ∈ s.spec.struck → (t.spec.an.get i).out = (s.spec.an.get i).out) ∧
          (WmUnit.an i ∉ s.spec.struck → ∃ ws, (t.spec.an.get i).out = (s.spec.an.get i).out ++ [(b, ws)]) ∧
          t = { s with spec := t.spec } ∧ ∀ j, j ≠ i → t.spec.an.get j = s.spec.an.get j) ∧
      (∀ (i : Fin 2) b ws rest h, (s.spec.an.get i).out = (b, ws) :: rest → h = hallIx (bits (s.spec.an.get i).cfg 28 26) →
        ∃ t : State, exec (.resynCtrlWrite i) s = .next t ∧ (t.spec.an.get i).out = rest ∧ t = { s with spec := t.spec, halls := t.halls } ∧
          t.halls.get h = ws.foldl (fun x w => x.setCtl ((256 * b + 512) * 512) 1 w.1 w.2 0) (s.halls.get h) ∧
          ∀ k, k ≠ h → t.halls.get k = s.halls.get k) ∧
      (∀ (k : Fin 8) bd h b u, (s.spec.ch.get k).build = some bd → (s.spec.ch.get k).owner = some h → s.spec.halted = false →
        (s.spec.ch.get k).leaving = false → (s.spec.ch.get k).swap = none → b = s.switchBlock → s.reaches (b * 131072) = true →
        u = s.runTo (b * 131072) → ∃ t : State, exec (.convSwitch k) s = .next t ∧ (t.spec.ch.get k).build = none ∧ s.time.et < b * 131072 ∧
          (u.spec.first = true → (t.spec.ch.get k).p = bd.parts ∧ (t.spec.ch.get k).pages = bd.pages ∧ t.spec.next = b) ∧
          (u.spec.first = false → (t.spec.ch.get k).swap = some (b, bd) ∧ (t.spec.ch.get k).p = (u.spec.ch.get k).p ∧
            (t.spec.ch.get k).pages = (u.spec.ch.get k).pages ∧ t.spec.next = u.spec.next) ∧
          t.time = u.time ∧ t.voices = u.voices) ∧
      (∀ upsets b (k : Fin 8) b0 bd, Upsets.wf upsets = true → s.time.running = true → s.spec.halted = false → b = s.spec.next →
        256 * (b + 1) ≤ s.mez.next * s.fl → (s.spec.ch.get k).owner.isSome = true → (s.spec.ch.get k).swap = some (b0, bd) →
        ∃ t : State, exec (.specBlock upsets) s = .next t ∧
          (b0 ≤ b → (t.spec.ch.get k).swap = none ∧ (t.spec.ch.get k).p = bd.parts ∧ (t.spec.ch.get k).pages = bd.pages) ∧
          (b < b0 → (t.spec.ch.get k).swap = some (b0, bd) ∧ (t.spec.ch.get k).p = (s.spec.ch.get k).p ∧
            (t.spec.ch.get k).pages = (s.spec.ch.get k).pages))) ∧
  (
    ∀ (s : State),
      (∀ (u : WmUnit) h, s.pwr.on pdSpec = true → s.wmHall u = some h → s.spec.halted = false →
        ∃ t : State, exec (.specWmError u) s = .next t ∧ (t.spec.halted = false → u ∈ t.spec.struck) ∧
          t.spec.ueCnt = satInc s.spec.ueCnt 1 ∧ bit t.spec.err 0 = true ∧ bit t.sched.guar 4 = true ∧
          (∃ e ∈ t.mgmt.volLog, e.code = 0x0401 ∧ e.hall = some h ∧ e.data = [byte u.kind, byte u.index]) ∧
          t.voices = s.voices ∧ t.mem = s.mem ∧ t.time = s.time ∧
          (3 ≤ (s.spec.ueAt.filter fun x => decide (s.time.et < x + feHz s.fe882 * 512)).length ↔ t.spec.halted = true)) ∧
      (s.pwr.answers pdSpec = true → ∀ v, bit v 0 = true → s.spec.halted = true → ∃ t : State, exec (.specRestart .window v) s = .next t ∧
        t.spec.halted = false ∧ t.spec.next = s.nextBlock ∧ (∀ i : Fin 2, (t.spec.an.get i).next = s.nextBlock ∧
        (t.spec.an.get i).tracks = []) ∧ t.voices = s.voices ∧ t.time = s.time) ∧
      (s.pwr.answers pdSpec = true → ∀ v, bit v 0 = false → exec (.specRestart .window v) s = .next s) ∧
      (s.pwr.answers pdSpec = true → ∀ i v, i ≠ .window → exec (.specRestart i v) s = .next s))

/-! ### Wave memory (spec/09) -/

/-- The decision of an arbiter: the pointer advances by one slot for every decision, from 63 to 0; a requester that the slot names
and that has a request wins; else the highest priority among those present, the lowest number above the last winner on a tie; with
no request the decision is idle; a gallery or SPEC that is isolated makes no request (R473). A swap that is pending is made at slot 0,
before the decision (R271, R274). A write of MEMc_RES_CTRL.swap sets pending; a write of a priority register stands at once (R273,
R274). That the lowest number wins a tie while no contest has been won yet is the model's choice, assumption log 135. -/
def Obligations.ArbitersDecideByTheirRegisters : Prop :=
  (
    ∀ (s : State) (c : Fin 4) (asked present : List (Fin 12)) (withdrew : Bool) (x : MemCh), s.mem.ready = true → x = s.mem.ch.get c →
      x.slot < 64 → present = asked.filter (fun r => if r.val < 8 then s.pwr.on (pdGal (Fin.ofNat 8 r.val)) else r.val != 8 || s.pwr.on pdSpec) →
      ∃ t : State, exec (.arbiterDecision c asked withdrew) s = .next t ∧ t = { s with mem := { s.mem with ch := t.mem.ch } } ∧
        (∀ d, d ≠ c → t.mem.ch.get d = s.mem.ch.get d) ∧
        (t.mem.ch.get c).ptr = x.slot ∧ (t.mem.ch.get c).slot = (if x.slot = 63 then 0 else x.slot + 1) ∧
        (t.mem.ch.get c).act = (if x.slot = 0 ∧ x.swapPend = true then x.shd else x.act) ∧
        (x.slot = 0 → (t.mem.ch.get c).swapPend = false) ∧ (x.slot ≠ 0 → (t.mem.ch.get c).swapPend = x.swapPend) ∧
        (∀ r, slotReq (t.mem.ch.get c).act x.slot = some r → (∃ p ∈ present, p.val = r) →
          (t.mem.ch.get c).granted = some (r, true) ∧ (t.mem.ch.get c).lastWin = x.lastWin) ∧
        (present = [] → (t.mem.ch.get c).granted = none) ∧
        ((∀ r, slotReq (t.mem.ch.get c).act x.slot = some r → ∀ p ∈ present, p.val ≠ r) → present ≠ [] →
          ∃ w : Fin 12, w ∈ present ∧ (t.mem.ch.get c).granted = some (w.val, false) ∧ (t.mem.ch.get c).lastWin = some w.val ∧
            (∀ p ∈ present, x.prio p.val ≤ x.prio w.val) ∧
            (x.lastWin = none → ∀ p ∈ present, x.prio p.val = x.prio w.val → w.val ≤ p.val) ∧
            (∀ l, x.lastWin = some l → l < w.val → ∀ p ∈ present, x.prio p.val = x.prio w.val → l < p.val → w.val ≤ p.val) ∧
            (∀ l, x.lastWin = some l → w.val ≤ l → ∀ p ∈ present, x.prio p.val = x.prio w.val → p.val ≤ l ∧ w.val ≤ p.val)) ∧
        (withdrew = true → x.granted.isSome = true → (t.mem.ch.get c).dead = satInc x.dead 1 ∧ (t.mem.ch.get c).grant = x.grant)) ∧
  (
    ∀ (s : State) (i : Initiator) (c : Fin 4) (v : Word), s.pwr.answers pdMem = true →
      (bit v 31 = true → exec (.resSwap i c v) s = .next { s with mem := s.mem.updCh c fun x => { x with swapPend := true } }) ∧
      (bit v 31 = false → exec (.resSwap i c v) s = .next s) ∧
      exec (.prioWrite i c false v) s = .next { s with mem := s.mem.updCh c fun x => { x with prio0 := v } } ∧
      exec (.prioWrite i c true v) s = .next { s with mem := s.mem.updCh c fun x => { x with prio1 := v &&& 0x0000FFFF#32 } })

/-- The scrubber: a patrol read takes the next codeword of its channel and falls due again on its cadence; a correction is rewritten
unless its codeword has been poisoned or decodes no more; a page whose wipe passes is FREE, one that fails RETIRED (R255,
R265–R269); the wipe of a page that the last frames of a closed hall still read ends after them (R223). The model's readings and
choices: assumption log 60, 61; the order in which halls that
wait for pages are then served is its choice, assumption log 62. -/
def Obligations.ScrubbersPatrol : Prop :=
  ∀ (s u : State) (c : Fin 4) (upsets : Upsets), Upsets.wf upsets = true → u = ({ s with mem := s.mem.upset upsets } : State) →
    (∀ T, (u.mem.ch.get c).due = some T → u.reaches T = true → ((u.runTo T).mem.ch.get c).jobs = [] →
      ((u.runTo T).mem.ch.get c).scrubNext < 1048576 →
      ∃ t : State, exec (.scrubPatrolRead c upsets) s = .next t ∧ (t.mem.ch.get c).due = some (T + s.patrolStep) ∧
        (t.mem.ch.get c).scrubNext = (if ((u.runTo T).mem.ch.get c).scrubNext = 1048575 then 0
          else ((u.runTo T).mem.ch.get c).scrubNext + 1) ∧ t.voices = (u.runTo T).voices ∧ t.out = (u.runTo T).out) ∧
    (∀ T, (u.mem.ch.get c).due = some T → u.reaches T = true → ((u.runTo T).mem.ch.get c).jobs ≠ [] →
      ∃ t : State, exec (.scrubPatrolRead c upsets) s = .next t ∧ (t.mem.ch.get c).due = some (T + s.patrolStep) ∧
        (t.mem.ch.get c).scrubNext = ((u.runTo T).mem.ch.get c).scrubNext ∧
        t = { u.runTo T with mem := { (u.runTo T).mem with ch := t.mem.ch } }) ∧
    (∀ cw, (u.mem.ch.get c).wb = some cw → u.mem.isPoison cw = false → u.mem.decode cw ≠ .uncorrectable →
      ∃ t : State, exec (.scrubWriteBack c upsets) s = .next t ∧ (t.mem.ch.get c).wb = (u.mem.ch.get c).wbWait.head? ∧
        t.mem.errs cw = [] ∧ (s.mem.wf = true → ∀ a, a / 64 = cw → t.mem.data.read a = u.mem.rd a) ∧ t.mem.pages = u.mem.pages ∧
        t = { u with mem := t.mem }) ∧
    (∀ p w rest m r, (u.mem.ch.get c).jobs = (p, w) :: rest → (u.mem.late.contains p = true → u.lastFrames = false) →
      m = (u.mem.updCh c fun x => { x with jobs := rest }) →
      r = (if m.late.contains p then m.zeroPage p else m).scrub w p (List.range 1024) MemEvents.none →
      ∃ v : State, exec (.pageScrubEnd c upsets) s = .next v.servePages ∧ v = ({ u with mem := r.1 } : State).scrubEnded p w r.2.1 r.2.2 ∧
        v.time = s.time ∧ v.out = s.out ∧ v.voices = s.voices ∧
        (r.2.2.isSome = true → s.mem.wf = true → v.mem.isState p .retired = true) ∧
        (w = true → r.2.2 = none → s.mem.wf = true → v.mem.isState p .free = true)) ∧
    (∀ p w rest, (u.mem.ch.get c).jobs = (p, w) :: rest → u.mem.late.contains p = true → u.lastFrames = true →
      exec (.pageScrubEnd c upsets) s = .next u)

/-! ### Host ports (spec/12) -/

/-- A transaction whose answer is sent whole drives busy bytes, how many is free, the sync byte, and the answer with the result,
the seq byte and the CRC; one whose answer is cut short is recorded as ABORTED; either way HA_RDY falls. A READ answers its hall's
own bytes, a REG_READ the words of the window, in ascending address, a STATUS the port as it stood (R325, R326, R333, R334, R336).
The model's readings and choices: assumption log 69, 70, 117. -/
def Obligations.PortReadsAnswer : Prop :=
  (∀ (u : State) (p : Fin 2) (code seq : Nat) (data : List Byte),
    ((u.portEnd p code seq true .whole .ok data).port p).answer = driven (Config.busyBytes u.fresh) (answerBytes .ok seq data) ∧
    ((u.portEnd p code seq true .whole .ok data).port p).lastRes = 0 ∧
    ∀ resp ph, ((u.portEnd p code seq resp ph .ok data).port p).rdy = false ∧ ((u.portEnd p code seq resp ph .ok data).port p).lastSeq = seq ∧
      ((u.portEnd p code seq resp ph .ok data).port p).lastCode = code ∧ (u.portEnd p code seq resp ph .ok data).halls = u.halls ∧
      (resp = true → ph ≠ .whole → ((u.portEnd p code seq resp ph .ok data).port p).lastRes = 12)) ∧
  ∀ (s v : State) (p : Fin 2) (seq : Byte) (addr : Word) (len : BitVec 16) (ph : Phase) (ver : Nat), s.portOn p = true →
    (s.port p).rdy = true → (s.port p).st = .uhp3 → (s.port p).version = ver → v = s.validTxn p →
    (∀ h a, v.attached p = some h → 1 ≤ len.toNat → len.toNat ≤ 4096 → areaOf (hallIx h) addr.toNat len.toNat = some a →
      exec (.read p seq addr len ph) s =
        .next (v.portEnd p 0x30 seq.toNat true ph .ok (v.areaRead (hallIx h) addr.toNat len.toNat a))) ∧
    (∀ r, v.foyer.sup = some p → 4 ≤ len.toNat → len.toNat ≤ 256 → len.toNat % 4 = 0 → addr.toNat % 4 = 0 →
      r = v.regWords addr.toNat (len.toNat / 4) →
      exec (.regRead p seq addr len ph) s = .next (r.1.portEnd p 0x34 seq.toNat true ph .ok r.2) ∧ r.2.length = len.toNat) ∧
    (len.toNat = 16 → exec (.status p seq addr len ph) s = .next (v.portEnd p 0x37 seq.toNat true ph .ok (s.statusData p)) ∧
      (s.statusData p).length = 16)

/-- A WRITE stores into its hall's command ring, but not into a slot that is posted: it then ends in SLOT_POSTED and stores
nothing; a REG_WRITE writes its words; a BULK is staged behind the commands already covered by a doorbell; BYE puts the port back
to OPEN; a reserved code gets UNKNOWN_CODE and does nothing (R329, R334, R336, R338, R345). The model's readings and choices:
assumption log 69. -/
def Obligations.PortWritesAct : Prop :=
  ∀ (s v : State) (p : Fin 2) (seq : Byte) (addr : Word) (pay : List Byte) (ph : Phase) (ver : Nat) (resp : Bool), s.portOn p = true →
    (s.port p).rdy = true → (s.port p).st = .uhp3 → (s.port p).version = ver → v = s.validTxn p → payloadWf pay = true →
    resp = (ver == 0x0302 && ph != .none) →
    (∀ h, v.attached p = some h → 1 ≤ pay.length → pay.length ≤ 4096 → areaOf (hallIx h) addr.toNat pay.length = some .cmd →
      (v.halls.get (hallIx h)).ring.touchesPosted (addr.toNat - 0x20000000 - cmdBase (hallIx h)) pay.length = false →
      exec (.write p seq addr pay ph) s = .next ((v.sramWrite (addr.toNat - 0x20000000) pay).portEnd p 0x31 seq.toNat resp ph .ok [])) ∧
    (∀ h, v.attached p = some h → 1 ≤ pay.length → pay.length ≤ 4096 → areaOf (hallIx h) addr.toNat pay.length = some .cmd →
      (v.halls.get (hallIx h)).ring.touchesPosted (addr.toNat - 0x20000000 - cmdBase (hallIx h)) pay.length = true →
      ∃ t : State, exec (.write p seq addr pay ph) s = .next t ∧
        t = (v.refuseIf p true).portEnd p 0x31 seq.toNat resp ph .slotPosted [] ∧ t.foyer.sram = s.foyer.sram ∧
        t.halls = v.halls ∧ (resp = false ∨ ph = .whole → (t.port p).lastRes = 9 ∧ bit (t.port p).err 5 = true)) ∧
    (v.foyer.sup = some p → 4 ≤ pay.length → pay.length ≤ 256 → pay.length % 4 = 0 → addr.toNat % 4 = 0 →
      exec (.regWrite p seq addr pay ph) s =
        .next ((v.regPutWords (regPairs addr.toNat pay)).portEnd p 0x35 seq.toNat resp ph .ok [])) ∧
    (∀ h b, v.attached p = some h → 0x0301 ≤ ver → 4 ≤ pay.length → pay.length ≤ 32772 → (v.port p).freeBuf = some b →
      ∃ t : State, exec (.bulk p seq addr pay ph) s = .next t ∧
        t = (v.stage (hallIx h) p b addr.toNat pay).portEnd p 0x36 seq.toNat resp ph .ok [] ∧
        (t.port p).bufs.get b = true ∧ (s.foyer.sram.wf = true → t.foyer.sram.readList (stageBase p b) (pay.length - 4) = pay.drop 4) ∧
        (t.halls.get (hallIx h)).bulks.length = (v.halls.get (hallIx h)).bulks.length + 1) ∧
    (pay = [] → ∃ t : State, exec (.byeTransaction p seq addr pay ph) s = .next t ∧ (t.port p).st = .opened ∧ (t.port p).width = 1 ∧
      (t.port p).asleep = false ∧ t.halls = v.halls ∧ t.voices = s.voices) ∧
    (∀ code : Byte, 0x38 ≤ code.toNat → code.toNat ≤ 0x3D → ∃ t : State,
      exec (.reservedTransactionCode p code seq addr pay ph) s = .next t ∧ (t.port p).lastCode = code.toNat ∧
        (resp = false → (t.port p).lastRes = 2 ∧ bit (t.port p).err 1 = true) ∧ (t.port p).txnCnt = (s.port p).txnCnt ∧
        t = { s with foyer := t.foyer, irqf := t.irqf, fresh := t.fresh })

/-- HELLO, on a port that is OPEN, UHP3 or FENCED: with a common version the highest is chosen, the width granted, the fence lifted
and 32 bytes answered; without one the result is VERSION and the port stays as it was (R329, R337). -/
def Obligations.HelloNegotiates : Prop :=
  ∀ (s : State) (p : Fin 2) (seq : Byte) (addr : Word) (pay : List Byte) (ph : Phase), s.portOn p = true → (s.port p).rdy = true →
    (s.port p).st = .uhp3 ∨ (s.port p).st = .opened ∨ (s.port p).st = .fenced → pay.length = 16 →
    (∀ w, 0x0300 ≤ w → w ≤ 0x0302 → f16 pay 0 ≤ w → w ≤ f16 pay 2 → (w < 0x0302 → f16 pay 2 < w + 1) →
      ∃ t : State, exec (.hello p seq addr pay ph) s = .next t ∧ (t.port p).st = .uhp3 ∧ (t.port p).version = w ∧
        (t.port p).width = grantWidth w (f8 pay 4) ∧ (t.port p).crcRun = 0 ∧ (t.port p).hostLo = w32 pay 8 ∧ t.voices = s.voices ∧
        (ph = .whole → ∃ k data, (t.port p).answer = driven (Config.busyBytes k) (answerBytes .ok seq.toNat data) ∧ data.length = 32)) ∧
    (f16 pay 2 < 0x0300 ∨ 0x0302 < f16 pay 0 ∨ f16 pay 2 < f16 pay 0 → ∃ t : State, exec (.hello p seq addr pay ph) s = .next t ∧
      (t.port p).st = (s.port p).st ∧ (t.port p).version = (s.port p).version ∧ (t.port p).width = (s.port p).width ∧
      (ph = .whole → (t.port p).lastRes = 10))

/-- A new command tail, by DOORBELL or by a write of HALLn_DB: accepted only where it runs no more than ring_len entries ahead of
the head; it is then the tail and the hall's doorbell source goes to CP0; the present tail is accepted without effect; every other
is refused, counted, and leaves both indices (R344). What the register window, which is the supervisor's, does with another hall's
HALLn_DB stands in O11. -/
def Obligations.CommandTailsAreChecked : Prop :=
  (∀ (s : State) (h : Fin 8) (t : BitVec 16) (r : Ring), r = (s.halls.get h).ring →
    (t = r.cmdTail → s.newTail h t = (s, true)) ∧
    (t ≠ r.cmdTail → (t - r.cmdTail).toNat + (r.cmdTail - r.cmdHead).toNat ≤ r.len →
      s.newTail h t = ((s.updRing h fun x => { x with cmdTail := t }).raise (16 + h.val), true)) ∧
    (t ≠ r.cmdTail → r.len < (t - r.cmdTail).toNat + (r.cmdTail - r.cmdHead).toNat →
      s.newTail h t = (s.updRing h fun x => { x with refused := min 65535 (x.refused + 1) }, false))) ∧
  (∀ (s : State) (i : Initiator) (h : Fin 8) (v : Word), s.pwr.answers pdCtrl = true → (s.halls.get h).alive = true →
    i ≠ .window ∨ h = 0 → exec (.hallDbWrite i h v) s = .next (s.newTail h (BitVec.ofNat 16 (bits v 15 0))).1) ∧
  ∀ (s v : State) (p : Fin 2) (seq a b : Byte) (addr : Word) (ph : Phase) (n : Nat) (x : State × Bool), s.portOn p = true →
    (s.port p).rdy = true → (s.port p).st = .uhp3 → v = s.validTxn p → v.attached p = some n →
    x = v.newTail (hallIx n) (BitVec.ofNat 16 (a.toNat + 256 * b.toNat)) →
    ∃ t : State, exec (.doorbell p seq addr [a, b] ph) s = .next t ∧ t.halls = x.1.halls ∧
      (ph = .none → (t.port p).lastRes = if x.2 then 0 else 8)

/-- A CPL_ACK is accepted only where its head lies among the unread entries: the head is then its value, the entries before it are
free and the interrupt is acknowledged, for the present head too; every other is refused with INDEX_RANGE and has no effect (R348).
-/
def Obligations.CompletionHeadsAreChecked : Prop :=
  ∀ (s v : State) (p : Fin 2) (seq a b : Byte) (addr : Word) (ph : Phase) (h : Fin 8) (k : BitVec 16) (r : Ring), s.portOn p = true →
    (s.port p).rdy = true → (s.port p).st = .uhp3 → v = s.validTxn p → v.attached p = some h.val →
    k = BitVec.ofNat 16 (a.toNat + 256 * b.toNat) → r = (v.halls.get h).ring →
    ((k - r.cplHead).toNat ≤ (r.cplTail - r.cplHead).toNat → ∃ t : State, exec (.cplAck p seq addr [a, b] ph) s = .next t ∧
      (t.halls.get h).ring.cplHead = k ∧ (t.port p).irq = false ∧ (t.halls.get h).ring.lastAck = s.time.rclk ∧
      (ph = .none → (t.port p).lastRes = 0)) ∧
    ((r.cplTail - r.cplHead).toNat < (k - r.cplHead).toNat → ∃ t : State, exec (.cplAck p seq addr [a, b] ph) s = .next t ∧
      t.halls = v.halls ∧ (ph = .none → (t.port p).lastRes = 8 ∧ bit (t.port p).err 5 = true))

/-- Noise on a negotiated or open port counts in CRC_CNT and CRC_RUN, restarts no keepalive, and fences the port at 16 in a row; a
first byte of 0x00–0x1F on a UHP3 port is no CRC error; a selection that ends before its first byte leaves everything; one begun
while HA_RDY is low is recorded only (R325, R327, R335, R339). The supervisor's writes of HPp_CTRL: lift opens a fenced port, close
any port that is not DOWN; both clear CRC_RUN; no other initiator's write does (R329). The instant of R350 asserts HA_IRQ_n. The
model's readings and choices: assumption log 68, 72, 73. -/
def Obligations.PortsAreFencedLiftedAndClosed : Prop :=
  (
    ∀ (s : State) (p : Fin 2) (code seq : Byte) (ph : Phase) (q : Port), q = s.port p → s.portOn p = true →
      (∀ x : Instr, (x = .portCrcError p code seq ph ∨ x = .incompleteTransaction p code seq) → q.rdy = true →
        q.st = .uhp3 ∨ q.st = .opened → 0x30 ≤ code.toNat → code.toNat ≤ 0x3F →
        ∃ t : State, exec x s = .next t ∧ (t.port p).crcCnt = satInc q.crcCnt 1 ∧ (t.port p).crcRun = min 16 (q.crcRun + 1) ∧
          bit (t.port p).err 0 = true ∧ (t.port p).txnCnt = q.txnCnt ∧ t.halls = s.halls ∧ t.voices = s.voices ∧
          (q.crcRun + 1 < 16 → (t.port p).st = q.st) ∧
          (16 ≤ q.crcRun + 1 → (t.port p).st = .fenced ∧ (t.port p).width = 1 ∧ (t.port p).irq = false ∧
            (t.port p).fenceCnt = satInc q.fenceCnt 1 ∧ t.fence.cnt.get 4 = satInc (s.fence.cnt.get 4) 1)) ∧
      (q.rdy = true → q.st = .uhp3 → code.toNat < 0x20 → ∃ t : State, exec (.unframeableFirstByte p code) s = .next t ∧
        (t.port p).lastRes = 2 ∧ (t.port p).crcCnt = q.crcCnt ∧ (t.port p).crcRun = q.crcRun ∧ (t.port p).st = .uhp3 ∧ t.halls = s.halls) ∧
      (q.rdy = true → q.st = .uhp3 ∨ q.st = .opened → 0x20 ≤ code.toNat → code.toNat < 0x30 ∨ 0x3F < code.toNat →
        ∃ t : State, exec (.unframeableFirstByte p code) s = .next t ∧ (t.port p).lastRes = 1 ∧
          (t.port p).crcCnt = satInc q.crcCnt 1 ∧ t.halls = s.halls) ∧
      exec (.shortSelection p) s = .next s ∧
      (q.rdy = false → ∃ t : State, exec (.notReadyTransaction p code seq) s = .next t ∧ (t.port p).lastRes = 6 ∧
        bit (t.port p).err 4 = true ∧ (t.port p).rdy = false ∧ (t.port p).crcCnt = q.crcCnt ∧
        t = { s with foyer := t.foyer, irqf := t.irqf }) ∧
      (q.st ≠ .down → exec (.portReady p) s = .next (s.updPort p fun x => { x with rdy := true }))) ∧
  (
    ∀ (s : State) (p : Fin 2) (v : Word), s.pwr.answers pdFoyer = true →
      (bit v 0 = true → bit v 1 = false → (s.port p).st = .fenced → ∃ t : State, exec (.hppLift .window p v) s = .next t ∧
        (t.port p).st = .opened ∧ (t.port p).width = 1 ∧ (t.port p).crcRun = 0 ∧ t.halls = s.halls ∧ t.voices = s.voices) ∧
      (bit v 1 = true → (s.port p).st ≠ .down → ∃ t : State, exec (.hppClose .window p v) s = .next t ∧
        (t.port p).st = .opened ∧ (t.port p).width = 1 ∧ (t.port p).crcRun = 0 ∧ (t.port p).asleep = false ∧ t.halls = s.halls ∧
        t.voices = s.voices) ∧
      (∀ i, i ≠ .window → exec (.hppClose i p v) s = .next s ∧ exec (.hppLift i p v) s = .next s) ∧
      (∀ (h : Fin 8) T, (s.halls.get h).port? = some p → s.attached p = some h.val → (s.port p).st = .uhp3 →
        s.irqTime (s.halls.get h).ring = some T → s.time.counting = true → s.time.refclk = true → s.time.armed = false →
        ∃ t : State, exec (.irqModTimeout h) s = .next t ∧ (t.port p).irq = true ∧ (s.sched.mapped = [] → t.halls = s.halls) ∧
          t.voices = s.voices ∧
          s.irqBlank (s.halls.get h).ring ≤ t.time.rclk))

/-- UHP-2 operations on a port in OPEN fix its generation to UHP2: words are written and read at ascending window addresses, one
that would run beyond 0xFFFF is ignored whole and counted, BYE goes back to OPEN, MBX_GO starts the command of the mailbox, and an
unknown one gets TB-320 status 2; on a port of no hall INFO and PING are answered and every other code fails with NOT_OWNER (R28,
R329, R340, R341). The model's readings and choices: assumption log 21, 74. -/
def Obligations.MailboxOperations : Prop :=
  ∀ (s u : State) (p : Fin 2), s.portOn p = true → (s.port p).rdy = true → (s.port p).st = .opened ∨ (s.port p).st = .uhp2 →
    u = (s.validTxn p).updPort p (fun q => { q with st := .uhp2 }) →
    (∃ t : State, exec (.nop p) s = .next t ∧ t = (u.portBusy p).irqEval p ∧ (t.port p).st = .uhp2 ∧ (t.port p).rdy = false) ∧
    (∀ (addr : BitVec 16) ws, ws.length < 256 → addr.toNat + ws.length ≤ 0x10000 →
      exec (.wr p addr ws) s = .next (((u.updPort p fun q => q.windowWrites addr.toNat ws).portBusy p).irqEval p)) ∧
    (∀ (addr : BitVec 16) ws, ws.length < 256 → 0x10000 < addr.toNat + ws.length → ∃ t : State, exec (.wr p addr ws) s = .next t ∧
      (t.port p).refuse = satInc (s.port p).refuse 1 ∧ (t.port p).mbxArg = (s.port p).mbxArg) ∧
    (∀ (k : Fin 32) (v : BitVec 16), (s.port p).mbxBusy = false → ∃ t : State,
      exec (.wr p (BitVec.ofNat 16 (0x10 + k.val)) [v]) s = .next t ∧ (t.port p).mbxArg = (s.port p).mbxArg.put k v) ∧
    (∀ (addr : BitVec 16) (n : Byte), addr.toNat + n.toNat ≤ 0x10000 → ∃ t : State, exec (.rd p addr n) s = .next t ∧
      (t.port p).rdData = (List.range n.toNat).map (fun i => u.windowRead p (addr.toNat + i)) ∧ (t.port p).mbxArg = (s.port p).mbxArg) ∧
    (∃ t : State, exec (.uhp2Bye p) s = .next t ∧ (t.port p).st = .opened ∧ (t.port p).width = 1) ∧
    ((s.port p).mbxBusy = false → s.cp0Runs = false → ∃ t : State, exec (.mbxGo p) s = .next t ∧ (t.port p).mbxBusy = true) ∧
    (∀ code, (s.port p).mbxBusy = false → s.cp0Runs = true → u.attached p = none → code = ((s.port p).mbxArg.get 0).toNat → ∃ t : State,
      exec (.mbxGo p) s = .next t ∧ (t.port p).mbxBusy = false ∧ (t.port p).mbxStat.getLsbD 14 = true ∧ t.halls = u.halls ∧
        (code = 0x01 ∨ code = 0x0A → (t.port p).mbxRsp.get 0 = 0 ∧ (t.port p).mbxRsp.get 1 = 0) ∧
        (code ≠ 0x01 → code ≠ 0x0A → (t.port p).mbxRsp.get 0 = 1 ∧ (t.port p).mbxRsp.get 1 = 0x21)) ∧
    ((s.port p).mbxBusy = false → s.cp0Runs = true → (u.attached p).isSome = true → mbxOpcode ((s.port p).mbxArg.get 0).toNat = none →
      ∃ t : State, exec (.mbxGo p) s = .next t ∧ (t.port p).mbxBusy = false ∧ (t.port p).mbxStat.getLsbD 14 = true ∧
        (t.port p).mbxStat.toNat % 256 = 2 ∧ (t.port p).mbxRsp.get 0 = 2) ∧
    ((s.port p).mbxBusy = false → s.cp0Runs = true → ∃ t : State, exec (.mbxGo p) s = .next t ∧ t = (s.mbxStart p).mbxRun p)

/-! ### Serial show ports (spec/14) -/

/-- A character that a receiver takes, and a break, pass to the holding register with their tags and the instant, to half a REFCLK
period; one unread there is replaced, tagged and counted; a character all low waits to be told from a break; auto-baud takes its
0x55 for the divisor; in the console role XOFF holds transmission and XON releases it, and neither is stored; a false start stores
nothing; the first high sample ends a wait (R391–R394, R396, R397). A line stuck low fences the receiver; a fence is lifted by
itself where auto_lift is set, and by the supervisor's SERn_CTRL.lift; rearm arms auto-baud again; a port that tolerates it sleeps
under the automatic policy and wakes at an edge, losing characters (R395, R396, R398). A read of SERn_RX takes the held character,
its tags and its stamp out of the register, and answers zero where none is held; a write of SERn_TX is sent by the roles that
drive SPn_TX, unless their receiver is fenced or the firmware has been declared stopped, after a received XON where XOFF holds it
(R393, R397, R489, R491). The model's readings and choices: assumption log 85, 86, 110. -/
def Obligations.ReceiversAndTheirRegisters : Prop :=
  (
    ∀ (s : State) (n : Fin 4) (ch : SerChar) (p : Ser), s.serOn = true → p = s.ser.get n →
      (∀ m fin c, p.takes = true → m = sampled p.dataLen ch.samples → m.fin = some fin →
        c = p.charOf (s.stamp ch.half) (s.line64 ch.half) m fin →
        c.ts = s.time.et + (if ch.half then 1 else 0) ∧
        (p.flow c = none → m.low = false → ∃ t : State, exec (.serialCharacter n ch) s = .next t ∧
          (t.ser.get n).hold = some { c with ovr := p.hold.isSome } ∧
          (t.ser.get n).ovrCnt = (if p.hold.isSome then satInc p.ovrCnt 1 else p.ovrCnt) ∧
          (t.ser.get n).line = (fin == .stopHigh) ∧ (∀ k, k ≠ n → t.ser.get k = s.ser.get k) ∧
          t = { s with ser := t.ser, irqf := t.irqf }) ∧
        (p.flow c = none → m.low = true → ∃ t : State, exec (.serialCharacter n ch) s = .next t ∧ (t.ser.get n).hold = p.hold ∧
          (t.ser.get n).pend = some c ∧ t = { s with ser := t.ser }) ∧
        (p.role = 4 → c.tagged = false → c.data = 0x13#8 → ∃ t : State, exec (.serialCharacter n ch) s = .next t ∧
          (t.ser.get n).hold = p.hold ∧ (t.ser.get n).xoffRx = true ∧ (t.ser.get n).sent = p.sent ∧
          t = { s with ser := t.ser, irqf := t.irqf }) ∧
        (p.role = 4 → c.tagged = false → c.data = 0x11#8 → ∃ t : State, exec (.serialCharacter n ch) s = .next t ∧
          (t.ser.get n).hold = p.hold ∧ (t.ser.get n).xoffRx = false ∧ (t.ser.get n).txHeld = [] ∧
          (t.ser.get n).sent = (if p.txHeld = [] ∨ s.serDrives n = false then p.sent else p.txHeld) ∧ t = { s with ser := t.ser, irqf := t.irqf })) ∧
      (∀ d, p.rx = .autobaud → p.measure s.nv.cfg.fe882 ch = some d →
        ∃ t : State, exec (.serialCharacter n ch) s = .next t ∧ (t.ser.get n).rx = .hunting ∧ (t.ser.get n).locked = true ∧
          (t.ser.get n).div = d % 2 ^ 24 ∧ (p.role ≠ 3 → (t.ser.get n).hold = p.hold) ∧
          (p.role = 3 → (t.ser.get n).hold = some { autoChar (s.stamp ch.half) with ovr := p.hold.isSome }) ∧
          t = { s with ser := t.ser, irqf := t.irqf }) ∧
      (∀ half, p.breakable = true → ∃ t : State, exec (.serialBreak { port := n, half := half }) s = .next t ∧
        (t.ser.get n).hold = some
          { data := 0#8, fe := false, pe := false, ovr := p.hold.isSome, brk := true, ts := s.time.et + (if half then 1 else 0),
            idle := (match p.pend with | some c => c.idle | none => p.idleBefore (32 * p.charBits) (s.line64 half)) } ∧
        (t.ser.get n).rx = .brk ∧ (t.ser.get n).waitHigh = true ∧ (t.ser.get n).pend = none ∧
        (t.ser.get n).brkCnt = satInc p.brkCnt 1 ∧ t = { s with ser := t.ser, irqf := t.irqf }) ∧
      (p.takes = true → exec (.falseStart n) s =
        .next (s.updSer n fun x =>
        { x with rx := .hunting, line := true, high := some (s.line64 false), gap := p.idleBefore 8 (s.line64 false) })) ∧
      (p.waitHigh = true → p.pend = none → ∃ t : State, exec (.breakLineHigh n) s = .next t ∧ (t.ser.get n).waitHigh = false ∧
        (t.ser.get n).hold = p.hold ∧ (p.rx = .brk ∨ p.rx = .receiving → (t.ser.get n).rx = p.freshRx) ∧ t = { s with ser := t.ser }) ∧
      (∀ c : RxChar, p.waitHigh = true → p.pend = some c → ∃ t : State, exec (.breakLineHigh n) s = .next t ∧
        (t.ser.get n).waitHigh = false ∧ (t.ser.get n).hold = some { c with ovr := p.hold.isSome } ∧ (t.ser.get n).pend = none ∧
        t = { s with ser := t.ser, irqf := t.irqf })) ∧
  (
    ∀ (s : State) (n : Fin 4) (p : Ser) (v : Word), p = s.ser.get n →
      (s.serOn = true → p.canStick = true → ∃ t : State, exec (.serialStuck n) s = .next t ∧ (t.ser.get n).rx = .fenced ∧
        (t.ser.get n).hold = p.hold ∧ (t.ser.get n).fenceCnt = satInc p.fenceCnt 1 ∧ bit (t.ser.get n).err 4 = true ∧
        t.fence.cnt.get 5 = satInc (s.fence.cnt.get 5) 1 ∧ t.halls = s.halls ∧ t.voices = s.voices) ∧
      (s.serOn = true → p.rx = .fenced → bit p.ctrl 31 = true → ∃ t : State, exec (.serialAutoLift n) s = .next t ∧
        (t.ser.get n).rx = p.freshRx ∧ t.halls = s.halls ∧ t.voices = s.voices) ∧
      (s.pwr.answers pdSerial = true → p.rx = .fenced → bit v 0 = true → bit v 1 = false → ∃ t : State,
        exec (.serLift .window n v) s = .next t ∧ (t.ser.get n).rx = p.freshRx ∧ t.halls = s.halls) ∧
      (s.pwr.answers pdSerial = true → p.rx = .fenced → ∀ i, i ≠ .window → ∃ t : State,
        exec (.serLift i n v) s = .next t ∧ (t.ser.get n).rx = .fenced ∧ t = { s with ser := t.ser }) ∧
      (s.pwr.answers pdSerial = true → bit p.baud 31 = true → p.rx = .hunting ∨ p.rx = .receiving ∨ p.rx = .brk → bit v 1 = true →
        bit v 0 = false → ∀ i, ∃ t : State, exec (.serRearm i n v) s = .next t ∧ (t.ser.get n).rx = .autobaud ∧
          (t.ser.get n).locked = false ∧ (t.ser.get n).hold = p.hold ∧ t = { s with ser := t.ser }) ∧
      (s.pwr.answers pdSerial = true → bit p.baud 31 = true → p.rx = .fenced ∨ p.rx = .asleep → bit v 1 = true →
        bit v 0 = false → ∀ i, ∃ t : State, exec (.serRearm i n v) s = .next t ∧ (t.ser.get n).rx = p.rx ∧
          (t.ser.get n).locked = false ∧ t = { s with ser := t.ser }) ∧
      (s.serOn = true → bit s.pwr.policy 31 = true → bit p.ctrl 30 = true → roleSleeps p.role = true →
        p.rx = .hunting ∨ p.rx = .autobaud → exec (.serialSleep n) s = .next (s.updSer n fun x => { x with rx := .asleep })) ∧
      (∀ more low, s.serOn = true → p.rx = .asleep →
        ∃ t : State, exec (.serialWake { port := n, more := more, low := low }) s = .next t ∧ (t.ser.get n).rx = p.freshRx ∧
          (t.ser.get n).wakeLost = satInc p.wakeLost (1 + more) ∧ (t.ser.get n).waitHigh = low ∧ (t.ser.get n).hold = p.hold ∧
          t = { s with ser := t.ser, irqf := t.irqf })) ∧
  (
    ∀ (s : State) (i : Initiator) (n : Fin 4) (p : Ser) (v : Word), p = s.ser.get n → s.pwr.answers pdSerial = true →
      (∀ c : RxChar, p.hold = some c → ∃ t : State, exec (.serRxRead i n) s = .next t ∧ (t.ser.get n).hold = none ∧
        (t.ser.get n).ts = c.ts ∧
        t.bus.data = word (2 ^ 31 + at_ c.brk 11 + at_ c.ovr 10 + at_ c.pe 9 + at_ c.fe 8 + c.data.toNat) ∧ t.halls = s.halls ∧
        (∀ m, m ≠ n → t.ser.get m = s.ser.get m) ∧
        (i = .window ∨ i = .cp0 → t = { s with ser := s.ser.put n { p with hold := none, ts := c.ts },
                                               bus := { s.bus with data := t.bus.data } })) ∧
      (p.hold = none → exec (.serRxRead i n) s = .next { s with bus := { s.bus with data := 0#32 } }) ∧
      (2 ≤ p.role → p.role ≤ 4 → (p.role = 4 ∨ p.rx ≠ .fenced) → s.serDrives n = true → p.xoffRx = false →
        exec (.serTxWrite i n v) s = .next (s.updSer n fun x =>
          { x with sent := [byte v.toNat], txFrom := s.line64 false, txTo := s.line64 false + (x.charBits + 1) * x.div })) ∧
      (2 ≤ p.role → p.role ≤ 4 → (p.role = 4 ∨ p.rx ≠ .fenced) → s.serDrives n = true → p.xoffRx = true →
        exec (.serTxWrite i n v) s = .next (s.updSer n fun x =>
          { x with txHeld := x.txHeld ++ [byte v.toNat], txFrom := s.line64 false,
                   txTo := s.line64 false + (x.charBits + 1) * x.div })) ∧
      (p.role < 2 ∨ (p.role ≠ 4 ∧ p.rx = .fenced) ∨ s.serDrives n = false → exec (.serTxWrite i n v) s = .next s))

/-- MIDI and DMX: the oldest message or packet complete is handled once and its hall's keepalive restarts; a message that is an
event goes to the bound hall's queue with the event time LEAD after its reception and is counted; every message of a port bound to
no hall is dropped and counted, and so is a start that names no program when it takes effect; a packet's slots are taken and each
patched value it changes is ramped to from the next control point; 1.25 s without a packet is signalled once (R400–R406). The RDM
responder takes the oldest request, drops and counts one whose length or checksum fails, leaves one for another responder
unanswered, and answers GET of its start address with it; no request touches a hall (R407, R408). The packet layout is PRESUMED.
The model's readings and choices: assumption log 26, 41, 87, 111. -/
def Obligations.SerialRolesAreServed : Prop :=
  (
    ∀ (s : State) (n : Fin 4) (p : Ser), p = s.ser.get n →
      (∀ x xs, s.cp1Runs = true → p.role = 1 → p.midi.ready = x :: xs → ∃ t : State, exec (.midiMessage n) s = .next t ∧
        (t.ser.get n).midi.ready = xs ∧ t.time = s.time ∧ t.voices = s.voices ∧
        (∀ h, s.serHall n = some h → (t.halls.get h).kaLast = s.time.rclk ∧ (t.halls.get h).kaLapsed = false) ∧
        (s.serHall n = none → (p.midi.event x).2.isSome = true →
          (t.ser.get n).dropCnt = satInc p.dropCnt 1 ∧ bit (t.ser.get n).err 6 = true ∧ t.halls = s.halls) ∧
        (∀ h k u, s.serHall n = some h → (p.midi.event x).2 = some k →
          u = (s.updSer n fun q => { q with midi := { (p.midi.event x).1 with ready := xs } }).traffic h →
          u.midiOk h k = true → u.hallFenced h = false → u.timeOk (x.ts + u.lead) = true → u.queueRoom h = true →
          t = (u.arrive h 2 (p.mapped % 65536) n.val x.ts (x.ts + u.lead) k).1.updSer n fun q =>
            { q with mapped := q.mapped + 1, msgCnt := satInc q.msgCnt 1 }) ∧
        ((p.midi.event x).2 = none → (t.ser.get n).dropCnt = p.dropCnt ∧ (t.ser.get n).mapped = p.mapped)) ∧
      (∀ x k, x.status / 16 = 9 → (p.midi.event x).2 = some k → x.d2 ≠ 0 → ∃ y : StartSpec, k = .start y ∧ 65536 ≤ y.handle) ∧
      (∀ F e y, (s.hall e.hall).startProg? y.handle = none → (s.hall e.hall).ser? = some n → 65536 ≤ y.handle →
        s.place F e y = (s.updSer n fun q => { q with dropCnt := satInc q.dropCnt 1 }).serErr n 64) ∧
      (∀ x xs, s.cp1Runs = true → p.role = 2 → p.dmx.ready = x :: xs → ∃ t : State, exec (.dmxPacket n) s = .next t ∧
        (t.ser.get n).dmx = { p.dmx.take x.1 x.2 with ready := xs } ∧ (t.ser.get n).pktCnt = satInc p.pktCnt 1 ∧
        t.time = s.time ∧ t.voices = s.voices ∧
        (∀ h, s.serHall n = some h → (t.halls.get h).kaLast = s.time.rclk ∧ (t.halls.get h).kaLapsed = false) ∧
        ((∀ e ∈ p.dmx.patch, p.dmx.value e = (p.dmx.take x.1 x.2).value e) → (t.ser.get n).mapped = p.mapped ∧ t.irqf = s.irqf ∧
          ∀ h : Fin 8, (t.halls.get h).ctl = (s.halls.get h).ctl) ∧
        (∀ e, p.dmx.patch = [e] → p.dmx.value e ≠ (p.dmx.take x.1 x.2).value e → (s.hall e.hall).alive = true →
          s.hallFenced (hallIx e.hall) = false → (t.ser.get n).mapped = p.mapped + 1 ∧
          (t.halls.get (hallIx e.hall)).ctl = ((s.dmxRamp (s.dmxPoint x.1) e ((p.dmx.take x.1 x.2).value e)).halls.get (hallIx e.hall)).ctl)) ∧
      (∀ (e : Patch) T v k, k = hallIx e.hall → ∃ dur, dur = (rdiv ((e.smooth * feHz s.fe882 * 512 : Nat) : Int) 1000).toNat ∧
        ((s.dmxRamp T e v).halls.get k).ctl = (s.halls.get k).ctl.upd (Fin.ofNat 32 e.ctl) (fun c =>
          (c.1, lineInsert { src := .dmx, key := cpKey T 0, t := T, ramp := true, v := v, dur := dur } c.2)) ∧
        bit (s.dmxRamp T e v).sched.guar 5 = true) ∧
      (s.time.running = true → p.role = 2 → p.dmx.loss = false → p.dmx.last + 640 * feHz s.fe882 ≤ s.time.et →
        ∃ t : State, exec (.dmxLoss n) s = .next t ∧ (t.ser.get n).dmx = { p.dmx with loss := true } ∧ bit (t.ser.get n).err 7 = true ∧
          (∃ e ∈ t.mgmt.volLog, e.code = 0x0603) ∧ t.halls = s.halls ∧ t.voices = s.voices)) ∧
  (
    ∀ (s : State) (n : Fin 4) (p : Ser) x xs, p = s.ser.get n → s.cp1Runs = true → p.role = 2 → p.dmx.rdm = x :: xs →
      ∃ t : State, exec (.rdmRequest n) s = .next t ∧ (t.ser.get n).dmx.rdm = xs ∧ t.halls = s.halls ∧
        t.voices = s.voices ∧ t.mem = s.mem ∧
        (rdmBad x.2 = true → (t.ser.get n).dropCnt = satInc p.dropCnt 1 ∧ (t.ser.get n).sent = p.sent) ∧
        (rdmBad x.2 = false → s.rdmReq n x.2 = none → t = s.updSer n fun q => { q with dmx := { q.dmx with rdm := xs } }) ∧
        (∀ r, rdmBad x.2 = false → s.rdmReq n x.2 = some r → r.bcast = false → r.cc = 0x20 → r.pid = 0x00F0 → p.rx ≠ .fenced →
          s.bankOn .ser = true → (t.ser.get n).sent = s.rdmPacket n r 0 (bigEnd 2 p.dmx.start) ∧
            (t.ser.get n).dmx = { p.dmx with rdm := xs } ∧ s.line64 false + s.us64 200 ≤ (t.ser.get n).txFrom + s.us64 4 ∧
            (t.ser.get n).txFrom + s.us64 4 ≤ s.line64 false + s.us64 400) ∧
        (∀ r v, rdmBad x.2 = false → s.rdmReq n x.2 = some r → r.cc = 0x30 → r.pid = 0x00F0 → r.data.length = 2 → v = beNat r.data →
          1 ≤ v → v ≤ 512 → v + p.dmx.foot ≤ 513 → slotsFit v p.dmx.patch = true →
          (t.ser.get n).dmx = { p.dmx with rdm := xs, start := v }))

/-- The show bus: a valid frame is taken, one for another address does nothing; an addressed EVENT becomes an event of the bound
hall LEAD and its offset after its reception, or is dropped and counted, and is answered where it asks for it; an addressed BEACON
makes its sender a peer; an addressed ACK changes nothing (R410–R412). A beacon is sent every 100 ms, seq counting; a peer unheard
for 350 ms is forgotten; a frame goes out once the line has been idle for 2 character times; the k-th collision in a row of a
frame releases the line and backs off by a draw below 2^min(k, 10), the 16th drops it; a back-off over, the frame is sent again
(R411–R413). The model's readings and choices: assumption log 86, 88. -/
def Obligations.ShowBusFrames : Prop :=
  ∀ (s : State) (n : Fin 4) (p : Ser), p = s.ser.get n →
    (∀ x xs u ver pl src dst, s.cp1Runs = true → p.role = 3 → p.tsb.ready = x :: xs →
      u = s.updSer n (fun q => { q with tsb := { q.tsb with ready := xs } }) → ver = f8 x.2 0 → src = f8 x.2 1 → dst = f8 x.2 2 →
      pl = (x.2.drop (if ver = 1 then 5 else 6)).dropLast.dropLast →
      ∃ t : State, exec (.tsbFrame n) s = .next t ∧ (t.ser.get n).tsb.ready = xs ∧ t.time = s.time ∧ t.voices = s.voices ∧
        (dst ≠ p.addr → dst ≠ 255 → t = u) ∧
        (dst = p.addr ∨ dst = 255 → f8 x.2 3 = 3 → t = u) ∧
        (dst = p.addr ∨ dst = 255 → f8 x.2 3 = 1 → pl.length = 16 →
          ((∃ y ∈ p.tsb.peers, y.uid = f64 pl 4) ∨ p.tsb.peers.length < 32) →
          ∃ y ∈ (t.ser.get n).tsb.peers, y.uid = f64 pl 4 ∧ y.addr = src ∧ y.ver = f8 pl 0 ∧ y.seen = s.time.rclk) ∧
        (∀ v st, dst = p.addr ∨ dst = 255 → f8 x.2 3 = 2 → u.tsbEvent n x.1 pl = (v, st) →
          (st ≤ 1 → (t.ser.get n).msgCnt = satInc p.msgCnt 1 ∧ (t.ser.get n).mapped = p.mapped + 1) ∧
          (1 < st → (t.ser.get n).dropCnt = satInc p.dropCnt 1 ∧ bit (t.ser.get n).err 6 = true) ∧
          t.halls = v.halls ∧ t.sched = v.sched ∧
          (dst = p.addr → f8 pl 4 % 2 = 1 → ∃ w : State, t = w.tsbSend n
            (tsbFrame (p.tsb.verFor src ver) p.addr src 3 (leBytes 2 (f16 pl 0) ++ [byte st])) ∧ (w.ser.get n).tsb.tx = p.tsb.tx) ∧
          (dst = 255 ∨ f8 pl 4 % 2 = 0 → p.addr ≠ 255 → (t.ser.get n).tsb.tx = p.tsb.tx))) ∧
    (∀ h ts pl, s.serHall n = some h → (s.traffic h).hallFenced h = false → 12 ≤ pl.length → f8 pl 4 < 2 → zero pl 5 3 = true →
      f32 pl 8 < 2 ^ 31 → s.tsbEvent n ts pl =
        (s.traffic h).make h 2 (f16 pl 0) n.val ts (ts + s.lead + f32 pl 8) (f16 pl 2) (pl.drop 12)) ∧
    (∀ (f : List Byte), p.mayTalk = true → s.bankOn .ser = true → p.tsb.tx = [] → p.tsb.going = false → p.tsb.back = none →
      (2 * p.charBits * p.div ≤ p.quiet (s.line64 false) → ∃ t : State, t = s.tsbSend n f ∧ (t.ser.get n).sent = f ∧
        (t.ser.get n).tsb.going = true ∧ (t.ser.get n).tsb.tx = [f] ∧ (t.ser.get n).txFrom = s.line64 false ∧ t = { s with ser := t.ser }) ∧
      (p.quiet (s.line64 false) < 2 * p.charBits * p.div → ∃ t : State, t = s.tsbSend n f ∧ (t.ser.get n).sent = p.sent ∧
        (t.ser.get n).tsb.going = false ∧ (t.ser.get n).tsb.tx = [f] ∧ t = { s with ser := t.ser })) ∧
    (s.cp1Runs = true → s.serOn = true → p.mayTalk = true → p.tsb.nextBeacon ≤ s.time.rclk → ∃ t : State,
      exec (.tsbBeacon n) s = .next t ∧ (t.ser.get n).tsb.seq = (p.tsb.seq + 1) % 2 ^ 32 ∧
      (t.ser.get n).tsb.nextBeacon = p.tsb.nextBeacon + s.edgesUs 100000 ∧ t = { s with ser := t.ser } ∧
      t = (s.updSer n fun q => { q with tsb := { q.tsb with seq := (p.tsb.seq + 1) % 2 ^ 32,
                                                            nextBeacon := p.tsb.nextBeacon + s.edgesUs 100000 } }).tsbSend n
        (tsbFrame 1 p.addr 255 1 ([2#8, 0#8] ++ leBytes 2 100 ++ leBytes 8 s.nv.uid ++ leBytes 4 p.tsb.seq))) ∧
    (∃ t : State, exec (.tsbPeerTimeout n) s = .next t ∧ t = { s with ser := t.ser } ∧ ∀ x, x ∈ (t.ser.get n).tsb.peers ↔
      x ∈ p.tsb.peers ∧ s.time.rclk < x.seen + s.edgesUs 350000) ∧
    (p.mayTalk = true → p.tsb.going = true → s.line64 false < p.txTo → ∃ t : State, exec (.tsbCollision n) s = .next t ∧
      (t.ser.get n).collCnt = satInc p.collCnt 1 ∧ (t.ser.get n).tsb.going = false ∧ (t.ser.get n).deAt (s.line64 false) = false ∧
      t = { s with ser := t.ser, irqf := t.irqf } ∧
      (p.tsb.coll + 1 < 16 → (t.ser.get n).tsb.coll = p.tsb.coll + 1 ∧ (t.ser.get n).tsb.tx = p.tsb.tx ∧
        ∃ r, (t.ser.get n).tsb.back = some r ∧ r < 2 ^ min (p.tsb.coll + 1) 10) ∧
      (16 ≤ p.tsb.coll + 1 → (t.ser.get n).tsb.tx = p.tsb.tx.tail ∧ (t.ser.get n).tsbDrop = satInc p.tsbDrop 1 ∧
        bit (t.ser.get n).err 8 = true)) ∧
    (∀ r f fs, s.cp1Runs = true → s.serOn = true → p.mayTalk = true → p.tsb.going = false → p.tsb.back = some r → p.tsb.tx = f :: fs →
      (2 * p.charBits * p.div * (1 + r) ≤ p.quiet (s.line64 false) → ∃ t : State, exec (.tsbBackoffEnd n) s = .next t ∧
        (t.ser.get n).sent = f ∧ (t.ser.get n).tsb.back = none ∧ (t.ser.get n).tsb.tx = f :: fs ∧ (t.ser.get n).tsb.going = true ∧
        t = { s with ser := t.ser }) ∧
      (p.quiet (s.line64 false) < 2 * p.charBits * p.div * (1 + r) → exec (.tsbBackoffEnd n) s = .next s))

/-! ### The console (spec/17 R464–R468) -/

/-- A console line at the front is taken and answered: VER, STAT and LOG with their text (free values), AUTH with a challenge, RESP
by opening a session where the signature verifies; UPD, ROLLBACK, LC and KEY need a session, which ends after 10 minutes without
input, its key erased (R464–R468). The model's readings and choices: assumption log 22, 89. -/
def Obligations.ConsoleLinesAreAnswered : Prop :=
  (∀ (s t : State) (n : Fin 4) (line : List Byte) (rest : List (List Byte)), s.conRuns n = true →
    (s.ser.get n).lines = line :: rest → t = s.conTake n →
    (conOf line = some (.ver, []) →
      exec (.consoleVer n) s = .next (t.conSay n (Config.consoleText 0 (t.slotFacts 0 ++ t.slotFacts 1 ++ [t.nv.fuses])) 0)) ∧
    (conOf line = some (.stat, []) → exec (.consoleStat n) s = .next (t.conSay n (Config.consoleText 1 (natsOf t.summary)) 0)) ∧
    (∀ w k, conOf line = some (.log, [w]) → numOf 10 w = some k → k ≤ 128 → exec (.consoleLog n) s = .next (t.conSay n
      (Config.consoleText 2 (natsOf ((s.mgmt.volLog.drop (s.mgmt.volLog.length - k)).flatMap LogEnt.bytes))) 0)) ∧
    (conOf line = some (.auth, []) → ∃ u c, exec (.consoleAuth n) s = .next u ∧ c = leBytes 8 (Config.challenge s.fresh).toNat ∧
      u.mgmt.chal = some (n, c) ∧ u.mgmt.answer = hexText c ++ crlf ++ conLast 0 ∧ u.fresh = s.fresh + 1) ∧
    (∀ w sig, conOf line = some (.resp, [w]) → hexOf w = some sig → sig.length = 64 →
      ∃ u : State, exec (.consoleResp n) s = .next u ∧ u.mgmt.chal = none ∧
        u.mgmt.session = (if s.respOk n sig then some (n, s.time.rclk) else s.mgmt.session) ∧
        u.mgmt.answer = conLast (if s.respOk n sig then 0 else 0x31)) ∧
    (s.mgmt.session.map (·.1) = some n →
      (∀ w len, conOf line = some (.updBegin, [w]) → numOf 10 w = some len → 1 ≤ len → len ≤ fwMax → s.mgmt.onTrial = false →
        s.mgmt.flash = none → exec (.consoleUpdBegin n) s = .next (t.updOpen len (some n))) ∧
      (∀ ws off data, conOf line = some (.updD, ws) → updDLine line = some (off, data) → data.length ≤ 64 →
        t.updRefuse off data.length = none → s.mgmt.flash = none →
        exec (.consoleUpdD n) s = .next (t.updProgram data (some n))) ∧
      (conOf line = some (.updCommit, []) → s.mgmt.flash = none →
        exec (.consoleUpdCommit n) s = .next ((t.updCommit true).1.conSay n [] (t.updCommit true).2)) ∧
      (conOf line = some (.rollback, []) → s.mgmt.flash = none →
        exec (.consoleRollback n) s = .next (t.updRollback.1.conSay n [] t.updRollback.2)) ∧
      (∀ a b cur tgt, conOf line = some (.lc, [a, b]) → s.mgmt.recovery = false → numOf 10 a = some cur → numOf 10 b = some tgt →
        exec (.consoleLc n) s = .next ((t.lifeChange true cur tgt).1.conSay n [] (t.lifeChange true cur tgt).2)) ∧
      (∀ a b (k : Fin 8) w, conOf line = some (.key, [a, b]) → s.mgmt.recovery = false → numOf 10 a = some k.val → hexOf b = some w →
        w.length = 40 → s.nv.life = .provisioned → exec (.consoleKey n) s =
          .next ((t.updRec sectorKeys fun v => { v with keys := v.keys.put k (.wrapped w) }).conSay n [] 0)))) ∧
  (∀ (s : State) k r, s.mgmt.session = some (k, r) → r + s.edgesUs 600000000 ≤ s.time.rclk →
    exec .consoleSessionTimeout s = .next s.endSession ∧ s.endSession.mgmt.session = none ∧
      s.endSession = { s with mgmt := { s.mgmt with session := none, alcove := s.endSession.mgmt.alcove } }) ∧
  ∀ (s : State) (n : Fin 4) k r, s.mgmt.session = some (k, r) → s.conRuns n = true → k ≠ n →
    (∀ line rest, (s.ser.get n).lines = line :: rest → conOf line = some (.rollback, []) → s.mgmt.flash = none →
      exec (.consoleRollback n) s = .next ((s.conTake n).conSay n [] 0x31))

/-! ### Resets (spec/18 R477–R481) -/

/-- Every reset ends every hall, voice, page and fence and keeps flash and fuses, the powered time running on; all but the
power-on reset keep the volatile log and count; the power-on reset clears the count (R478–R480). The model's readings and choices:
assumption log 11, 79. -/
def Obligations.ResetsKeepFlashAndFuses : Prop :=
  (∀ (s : State) (c : RstCause) (x : Instr),
    (x = .resetAssert ∧ c = .pin ∧ s.pins.resetLow = false ∧ s.bankOn .sys = true) ∨ (x = .internalReset ∧ s.mgmt.rst = some c) ∨
      (x = .jtagReset ∧ c = .jtag ∧ s.pins.resetLow = false ∧ s.pins.brown = false ∧ s.nv.life = .service ∧ s.bankOn .sys = true) ∨
      (x = .powerOnReset ∧ c = .por) ∨ (x = .brownout ∧ c = .brownout ∧ s.pins.resetLow = false ∧ s.pins.brown = false) ∨
      (x = .autoRestart ∧ c = .fwStop ∧ s.mgmt.stopped = true ∧ s.nv.cfg.autoRestart = true ∧ s.mgmt.onTrial = false) →
    ∃ t : State, exec x s = .next t ∧ t.nv = { s.nv with powered := s.poweredS } ∧ t.pending = s.pending ∧
      t.halls = State.reset.halls ∧ t.voices = [] ∧
      t.mem = State.reset.mem ∧ t.mez = State.reset.mez ∧ t.fence = State.reset.fence ∧ t.dac = State.reset.dac ∧
      t.ser = State.reset.ser ∧ t.irqf = State.reset.irqf ∧ t.mgmt.alcove = [] ∧ t.pwr.dom = State.reset.pwr.dom ∧
      (c = .por → t.pwr.cause = 1#32 ∧ t.pwr.rstCnt = 0#32 ∧ t.mgmt.volLog = []) ∧
      (x = .powerOnReset ∨ x = .resetAssert → t.pins.resetLow = true) ∧
      (c ≠ .por → t.pwr.cause = setFlag s.pwr.cause c.code ∧ t.pwr.rstCnt = satInc s.pwr.rstCnt 1 ∧ t.mgmt.volLog = s.mgmt.volLog)) ∧
  (∀ (s : State) (x : Instr), x = .resetAssert ∨ x = .jtagReset → s.bankOn .sys = false → exec x s = .next s) ∧
  (∀ (s : State), s.pins.resetLow = true → s.pins.brown = false → ∃ t : State, exec .resetRelease s = .next t ∧
    t.pins = { s.pins with resetLow := false } ∧ t.time.counting = true ∧ t.time.rclk = at_ s.time.refclk 0 ∧
    t = { s with pins := t.pins, time := t.time }) ∧
  (∀ (s : State), s.pins.brown = true → ∃ t : State, exec .brownoutSupplyRestored s = .next t ∧ t.pins = { s.pins with brown := false } ∧
    (s.pins.resetLow = false → t.time.counting = true) ∧ t = { s with pins := t.pins, time := t.time })

/-- Start-up, carried out at its earliest (a choice of the model), starts the slot that boot selects: the control domains are on,
memory is ready, the ports are open and, where REFCLK has not run for 120 ms yet, rendering runs from ET 0, which is the edge 3,686,400;
where no slot is acceptable RECOVERY is entered (R481, R458, R464, R418). Which codewords fail the test of memory, and whether TAMPER_n is still asserted, are free. The model's readings and choices:
assumption log 11, 12, 13. -/
def Obligations.StartupStartsTheFirmware : Prop :=
  ∀ (s w u : State), s.pins.resetLow = false → s.pins.brown = false → s.time.counting = true → s.time.refclk = true →
    s.pwr.on pdCtrl = false → s.mgmt.recovery = false →
    w = { s with time := { s.time with ok := true }, fresh := s.fresh + 1,
                 nv := if s.nv.life = .blank then s.nv else Nv.wrote { s.nv with boots := s.nv.boots + 1 } sectorBoot s.poweredS,
                 pins := { s.pins with tamper := s.pins.tamper && Config.tamperHeld s.fresh, memBad := Config.memBad s.fresh } } →
    u = (if s.nv.calValid then w else w.log 0x0102 none []) →
    (∀ n trial, u.bootSlot.2 = some (n, trial) → ∃ t : State, exec .startup s = .next t ∧
      t = u.bootSlot.1.startFirmware s.pins.memBad n trial (u.bootSlot.1.nv.slots.get n).info ∧ t.mgmt.slot = n ∧ t.mgmt.onTrial = trial ∧
      t.pwr.on pdCtrl = true ∧ t.pwr.on pdMem = true ∧ t.mem.ready = true ∧ ∀ p : Fin 2, (t.foyer.port.get p).st = .opened ∧
        (t.foyer.port.get p).rdy = true ∧
        (s.time.armed = false → s.time.running = false → s.sched.cfgSet = false → s.time.rclk ≤ 120 * refHz s.ref882 / 1000 →
          t.time.running = true ∧ t.time.et = 0 ∧ t.time.rclk = bringupStep ∧ t.time.bringup = word bringupStep ∧
          t.sched.nextBound = 1 ∧ (t.halls.get 0).alive = true)) ∧
    (u.bootSlot.2 = none → ∃ t : State, exec .startup s = .next t ∧ t = u.bootSlot.1.recovery ∧ t.mgmt.recovery = true ∧
      (t.ser.get 0).role = 4)

/-! ### TIME (spec/15) -/

/-- A write of TIME_GO releases its timers at the next REFCLK edge, all of them at once; released timers step from RELOAD to 0
with an overflow and match TMRn_CMP, by the source and RELOAD that the next REFCLK edge finds: REFCLK edges, es ticks once rendering
runs, the overflows of the timer below, or, one at the next REFCLK edge, an accepted edge of their trigger; a timer that is frozen or
not released stands; a read of a count latches those of the chain above it (R421–R427). The model's readings and choices: assumption log 90. -/
def Obligations.TimersCountAndMatch : Prop :=
  ∀ (s : State) (i : Initiator) (n : Fin 16),
    (∀ v, ∃ t : State, exec (.timeGo i v) s = .next t ∧ t = { s with time := { s.time with going := t.time.going } } ∧
      (s.time.counting = true → s.time.refclk = true → s.time.armed = false → ∀ k : Fin 16,
        ((t.advance 1).time.tmr.get k).go = ((s.time.tmr.get k).go || bit (s.time.going ||| v) k.val))) ∧
    (∀ m : Timer, m = (s.time.tmr.get n).settle → m.counts s.time.dbgHalt = true → m.src = 0 → s.time.counting = true →
      s.time.refclk = true → s.time.armed = false → ∃ t : State, exec (.timerOverflow n) s = .next t ∧ (t.time.tmr.get n).count = 0#32 ∧
        (t.time.tmr.get n).ovf = true ∧ t.time.rclk = s.time.rclk + m.toZero ∧ t.halls = s.halls ∧
        (s.sched.mapped = [] → t = { s with time := t.time, irqf := t.irqf })) ∧
    (∀ (m : Timer) k, m = (s.time.tmr.get n).settle → m.counts s.time.dbgHalt = true → m.src = 0 → s.time.counting = true →
      s.time.refclk = true → s.time.armed = false → m.toMatch = some k →
      ∃ t : State, exec (.timerCompareMatch n) s = .next t ∧ (t.time.tmr.get n).count = (s.time.tmr.get n).cmpv ∧
        (t.time.tmr.get n).cmp = true ∧ t.time.rclk = s.time.rclk + k ∧ (s.sched.mapped = [] → t = { s with time := t.time, irqf := t.irqf })) ∧
    (∀ m : Timer, m = (s.time.tmr.get n).settle → m.counts s.time.dbgHalt = true → m.src = 1 → s.time.counting = true →
      s.time.refclk = true → s.time.armed = false → s.time.running = true →
      (∃ t : State, exec (.timerOverflow n) s = .next t ∧ (t.time.tmr.get n).count = 0#32 ∧ (t.time.tmr.get n).ovf = true ∧
        t.time.et / 512 = s.time.et / 512 + m.toZero ∧ t.time.et % 512 < 2 ∧ (s.sched.mapped = [] → t = { s with time := t.time, irqf := t.irqf })) ∧
      ∀ k, m.toMatch = some k → ∃ t : State, exec (.timerCompareMatch n) s = .next t ∧
        (t.time.tmr.get n).count = (s.time.tmr.get n).cmpv ∧ (t.time.tmr.get n).cmp = true ∧
        t.time.et / 512 = s.time.et / 512 + k ∧ t.time.et % 512 < 2 ∧ (s.sched.mapped = [] → t = { s with time := t.time, irqf := t.irqf })) ∧
    (∀ (m b : Timer) (l : Fin 16), m = (s.time.tmr.get n).settle → m.counts s.time.dbgHalt = true → m.src = 3 → l.val + 1 = n.val →
      b = (s.time.tmr.get l).settle → b.counts s.time.dbgHalt = true → b.src = 0 → s.time.counting = true →
      s.time.refclk = true → s.time.armed = false →
      (∃ t : State, exec (.timerOverflow n) s = .next t ∧ (t.time.tmr.get n).count = 0#32 ∧ (t.time.tmr.get n).ovf = true ∧
        (t.time.tmr.get l).count = 0#32 ∧ (t.time.tmr.get l).ovf = true ∧
        t.time.rclk = s.time.rclk + b.toZero + (m.toZero - 1) * (b.reload.toNat + 1) ∧ (s.sched.mapped = [] → t = { s with time := t.time, irqf := t.irqf })) ∧
      ∀ k, m.toMatch = some k → ∃ t : State, exec (.timerCompareMatch n) s = .next t ∧
        (t.time.tmr.get n).count = (s.time.tmr.get n).cmpv ∧ (t.time.tmr.get n).cmp = true ∧ (t.time.tmr.get l).count = 0#32 ∧
        t.time.rclk = s.time.rclk + b.toZero + (k - 1) * (b.reload.toNat + 1) ∧ (s.sched.mapped = [] → t = { s with time := t.time, irqf := t.irqf })) ∧
    (∀ m : Timer, m = (s.time.tmr.get n).settle → m.counts s.time.dbgHalt = true → m.src = 2 → s.time.counting = true →
      s.time.refclk = true → s.time.armed = false → exec (.timerOverflow n) s = .next s ∧ exec (.timerCompareMatch n) s = .next s ∧
      ∃ x : Timer, x = (s.advance 1).time.tmr.get n ∧
        (bit s.time.hits (bits m.ctrl 2 0) = false → x.count = m.count ∧ x.ovf = m.ovf ∧ x.cmp = m.cmp) ∧
        (bit s.time.hits (bits m.ctrl 2 0) = true → x.count = (if m.count = m.reload then 0#32 else m.count + 1#32) ∧
          (m.count = m.reload → x.ovf = true) ∧ (x.count = m.cmpv → x.cmp = true))) ∧
    (∀ m : Timer, m = (s.time.tmr.get n).settle → m.counts s.time.dbgHalt = false →
      exec (.timerOverflow n) s = .next s ∧ exec (.timerCompareMatch n) s = .next s) ∧
    (∀ v, (s.time.tmr.get n).held = some v → exec (.timerCountRead i n) s =
      .next { s with time := { s.time with tmr := s.time.tmr.upd n fun x => { x with held := none } }, bus := { s.bus with data := v } }) ∧
    ((s.time.tmr.get n).held = none → ∃ t : State, exec (.timerCountRead i n) s = .next t ∧ t.bus.data = (s.time.tmr.get n).count ∧
      t = { s with time := { s.time with tmr := t.time.tmr }, bus := { s.bus with data := t.bus.data } } ∧
      ∀ k : Fin 16, t.time.tmr.get k = (if n < k ∧ (∀ j : Fin 16, n < j → j ≤ k → (s.time.tmr.get j).src = 3)
        then { s.time.tmr.get k with held := some (s.time.tmr.get k).count } else s.time.tmr.get k))

/-- REFCLK lost or outside its tolerance is counted, flagged and logged as 0x0701; without edges TIME stops, and which of the two
it is is free; restored, it is good after 1 ms. A debugger halts a core in SERVICE only. An edge of a trigger whose level holds
for the filter is accepted when the filter has passed, counted and, once rendering runs, stamped with the half of the period in
which it crossed the ball; one within 1 µs is only counted as missed, one that does not hold, or of another polarity, is not
accepted; where the trigger is mapped a stamped edge of the mapping's polarity sends the mapped event to SCHED, its offset after the
stamp, or drops and counts it where it fails the checks of R386; such events arrive in the order of their stamps, and of their
triggers where those are equal, and are dropped and counted where the hall is fenced or gone or its queue is full (when they arrive
is the model's choice, log 91); a read of TRGt_TS_LO takes the oldest stamp. Of REFCLK's return and the debugger nothing is seen while bank SYS
has no supply (R386, R419, R424, R428–R431, R496, R502, R503). The model's readings and choices: assumption log 29, 91, 92. -/
def Obligations.ReferenceClockAndTriggers : Prop :=
  ∀ (s : State),
    (s.time.refclk = true → ∃ t : State, exec .refclkLost s = .next t ∧ t.time.ok = false ∧ t.time.rclk = s.time.rclk ∧
      t.time.et = s.time.et ∧ t.halls = s.halls ∧ t.voices = s.voices ∧ t.fresh = s.fresh + 1 ∧
      t.time.refclk = Config.refclkStill s.fresh ∧
      (s.time.ok = true ∨ Config.refclkStill s.fresh = false → t.time.lossCnt = satInc s.time.lossCnt 1 ∧ bit t.time.err 0 = true ∧
        ∃ e ∈ t.mgmt.volLog, e.code = 0x0701) ∧
      (Config.refclkStill s.fresh = false → s.out.master = true → s.out.wclkOk = true → t.out.wclkOk = false ∧ t.dac.mute = true)) ∧
    (s.time.refclk = false ∨ s.time.ok = false → s.bankOn .sys = true → s.time.armed = false → ∃ t : State, exec .refclkRestored s = .next t ∧
      t.time.refclk = true ∧ t.time.ok = true ∧ (s.time.counting = true → t.time.rclk = s.time.rclk + s.edgesUs 1000) ∧
      (s.sched.mapped = [] → t.halls = s.halls) ∧ t.voices = s.voices) ∧
    (∀ cp : Fin 2, s.bankOn .sys = true →
      (s.nv.life = .service → s.pwr.on pdCtrl = true → exec (.debugHalt cp) s =
        .next { s with time := { s.time with dbg := s.time.dbg.put cp true }, pins := { s.pins with tap := .debug } }) ∧
      (s.nv.life ≠ .service → exec (.debugHalt cp) s = .next { s with pins := { s.pins with tap := .bypass } }) ∧
      exec (.debugHaltReleased cp) s = .next { s with time := { s.time with dbg := s.time.dbg.put cp false } }) ∧
    (∀ x : Instr, x = .refclkRestored ∨ (∃ cp, x = .debugHalt cp ∨ x = .debugHaltReleased cp) → s.bankOn .sys = false →
      exec x s = .next s) ∧
    (∀ (k : Fin 8) rising ns half g now at', g = s.time.trg.get k → now = (g.crossing (2 * s.time.rclk) half).toNat →
      at' = g.crossing s.time.et half → s.bankOn .sys = true → bit g.ctrl 31 = true → s.time.counting = true → s.time.refclk = true →
      ∃ t : State, exec (.triggerEdge k rising ns half) s = .next t ∧ (t.time.trg.get k).level = rising ∧ t.voices = s.voices ∧
        t.time.rclk = s.time.rclk ∧ t.time.et = s.time.et ∧
        (g.dead s.ref882 now = true → (t.time.trg.get k).miss = satInc g.miss 1 ∧ (t.time.trg.get k).fifo = g.fifo ∧
          t.halls = s.halls) ∧
        (g.dead s.ref882 now = false → g.selects rising = false ∨ g.holds s.ref882 ns = false →
          t = s.updTrg k fun x => { x with level := rising }) ∧
        (g.dead s.ref882 now = false → g.selects rising = true → g.holds s.ref882 ns = true →
          (t.time.trg.get k).cap = satInc g.cap 1 ∧ (t.time.trg.get k).last = some now ∧ bit t.time.hits k.val = true ∧
          (s.time.running = false ∨ at' < 0 → (t.time.trg.get k).fifo = g.fifo ∧ t.halls = s.halls) ∧
          (s.time.running = true → 0 ≤ at' → g.fifo.length < 4 → (t.time.trg.get k).fifo = g.fifo ++ [at'.toNat]) ∧
          (s.time.running = true → 0 ≤ at' → 4 ≤ g.fifo.length → (t.time.trg.get k).fifo = g.fifo ∧ (t.time.trg.get k).ovf = true ∧
            bit t.time.err 2 = true) ∧
          t.halls = s.halls ∧
          (s.time.running = true → 0 ≤ at' → g.map = none → t.sched = s.sched ∧ (t.time.trg.get k).drop = g.drop) ∧
          ∀ (m : TrigMap) h T pay, s.time.running = true → 0 ≤ at' → g.map = some m → h = hallIx m.hall → T = at'.toNat + m.offset →
            pay = leBytes 8 T ++ m.template →
            (m.edges.testBit (if rising then 0 else 1) = false → t.sched = s.sched ∧ (t.time.trg.get k).drop = g.drop) ∧
            (m.edges.testBit (if rising then 0 else 1) = true →
              s.hallFenced h = true ∨ templateLen m.opcode ≠ some m.template.length ∨ firstFail (s.evChecks h m.opcode pay) ≠ none →
              t.sched = s.sched ∧ (t.time.trg.get k).drop = satInc g.drop 1) ∧
            (m.edges.testBit (if rising then 0 else 1) = true → s.hallFenced h = false → templateLen m.opcode = some m.template.length →
              firstFail (s.evChecks h m.opcode pay) = none → (t.time.trg.get k).drop = g.drop ∧
              t.sched = { s.sched with
                mapped := mappedInsert ⟨k.val, m.hall, m.tag, at'.toNat, T, evKindOf m.opcode pay⟩ s.sched.mapped }))) ∧
    (∀ (m : Mapped) (h : Fin 8) (t : State), h = hallIx m.hall → t = s.forwardOne m →
      ((s.halls.get h).alive = false ∨ s.hallFenced h = true ∨ s.timeOk m.time = false ∨ s.queueRoom h = false →
        t = s.updTrg (Fin.ofNat 8 m.trig) fun g => { g with drop := satInc g.drop 1 }) ∧
      ((s.halls.get h).alive = true → s.hallFenced h = false → s.timeOk m.time = true → s.queueRoom h = true →
        t.time = s.time ∧ t.voices = s.voices ∧ (∀ j, j ≠ h → t.halls.get j = s.halls.get j) ∧
        (t.halls.get h).queue.length = (s.halls.get h).queue.length + 1 ∧
        ∃ e ∈ (t.halls.get h).queue, e.src = 1 ∧ e.tag = m.tag ∧ e.req = m.time ∧ e.kind = m.kind ∧
          (m.stamp + s.lead ≤ m.time → s.openAt ≤ m.time → e.time = m.time ∧ e.late = false ∧ t.sched.lateCnt = s.sched.lateCnt) ∧
          (m.time < m.stamp + s.lead ∨ m.time < s.openAt → e.time = max m.time s.openAt ∧ e.late = true ∧
            t.sched.lateCnt = satInc s.sched.lateCnt 1 ∧
            t.sched.lateLast = word (2 ^ 19 + h.val * 2 ^ 16 + m.trig % 2 ^ 16)))) ∧
    ((∀ m ∈ s.sched.mapped, s.time.et ≤ m.stamp + mappedDelay) → s.forward = s) ∧
    (∀ m ms, s.sched.mapped = m :: ms → m.stamp + mappedDelay < s.time.et → (∀ x ∈ ms, s.time.et ≤ x.stamp + mappedDelay) →
      s.forward = { s with sched := { s.sched with mapped := ms } }.forwardOne m) ∧
    (∀ (m : Mapped) (xs : List Mapped), xs.Pairwise (fun a b => b.before a = false) → m ∈ mappedInsert m xs ∧ (∀ x ∈ xs, x ∈ mappedInsert m xs) ∧
      (mappedInsert m xs).length = xs.length + 1 ∧ (mappedInsert m xs).Pairwise (fun a b => b.before a = false)) ∧
    (∀ (i : Initiator) (k : Fin 8) x xs, (s.time.trg.get k).fifo = x :: xs → ∃ t : State, exec (.triggerTsRead i k) s = .next t ∧
      t.bus.data = word x ∧ (t.time.trg.get k).fifo = xs ∧ (t.time.trg.get k).hi = 0x80000000#32 ||| word (x / 2 ^ 32 % 2 ^ 25) ∧
      t = { s with time := { s.time with trg := t.time.trg }, bus := { s.bus with data := t.bus.data } }) ∧
    (∀ (i : Initiator) (k : Fin 8), (s.time.trg.get k).fifo = [] → exec (.triggerTsRead i k) s =
      .next { s with time := { s.time with trg := s.time.trg.upd k fun g => { g with hi := 0#32 } }, bus := { s.bus with data := 0#32 } })

/-! ### The interrupt fabric (spec/16) -/

/-- A raise sets pending, and one that finds it set changes nothing but the coalesced count (R433); an end of interrupt of the entry
at the top of the stack ends it, and the running group is then that of the entry below; of any other it is ignored and flagged
(R441). -/
def Obligations.InterruptsAreRaisedAndEnded : Prop :=
  (∀ (s : State) (n : Fin 256), irqUsed n.val = true → n.val ≠ 255 →
    ((s.irqf.ent.get n).pending = false → exec (.irqRaise n) s =
      .next { s with irqf := { s.irqf with ent := s.irqf.ent.upd n fun e => { e with pending := true } } }) ∧
    ((s.irqf.ent.get n).pending = true → s.irqf.coal ≠ 0xFFFFFFFF#32 → exec (.irqRaise n) s =
      .next { s with irqf := { s.irqf with coal := s.irqf.coal + 1#32 } })) ∧
  ∀ (s : State) (i : Initiator) (k : Fin 3) (v : Word) (n : Nat), i = .cp0 ∨ i = .cp1 ∨ i = .mp →
      s.pwr.answers pdCtrl = true → n = bits v 7 0 →
    (∀ ms, s.irqf.stack.get k = n :: ms → ∃ t : State, exec (.irqEoi i k v) s = .next t ∧ t.irqf.stack = s.irqf.stack.put k ms ∧
      (t.irqf.get n).active = false ∧ (t.irqf.get n).pending = (s.irqf.get n).pending ∧
      t.irqf.running k = ms.head?.map (fun m => s.irqf.group (s.irqf.get m).prio) ∧ t = { s with irqf := t.irqf }) ∧
    ((s.irqf.stack.get k).head? ≠ some n → ∃ t : State, exec (.irqEoi i k v) s = .next t ∧ bit t.irqf.err 1 = true ∧
      t.irqf.stack = s.irqf.stack ∧ t = { s with irqf := t.irqf } ∧ ∀ m : Fin 256, m ≠ 6 → t.irqf.ent.get m = s.irqf.ent.get m)

/-- What a target is offered is its most urgent deliverable entry, the lowest source number on a tie, where its group is above the
running group; an acknowledge takes it, answers its number and pushes it, unless it is by a target that waits for an interrupt and
cannot be woken; doorbells below 224 and changes of IRQF_CFG while an entry is active are ignored and flagged; a route is written
at once; the register window takes and ends nothing (R435, R436, R439, R440, R443, R444, R446). The model's readings and choices:
assumption log 28. -/
def Obligations.InterruptsAreOfferedAndTaken : Prop :=
  (∀ (q : Irqf) (k : Fin 3) n, q.offer k = some n → (q.get n).deliverable k.val = true ∧ n < 256 ∧
    (q.compat = false → (∀ m, m < 256 → (q.get m).deliverable k.val = true → (q.get m).prio ≤ (q.get n).prio ∧
      ((q.get m).prio = (q.get n).prio → n ≤ m)) ∧ ∀ g, q.running k = some g → g < q.group (q.get n).prio) ∧
    (q.compat = true → q.stack.get k = [] ∧ ∀ m, m < 256 → (q.get m).deliverable k.val = true → n ≤ m)) ∧
  ∀ (s : State) (i : Initiator) (k : Fin 3) (v : Word), s.pwr.answers pdCtrl = true →
    (∀ n, i ≠ .window → s.irqf.offer k = some n → (s.irqf.stack.get k).length < 16 →
      (s.irqf.stack.get k ≠ [] ∨ s.canWake k = true) → ∃ t : State, exec (.irqAck i k) s = .next t ∧
      t.bus.data = 0x80000000#32 ||| word ((s.irqf.get n).prio * 256 + n) ∧ t.irqf.stack = s.irqf.stack.put k (n :: s.irqf.stack.get k) ∧
      (t.irqf.get n).pending = false ∧ (t.irqf.get n).active = true ∧ (t.irqf.get n).owner = k.val ∧ t.irqf.asleep.get k = false ∧
      t = { s with irqf := t.irqf, bus := { s.bus with data := t.bus.data } }) ∧
    (i = .window ∨ s.irqf.offer k = none ∨ (s.irqf.stack.get k = [] ∧ s.canWake k = false) →
      exec (.irqAck i k) s = .next { s with bus := { s.bus with data := 0#32 } }) ∧
    (i = .window → exec (.irqEoi i k v) s = .next s ∧ exec (.irqfDbWrite i k v) s = .next s) ∧
    (i ≠ .window → bits v 7 0 < 224 → ∃ t : State, exec (.irqfDbWrite i k v) s = .next t ∧ bit t.irqf.err 0 = true ∧
      t = { s with irqf := t.irqf } ∧ ∀ m : Fin 256, m ≠ 6 → t.irqf.ent.get m = s.irqf.ent.get m) ∧
    (i ≠ .window → 224 ≤ bits v 7 0 → bits v 7 0 < 255 →
      exec (.irqfDbWrite i k v) s = .next { s with irqf := s.irqf.raise (bits v 7 0) }) ∧
    ((∀ j : Fin 3, s.irqf.stack.get j = []) → exec (.irqfCfgWrite i v) s =
      .next { s with irqf := { s.irqf with compat := bit v 31, bp := bits v 2 0 } }) ∧
    ((∃ j : Fin 3, s.irqf.stack.get j ≠ []) → bit v 31 ≠ s.irqf.compat ∨ bits v 2 0 ≠ s.irqf.bp → ∃ t : State,
      exec (.irqfCfgWrite i v) s = .next t ∧ t.irqf.compat = s.irqf.compat ∧ t.irqf.bp = s.irqf.bp ∧ bit t.irqf.err 2 = true) ∧
    (∀ n : Fin 256, irqUsed n.val = true → exec (.routeChange i n v) s = .next { s with irqf := { s.irqf with
      ent := s.irqf.ent.upd n fun e => { e with en := bit v 31, target := bits v 9 8, prio := bits v 3 0 } } })

/-! ### Management (spec/17) -/

/-- The MP's samples: Tj is the highest of the ten temperatures and steps the thermal policy, each step entered raising its source,
WARN setting SCHED_GUAR.range and holding it, SHED limiting every MB_g to CB where the policy sheds, HALT muting the outputs and asking
for every gallery's fence; each step has its exit, HALT's, like SHED's, to WARN; a voltage outside its window sets its sticky flag; a
pace reading enters the window of R69; health reports, by the firmware or by a raise of source 255, and their absence; the summary; the
log's bucket (R69, R447–R455, R464, R469, R471, R491). The model's readings and choices, the step that an exit from HALT leads to
among them: assumption log 93, 94, 95. -/
def Obligations.SensorsAndHealth : Prop :=
  ∀ (s : State),
    (∀ temps, (Instr.tempSample temps).wf = true → ∃ t : State, exec (.tempSample temps) s = .next t ∧
      (∀ k : Fin 10, t.mgmt.temps.get k = temps.getD k.val 0) ∧
      (s.mgmt.therm = .normal → t.mgmt.therm = (if t.mgmt.tj ≥ 125 * 16 then .halt else if t.mgmt.tj ≥ 115 * 16 then .shed
        else if t.mgmt.tj > 110 * 16 then .warn else .normal)) ∧
      (s.mgmt.therm = .warn → t.mgmt.therm = (if t.mgmt.tj ≥ 125 * 16 then .halt else if t.mgmt.tj ≥ 115 * 16 then .shed else .warn)) ∧
      (s.mgmt.therm = .shed → t.mgmt.therm = (if t.mgmt.tj ≥ 125 * 16 then .halt else .shed)) ∧
      (s.mgmt.therm = .halt → t.mgmt.therm = .halt ∧ t.dac = s.dac ∧ t.gal = s.gal) ∧
      (s.mgmt.therm = .normal → t.mgmt.therm ≠ .normal → (t.irqf.get 208).pending = true ∧ bit t.sched.guar 6 = true) ∧
      (s.mgmt.therm = .normal ∨ s.mgmt.therm = .warn → t.mgmt.therm = .shed ∨ t.mgmt.therm = .halt → (t.irqf.get 209).pending = true) ∧
      (s.mgmt.therm ≠ .halt → t.mgmt.therm = .halt → (t.irqf.get 210).pending = true ∧ t.dac.thermal = true ∧ t.dac.mute = true ∧
        bit t.dac.err 3 = true ∧ ∀ g : Fin 8, (t.gal.get g).fenceReq = some 3) ∧
      (t.mgmt.therm ≠ .halt → t.dac = s.dac ∧ t.gal = s.gal) ∧
      ((∃ x ∈ temps, tempWipes x = true) → t.mgmt.alcove = [] ∧ t.mgmt.keysIn = false ∧ t.mgmt.session = none) ∧
      t.voices = s.voices ∧ t.time = s.time) ∧
    (s.mgmt.therm ≠ .normal → bit s.guarPersist 6 = true) ∧
    (s.mgmt.therm = .shed ∨ s.mgmt.therm = .halt → s.mgmt.shed = true → bit s.sched.meas 31 = true → ∀ g, s.mbOf g ≤ s.cb) ∧
    (∃ t : State, exec .thermalStepExit s = .next t ∧ (s.mgmt.therm = .warn → s.mgmt.tj ≤ 107 * 16 → t.mgmt.therm = .normal) ∧
      (s.mgmt.therm = .shed → s.mgmt.tj ≤ 110 * 16 → t.mgmt.therm = .warn) ∧
      (s.mgmt.therm = .halt → s.mgmt.tj ≤ 110 * 16 → t.dac.thermal = false ∧ t.mgmt.therm = .warn) ∧
      (s.mgmt.therm = .normal ∨ (s.mgmt.therm = .warn ∧ 107 * 16 < s.mgmt.tj) ∨ 110 * 16 < s.mgmt.tj → t = s) ∧
      t = { s with mgmt := { s.mgmt with therm := t.mgmt.therm }, dac := { s.dac with thermal := t.dac.thermal } }) ∧
    (∀ mv, (Instr.voltageSample mv).wf = true → ∃ t : State, exec (.voltageSample mv) s = .next t ∧ t.voices = s.voices ∧
      ∀ d : Fin 16, t.mgmt.volts.get d = mv.getD d.val 0 ∧
        t.mgmt.vmonBad.get d = (s.pwr.on d && !s.vmonIn d (mv.getD d.val 0)) ∧
        t.mgmt.vmonOut.get d = (s.mgmt.vmonOut.get d || (s.pwr.on d && !s.vmonIn d (mv.getD d.val 0)))) ∧
    (∀ (k : Fin 10) reading, (Instr.paceReading k reading).wf = true → ∃ t : State, exec (.paceReading k reading) s = .next t ∧
      t.mgmt.pace = s.mgmt.pace.put k reading ∧ t.irqf = s.irqf.raise 212 ∧
      (∀ g : Fin 8, g.val ≠ k.val ∨ s.time.running = false → t.gal.get g = s.gal.get g) ∧
      (∀ g : Fin 8, g.val = k.val → s.time.running = true → (t.gal.get g).paces = (s.time.et, reading) ::
        (s.gal.get g).paces.filter fun y => decide (s.start s.sched.nextMb ≤ y.1 + 64 * s.fl * 512))) ∧
    (∀ x : Instr, x = .healthReport ∨ x = .irqRaise 255 → s.pwr.on pdCtrl = true → s.mgmt.stopped = false → s.mgmt.recovery = false →
      ∃ t : State, exec x s = .next t ∧ t.mgmt.fwOk = true ∧ t.mgmt.pulse = true ∧ t.dac.fwStop = false ∧ t.irqf = s.irqf.raise 255 ∧
        t = { s with mgmt := t.mgmt, dac := t.dac, irqf := t.irqf }) ∧
    (s.pwr.on pdCtrl = false ∨ s.mgmt.stopped = true ∨ s.mgmt.recovery = true →
      exec (.irqRaise 255) s = .next { s with irqf := s.irqf.raise 255 }) ∧
    (s.pwr.on pdCtrl = true → s.mgmt.stopped = false → s.mgmt.fwOk = true → ∃ t : State, exec .firmwareStop s = .next t ∧
      t.mgmt.stopped = true ∧ t.mgmt.pulse = false ∧ t.dac.fwStop = true ∧ t.dac.mute = true ∧
      (∀ p : Fin 2, (t.foyer.port.get p).st = .down ∧ (t.foyer.port.get p).rdy = false) ∧
      (∀ n : Fin 4, (t.ser.get n).deAt (s.line64 false) = false) ∧ t.halls = s.halls ∧ t.voices = s.voices) ∧
    (s.pwr.on pdFoyer = true → s.foyer.sram.wf = true → ∃ t : State, exec .summaryWrite s = .next t ∧ s.summary.length = 64 ∧
      t.foyer.sram.readList 0x12000 64 = s.summary ∧ t.mgmt.sumSeq = (s.mgmt.sumSeq + 1) % 2 ^ 32 ∧
      ∀ a, a < 0x12000 ∨ 0x12040 ≤ a → t.foyer.sram.read a = s.foyer.sram.read a) ∧
    exec .logTokenRefill s = .next (s.updMgmt fun m => { m with tokens := min 256 (m.tokens + 1) })

/-- What flash does ends; a sector that shows its age is rewritten into a spare, its contents the same; a trial is confirmed 60 s
after bring-up, which commits its slot and blows the fuses, or fails, by a stop or by no health within 10 s, and resets the device, void
at the second failure; a tamper,
a glitch and the MP's own request wipe the Alcove and end the session (R457, R459, R460, R462, R469, R470). The model's readings
and choices: assumption log 78, 80, 96, 104. -/
def Obligations.FlashTrialsAndTheAlcove : Prop :=
  ∀ (s : State),
    (∀ len n, s.mgmt.flash = some (.erase len n none) → exec .flashEraseDone s =
      .next (((s.updMgmt fun m => { m with flash := none }).flashWrote (sectorSlot n) (sectorSlot n + 96)).flashAnswer
        (· == .erase) [byte n.val])) ∧
    (∀ len n k, s.mgmt.flash = some (.erase len n (some k)) → ∃ t : State, exec .flashEraseDone s = .next t ∧ t.mgmt.flash = none ∧
      t.mgmt.answer = ascii "SLOT " ++ [byte (0x41 + n.val)] ++ crlf ++ ascii "OK" ++ crlf ∧ t.nv = { s.nv with sectors := t.nv.sectors } ∧
      t.halls = s.halls ∧ ∀ j : Fin 224, t.nv.sectors.get j = (if sectorSlot n ≤ j.val ∧ j.val < sectorSlot n + 96
        then { s.nv.sectors.get j with written := s.poweredS } else s.nv.sectors.get j)) ∧
    (∀ data con u old, s.mgmt.flash = some (.program data con) → s.mgmt.upd = some u → s.nv.slots.get u.slot = .written old →
      ∃ t : State, exec .flashProgramDone s = .next t ∧ t.nv.slots.get u.slot = .written (old ++ data) ∧ t.mgmt.flash = none ∧
        t.mgmt.upd = some { u with done := u.done + data.length }) ∧
    (∀ (k : Fin 224) bs x, x = s.nv.sectors.get k → ∃ t : State, exec (.flashRefresh k bs) s = .next t ∧
      t = { s with nv := { s.nv with sectors := t.nv.sectors, spares := t.nv.spares } } ∧
      (∀ j, j ≠ k → t.nv.sectors.get j = s.nv.sectors.get j) ∧
      (x.old bs s.poweredS = false ∨ s.nv.spares = [] →
        t.nv.sectors.get k = { x with read := s.poweredS } ∧ t.nv.spares = s.nv.spares) ∧
      (∀ q qs, x.old bs s.poweredS = true → s.nv.spares = q :: qs →
        t.nv.sectors.get k = { place := q, written := s.poweredS, read := s.poweredS } ∧ t.nv.spares = qs ++ [x.place])) ∧
    (s.mgmt.onTrial = true → s.mgmt.fwOk = true → s.time.running = true → 60 * feHz s.fe882 * 512 ≤ s.time.et →
      ∃ t : State, exec .trialConfirm s = .next t ∧ t.nv.committed = s.mgmt.slot.val ∧ t.nv.trial = none ∧ t.nv.fails = 0 ∧
        t.nv.fuses = min 64 (max s.nv.fuses (s.nv.slots.get s.mgmt.slot).info.rollback) ∧ t.mgmt.onTrial = false ∧ t.voices = s.voices) ∧
    (s.mgmt.onTrial = true → s.mgmt.stopped = true ∨ (s.mgmt.fwOk = false ∧ s.edgesUs 10000000 ≤ s.time.rclk) →
      ∃ t : State, exec .trialFail s = .next t ∧ t.nv.fails = s.nv.fails + 1 ∧
      t.nv.trial = (if s.nv.fails + 1 ≥ 2 then none else s.nv.trial) ∧ t.nv.slots = s.nv.slots ∧ t.voices = [] ∧
      t.pwr.cause = setFlag s.pwr.cause 5) ∧
    (s.mgmt.onTrial = false ∨ (s.mgmt.stopped = false ∧ (s.mgmt.fwOk = true ∨ s.time.rclk < s.edgesUs 10000000)) →
      exec .trialFail s = .next s) ∧
    (∀ x : Instr, (x = .tamper ∧ s.bankOn .sys = true) ∨ x = .glitchDetect ∨ (∃ v, x = .alcoveWipe .mp v ∧ bit v 31 = true) → ∃ t : State, exec x s = .next t ∧
      t.mgmt.alcove = [] ∧ t.mgmt.wiped = true ∧ t.mgmt.keysIn = false ∧ t.mgmt.session = none ∧
      (x = .tamper → bit t.mgmt.tamper 0 = true ∧ t.pins.tamper = true) ∧ (x = .glitchDetect → bit t.mgmt.tamper 1 = true) ∧
      t.halls = s.halls ∧ t.voices = s.voices ∧ t.mem = s.mem) ∧
    (s.bankOn .sys = false → exec .tamper s = .next s) ∧
    (∀ v, bit v 31 = false → exec (.alcoveRetention .mp v) s = .next (s.updMgmt fun m => { m with alcRet := bit v 0 }))

/-! ### Power (spec/18 R472–R476, spec/19 R496) -/

/-- PWRd_CTRL switches a domain that may be off, and any other write of its on bit is ignored and flagged; ret is kept for
galleries; a wake that is ready or timed out, a supply switched off, automatic parking; a bank without its supply reads as idle
(R472–R476, R496). The model's readings and choices: assumption log 97, 98, 101. -/
def Obligations.DomainsAreSwitched : Prop :=
  (∀ (s u : State) (i : Initiator) (d : Fin 16) (v : Word),
    u = (if isGal d.val then s.updDom d fun x => { x with ret := bit v 30 } else s) →
    (bit v 31 = (u.pwr.dom.get d).onBit → exec (.pwrRetWrite i d v) s = .next u) ∧
    (bit v 31 ≠ (u.pwr.dom.get d).onBit → u.mayBeOff d = true → exec (.pwrOnWrite i d v) s = .next (u.switch d (bit v 31))) ∧
    (bit v 31 ≠ (u.pwr.dom.get d).onBit → u.mayBeOff d = false → exec (.pwrOnWrite i d v) s = .next (u.pwrErr 1)) ∧
    ((s.pwr.dom.get d).st = .off → ((s.switch d true).pwr.dom.get d).st = .waking)) ∧
  ∀ (s : State) (d : Fin 16),
    ((s.pwr.dom.get d).st = .on → ((s.switch d false).pwr.dom.get d).st = .goingOff) ∧
    ((s.pwr.dom.get d).st = .waking → ∃ v : State, exec (.domainReady d) s = .next (v.awake d) ∧ (v.pwr.dom.get d).st = .on ∧
      v.irqf = s.irqf.raise 5 ∧ v = { s with pwr := v.pwr, irqf := v.irqf }) ∧
    ((s.pwr.dom.get d).st = .waking → (s.pwr.dom.get d).since + s.edgesUs (4 * wakeMax d (s.pwr.dom.get d).fromRet) ≤ s.time.rclk →
      ∃ v : State, exec (.wakeTimeout d) s = .next (v.wakeLost d) ∧ (v.pwr.dom.get d).st = .off ∧ bit v.pwr.err 2 = true ∧
        v.halls = s.halls ∧ v.voices = s.voices ∧ v.nv.logNext ≠ s.nv.logNext) ∧
    ((s.pwr.dom.get pdAna).st = .off → s.pwr.on pdCtrl = true → s.nv.cfg.anaUnused = false →
      (s.pwr.dom.get pdAna).since + s.edgesUs 1000000 ≤ s.time.rclk → ∃ t : State, exec .wakeRetry s = .next t ∧
        (t.pwr.dom.get pdAna).st = .waking ∧ (t.pwr.dom.get pdAna).since = s.time.rclk ∧ t = { s with pwr := t.pwr }) ∧
    ((s.pwr.dom.get d).st = .goingOff → ∃ v : State, exec (.domainSwitchedOff d) s =
        .next (if isGal d.val then v.parkDone (galOfDom d) else v) ∧
      (v.pwr.dom.get d).st = (if isGal d.val = true ∧ (s.pwr.dom.get d).ret = true then .retained else .off) ∧
      (v.pwr.dom.get d).swCnt = satInc (s.pwr.dom.get d).swCnt 1 ∧ v = { s with pwr := v.pwr, irqf := v.irqf, dac := v.dac } ∧
      (d ≠ pdAna → v.dac = s.dac) ∧ (d = pdAna → v.dac.vrefOk = false ∧ ∀ n : Fin 16, v.dac.ch.get n = (s.dac.ch.get n).dark)) ∧
    (s.switch pdAna false).dac.vrefOk = false ∧
    (bit s.pwr.policy 31 = true → ∃ t : State, exec .autoPark s = .next t ∧ t.halls = s.halls ∧ t.voices = s.voices ∧
      ∀ g : Fin 8, (s.idleLong g = true → (t.pwr.dom.get (pdGal g)).st = .goingOff ∧ (t.gal.get g).parked = true) ∧
        (s.idleLong g = false → t.pwr.dom.get (pdGal g) = s.pwr.dom.get (pdGal g) ∧ t.gal.get g = s.gal.get g)) ∧
    (∀ b : Bank, ∃ t : State, exec (.bankVddioLost b) s = .next t ∧ b ∈ t.pins.absent ∧
      (b ≠ .sys → t = { s with pins := t.pins, ser := t.ser }) ∧
      (b = .sys → t.pins.tamper = false ∧ t.time.refclk = false ∧ t.time.rclk = s.time.rclk ∧ t.time.et = s.time.et ∧
        t.halls = s.halls ∧ t.voices = s.voices ∧ (s.time.refclk = true → t.time.ok = false ∧ t.time.lossCnt = satInc s.time.lossCnt 1 ∧ bit t.time.err 0 = true)) ∧
      (b = .ser → ∀ n : Fin 4, t.ser.get n = { s.ser.get n with line := true, high := some ((s.ser.get n).high.getD (s.line64 false)) }) ∧
      (b ≠ .ser → t.ser = s.ser)) ∧
    (∀ b : Bank, ∃ t : State, exec (.bankVddioRestored b) s = .next t ∧ b ∉ t.pins.absent ∧
      t = { s with pins := t.pins, dac := { s.dac with edge := t.dac.edge },
                   tdm := { s.tdm with edge := t.tdm.edge, inEdge := t.tdm.inEdge } } ∧
      (b ≠ .tdm ∨ s.out.master = true ∨ s.bankOn .tdm = true → t = { s with pins := t.pins }) ∧
      (b = .tdm → s.out.master = false → s.bankOn .tdm = false → s.firstGrid ≤ t.dac.edge ∧ s.firstGrid ≤ t.tdm.edge ∧
        s.firstGrid ≤ t.tdm.inEdge) ∧
      ∀ c, c ≠ b → (c ∈ t.pins.absent ↔ c ∈ s.pins.absent))
end

