-- ==== Sys2Proof/Laws/Memory.lean ====
section
/-! SUPPORT. The laws of sparse memories: what a write lets every address read as, and that every operation keeps the canonical
form; the same of the operations on wave memory. -/

namespace Sys2Proof.Machine

variable {α : Type}

/-! ### Reads -/

@[simp] theorem Sparse.get_nil (d : α) (a : Nat) : Sparse.get d [] a = d := rfl

theorem Sparse.get_cons (d : α) (b : Nat) (v : α) (m : Sparse α) (a : Nat) :
    Sparse.get d ((b, v) :: m) a = if b = a then v else if a < b then d else Sparse.get d m a := rfl

/-- Below the first address that may be listed, everything reads as an unlisted address does. -/
theorem Sparse.get_below [DecidableEq α] (d : α) (m : Sparse α) (lo a : Nat) (h : Sparse.wfFrom d lo m = true) (ha : a < lo) :
    Sparse.get d m a = d := by
  cases m with
  | nil => rfl
  | cons x m =>
    obtain ⟨b, v⟩ := x
    simp only [Sparse.wfFrom, Bool.and_eq_true, decide_eq_true_eq] at h
    rw [Sparse.get_cons, if_neg (by omega), if_pos (by omega)]

/-- What an address reads as after a write (no condition on the form). -/
theorem Sparse.get_put_same [DecidableEq α] (d : α) (m : Sparse α) (lo a : Nat) (v : α) (h : Sparse.wfFrom d lo m = true) :
    Sparse.get d (Sparse.put d m a v) a = v := by
  induction m generalizing lo with
  | nil => by_cases hv : v = d <;> simp [Sparse.put, Sparse.get, hv]
  | cons x m ih =>
    obtain ⟨b, w⟩ := x
    simp only [Sparse.wfFrom, Bool.and_eq_true, decide_eq_true_eq] at h
    by_cases hb : b = a
    · subst hb
      by_cases hv : v = d
      · simp only [Sparse.put, if_pos hv, if_true]
        rw [hv]
        exact Sparse.get_below d m (b + 1) b h.2 (by omega)
      · simp [Sparse.put, hv, Sparse.get]
    · by_cases hlt : a < b
      · by_cases hv : v = d <;> simp [Sparse.put, hb, hlt, hv, Sparse.get]
      · simp only [Sparse.put, if_neg hb, if_neg hlt, Sparse.get]
        exact ih (b + 1) h.2

/-- A write leaves every other address as it was. -/
theorem Sparse.get_put_ne [DecidableEq α] (d : α) (m : Sparse α) (lo a a' : Nat) (v : α) (h : Sparse.wfFrom d lo m = true)
    (ha : a' ≠ a) : Sparse.get d (Sparse.put d m a v) a' = Sparse.get d m a' := by
  induction m generalizing lo with
  | nil => by_cases hv : v = d <;> simp [Sparse.put, Sparse.get, hv, ha.symm]
  | cons x m ih =>
    obtain ⟨b, w⟩ := x
    simp only [Sparse.wfFrom, Bool.and_eq_true, decide_eq_true_eq] at h
    by_cases hb : b = a
    · subst hb
      by_cases hv : v = d
      · simp only [Sparse.put, if_pos hv, if_true, Sparse.get, if_neg ha.symm]
        by_cases hlt : a' < b
        · rw [if_pos hlt]; exact Sparse.get_below d m (b + 1) a' h.2 (by omega)
        · rw [if_neg hlt]
      · simp [Sparse.put, hv, Sparse.get, ha.symm]
    · by_cases hlt : a < b
      · by_cases hv : v = d
        · simp [Sparse.put, hb, hlt, hv]
        · simp only [Sparse.put, if_neg hb, if_pos hlt, if_neg hv, Sparse.get_cons d a, if_neg ha.symm]
          by_cases h2 : a' < a
          · rw [if_pos h2, Sparse.get_cons, if_neg (by omega), if_pos (by omega)]
          · rw [if_neg h2]
      · simp only [Sparse.put, if_neg hb, if_neg hlt, Sparse.get]
        rw [ih (b + 1) h.2]

/-! ### The canonical form -/

theorem Sparse.wfFrom_mono [DecidableEq α] (d : α) (m : Sparse α) (lo lo' : Nat) (h : Sparse.wfFrom d lo m = true) (hl : lo' ≤ lo) :
    Sparse.wfFrom d lo' m = true := by
  cases m with
  | nil => rfl
  | cons x m =>
    obtain ⟨b, v⟩ := x
    simp only [Sparse.wfFrom, Bool.and_eq_true, decide_eq_true_eq] at h ⊢
    exact ⟨⟨by omega, h.1.2⟩, h.2⟩

theorem Sparse.wfFrom_put [DecidableEq α] (d : α) (m : Sparse α) (lo a : Nat) (v : α) (h : Sparse.wfFrom d lo m = true)
    (ha : lo ≤ a) : Sparse.wfFrom d lo (Sparse.put d m a v) = true := by
  induction m generalizing lo with
  | nil => by_cases hv : v = d <;> simp [Sparse.put, Sparse.wfFrom, hv, ha]
  | cons x m ih =>
    obtain ⟨b, w⟩ := x
    simp only [Sparse.wfFrom, Bool.and_eq_true, decide_eq_true_eq] at h
    by_cases hb : b = a
    · subst hb
      by_cases hv : v = d
      · simp only [Sparse.put, if_pos hv, if_true]
        exact Sparse.wfFrom_mono d m (b + 1) lo h.2 (by omega)
      · simp [Sparse.put, hv, Sparse.wfFrom, ha, h.2]
    · by_cases hlt : a < b
      · by_cases hv : v = d
        · simp [Sparse.put, hb, hlt, hv, Sparse.wfFrom, h.1.1, h.1.2, h.2]
        · simp [Sparse.put, hb, hlt, hv, Sparse.wfFrom, ha, h.1.2, h.2, Nat.succ_le_of_lt hlt]
      · simp only [Sparse.put, if_neg hb, if_neg hlt, Sparse.wfFrom, Bool.and_eq_true, decide_eq_true_eq]
        exact ⟨h.1, ih (b + 1) h.2 (by omega)⟩

/-- A write keeps the canonical form. -/
theorem Sparse.wf_put [DecidableEq α] (d : α) (m : Sparse α) (a : Nat) (v : α) (h : Sparse.wf d m = true) :
    Sparse.wf d (Sparse.put d m a v) = true := Sparse.wfFrom_put d m 0 a v h (Nat.zero_le a)

theorem Sparse.wf_putList [DecidableEq α] (d : α) (vs : List α) (m : Sparse α) (a : Nat) (h : Sparse.wf d m = true) :
    Sparse.wf d (Sparse.putList d m a vs) = true := by
  induction vs generalizing m a with
  | nil => exact h
  | cons v vs ih => exact ih _ _ (Sparse.wf_put d m a v h)

theorem Sparse.wfFrom_filter [DecidableEq α] (d : α) (f : Nat × α → Bool) (m : Sparse α) (lo : Nat)
    (h : Sparse.wfFrom d lo m = true) : Sparse.wfFrom d lo (m.filter f) = true := by
  induction m generalizing lo with
  | nil => rfl
  | cons x m ih =>
    obtain ⟨b, v⟩ := x
    simp only [Sparse.wfFrom, Bool.and_eq_true, decide_eq_true_eq] at h
    rw [List.filter_cons]
    split
    · simp only [Sparse.wfFrom, Bool.and_eq_true, decide_eq_true_eq]
      exact ⟨h.1, ih (b + 1) h.2⟩
    · exact Sparse.wfFrom_mono d _ (b + 1) lo (ih (b + 1) h.2) (by omega)

/-- Unlisting a span keeps the canonical form. -/
theorem Sparse.wf_clear [DecidableEq α] (d : α) (m : Sparse α) (lo hi : Nat) (h : Sparse.wf d m = true) :
    Sparse.wf d (Sparse.clear m lo hi) = true := Sparse.wfFrom_filter d _ m 0 h

/-- After a list of values is written, an address outside it reads as before. -/
theorem Sparse.get_putList_out [DecidableEq α] (d : α) (vs : List α) (m : Sparse α) (a a' : Nat) (h : Sparse.wf d m = true)
    (ha : a' < a ∨ a + vs.length ≤ a') : Sparse.get d (Sparse.putList d m a vs) a' = Sparse.get d m a' := by
  induction vs generalizing m a with
  | nil => rfl
  | cons v vs ih =>
    simp only [List.length_cons] at ha
    rw [Sparse.putList, ih _ _ (Sparse.wf_put d m a v h) (by omega)]
    exact Sparse.get_put_ne d m 0 a a' v h (by omega)

/-- After a list of values is written, each stands at its address. -/
theorem Sparse.get_putList_in [DecidableEq α] (d : α) (vs : List α) (m : Sparse α) (a i : Nat) (h : Sparse.wf d m = true)
    (hi : i < vs.length) : Sparse.get d (Sparse.putList d m a vs) (a + i) = vs[i] := by
  induction vs generalizing m a i with
  | nil => simp at hi
  | cons v vs ih =>
    rw [Sparse.putList]
    cases i with
    | zero =>
      rw [Nat.add_zero, Sparse.get_putList_out d vs _ _ _ (Sparse.wf_put d m a v h) (by omega)]
      exact Sparse.get_put_same d m 0 a v h
    | succ i =>
      rw [show a + (i + 1) = a + 1 + i by omega]
      exact ih (Sparse.put d m a v) (a + 1) i (Sparse.wf_put d m a v h) (by simpa using hi)

/-! ### Byte memories -/

theorem Memory.wf_write (m : Memory) (a : Nat) (v : Byte) (h : m.wf = true) : (m.write a v).wf = true := Sparse.wf_put _ m a v h

theorem Memory.wf_writeList (m : Memory) (a : Nat) (vs : List Byte) (h : m.wf = true) : (m.writeList a vs).wf = true :=
  Sparse.wf_putList _ vs m a h

theorem Memory.wf_clear (m : Memory) (lo hi : Nat) (h : m.wf = true) : Memory.wf (Sparse.clear m lo hi) = true :=
  Sparse.wf_clear _ m lo hi h

theorem Memory.read_write_same (m : Memory) (a : Nat) (v : Byte) (h : m.wf = true) : (m.write a v).read a = v :=
  Sparse.get_put_same _ m 0 a v h

theorem Memory.read_write_ne (m : Memory) (a a' : Nat) (v : Byte) (h : m.wf = true) (ha : a' ≠ a) :
    (m.write a v).read a' = m.read a' := Sparse.get_put_ne _ m 0 a a' v h ha

theorem Memory.read_writeList_out (m : Memory) (a a' : Nat) (vs : List Byte) (h : m.wf = true)
    (ha : a' < a ∨ a + vs.length ≤ a') : (m.writeList a vs).read a' = m.read a' := Sparse.get_putList_out _ vs m a a' h ha

theorem Memory.read_writeList_in (m : Memory) (a i : Nat) (vs : List Byte) (h : m.wf = true) (hi : i < vs.length) :
    (m.writeList a vs).read (a + i) = vs[i] := Sparse.get_putList_in _ vs m a i h hi

/-! ### Wave memory -/

theorem WaveMem.wf_iff (m : WaveMem) : m.wf = true ↔
    m.data.wf = true ∧ Sparse.wf 0#8 m.flips = true ∧ Sparse.wf false m.poison = true ∧ Sparse.wf Page.default m.pages = true := by
  simp [WaveMem.wf, and_assoc]

/-- A change of nothing but the channels keeps the form. -/
theorem WaveMem.wf_ch (m : WaveMem) (ch : Tab MemCh 4) (h : m.wf = true) : WaveMem.wf { m with ch := ch } = true := h

theorem WaveMem.wf_updCh (m : WaveMem) (c : Fin 4) (f : MemCh → MemCh) (h : m.wf = true) : (m.updCh c f).wf = true := h

theorem WaveMem.wf_setPage (m : WaveMem) (p : Nat) (x : Page) (h : m.wf = true) : (m.setPage p x).wf = true := by
  rw [WaveMem.wf_iff] at h ⊢
  exact ⟨h.1, h.2.1, h.2.2.1, Sparse.wf_put _ _ _ _ h.2.2.2⟩

theorem WaveMem.wf_setPoison (m : WaveMem) (cw : Nat) (b : Bool) (h : m.wf = true) : (m.setPoison cw b).wf = true := by
  rw [WaveMem.wf_iff] at h ⊢
  exact ⟨h.1, h.2.1, Sparse.wf_put _ _ _ _ h.2.2.1, h.2.2.2⟩

theorem WaveMem.wf_clearFlips (m : WaveMem) (cw : Nat) (h : m.wf = true) : (m.clearFlips cw).wf = true := by
  rw [WaveMem.wf_iff] at h ⊢
  exact ⟨h.1, Sparse.wf_clear _ _ _ _ h.2.1, h.2.2⟩

/-- The data replaced by canonical data. -/
theorem WaveMem.wf_data (m : WaveMem) (d : Memory) (h : m.wf = true) (hd : d.wf = true) : WaveMem.wf { m with data := d } = true := by
  rw [WaveMem.wf_iff] at h ⊢
  exact ⟨hd, h.2⟩

theorem WaveMem.wf_data_of (m : WaveMem) (h : m.wf = true) : m.data.wf = true := ((WaveMem.wf_iff m).1 h).1

theorem WaveMem.wf_corrected (m : WaveMem) (cw : Nat) (ev : MemEvents) (h : m.wf = true) : (m.corrected cw ev).1.wf = true := h

theorem WaveMem.wf_poisonCw (m : WaveMem) (cw : Nat) (ev : MemEvents) (h : m.wf = true) : (m.poisonCw cw ev).1.wf = true :=
  WaveMem.wf_setPage _ _ _ (WaveMem.wf_setPoison _ _ _ h)

theorem WaveMem.wf_readCw (m : WaveMem) (ev : MemEvents) (cw : Nat) (h : m.wf = true) : (m.readCw ev cw).1.wf = true := by
  unfold WaveMem.readCw
  split
  · exact h
  · split
    · exact h
    · exact h
    · exact WaveMem.wf_poisonCw _ _ _ h

theorem WaveMem.wf_foldPair {β : Type} (f : WaveMem × MemEvents → β → WaveMem × MemEvents)
    (hf : ∀ x b, x.1.wf = true → (f x b).1.wf = true) (l : List β) (x : WaveMem × MemEvents) (h : x.1.wf = true) :
    (l.foldl f x).1.wf = true := by
  induction l generalizing x with
  | nil => exact h
  | cons b l ih => exact ih _ (hf x b h)

theorem WaveMem.wf_fold {β : Type} (f : WaveMem → β → WaveMem) (hf : ∀ m b, m.wf = true → (f m b).wf = true) (l : List β)
    (m : WaveMem) (h : m.wf = true) : (l.foldl f m).wf = true := by
  induction l generalizing m with
  | nil => exact h
  | cons b l ih => exact ih _ (hf m b h)

theorem WaveMem.wf_readCws (m : WaveMem) (cws : List Nat) (h : m.wf = true) : (m.readCws cws).1.wf = true :=
  WaveMem.wf_foldPair _ (fun x cw hx => WaveMem.wf_readCw x.1 x.2 cw hx) cws _ h

theorem WaveMem.wf_rewrite (m : WaveMem) (cw : Nat) (h : m.wf = true) : (m.rewrite cw).wf = true :=
  WaveMem.wf_data _ _ (WaveMem.wf_clearFlips m cw h) (Memory.wf_writeList _ _ _ (WaveMem.wf_data_of m h))

theorem Memory.wf_foldWrite (bs : List (Nat × Byte)) (m : Memory) (h : m.wf = true) :
    Memory.wf (bs.foldl (fun (d : Memory) (x : Nat × Byte) => d.write x.1 x.2) m) = true := by
  induction bs generalizing m with
  | nil => exact h
  | cons b bs ih => exact ih _ (Memory.wf_write m b.1 b.2 h)

theorem WaveMem.wf_writeCw (m : WaveMem) (ev : MemEvents) (cw : Nat) (bs : List (Nat × Byte)) (h : m.wf = true) :
    (m.writeCw ev cw bs).1.wf = true := by
  have hm : (if bs.length < 64 then m.readCw ev cw else (m, ev)).1.wf = true := by
    split
    · exact WaveMem.wf_readCw m ev cw h
    · exact h
  unfold WaveMem.writeCw
  by_cases hr : (m.page (cw / 1024)).state = .retired
  · rw [if_pos hr]
    exact h
  rw [if_neg hr]
  dsimp only
  generalize (if bs.length < 64 then m.readCw ev cw else (m, ev)) = x at hm
  obtain ⟨m', ev'⟩ := x
  dsimp only at hm ⊢
  have hd := WaveMem.wf_data_of m' hm
  have hb : Memory.wf (if m'.readsZero cw = true then Sparse.clear m'.data (cw * 64) (cw * 64 + 64)
      else m'.data.writeList (cw * 64) (m'.rdList (cw * 64) 64)) = true := by
    split
    · exact Memory.wf_clear _ _ _ hd
    · exact Memory.wf_writeList _ _ _ hd
  generalize (if m'.readsZero cw = true then Sparse.clear m'.data (cw * 64) (cw * 64 + 64)
      else m'.data.writeList (cw * 64) (m'.rdList (cw * 64) 64) : Memory) = base at hb ⊢
  have hw := WaveMem.wf_updCh _ (chOfCw cw) (fun c => c.dropWb cw)
    (WaveMem.wf_data _ _ (WaveMem.wf_clearFlips m' cw hm) (Memory.wf_foldWrite bs _ hb))
  revert hw
  generalize (WaveMem.updCh _ (chOfCw cw) fun c => c.dropWb cw) = w
  intro hw
  split
  · split
    · exact WaveMem.wf_updCh _ _ _ (WaveMem.wf_setPoison _ _ _ hw)
    · exact WaveMem.wf_setPoison _ _ _ hw
  · exact hw

/-- A write of bytes to wave memory keeps the canonical form. -/
theorem WaveMem.wf_writeBytes (m : WaveMem) (a : Nat) (bs : List Byte) (h : m.wf = true) : (m.writeBytes a bs).1.wf = true :=
  WaveMem.wf_foldPair _ (fun x cw hx => WaveMem.wf_writeCw x.1 x.2 cw _ hx) _ _ h

theorem WaveMem.wf_zeroPage (m : WaveMem) (p : Nat) (h : m.wf = true) : (m.zeroPage p).wf = true := by
  have h := WaveMem.wf_updCh m (chOfPage p) (fun c => c.dropPage p) h
  rw [WaveMem.wf_iff] at h ⊢
  exact ⟨Sparse.wf_clear _ _ _ _ h.1, Sparse.wf_clear _ _ _ _ h.2.1, Sparse.wf_clear _ _ _ _ h.2.2.1, h.2.2.2⟩

theorem WaveMem.wf_toWipe (m : WaveMem) (p : Nat) (h : m.wf = true) : (m.toWipe p).wf = true := by
  unfold WaveMem.toWipe
  split
  · exact WaveMem.wf_setPage _ _ _ h
  · exact WaveMem.wf_updCh _ _ _ (WaveMem.wf_setPage _ _ _ h)

theorem WaveMem.wf_wipe (m : WaveMem) (p : Nat) (h : m.wf = true) : (m.wipe p).wf = true := by
  unfold WaveMem.wipe
  split
  · exact WaveMem.wf_toWipe _ _ h
  · exact WaveMem.wf_toWipe _ _ (WaveMem.wf_zeroPage _ _ h)

theorem WaveMem.wf_wipeLater (m : WaveMem) (p : Nat) (h : m.wf = true) : (m.wipeLater p).wf = true := by
  unfold WaveMem.wipeLater
  split <;> exact WaveMem.wf_toWipe _ _ h

theorem WaveMem.wf_retire (m : WaveMem) (p cw : Nat) (ev : MemEvents) (h : m.wf = true) : (m.retire p cw ev).1.wf = true :=
  WaveMem.wf_setPage _ _ _ h

theorem WaveMem.wf_scrub (wiped : Bool) (p : Nat) (is : List Nat) (m : WaveMem) (ev : MemEvents) (h : m.wf = true) :
    (WaveMem.scrub wiped p is m ev).1.wf = true := by
  induction is generalizing m ev with
  | nil => exact h
  | cons i is ih =>
    unfold WaveMem.scrub
    dsimp only
    split
    · split
      · exact WaveMem.wf_poisonCw m (p * 1024 + i) ev h
      · exact ih m ev h
    · split
      · exact h
      · exact WaveMem.wf_poisonCw m (p * 1024 + i) ev h
    · have hr := WaveMem.wf_rewrite _ (p * 1024 + i) (WaveMem.wf_updCh _ (chOfCw (p * 1024 + i))
        (fun c => c.dropWb (p * 1024 + i)) (WaveMem.wf_corrected m (p * 1024 + i) ev h))
      split
      · exact WaveMem.wf_poisonCw _ (p * 1024 + i) (m.corrected (p * 1024 + i) ev).2 hr
      · exact ih _ _ hr

theorem WaveMem.wf_upset (m : WaveMem) (us : List (Nat × Nat × Nat)) (h : m.wf = true) : (m.upset us).wf = true := by
  refine WaveMem.wf_fold _ (fun m u hm => ?_) us m h
  rw [WaveMem.wf_iff] at hm ⊢
  exact ⟨hm.1, Sparse.wf_put _ _ _ _ hm.2.1, hm.2.2⟩

theorem WaveMem.wf_claim (m : WaveMem) (ps : List Nat) (hall : Nat) (st : PageState) (h : m.wf = true) :
    (m.claim ps hall st).wf = true := WaveMem.wf_fold _ (fun m p hm => WaveMem.wf_setPage m p _ hm) ps m h

/-- The wave memory after reset is in canonical form. -/
theorem WaveMem.wf_reset : WaveMem.reset.wf = true := rfl

end Sys2Proof.Machine
end

