-- ==== Sys2Proof/Laws/State.lean ====
section
/-! SUPPORT. What each field of the state is after each named update: the updates of the tables, and the setting of flags and
log entries, of which only the fields they may change are left to unfold. -/

namespace Sys2Proof.Machine

/-! ### State.updHall -/

@[simp] theorem State.updHall_nv (s : State) (h : Fin 8) (f : Hall → Hall) : (s.updHall h f).nv = s.nv := rfl
@[simp] theorem State.updHall_sys (s : State) (h : Fin 8) (f : Hall → Hall) : (s.updHall h f).sys = s.sys := rfl
@[simp] theorem State.updHall_time (s : State) (h : Fin 8) (f : Hall → Hall) : (s.updHall h f).time = s.time := rfl
@[simp] theorem State.updHall_sched (s : State) (h : Fin 8) (f : Hall → Hall) : (s.updHall h f).sched = s.sched := rfl
@[simp] theorem State.updHall_halls (s : State) (h : Fin 8) (f : Hall → Hall) : (s.updHall h f).halls = s.halls.upd h f := rfl
@[simp] theorem State.updHall_gal (s : State) (h : Fin 8) (f : Hall → Hall) : (s.updHall h f).gal = s.gal := rfl
@[simp] theorem State.updHall_eng (s : State) (h : Fin 8) (f : Hall → Hall) : (s.updHall h f).eng = s.eng := rfl
@[simp] theorem State.updHall_voices (s : State) (h : Fin 8) (f : Hall → Hall) : (s.updHall h f).voices = s.voices := rfl
@[simp] theorem State.updHall_mez (s : State) (h : Fin 8) (f : Hall → Hall) : (s.updHall h f).mez = s.mez := rfl
@[simp] theorem State.updHall_out (s : State) (h : Fin 8) (f : Hall → Hall) : (s.updHall h f).out = s.out := rfl
@[simp] theorem State.updHall_tdm (s : State) (h : Fin 8) (f : Hall → Hall) : (s.updHall h f).tdm = s.tdm := rfl
@[simp] theorem State.updHall_dac (s : State) (h : Fin 8) (f : Hall → Hall) : (s.updHall h f).dac = s.dac := rfl
@[simp] theorem State.updHall_spec (s : State) (h : Fin 8) (f : Hall → Hall) : (s.updHall h f).spec = s.spec := rfl
@[simp] theorem State.updHall_mem (s : State) (h : Fin 8) (f : Hall → Hall) : (s.updHall h f).mem = s.mem := rfl
@[simp] theorem State.updHall_foyer (s : State) (h : Fin 8) (f : Hall → Hall) : (s.updHall h f).foyer = s.foyer := rfl
@[simp] theorem State.updHall_ser (s : State) (h : Fin 8) (f : Hall → Hall) : (s.updHall h f).ser = s.ser := rfl
@[simp] theorem State.updHall_irqf (s : State) (h : Fin 8) (f : Hall → Hall) : (s.updHall h f).irqf = s.irqf := rfl
@[simp] theorem State.updHall_pwr (s : State) (h : Fin 8) (f : Hall → Hall) : (s.updHall h f).pwr = s.pwr := rfl
@[simp] theorem State.updHall_fence (s : State) (h : Fin 8) (f : Hall → Hall) : (s.updHall h f).fence = s.fence := rfl
@[simp] theorem State.updHall_mgmt (s : State) (h : Fin 8) (f : Hall → Hall) : (s.updHall h f).mgmt = s.mgmt := rfl
@[simp] theorem State.updHall_bus (s : State) (h : Fin 8) (f : Hall → Hall) : (s.updHall h f).bus = s.bus := rfl
@[simp] theorem State.updHall_pins (s : State) (h : Fin 8) (f : Hall → Hall) : (s.updHall h f).pins = s.pins := rfl
@[simp] theorem State.updHall_pending (s : State) (h : Fin 8) (f : Hall → Hall) : (s.updHall h f).pending = s.pending := rfl
@[simp] theorem State.updHall_fresh (s : State) (h : Fin 8) (f : Hall → Hall) : (s.updHall h f).fresh = s.fresh := rfl

/-! ### State.updRing -/

@[simp] theorem State.updRing_nv (s : State) (h : Fin 8) (f : Ring → Ring) : (s.updRing h f).nv = s.nv := rfl
@[simp] theorem State.updRing_sys (s : State) (h : Fin 8) (f : Ring → Ring) : (s.updRing h f).sys = s.sys := rfl
@[simp] theorem State.updRing_time (s : State) (h : Fin 8) (f : Ring → Ring) : (s.updRing h f).time = s.time := rfl
@[simp] theorem State.updRing_sched (s : State) (h : Fin 8) (f : Ring → Ring) : (s.updRing h f).sched = s.sched := rfl
@[simp] theorem State.updRing_halls (s : State) (h : Fin 8) (f : Ring → Ring) : (s.updRing h f).halls = s.halls.upd h fun x => { x with ring := f x.ring } := rfl
@[simp] theorem State.updRing_gal (s : State) (h : Fin 8) (f : Ring → Ring) : (s.updRing h f).gal = s.gal := rfl
@[simp] theorem State.updRing_eng (s : State) (h : Fin 8) (f : Ring → Ring) : (s.updRing h f).eng = s.eng := rfl
@[simp] theorem State.updRing_voices (s : State) (h : Fin 8) (f : Ring → Ring) : (s.updRing h f).voices = s.voices := rfl
@[simp] theorem State.updRing_mez (s : State) (h : Fin 8) (f : Ring → Ring) : (s.updRing h f).mez = s.mez := rfl
@[simp] theorem State.updRing_out (s : State) (h : Fin 8) (f : Ring → Ring) : (s.updRing h f).out = s.out := rfl
@[simp] theorem State.updRing_tdm (s : State) (h : Fin 8) (f : Ring → Ring) : (s.updRing h f).tdm = s.tdm := rfl
@[simp] theorem State.updRing_dac (s : State) (h : Fin 8) (f : Ring → Ring) : (s.updRing h f).dac = s.dac := rfl
@[simp] theorem State.updRing_spec (s : State) (h : Fin 8) (f : Ring → Ring) : (s.updRing h f).spec = s.spec := rfl
@[simp] theorem State.updRing_mem (s : State) (h : Fin 8) (f : Ring → Ring) : (s.updRing h f).mem = s.mem := rfl
@[simp] theorem State.updRing_foyer (s : State) (h : Fin 8) (f : Ring → Ring) : (s.updRing h f).foyer = s.foyer := rfl
@[simp] theorem State.updRing_ser (s : State) (h : Fin 8) (f : Ring → Ring) : (s.updRing h f).ser = s.ser := rfl
@[simp] theorem State.updRing_irqf (s : State) (h : Fin 8) (f : Ring → Ring) : (s.updRing h f).irqf = s.irqf := rfl
@[simp] theorem State.updRing_pwr (s : State) (h : Fin 8) (f : Ring → Ring) : (s.updRing h f).pwr = s.pwr := rfl
@[simp] theorem State.updRing_fence (s : State) (h : Fin 8) (f : Ring → Ring) : (s.updRing h f).fence = s.fence := rfl
@[simp] theorem State.updRing_mgmt (s : State) (h : Fin 8) (f : Ring → Ring) : (s.updRing h f).mgmt = s.mgmt := rfl
@[simp] theorem State.updRing_bus (s : State) (h : Fin 8) (f : Ring → Ring) : (s.updRing h f).bus = s.bus := rfl
@[simp] theorem State.updRing_pins (s : State) (h : Fin 8) (f : Ring → Ring) : (s.updRing h f).pins = s.pins := rfl
@[simp] theorem State.updRing_pending (s : State) (h : Fin 8) (f : Ring → Ring) : (s.updRing h f).pending = s.pending := rfl
@[simp] theorem State.updRing_fresh (s : State) (h : Fin 8) (f : Ring → Ring) : (s.updRing h f).fresh = s.fresh := rfl

/-! ### State.updPort -/

@[simp] theorem State.updPort_nv (s : State) (p : Fin 2) (f : Port → Port) : (s.updPort p f).nv = s.nv := rfl
@[simp] theorem State.updPort_sys (s : State) (p : Fin 2) (f : Port → Port) : (s.updPort p f).sys = s.sys := rfl
@[simp] theorem State.updPort_time (s : State) (p : Fin 2) (f : Port → Port) : (s.updPort p f).time = s.time := rfl
@[simp] theorem State.updPort_sched (s : State) (p : Fin 2) (f : Port → Port) : (s.updPort p f).sched = s.sched := rfl
@[simp] theorem State.updPort_halls (s : State) (p : Fin 2) (f : Port → Port) : (s.updPort p f).halls = s.halls := rfl
@[simp] theorem State.updPort_gal (s : State) (p : Fin 2) (f : Port → Port) : (s.updPort p f).gal = s.gal := rfl
@[simp] theorem State.updPort_eng (s : State) (p : Fin 2) (f : Port → Port) : (s.updPort p f).eng = s.eng := rfl
@[simp] theorem State.updPort_voices (s : State) (p : Fin 2) (f : Port → Port) : (s.updPort p f).voices = s.voices := rfl
@[simp] theorem State.updPort_mez (s : State) (p : Fin 2) (f : Port → Port) : (s.updPort p f).mez = s.mez := rfl
@[simp] theorem State.updPort_out (s : State) (p : Fin 2) (f : Port → Port) : (s.updPort p f).out = s.out := rfl
@[simp] theorem State.updPort_tdm (s : State) (p : Fin 2) (f : Port → Port) : (s.updPort p f).tdm = s.tdm := rfl
@[simp] theorem State.updPort_dac (s : State) (p : Fin 2) (f : Port → Port) : (s.updPort p f).dac = s.dac := rfl
@[simp] theorem State.updPort_spec (s : State) (p : Fin 2) (f : Port → Port) : (s.updPort p f).spec = s.spec := rfl
@[simp] theorem State.updPort_mem (s : State) (p : Fin 2) (f : Port → Port) : (s.updPort p f).mem = s.mem := rfl
@[simp] theorem State.updPort_foyer (s : State) (p : Fin 2) (f : Port → Port) : (s.updPort p f).foyer = { s.foyer with port := s.foyer.port.upd p f } := rfl
@[simp] theorem State.updPort_ser (s : State) (p : Fin 2) (f : Port → Port) : (s.updPort p f).ser = s.ser := rfl
@[simp] theorem State.updPort_irqf (s : State) (p : Fin 2) (f : Port → Port) : (s.updPort p f).irqf = s.irqf := rfl
@[simp] theorem State.updPort_pwr (s : State) (p : Fin 2) (f : Port → Port) : (s.updPort p f).pwr = s.pwr := rfl
@[simp] theorem State.updPort_fence (s : State) (p : Fin 2) (f : Port → Port) : (s.updPort p f).fence = s.fence := rfl
@[simp] theorem State.updPort_mgmt (s : State) (p : Fin 2) (f : Port → Port) : (s.updPort p f).mgmt = s.mgmt := rfl
@[simp] theorem State.updPort_bus (s : State) (p : Fin 2) (f : Port → Port) : (s.updPort p f).bus = s.bus := rfl
@[simp] theorem State.updPort_pins (s : State) (p : Fin 2) (f : Port → Port) : (s.updPort p f).pins = s.pins := rfl
@[simp] theorem State.updPort_pending (s : State) (p : Fin 2) (f : Port → Port) : (s.updPort p f).pending = s.pending := rfl
@[simp] theorem State.updPort_fresh (s : State) (p : Fin 2) (f : Port → Port) : (s.updPort p f).fresh = s.fresh := rfl

/-! ### State.updSer -/

@[simp] theorem State.updSer_nv (s : State) (n : Fin 4) (f : Ser → Ser) : (s.updSer n f).nv = s.nv := rfl
@[simp] theorem State.updSer_sys (s : State) (n : Fin 4) (f : Ser → Ser) : (s.updSer n f).sys = s.sys := rfl
@[simp] theorem State.updSer_time (s : State) (n : Fin 4) (f : Ser → Ser) : (s.updSer n f).time = s.time := rfl
@[simp] theorem State.updSer_sched (s : State) (n : Fin 4) (f : Ser → Ser) : (s.updSer n f).sched = s.sched := rfl
@[simp] theorem State.updSer_halls (s : State) (n : Fin 4) (f : Ser → Ser) : (s.updSer n f).halls = s.halls := rfl
@[simp] theorem State.updSer_gal (s : State) (n : Fin 4) (f : Ser → Ser) : (s.updSer n f).gal = s.gal := rfl
@[simp] theorem State.updSer_eng (s : State) (n : Fin 4) (f : Ser → Ser) : (s.updSer n f).eng = s.eng := rfl
@[simp] theorem State.updSer_voices (s : State) (n : Fin 4) (f : Ser → Ser) : (s.updSer n f).voices = s.voices := rfl
@[simp] theorem State.updSer_mez (s : State) (n : Fin 4) (f : Ser → Ser) : (s.updSer n f).mez = s.mez := rfl
@[simp] theorem State.updSer_out (s : State) (n : Fin 4) (f : Ser → Ser) : (s.updSer n f).out = s.out := rfl
@[simp] theorem State.updSer_tdm (s : State) (n : Fin 4) (f : Ser → Ser) : (s.updSer n f).tdm = s.tdm := rfl
@[simp] theorem State.updSer_dac (s : State) (n : Fin 4) (f : Ser → Ser) : (s.updSer n f).dac = s.dac := rfl
@[simp] theorem State.updSer_spec (s : State) (n : Fin 4) (f : Ser → Ser) : (s.updSer n f).spec = s.spec := rfl
@[simp] theorem State.updSer_mem (s : State) (n : Fin 4) (f : Ser → Ser) : (s.updSer n f).mem = s.mem := rfl
@[simp] theorem State.updSer_foyer (s : State) (n : Fin 4) (f : Ser → Ser) : (s.updSer n f).foyer = s.foyer := rfl
@[simp] theorem State.updSer_ser (s : State) (n : Fin 4) (f : Ser → Ser) : (s.updSer n f).ser = s.ser.upd n f := rfl
@[simp] theorem State.updSer_irqf (s : State) (n : Fin 4) (f : Ser → Ser) : (s.updSer n f).irqf = s.irqf := rfl
@[simp] theorem State.updSer_pwr (s : State) (n : Fin 4) (f : Ser → Ser) : (s.updSer n f).pwr = s.pwr := rfl
@[simp] theorem State.updSer_fence (s : State) (n : Fin 4) (f : Ser → Ser) : (s.updSer n f).fence = s.fence := rfl
@[simp] theorem State.updSer_mgmt (s : State) (n : Fin 4) (f : Ser → Ser) : (s.updSer n f).mgmt = s.mgmt := rfl
@[simp] theorem State.updSer_bus (s : State) (n : Fin 4) (f : Ser → Ser) : (s.updSer n f).bus = s.bus := rfl
@[simp] theorem State.updSer_pins (s : State) (n : Fin 4) (f : Ser → Ser) : (s.updSer n f).pins = s.pins := rfl
@[simp] theorem State.updSer_pending (s : State) (n : Fin 4) (f : Ser → Ser) : (s.updSer n f).pending = s.pending := rfl
@[simp] theorem State.updSer_fresh (s : State) (n : Fin 4) (f : Ser → Ser) : (s.updSer n f).fresh = s.fresh := rfl

/-! ### State.updEng -/

@[simp] theorem State.updEng_nv (s : State) (e : Fin 64) (f : Engine → Engine) : (s.updEng e f).nv = s.nv := rfl
@[simp] theorem State.updEng_sys (s : State) (e : Fin 64) (f : Engine → Engine) : (s.updEng e f).sys = s.sys := rfl
@[simp] theorem State.updEng_time (s : State) (e : Fin 64) (f : Engine → Engine) : (s.updEng e f).time = s.time := rfl
@[simp] theorem State.updEng_sched (s : State) (e : Fin 64) (f : Engine → Engine) : (s.updEng e f).sched = s.sched := rfl
@[simp] theorem State.updEng_halls (s : State) (e : Fin 64) (f : Engine → Engine) : (s.updEng e f).halls = s.halls := rfl
@[simp] theorem State.updEng_gal (s : State) (e : Fin 64) (f : Engine → Engine) : (s.updEng e f).gal = s.gal := rfl
@[simp] theorem State.updEng_eng (s : State) (e : Fin 64) (f : Engine → Engine) : (s.updEng e f).eng = s.eng.upd e f := rfl
@[simp] theorem State.updEng_voices (s : State) (e : Fin 64) (f : Engine → Engine) : (s.updEng e f).voices = s.voices := rfl
@[simp] theorem State.updEng_mez (s : State) (e : Fin 64) (f : Engine → Engine) : (s.updEng e f).mez = s.mez := rfl
@[simp] theorem State.updEng_out (s : State) (e : Fin 64) (f : Engine → Engine) : (s.updEng e f).out = s.out := rfl
@[simp] theorem State.updEng_tdm (s : State) (e : Fin 64) (f : Engine → Engine) : (s.updEng e f).tdm = s.tdm := rfl
@[simp] theorem State.updEng_dac (s : State) (e : Fin 64) (f : Engine → Engine) : (s.updEng e f).dac = s.dac := rfl
@[simp] theorem State.updEng_spec (s : State) (e : Fin 64) (f : Engine → Engine) : (s.updEng e f).spec = s.spec := rfl
@[simp] theorem State.updEng_mem (s : State) (e : Fin 64) (f : Engine → Engine) : (s.updEng e f).mem = s.mem := rfl
@[simp] theorem State.updEng_foyer (s : State) (e : Fin 64) (f : Engine → Engine) : (s.updEng e f).foyer = s.foyer := rfl
@[simp] theorem State.updEng_ser (s : State) (e : Fin 64) (f : Engine → Engine) : (s.updEng e f).ser = s.ser := rfl
@[simp] theorem State.updEng_irqf (s : State) (e : Fin 64) (f : Engine → Engine) : (s.updEng e f).irqf = s.irqf := rfl
@[simp] theorem State.updEng_pwr (s : State) (e : Fin 64) (f : Engine → Engine) : (s.updEng e f).pwr = s.pwr := rfl
@[simp] theorem State.updEng_fence (s : State) (e : Fin 64) (f : Engine → Engine) : (s.updEng e f).fence = s.fence := rfl
@[simp] theorem State.updEng_mgmt (s : State) (e : Fin 64) (f : Engine → Engine) : (s.updEng e f).mgmt = s.mgmt := rfl
@[simp] theorem State.updEng_bus (s : State) (e : Fin 64) (f : Engine → Engine) : (s.updEng e f).bus = s.bus := rfl
@[simp] theorem State.updEng_pins (s : State) (e : Fin 64) (f : Engine → Engine) : (s.updEng e f).pins = s.pins := rfl
@[simp] theorem State.updEng_pending (s : State) (e : Fin 64) (f : Engine → Engine) : (s.updEng e f).pending = s.pending := rfl
@[simp] theorem State.updEng_fresh (s : State) (e : Fin 64) (f : Engine → Engine) : (s.updEng e f).fresh = s.fresh := rfl

/-! ### State.updGal -/

@[simp] theorem State.updGal_nv (s : State) (g : Fin 8) (f : Gallery → Gallery) : (s.updGal g f).nv = s.nv := rfl
@[simp] theorem State.updGal_sys (s : State) (g : Fin 8) (f : Gallery → Gallery) : (s.updGal g f).sys = s.sys := rfl
@[simp] theorem State.updGal_time (s : State) (g : Fin 8) (f : Gallery → Gallery) : (s.updGal g f).time = s.time := rfl
@[simp] theorem State.updGal_sched (s : State) (g : Fin 8) (f : Gallery → Gallery) : (s.updGal g f).sched = s.sched := rfl
@[simp] theorem State.updGal_halls (s : State) (g : Fin 8) (f : Gallery → Gallery) : (s.updGal g f).halls = s.halls := rfl
@[simp] theorem State.updGal_gal (s : State) (g : Fin 8) (f : Gallery → Gallery) : (s.updGal g f).gal = s.gal.upd g f := rfl
@[simp] theorem State.updGal_eng (s : State) (g : Fin 8) (f : Gallery → Gallery) : (s.updGal g f).eng = s.eng := rfl
@[simp] theorem State.updGal_voices (s : State) (g : Fin 8) (f : Gallery → Gallery) : (s.updGal g f).voices = s.voices := rfl
@[simp] theorem State.updGal_mez (s : State) (g : Fin 8) (f : Gallery → Gallery) : (s.updGal g f).mez = s.mez := rfl
@[simp] theorem State.updGal_out (s : State) (g : Fin 8) (f : Gallery → Gallery) : (s.updGal g f).out = s.out := rfl
@[simp] theorem State.updGal_tdm (s : State) (g : Fin 8) (f : Gallery → Gallery) : (s.updGal g f).tdm = s.tdm := rfl
@[simp] theorem State.updGal_dac (s : State) (g : Fin 8) (f : Gallery → Gallery) : (s.updGal g f).dac = s.dac := rfl
@[simp] theorem State.updGal_spec (s : State) (g : Fin 8) (f : Gallery → Gallery) : (s.updGal g f).spec = s.spec := rfl
@[simp] theorem State.updGal_mem (s : State) (g : Fin 8) (f : Gallery → Gallery) : (s.updGal g f).mem = s.mem := rfl
@[simp] theorem State.updGal_foyer (s : State) (g : Fin 8) (f : Gallery → Gallery) : (s.updGal g f).foyer = s.foyer := rfl
@[simp] theorem State.updGal_ser (s : State) (g : Fin 8) (f : Gallery → Gallery) : (s.updGal g f).ser = s.ser := rfl
@[simp] theorem State.updGal_irqf (s : State) (g : Fin 8) (f : Gallery → Gallery) : (s.updGal g f).irqf = s.irqf := rfl
@[simp] theorem State.updGal_pwr (s : State) (g : Fin 8) (f : Gallery → Gallery) : (s.updGal g f).pwr = s.pwr := rfl
@[simp] theorem State.updGal_fence (s : State) (g : Fin 8) (f : Gallery → Gallery) : (s.updGal g f).fence = s.fence := rfl
@[simp] theorem State.updGal_mgmt (s : State) (g : Fin 8) (f : Gallery → Gallery) : (s.updGal g f).mgmt = s.mgmt := rfl
@[simp] theorem State.updGal_bus (s : State) (g : Fin 8) (f : Gallery → Gallery) : (s.updGal g f).bus = s.bus := rfl
@[simp] theorem State.updGal_pins (s : State) (g : Fin 8) (f : Gallery → Gallery) : (s.updGal g f).pins = s.pins := rfl
@[simp] theorem State.updGal_pending (s : State) (g : Fin 8) (f : Gallery → Gallery) : (s.updGal g f).pending = s.pending := rfl
@[simp] theorem State.updGal_fresh (s : State) (g : Fin 8) (f : Gallery → Gallery) : (s.updGal g f).fresh = s.fresh := rfl

/-! ### State.updOut -/

@[simp] theorem State.updOut_nv (s : State) (n : Fin 64) (f : OutCh → OutCh) : (s.updOut n f).nv = s.nv := rfl
@[simp] theorem State.updOut_sys (s : State) (n : Fin 64) (f : OutCh → OutCh) : (s.updOut n f).sys = s.sys := rfl
@[simp] theorem State.updOut_time (s : State) (n : Fin 64) (f : OutCh → OutCh) : (s.updOut n f).time = s.time := rfl
@[simp] theorem State.updOut_sched (s : State) (n : Fin 64) (f : OutCh → OutCh) : (s.updOut n f).sched = s.sched := rfl
@[simp] theorem State.updOut_halls (s : State) (n : Fin 64) (f : OutCh → OutCh) : (s.updOut n f).halls = s.halls := rfl
@[simp] theorem State.updOut_gal (s : State) (n : Fin 64) (f : OutCh → OutCh) : (s.updOut n f).gal = s.gal := rfl
@[simp] theorem State.updOut_eng (s : State) (n : Fin 64) (f : OutCh → OutCh) : (s.updOut n f).eng = s.eng := rfl
@[simp] theorem State.updOut_voices (s : State) (n : Fin 64) (f : OutCh → OutCh) : (s.updOut n f).voices = s.voices := rfl
@[simp] theorem State.updOut_mez (s : State) (n : Fin 64) (f : OutCh → OutCh) : (s.updOut n f).mez = s.mez := rfl
@[simp] theorem State.updOut_out (s : State) (n : Fin 64) (f : OutCh → OutCh) : (s.updOut n f).out = { s.out with ch := s.out.ch.upd n f } := rfl
@[simp] theorem State.updOut_tdm (s : State) (n : Fin 64) (f : OutCh → OutCh) : (s.updOut n f).tdm = s.tdm := rfl
@[simp] theorem State.updOut_dac (s : State) (n : Fin 64) (f : OutCh → OutCh) : (s.updOut n f).dac = s.dac := rfl
@[simp] theorem State.updOut_spec (s : State) (n : Fin 64) (f : OutCh → OutCh) : (s.updOut n f).spec = s.spec := rfl
@[simp] theorem State.updOut_mem (s : State) (n : Fin 64) (f : OutCh → OutCh) : (s.updOut n f).mem = s.mem := rfl
@[simp] theorem State.updOut_foyer (s : State) (n : Fin 64) (f : OutCh → OutCh) : (s.updOut n f).foyer = s.foyer := rfl
@[simp] theorem State.updOut_ser (s : State) (n : Fin 64) (f : OutCh → OutCh) : (s.updOut n f).ser = s.ser := rfl
@[simp] theorem State.updOut_irqf (s : State) (n : Fin 64) (f : OutCh → OutCh) : (s.updOut n f).irqf = s.irqf := rfl
@[simp] theorem State.updOut_pwr (s : State) (n : Fin 64) (f : OutCh → OutCh) : (s.updOut n f).pwr = s.pwr := rfl
@[simp] theorem State.updOut_fence (s : State) (n : Fin 64) (f : OutCh → OutCh) : (s.updOut n f).fence = s.fence := rfl
@[simp] theorem State.updOut_mgmt (s : State) (n : Fin 64) (f : OutCh → OutCh) : (s.updOut n f).mgmt = s.mgmt := rfl
@[simp] theorem State.updOut_bus (s : State) (n : Fin 64) (f : OutCh → OutCh) : (s.updOut n f).bus = s.bus := rfl
@[simp] theorem State.updOut_pins (s : State) (n : Fin 64) (f : OutCh → OutCh) : (s.updOut n f).pins = s.pins := rfl
@[simp] theorem State.updOut_pending (s : State) (n : Fin 64) (f : OutCh → OutCh) : (s.updOut n f).pending = s.pending := rfl
@[simp] theorem State.updOut_fresh (s : State) (n : Fin 64) (f : OutCh → OutCh) : (s.updOut n f).fresh = s.fresh := rfl

/-! ### State.updDac -/

@[simp] theorem State.updDac_nv (s : State) (n : Fin 16) (f : DacCh → DacCh) : (s.updDac n f).nv = s.nv := rfl
@[simp] theorem State.updDac_sys (s : State) (n : Fin 16) (f : DacCh → DacCh) : (s.updDac n f).sys = s.sys := rfl
@[simp] theorem State.updDac_time (s : State) (n : Fin 16) (f : DacCh → DacCh) : (s.updDac n f).time = s.time := rfl
@[simp] theorem State.updDac_sched (s : State) (n : Fin 16) (f : DacCh → DacCh) : (s.updDac n f).sched = s.sched := rfl
@[simp] theorem State.updDac_halls (s : State) (n : Fin 16) (f : DacCh → DacCh) : (s.updDac n f).halls = s.halls := rfl
@[simp] theorem State.updDac_gal (s : State) (n : Fin 16) (f : DacCh → DacCh) : (s.updDac n f).gal = s.gal := rfl
@[simp] theorem State.updDac_eng (s : State) (n : Fin 16) (f : DacCh → DacCh) : (s.updDac n f).eng = s.eng := rfl
@[simp] theorem State.updDac_voices (s : State) (n : Fin 16) (f : DacCh → DacCh) : (s.updDac n f).voices = s.voices := rfl
@[simp] theorem State.updDac_mez (s : State) (n : Fin 16) (f : DacCh → DacCh) : (s.updDac n f).mez = s.mez := rfl
@[simp] theorem State.updDac_out (s : State) (n : Fin 16) (f : DacCh → DacCh) : (s.updDac n f).out = s.out := rfl
@[simp] theorem State.updDac_tdm (s : State) (n : Fin 16) (f : DacCh → DacCh) : (s.updDac n f).tdm = s.tdm := rfl
@[simp] theorem State.updDac_dac (s : State) (n : Fin 16) (f : DacCh → DacCh) : (s.updDac n f).dac = { s.dac with ch := s.dac.ch.upd n f } := rfl
@[simp] theorem State.updDac_spec (s : State) (n : Fin 16) (f : DacCh → DacCh) : (s.updDac n f).spec = s.spec := rfl
@[simp] theorem State.updDac_mem (s : State) (n : Fin 16) (f : DacCh → DacCh) : (s.updDac n f).mem = s.mem := rfl
@[simp] theorem State.updDac_foyer (s : State) (n : Fin 16) (f : DacCh → DacCh) : (s.updDac n f).foyer = s.foyer := rfl
@[simp] theorem State.updDac_ser (s : State) (n : Fin 16) (f : DacCh → DacCh) : (s.updDac n f).ser = s.ser := rfl
@[simp] theorem State.updDac_irqf (s : State) (n : Fin 16) (f : DacCh → DacCh) : (s.updDac n f).irqf = s.irqf := rfl
@[simp] theorem State.updDac_pwr (s : State) (n : Fin 16) (f : DacCh → DacCh) : (s.updDac n f).pwr = s.pwr := rfl
@[simp] theorem State.updDac_fence (s : State) (n : Fin 16) (f : DacCh → DacCh) : (s.updDac n f).fence = s.fence := rfl
@[simp] theorem State.updDac_mgmt (s : State) (n : Fin 16) (f : DacCh → DacCh) : (s.updDac n f).mgmt = s.mgmt := rfl
@[simp] theorem State.updDac_bus (s : State) (n : Fin 16) (f : DacCh → DacCh) : (s.updDac n f).bus = s.bus := rfl
@[simp] theorem State.updDac_pins (s : State) (n : Fin 16) (f : DacCh → DacCh) : (s.updDac n f).pins = s.pins := rfl
@[simp] theorem State.updDac_pending (s : State) (n : Fin 16) (f : DacCh → DacCh) : (s.updDac n f).pending = s.pending := rfl
@[simp] theorem State.updDac_fresh (s : State) (n : Fin 16) (f : DacCh → DacCh) : (s.updDac n f).fresh = s.fresh := rfl

/-! ### State.updSpec -/

@[simp] theorem State.updSpec_nv (s : State) (k : Fin 8) (f : SpecCh → SpecCh) : (s.updSpec k f).nv = s.nv := rfl
@[simp] theorem State.updSpec_sys (s : State) (k : Fin 8) (f : SpecCh → SpecCh) : (s.updSpec k f).sys = s.sys := rfl
@[simp] theorem State.updSpec_time (s : State) (k : Fin 8) (f : SpecCh → SpecCh) : (s.updSpec k f).time = s.time := rfl
@[simp] theorem State.updSpec_sched (s : State) (k : Fin 8) (f : SpecCh → SpecCh) : (s.updSpec k f).sched = s.sched := rfl
@[simp] theorem State.updSpec_halls (s : State) (k : Fin 8) (f : SpecCh → SpecCh) : (s.updSpec k f).halls = s.halls := rfl
@[simp] theorem State.updSpec_gal (s : State) (k : Fin 8) (f : SpecCh → SpecCh) : (s.updSpec k f).gal = s.gal := rfl
@[simp] theorem State.updSpec_eng (s : State) (k : Fin 8) (f : SpecCh → SpecCh) : (s.updSpec k f).eng = s.eng := rfl
@[simp] theorem State.updSpec_voices (s : State) (k : Fin 8) (f : SpecCh → SpecCh) : (s.updSpec k f).voices = s.voices := rfl
@[simp] theorem State.updSpec_mez (s : State) (k : Fin 8) (f : SpecCh → SpecCh) : (s.updSpec k f).mez = s.mez := rfl
@[simp] theorem State.updSpec_out (s : State) (k : Fin 8) (f : SpecCh → SpecCh) : (s.updSpec k f).out = s.out := rfl
@[simp] theorem State.updSpec_tdm (s : State) (k : Fin 8) (f : SpecCh → SpecCh) : (s.updSpec k f).tdm = s.tdm := rfl
@[simp] theorem State.updSpec_dac (s : State) (k : Fin 8) (f : SpecCh → SpecCh) : (s.updSpec k f).dac = s.dac := rfl
@[simp] theorem State.updSpec_spec (s : State) (k : Fin 8) (f : SpecCh → SpecCh) : (s.updSpec k f).spec = { s.spec with ch := s.spec.ch.upd k f } := rfl
@[simp] theorem State.updSpec_mem (s : State) (k : Fin 8) (f : SpecCh → SpecCh) : (s.updSpec k f).mem = s.mem := rfl
@[simp] theorem State.updSpec_foyer (s : State) (k : Fin 8) (f : SpecCh → SpecCh) : (s.updSpec k f).foyer = s.foyer := rfl
@[simp] theorem State.updSpec_ser (s : State) (k : Fin 8) (f : SpecCh → SpecCh) : (s.updSpec k f).ser = s.ser := rfl
@[simp] theorem State.updSpec_irqf (s : State) (k : Fin 8) (f : SpecCh → SpecCh) : (s.updSpec k f).irqf = s.irqf := rfl
@[simp] theorem State.updSpec_pwr (s : State) (k : Fin 8) (f : SpecCh → SpecCh) : (s.updSpec k f).pwr = s.pwr := rfl
@[simp] theorem State.updSpec_fence (s : State) (k : Fin 8) (f : SpecCh → SpecCh) : (s.updSpec k f).fence = s.fence := rfl
@[simp] theorem State.updSpec_mgmt (s : State) (k : Fin 8) (f : SpecCh → SpecCh) : (s.updSpec k f).mgmt = s.mgmt := rfl
@[simp] theorem State.updSpec_bus (s : State) (k : Fin 8) (f : SpecCh → SpecCh) : (s.updSpec k f).bus = s.bus := rfl
@[simp] theorem State.updSpec_pins (s : State) (k : Fin 8) (f : SpecCh → SpecCh) : (s.updSpec k f).pins = s.pins := rfl
@[simp] theorem State.updSpec_pending (s : State) (k : Fin 8) (f : SpecCh → SpecCh) : (s.updSpec k f).pending = s.pending := rfl
@[simp] theorem State.updSpec_fresh (s : State) (k : Fin 8) (f : SpecCh → SpecCh) : (s.updSpec k f).fresh = s.fresh := rfl

/-! ### State.updAn -/

@[simp] theorem State.updAn_nv (s : State) (a : Fin 2) (f : Analyser → Analyser) : (s.updAn a f).nv = s.nv := rfl
@[simp] theorem State.updAn_sys (s : State) (a : Fin 2) (f : Analyser → Analyser) : (s.updAn a f).sys = s.sys := rfl
@[simp] theorem State.updAn_time (s : State) (a : Fin 2) (f : Analyser → Analyser) : (s.updAn a f).time = s.time := rfl
@[simp] theorem State.updAn_sched (s : State) (a : Fin 2) (f : Analyser → Analyser) : (s.updAn a f).sched = s.sched := rfl
@[simp] theorem State.updAn_halls (s : State) (a : Fin 2) (f : Analyser → Analyser) : (s.updAn a f).halls = s.halls := rfl
@[simp] theorem State.updAn_gal (s : State) (a : Fin 2) (f : Analyser → Analyser) : (s.updAn a f).gal = s.gal := rfl
@[simp] theorem State.updAn_eng (s : State) (a : Fin 2) (f : Analyser → Analyser) : (s.updAn a f).eng = s.eng := rfl
@[simp] theorem State.updAn_voices (s : State) (a : Fin 2) (f : Analyser → Analyser) : (s.updAn a f).voices = s.voices := rfl
@[simp] theorem State.updAn_mez (s : State) (a : Fin 2) (f : Analyser → Analyser) : (s.updAn a f).mez = s.mez := rfl
@[simp] theorem State.updAn_out (s : State) (a : Fin 2) (f : Analyser → Analyser) : (s.updAn a f).out = s.out := rfl
@[simp] theorem State.updAn_tdm (s : State) (a : Fin 2) (f : Analyser → Analyser) : (s.updAn a f).tdm = s.tdm := rfl
@[simp] theorem State.updAn_dac (s : State) (a : Fin 2) (f : Analyser → Analyser) : (s.updAn a f).dac = s.dac := rfl
@[simp] theorem State.updAn_spec (s : State) (a : Fin 2) (f : Analyser → Analyser) : (s.updAn a f).spec = { s.spec with an := s.spec.an.upd a f } := rfl
@[simp] theorem State.updAn_mem (s : State) (a : Fin 2) (f : Analyser → Analyser) : (s.updAn a f).mem = s.mem := rfl
@[simp] theorem State.updAn_foyer (s : State) (a : Fin 2) (f : Analyser → Analyser) : (s.updAn a f).foyer = s.foyer := rfl
@[simp] theorem State.updAn_ser (s : State) (a : Fin 2) (f : Analyser → Analyser) : (s.updAn a f).ser = s.ser := rfl
@[simp] theorem State.updAn_irqf (s : State) (a : Fin 2) (f : Analyser → Analyser) : (s.updAn a f).irqf = s.irqf := rfl
@[simp] theorem State.updAn_pwr (s : State) (a : Fin 2) (f : Analyser → Analyser) : (s.updAn a f).pwr = s.pwr := rfl
@[simp] theorem State.updAn_fence (s : State) (a : Fin 2) (f : Analyser → Analyser) : (s.updAn a f).fence = s.fence := rfl
@[simp] theorem State.updAn_mgmt (s : State) (a : Fin 2) (f : Analyser → Analyser) : (s.updAn a f).mgmt = s.mgmt := rfl
@[simp] theorem State.updAn_bus (s : State) (a : Fin 2) (f : Analyser → Analyser) : (s.updAn a f).bus = s.bus := rfl
@[simp] theorem State.updAn_pins (s : State) (a : Fin 2) (f : Analyser → Analyser) : (s.updAn a f).pins = s.pins := rfl
@[simp] theorem State.updAn_pending (s : State) (a : Fin 2) (f : Analyser → Analyser) : (s.updAn a f).pending = s.pending := rfl
@[simp] theorem State.updAn_fresh (s : State) (a : Fin 2) (f : Analyser → Analyser) : (s.updAn a f).fresh = s.fresh := rfl

/-! ### State.updDom -/

@[simp] theorem State.updDom_nv (s : State) (d : Fin 16) (f : Domain → Domain) : (s.updDom d f).nv = s.nv := rfl
@[simp] theorem State.updDom_sys (s : State) (d : Fin 16) (f : Domain → Domain) : (s.updDom d f).sys = s.sys := rfl
@[simp] theorem State.updDom_time (s : State) (d : Fin 16) (f : Domain → Domain) : (s.updDom d f).time = s.time := rfl
@[simp] theorem State.updDom_sched (s : State) (d : Fin 16) (f : Domain → Domain) : (s.updDom d f).sched = s.sched := rfl
@[simp] theorem State.updDom_halls (s : State) (d : Fin 16) (f : Domain → Domain) : (s.updDom d f).halls = s.halls := rfl
@[simp] theorem State.updDom_gal (s : State) (d : Fin 16) (f : Domain → Domain) : (s.updDom d f).gal = s.gal := rfl
@[simp] theorem State.updDom_eng (s : State) (d : Fin 16) (f : Domain → Domain) : (s.updDom d f).eng = s.eng := rfl
@[simp] theorem State.updDom_voices (s : State) (d : Fin 16) (f : Domain → Domain) : (s.updDom d f).voices = s.voices := rfl
@[simp] theorem State.updDom_mez (s : State) (d : Fin 16) (f : Domain → Domain) : (s.updDom d f).mez = s.mez := rfl
@[simp] theorem State.updDom_out (s : State) (d : Fin 16) (f : Domain → Domain) : (s.updDom d f).out = s.out := rfl
@[simp] theorem State.updDom_tdm (s : State) (d : Fin 16) (f : Domain → Domain) : (s.updDom d f).tdm = s.tdm := rfl
@[simp] theorem State.updDom_dac (s : State) (d : Fin 16) (f : Domain → Domain) : (s.updDom d f).dac = s.dac := rfl
@[simp] theorem State.updDom_spec (s : State) (d : Fin 16) (f : Domain → Domain) : (s.updDom d f).spec = s.spec := rfl
@[simp] theorem State.updDom_mem (s : State) (d : Fin 16) (f : Domain → Domain) : (s.updDom d f).mem = s.mem := rfl
@[simp] theorem State.updDom_foyer (s : State) (d : Fin 16) (f : Domain → Domain) : (s.updDom d f).foyer = s.foyer := rfl
@[simp] theorem State.updDom_ser (s : State) (d : Fin 16) (f : Domain → Domain) : (s.updDom d f).ser = s.ser := rfl
@[simp] theorem State.updDom_irqf (s : State) (d : Fin 16) (f : Domain → Domain) : (s.updDom d f).irqf = s.irqf := rfl
@[simp] theorem State.updDom_pwr (s : State) (d : Fin 16) (f : Domain → Domain) : (s.updDom d f).pwr = { s.pwr with dom := s.pwr.dom.upd d f } := rfl
@[simp] theorem State.updDom_fence (s : State) (d : Fin 16) (f : Domain → Domain) : (s.updDom d f).fence = s.fence := rfl
@[simp] theorem State.updDom_mgmt (s : State) (d : Fin 16) (f : Domain → Domain) : (s.updDom d f).mgmt = s.mgmt := rfl
@[simp] theorem State.updDom_bus (s : State) (d : Fin 16) (f : Domain → Domain) : (s.updDom d f).bus = s.bus := rfl
@[simp] theorem State.updDom_pins (s : State) (d : Fin 16) (f : Domain → Domain) : (s.updDom d f).pins = s.pins := rfl
@[simp] theorem State.updDom_pending (s : State) (d : Fin 16) (f : Domain → Domain) : (s.updDom d f).pending = s.pending := rfl
@[simp] theorem State.updDom_fresh (s : State) (d : Fin 16) (f : Domain → Domain) : (s.updDom d f).fresh = s.fresh := rfl

/-! ### State.updTmr -/

@[simp] theorem State.updTmr_nv (s : State) (n : Fin 16) (f : Timer → Timer) : (s.updTmr n f).nv = s.nv := rfl
@[simp] theorem State.updTmr_sys (s : State) (n : Fin 16) (f : Timer → Timer) : (s.updTmr n f).sys = s.sys := rfl
@[simp] theorem State.updTmr_time (s : State) (n : Fin 16) (f : Timer → Timer) : (s.updTmr n f).time = { s.time with tmr := s.time.tmr.upd n f } := rfl
@[simp] theorem State.updTmr_sched (s : State) (n : Fin 16) (f : Timer → Timer) : (s.updTmr n f).sched = s.sched := rfl
@[simp] theorem State.updTmr_halls (s : State) (n : Fin 16) (f : Timer → Timer) : (s.updTmr n f).halls = s.halls := rfl
@[simp] theorem State.updTmr_gal (s : State) (n : Fin 16) (f : Timer → Timer) : (s.updTmr n f).gal = s.gal := rfl
@[simp] theorem State.updTmr_eng (s : State) (n : Fin 16) (f : Timer → Timer) : (s.updTmr n f).eng = s.eng := rfl
@[simp] theorem State.updTmr_voices (s : State) (n : Fin 16) (f : Timer → Timer) : (s.updTmr n f).voices = s.voices := rfl
@[simp] theorem State.updTmr_mez (s : State) (n : Fin 16) (f : Timer → Timer) : (s.updTmr n f).mez = s.mez := rfl
@[simp] theorem State.updTmr_out (s : State) (n : Fin 16) (f : Timer → Timer) : (s.updTmr n f).out = s.out := rfl
@[simp] theorem State.updTmr_tdm (s : State) (n : Fin 16) (f : Timer → Timer) : (s.updTmr n f).tdm = s.tdm := rfl
@[simp] theorem State.updTmr_dac (s : State) (n : Fin 16) (f : Timer → Timer) : (s.updTmr n f).dac = s.dac := rfl
@[simp] theorem State.updTmr_spec (s : State) (n : Fin 16) (f : Timer → Timer) : (s.updTmr n f).spec = s.spec := rfl
@[simp] theorem State.updTmr_mem (s : State) (n : Fin 16) (f : Timer → Timer) : (s.updTmr n f).mem = s.mem := rfl
@[simp] theorem State.updTmr_foyer (s : State) (n : Fin 16) (f : Timer → Timer) : (s.updTmr n f).foyer = s.foyer := rfl
@[simp] theorem State.updTmr_ser (s : State) (n : Fin 16) (f : Timer → Timer) : (s.updTmr n f).ser = s.ser := rfl
@[simp] theorem State.updTmr_irqf (s : State) (n : Fin 16) (f : Timer → Timer) : (s.updTmr n f).irqf = s.irqf := rfl
@[simp] theorem State.updTmr_pwr (s : State) (n : Fin 16) (f : Timer → Timer) : (s.updTmr n f).pwr = s.pwr := rfl
@[simp] theorem State.updTmr_fence (s : State) (n : Fin 16) (f : Timer → Timer) : (s.updTmr n f).fence = s.fence := rfl
@[simp] theorem State.updTmr_mgmt (s : State) (n : Fin 16) (f : Timer → Timer) : (s.updTmr n f).mgmt = s.mgmt := rfl
@[simp] theorem State.updTmr_bus (s : State) (n : Fin 16) (f : Timer → Timer) : (s.updTmr n f).bus = s.bus := rfl
@[simp] theorem State.updTmr_pins (s : State) (n : Fin 16) (f : Timer → Timer) : (s.updTmr n f).pins = s.pins := rfl
@[simp] theorem State.updTmr_pending (s : State) (n : Fin 16) (f : Timer → Timer) : (s.updTmr n f).pending = s.pending := rfl
@[simp] theorem State.updTmr_fresh (s : State) (n : Fin 16) (f : Timer → Timer) : (s.updTmr n f).fresh = s.fresh := rfl

/-! ### State.updTrg -/

@[simp] theorem State.updTrg_nv (s : State) (t : Fin 8) (f : Trig → Trig) : (s.updTrg t f).nv = s.nv := rfl
@[simp] theorem State.updTrg_sys (s : State) (t : Fin 8) (f : Trig → Trig) : (s.updTrg t f).sys = s.sys := rfl
@[simp] theorem State.updTrg_time (s : State) (t : Fin 8) (f : Trig → Trig) : (s.updTrg t f).time = { s.time with trg := s.time.trg.upd t f } := rfl
@[simp] theorem State.updTrg_sched (s : State) (t : Fin 8) (f : Trig → Trig) : (s.updTrg t f).sched = s.sched := rfl
@[simp] theorem State.updTrg_halls (s : State) (t : Fin 8) (f : Trig → Trig) : (s.updTrg t f).halls = s.halls := rfl
@[simp] theorem State.updTrg_gal (s : State) (t : Fin 8) (f : Trig → Trig) : (s.updTrg t f).gal = s.gal := rfl
@[simp] theorem State.updTrg_eng (s : State) (t : Fin 8) (f : Trig → Trig) : (s.updTrg t f).eng = s.eng := rfl
@[simp] theorem State.updTrg_voices (s : State) (t : Fin 8) (f : Trig → Trig) : (s.updTrg t f).voices = s.voices := rfl
@[simp] theorem State.updTrg_mez (s : State) (t : Fin 8) (f : Trig → Trig) : (s.updTrg t f).mez = s.mez := rfl
@[simp] theorem State.updTrg_out (s : State) (t : Fin 8) (f : Trig → Trig) : (s.updTrg t f).out = s.out := rfl
@[simp] theorem State.updTrg_tdm (s : State) (t : Fin 8) (f : Trig → Trig) : (s.updTrg t f).tdm = s.tdm := rfl
@[simp] theorem State.updTrg_dac (s : State) (t : Fin 8) (f : Trig → Trig) : (s.updTrg t f).dac = s.dac := rfl
@[simp] theorem State.updTrg_spec (s : State) (t : Fin 8) (f : Trig → Trig) : (s.updTrg t f).spec = s.spec := rfl
@[simp] theorem State.updTrg_mem (s : State) (t : Fin 8) (f : Trig → Trig) : (s.updTrg t f).mem = s.mem := rfl
@[simp] theorem State.updTrg_foyer (s : State) (t : Fin 8) (f : Trig → Trig) : (s.updTrg t f).foyer = s.foyer := rfl
@[simp] theorem State.updTrg_ser (s : State) (t : Fin 8) (f : Trig → Trig) : (s.updTrg t f).ser = s.ser := rfl
@[simp] theorem State.updTrg_irqf (s : State) (t : Fin 8) (f : Trig → Trig) : (s.updTrg t f).irqf = s.irqf := rfl
@[simp] theorem State.updTrg_pwr (s : State) (t : Fin 8) (f : Trig → Trig) : (s.updTrg t f).pwr = s.pwr := rfl
@[simp] theorem State.updTrg_fence (s : State) (t : Fin 8) (f : Trig → Trig) : (s.updTrg t f).fence = s.fence := rfl
@[simp] theorem State.updTrg_mgmt (s : State) (t : Fin 8) (f : Trig → Trig) : (s.updTrg t f).mgmt = s.mgmt := rfl
@[simp] theorem State.updTrg_bus (s : State) (t : Fin 8) (f : Trig → Trig) : (s.updTrg t f).bus = s.bus := rfl
@[simp] theorem State.updTrg_pins (s : State) (t : Fin 8) (f : Trig → Trig) : (s.updTrg t f).pins = s.pins := rfl
@[simp] theorem State.updTrg_pending (s : State) (t : Fin 8) (f : Trig → Trig) : (s.updTrg t f).pending = s.pending := rfl
@[simp] theorem State.updTrg_fresh (s : State) (t : Fin 8) (f : Trig → Trig) : (s.updTrg t f).fresh = s.fresh := rfl

/-! ### State.updMgmt -/

@[simp] theorem State.updMgmt_nv (s : State) (f : Mgmt → Mgmt) : (s.updMgmt f).nv = s.nv := rfl
@[simp] theorem State.updMgmt_sys (s : State) (f : Mgmt → Mgmt) : (s.updMgmt f).sys = s.sys := rfl
@[simp] theorem State.updMgmt_time (s : State) (f : Mgmt → Mgmt) : (s.updMgmt f).time = s.time := rfl
@[simp] theorem State.updMgmt_sched (s : State) (f : Mgmt → Mgmt) : (s.updMgmt f).sched = s.sched := rfl
@[simp] theorem State.updMgmt_halls (s : State) (f : Mgmt → Mgmt) : (s.updMgmt f).halls = s.halls := rfl
@[simp] theorem State.updMgmt_gal (s : State) (f : Mgmt → Mgmt) : (s.updMgmt f).gal = s.gal := rfl
@[simp] theorem State.updMgmt_eng (s : State) (f : Mgmt → Mgmt) : (s.updMgmt f).eng = s.eng := rfl
@[simp] theorem State.updMgmt_voices (s : State) (f : Mgmt → Mgmt) : (s.updMgmt f).voices = s.voices := rfl
@[simp] theorem State.updMgmt_mez (s : State) (f : Mgmt → Mgmt) : (s.updMgmt f).mez = s.mez := rfl
@[simp] theorem State.updMgmt_out (s : State) (f : Mgmt → Mgmt) : (s.updMgmt f).out = s.out := rfl
@[simp] theorem State.updMgmt_tdm (s : State) (f : Mgmt → Mgmt) : (s.updMgmt f).tdm = s.tdm := rfl
@[simp] theorem State.updMgmt_dac (s : State) (f : Mgmt → Mgmt) : (s.updMgmt f).dac = s.dac := rfl
@[simp] theorem State.updMgmt_spec (s : State) (f : Mgmt → Mgmt) : (s.updMgmt f).spec = s.spec := rfl
@[simp] theorem State.updMgmt_mem (s : State) (f : Mgmt → Mgmt) : (s.updMgmt f).mem = s.mem := rfl
@[simp] theorem State.updMgmt_foyer (s : State) (f : Mgmt → Mgmt) : (s.updMgmt f).foyer = s.foyer := rfl
@[simp] theorem State.updMgmt_ser (s : State) (f : Mgmt → Mgmt) : (s.updMgmt f).ser = s.ser := rfl
@[simp] theorem State.updMgmt_irqf (s : State) (f : Mgmt → Mgmt) : (s.updMgmt f).irqf = s.irqf := rfl
@[simp] theorem State.updMgmt_pwr (s : State) (f : Mgmt → Mgmt) : (s.updMgmt f).pwr = s.pwr := rfl
@[simp] theorem State.updMgmt_fence (s : State) (f : Mgmt → Mgmt) : (s.updMgmt f).fence = s.fence := rfl
@[simp] theorem State.updMgmt_mgmt (s : State) (f : Mgmt → Mgmt) : (s.updMgmt f).mgmt = f s.mgmt := rfl
@[simp] theorem State.updMgmt_bus (s : State) (f : Mgmt → Mgmt) : (s.updMgmt f).bus = s.bus := rfl
@[simp] theorem State.updMgmt_pins (s : State) (f : Mgmt → Mgmt) : (s.updMgmt f).pins = s.pins := rfl
@[simp] theorem State.updMgmt_pending (s : State) (f : Mgmt → Mgmt) : (s.updMgmt f).pending = s.pending := rfl
@[simp] theorem State.updMgmt_fresh (s : State) (f : Mgmt → Mgmt) : (s.updMgmt f).fresh = s.fresh := rfl

/-! ### State.updNv -/

@[simp] theorem State.updNv_nv (s : State) (f : Nv → Nv) : (s.updNv f).nv = f s.nv := rfl
@[simp] theorem State.updNv_sys (s : State) (f : Nv → Nv) : (s.updNv f).sys = s.sys := rfl
@[simp] theorem State.updNv_time (s : State) (f : Nv → Nv) : (s.updNv f).time = s.time := rfl
@[simp] theorem State.updNv_sched (s : State) (f : Nv → Nv) : (s.updNv f).sched = s.sched := rfl
@[simp] theorem State.updNv_halls (s : State) (f : Nv → Nv) : (s.updNv f).halls = s.halls := rfl
@[simp] theorem State.updNv_gal (s : State) (f : Nv → Nv) : (s.updNv f).gal = s.gal := rfl
@[simp] theorem State.updNv_eng (s : State) (f : Nv → Nv) : (s.updNv f).eng = s.eng := rfl
@[simp] theorem State.updNv_voices (s : State) (f : Nv → Nv) : (s.updNv f).voices = s.voices := rfl
@[simp] theorem State.updNv_mez (s : State) (f : Nv → Nv) : (s.updNv f).mez = s.mez := rfl
@[simp] theorem State.updNv_out (s : State) (f : Nv → Nv) : (s.updNv f).out = s.out := rfl
@[simp] theorem State.updNv_tdm (s : State) (f : Nv → Nv) : (s.updNv f).tdm = s.tdm := rfl
@[simp] theorem State.updNv_dac (s : State) (f : Nv → Nv) : (s.updNv f).dac = s.dac := rfl
@[simp] theorem State.updNv_spec (s : State) (f : Nv → Nv) : (s.updNv f).spec = s.spec := rfl
@[simp] theorem State.updNv_mem (s : State) (f : Nv → Nv) : (s.updNv f).mem = s.mem := rfl
@[simp] theorem State.updNv_foyer (s : State) (f : Nv → Nv) : (s.updNv f).foyer = s.foyer := rfl
@[simp] theorem State.updNv_ser (s : State) (f : Nv → Nv) : (s.updNv f).ser = s.ser := rfl
@[simp] theorem State.updNv_irqf (s : State) (f : Nv → Nv) : (s.updNv f).irqf = s.irqf := rfl
@[simp] theorem State.updNv_pwr (s : State) (f : Nv → Nv) : (s.updNv f).pwr = s.pwr := rfl
@[simp] theorem State.updNv_fence (s : State) (f : Nv → Nv) : (s.updNv f).fence = s.fence := rfl
@[simp] theorem State.updNv_mgmt (s : State) (f : Nv → Nv) : (s.updNv f).mgmt = s.mgmt := rfl
@[simp] theorem State.updNv_bus (s : State) (f : Nv → Nv) : (s.updNv f).bus = s.bus := rfl
@[simp] theorem State.updNv_pins (s : State) (f : Nv → Nv) : (s.updNv f).pins = s.pins := rfl
@[simp] theorem State.updNv_pending (s : State) (f : Nv → Nv) : (s.updNv f).pending = s.pending := rfl
@[simp] theorem State.updNv_fresh (s : State) (f : Nv → Nv) : (s.updNv f).fresh = s.fresh := rfl

/-! ### State.raise -/

@[simp] theorem State.raise_nv (s : State) (n : Nat) : (s.raise n).nv = s.nv := by cases s; rfl
@[simp] theorem State.raise_sys (s : State) (n : Nat) : (s.raise n).sys = s.sys := by cases s; rfl
@[simp] theorem State.raise_time (s : State) (n : Nat) : (s.raise n).time = s.time := by cases s; rfl
@[simp] theorem State.raise_sched (s : State) (n : Nat) : (s.raise n).sched = s.sched := by cases s; rfl
@[simp] theorem State.raise_halls (s : State) (n : Nat) : (s.raise n).halls = s.halls := by cases s; rfl
@[simp] theorem State.raise_gal (s : State) (n : Nat) : (s.raise n).gal = s.gal := by cases s; rfl
@[simp] theorem State.raise_eng (s : State) (n : Nat) : (s.raise n).eng = s.eng := by cases s; rfl
@[simp] theorem State.raise_voices (s : State) (n : Nat) : (s.raise n).voices = s.voices := by cases s; rfl
@[simp] theorem State.raise_mez (s : State) (n : Nat) : (s.raise n).mez = s.mez := by cases s; rfl
@[simp] theorem State.raise_out (s : State) (n : Nat) : (s.raise n).out = s.out := by cases s; rfl
@[simp] theorem State.raise_tdm (s : State) (n : Nat) : (s.raise n).tdm = s.tdm := by cases s; rfl
@[simp] theorem State.raise_dac (s : State) (n : Nat) : (s.raise n).dac = s.dac := by cases s; rfl
@[simp] theorem State.raise_spec (s : State) (n : Nat) : (s.raise n).spec = s.spec := by cases s; rfl
@[simp] theorem State.raise_mem (s : State) (n : Nat) : (s.raise n).mem = s.mem := by cases s; rfl
@[simp] theorem State.raise_foyer (s : State) (n : Nat) : (s.raise n).foyer = s.foyer := by cases s; rfl
@[simp] theorem State.raise_ser (s : State) (n : Nat) : (s.raise n).ser = s.ser := by cases s; rfl
@[simp] theorem State.raise_irqf (s : State) (n : Nat) : (s.raise n).irqf = s.irqf.raise n := by cases s; rfl
@[simp] theorem State.raise_pwr (s : State) (n : Nat) : (s.raise n).pwr = s.pwr := by cases s; rfl
@[simp] theorem State.raise_fence (s : State) (n : Nat) : (s.raise n).fence = s.fence := by cases s; rfl
@[simp] theorem State.raise_mgmt (s : State) (n : Nat) : (s.raise n).mgmt = s.mgmt := by cases s; rfl
@[simp] theorem State.raise_bus (s : State) (n : Nat) : (s.raise n).bus = s.bus := by cases s; rfl
@[simp] theorem State.raise_pins (s : State) (n : Nat) : (s.raise n).pins = s.pins := by cases s; rfl
@[simp] theorem State.raise_pending (s : State) (n : Nat) : (s.raise n).pending = s.pending := by cases s; rfl
@[simp] theorem State.raise_fresh (s : State) (n : Nat) : (s.raise n).fresh = s.fresh := by cases s; rfl

/-! ### State.sramWrite -/

@[simp] theorem State.sramWrite_nv (s : State) (a : Nat) (bs : List Byte) : (s.sramWrite a bs).nv = s.nv := rfl
@[simp] theorem State.sramWrite_sys (s : State) (a : Nat) (bs : List Byte) : (s.sramWrite a bs).sys = s.sys := rfl
@[simp] theorem State.sramWrite_time (s : State) (a : Nat) (bs : List Byte) : (s.sramWrite a bs).time = s.time := rfl
@[simp] theorem State.sramWrite_sched (s : State) (a : Nat) (bs : List Byte) : (s.sramWrite a bs).sched = s.sched := rfl
@[simp] theorem State.sramWrite_halls (s : State) (a : Nat) (bs : List Byte) : (s.sramWrite a bs).halls = s.halls := rfl
@[simp] theorem State.sramWrite_gal (s : State) (a : Nat) (bs : List Byte) : (s.sramWrite a bs).gal = s.gal := rfl
@[simp] theorem State.sramWrite_eng (s : State) (a : Nat) (bs : List Byte) : (s.sramWrite a bs).eng = s.eng := rfl
@[simp] theorem State.sramWrite_voices (s : State) (a : Nat) (bs : List Byte) : (s.sramWrite a bs).voices = s.voices := rfl
@[simp] theorem State.sramWrite_mez (s : State) (a : Nat) (bs : List Byte) : (s.sramWrite a bs).mez = s.mez := rfl
@[simp] theorem State.sramWrite_out (s : State) (a : Nat) (bs : List Byte) : (s.sramWrite a bs).out = s.out := rfl
@[simp] theorem State.sramWrite_tdm (s : State) (a : Nat) (bs : List Byte) : (s.sramWrite a bs).tdm = s.tdm := rfl
@[simp] theorem State.sramWrite_dac (s : State) (a : Nat) (bs : List Byte) : (s.sramWrite a bs).dac = s.dac := rfl
@[simp] theorem State.sramWrite_spec (s : State) (a : Nat) (bs : List Byte) : (s.sramWrite a bs).spec = s.spec := rfl
@[simp] theorem State.sramWrite_mem (s : State) (a : Nat) (bs : List Byte) : (s.sramWrite a bs).mem = s.mem := rfl
@[simp] theorem State.sramWrite_foyer (s : State) (a : Nat) (bs : List Byte) : (s.sramWrite a bs).foyer = { s.foyer with sram := s.foyer.sram.writeList a bs } := rfl
@[simp] theorem State.sramWrite_ser (s : State) (a : Nat) (bs : List Byte) : (s.sramWrite a bs).ser = s.ser := rfl
@[simp] theorem State.sramWrite_irqf (s : State) (a : Nat) (bs : List Byte) : (s.sramWrite a bs).irqf = s.irqf := rfl
@[simp] theorem State.sramWrite_pwr (s : State) (a : Nat) (bs : List Byte) : (s.sramWrite a bs).pwr = s.pwr := rfl
@[simp] theorem State.sramWrite_fence (s : State) (a : Nat) (bs : List Byte) : (s.sramWrite a bs).fence = s.fence := rfl
@[simp] theorem State.sramWrite_mgmt (s : State) (a : Nat) (bs : List Byte) : (s.sramWrite a bs).mgmt = s.mgmt := rfl
@[simp] theorem State.sramWrite_bus (s : State) (a : Nat) (bs : List Byte) : (s.sramWrite a bs).bus = s.bus := rfl
@[simp] theorem State.sramWrite_pins (s : State) (a : Nat) (bs : List Byte) : (s.sramWrite a bs).pins = s.pins := rfl
@[simp] theorem State.sramWrite_pending (s : State) (a : Nat) (bs : List Byte) : (s.sramWrite a bs).pending = s.pending := rfl
@[simp] theorem State.sramWrite_fresh (s : State) (a : Nat) (bs : List Byte) : (s.sramWrite a bs).fresh = s.fresh := rfl

/-! ### State.answer -/

@[simp] theorem State.answer_nv (s : State) (v : Word) : (s.answer v).nv = s.nv := rfl
@[simp] theorem State.answer_sys (s : State) (v : Word) : (s.answer v).sys = s.sys := rfl
@[simp] theorem State.answer_time (s : State) (v : Word) : (s.answer v).time = s.time := rfl
@[simp] theorem State.answer_sched (s : State) (v : Word) : (s.answer v).sched = s.sched := rfl
@[simp] theorem State.answer_halls (s : State) (v : Word) : (s.answer v).halls = s.halls := rfl
@[simp] theorem State.answer_gal (s : State) (v : Word) : (s.answer v).gal = s.gal := rfl
@[simp] theorem State.answer_eng (s : State) (v : Word) : (s.answer v).eng = s.eng := rfl
@[simp] theorem State.answer_voices (s : State) (v : Word) : (s.answer v).voices = s.voices := rfl
@[simp] theorem State.answer_mez (s : State) (v : Word) : (s.answer v).mez = s.mez := rfl
@[simp] theorem State.answer_out (s : State) (v : Word) : (s.answer v).out = s.out := rfl
@[simp] theorem State.answer_tdm (s : State) (v : Word) : (s.answer v).tdm = s.tdm := rfl
@[simp] theorem State.answer_dac (s : State) (v : Word) : (s.answer v).dac = s.dac := rfl
@[simp] theorem State.answer_spec (s : State) (v : Word) : (s.answer v).spec = s.spec := rfl
@[simp] theorem State.answer_mem (s : State) (v : Word) : (s.answer v).mem = s.mem := rfl
@[simp] theorem State.answer_foyer (s : State) (v : Word) : (s.answer v).foyer = s.foyer := rfl
@[simp] theorem State.answer_ser (s : State) (v : Word) : (s.answer v).ser = s.ser := rfl
@[simp] theorem State.answer_irqf (s : State) (v : Word) : (s.answer v).irqf = s.irqf := rfl
@[simp] theorem State.answer_pwr (s : State) (v : Word) : (s.answer v).pwr = s.pwr := rfl
@[simp] theorem State.answer_fence (s : State) (v : Word) : (s.answer v).fence = s.fence := rfl
@[simp] theorem State.answer_mgmt (s : State) (v : Word) : (s.answer v).mgmt = s.mgmt := rfl
@[simp] theorem State.answer_bus (s : State) (v : Word) : (s.answer v).bus = { s.bus with data := v } := rfl
@[simp] theorem State.answer_pins (s : State) (v : Word) : (s.answer v).pins = s.pins := rfl
@[simp] theorem State.answer_pending (s : State) (v : Word) : (s.answer v).pending = s.pending := rfl
@[simp] theorem State.answer_fresh (s : State) (v : Word) : (s.answer v).fresh = s.fresh := rfl

/-! ### State.pwrErr -/

@[simp] theorem State.pwrErr_nv (s : State) (n : Nat) : (s.pwrErr n).nv = s.nv := rfl
@[simp] theorem State.pwrErr_sys (s : State) (n : Nat) : (s.pwrErr n).sys = s.sys := rfl
@[simp] theorem State.pwrErr_time (s : State) (n : Nat) : (s.pwrErr n).time = s.time := rfl
@[simp] theorem State.pwrErr_sched (s : State) (n : Nat) : (s.pwrErr n).sched = s.sched := rfl
@[simp] theorem State.pwrErr_halls (s : State) (n : Nat) : (s.pwrErr n).halls = s.halls := rfl
@[simp] theorem State.pwrErr_gal (s : State) (n : Nat) : (s.pwrErr n).gal = s.gal := rfl
@[simp] theorem State.pwrErr_eng (s : State) (n : Nat) : (s.pwrErr n).eng = s.eng := rfl
@[simp] theorem State.pwrErr_voices (s : State) (n : Nat) : (s.pwrErr n).voices = s.voices := rfl
@[simp] theorem State.pwrErr_mez (s : State) (n : Nat) : (s.pwrErr n).mez = s.mez := rfl
@[simp] theorem State.pwrErr_out (s : State) (n : Nat) : (s.pwrErr n).out = s.out := rfl
@[simp] theorem State.pwrErr_tdm (s : State) (n : Nat) : (s.pwrErr n).tdm = s.tdm := rfl
@[simp] theorem State.pwrErr_dac (s : State) (n : Nat) : (s.pwrErr n).dac = s.dac := rfl
@[simp] theorem State.pwrErr_spec (s : State) (n : Nat) : (s.pwrErr n).spec = s.spec := rfl
@[simp] theorem State.pwrErr_mem (s : State) (n : Nat) : (s.pwrErr n).mem = s.mem := rfl
@[simp] theorem State.pwrErr_foyer (s : State) (n : Nat) : (s.pwrErr n).foyer = s.foyer := rfl
@[simp] theorem State.pwrErr_ser (s : State) (n : Nat) : (s.pwrErr n).ser = s.ser := rfl
@[simp] theorem State.pwrErr_irqf (s : State) (n : Nat) : (s.pwrErr n).irqf = s.irqf := rfl
@[simp] theorem State.pwrErr_pwr (s : State) (n : Nat) : (s.pwrErr n).pwr = { s.pwr with err := setFlag s.pwr.err n } := rfl
@[simp] theorem State.pwrErr_fence (s : State) (n : Nat) : (s.pwrErr n).fence = s.fence := rfl
@[simp] theorem State.pwrErr_mgmt (s : State) (n : Nat) : (s.pwrErr n).mgmt = s.mgmt := rfl
@[simp] theorem State.pwrErr_bus (s : State) (n : Nat) : (s.pwrErr n).bus = s.bus := rfl
@[simp] theorem State.pwrErr_pins (s : State) (n : Nat) : (s.pwrErr n).pins = s.pins := rfl
@[simp] theorem State.pwrErr_pending (s : State) (n : Nat) : (s.pwrErr n).pending = s.pending := rfl
@[simp] theorem State.pwrErr_fresh (s : State) (n : Nat) : (s.pwrErr n).fresh = s.fresh := rfl

/-! ### State.memRaise -/

@[simp] theorem State.memRaise_nv (s : State) (e : MemEvents) : (s.memRaise e).nv = s.nv := rfl
@[simp] theorem State.memRaise_sys (s : State) (e : MemEvents) : (s.memRaise e).sys = s.sys := rfl
@[simp] theorem State.memRaise_time (s : State) (e : MemEvents) : (s.memRaise e).time = s.time := rfl
@[simp] theorem State.memRaise_sched (s : State) (e : MemEvents) : (s.memRaise e).sched = s.sched := rfl
@[simp] theorem State.memRaise_halls (s : State) (e : MemEvents) : (s.memRaise e).halls = s.halls := rfl
@[simp] theorem State.memRaise_gal (s : State) (e : MemEvents) : (s.memRaise e).gal = s.gal := rfl
@[simp] theorem State.memRaise_eng (s : State) (e : MemEvents) : (s.memRaise e).eng = s.eng := rfl
@[simp] theorem State.memRaise_voices (s : State) (e : MemEvents) : (s.memRaise e).voices = s.voices := rfl
@[simp] theorem State.memRaise_mez (s : State) (e : MemEvents) : (s.memRaise e).mez = s.mez := rfl
@[simp] theorem State.memRaise_out (s : State) (e : MemEvents) : (s.memRaise e).out = s.out := rfl
@[simp] theorem State.memRaise_tdm (s : State) (e : MemEvents) : (s.memRaise e).tdm = s.tdm := rfl
@[simp] theorem State.memRaise_dac (s : State) (e : MemEvents) : (s.memRaise e).dac = s.dac := rfl
@[simp] theorem State.memRaise_spec (s : State) (e : MemEvents) : (s.memRaise e).spec = s.spec := rfl
@[simp] theorem State.memRaise_mem (s : State) (e : MemEvents) : (s.memRaise e).mem = s.mem := rfl
@[simp] theorem State.memRaise_foyer (s : State) (e : MemEvents) : (s.memRaise e).foyer = s.foyer := rfl
@[simp] theorem State.memRaise_ser (s : State) (e : MemEvents) : (s.memRaise e).ser = s.ser := rfl
@[simp] theorem State.memRaise_irqf (s : State) (e : MemEvents) : (s.memRaise e).irqf = s.irqf.raiseAll (e.raise.map fun c => 112 + c.val) := rfl
@[simp] theorem State.memRaise_pwr (s : State) (e : MemEvents) : (s.memRaise e).pwr = s.pwr := rfl
@[simp] theorem State.memRaise_fence (s : State) (e : MemEvents) : (s.memRaise e).fence = s.fence := rfl
@[simp] theorem State.memRaise_mgmt (s : State) (e : MemEvents) : (s.memRaise e).mgmt = s.mgmt := rfl
@[simp] theorem State.memRaise_bus (s : State) (e : MemEvents) : (s.memRaise e).bus = s.bus := rfl
@[simp] theorem State.memRaise_pins (s : State) (e : MemEvents) : (s.memRaise e).pins = s.pins := rfl
@[simp] theorem State.memRaise_pending (s : State) (e : MemEvents) : (s.memRaise e).pending = s.pending := rfl
@[simp] theorem State.memRaise_fresh (s : State) (e : MemEvents) : (s.memRaise e).fresh = s.fresh := rfl

/-! ### State.raiseIf -/

@[simp] theorem State.raiseIf_nv (s : State) (b : Bool) (n : Nat) : (s.raiseIf b n).nv = s.nv := by cases b <;> rfl
@[simp] theorem State.raiseIf_sys (s : State) (b : Bool) (n : Nat) : (s.raiseIf b n).sys = s.sys := by cases b <;> rfl
@[simp] theorem State.raiseIf_time (s : State) (b : Bool) (n : Nat) : (s.raiseIf b n).time = s.time := by cases b <;> rfl
@[simp] theorem State.raiseIf_sched (s : State) (b : Bool) (n : Nat) : (s.raiseIf b n).sched = s.sched := by cases b <;> rfl
@[simp] theorem State.raiseIf_halls (s : State) (b : Bool) (n : Nat) : (s.raiseIf b n).halls = s.halls := by cases b <;> rfl
@[simp] theorem State.raiseIf_gal (s : State) (b : Bool) (n : Nat) : (s.raiseIf b n).gal = s.gal := by cases b <;> rfl
@[simp] theorem State.raiseIf_eng (s : State) (b : Bool) (n : Nat) : (s.raiseIf b n).eng = s.eng := by cases b <;> rfl
@[simp] theorem State.raiseIf_voices (s : State) (b : Bool) (n : Nat) : (s.raiseIf b n).voices = s.voices := by cases b <;> rfl
@[simp] theorem State.raiseIf_mez (s : State) (b : Bool) (n : Nat) : (s.raiseIf b n).mez = s.mez := by cases b <;> rfl
@[simp] theorem State.raiseIf_out (s : State) (b : Bool) (n : Nat) : (s.raiseIf b n).out = s.out := by cases b <;> rfl
@[simp] theorem State.raiseIf_tdm (s : State) (b : Bool) (n : Nat) : (s.raiseIf b n).tdm = s.tdm := by cases b <;> rfl
@[simp] theorem State.raiseIf_dac (s : State) (b : Bool) (n : Nat) : (s.raiseIf b n).dac = s.dac := by cases b <;> rfl
@[simp] theorem State.raiseIf_spec (s : State) (b : Bool) (n : Nat) : (s.raiseIf b n).spec = s.spec := by cases b <;> rfl
@[simp] theorem State.raiseIf_mem (s : State) (b : Bool) (n : Nat) : (s.raiseIf b n).mem = s.mem := by cases b <;> rfl
@[simp] theorem State.raiseIf_foyer (s : State) (b : Bool) (n : Nat) : (s.raiseIf b n).foyer = s.foyer := by cases b <;> rfl
@[simp] theorem State.raiseIf_ser (s : State) (b : Bool) (n : Nat) : (s.raiseIf b n).ser = s.ser := by cases b <;> rfl
@[simp] theorem State.raiseIf_pwr (s : State) (b : Bool) (n : Nat) : (s.raiseIf b n).pwr = s.pwr := by cases b <;> rfl
@[simp] theorem State.raiseIf_fence (s : State) (b : Bool) (n : Nat) : (s.raiseIf b n).fence = s.fence := by cases b <;> rfl
@[simp] theorem State.raiseIf_mgmt (s : State) (b : Bool) (n : Nat) : (s.raiseIf b n).mgmt = s.mgmt := by cases b <;> rfl
@[simp] theorem State.raiseIf_bus (s : State) (b : Bool) (n : Nat) : (s.raiseIf b n).bus = s.bus := by cases b <;> rfl
@[simp] theorem State.raiseIf_pins (s : State) (b : Bool) (n : Nat) : (s.raiseIf b n).pins = s.pins := by cases b <;> rfl
@[simp] theorem State.raiseIf_pending (s : State) (b : Bool) (n : Nat) : (s.raiseIf b n).pending = s.pending := by cases b <;> rfl
@[simp] theorem State.raiseIf_fresh (s : State) (b : Bool) (n : Nat) : (s.raiseIf b n).fresh = s.fresh := by cases b <;> rfl

/-! ### State.sysErr -/

@[simp] theorem State.sysErr_nv (s : State) (n : Nat) (a : Word) : (s.sysErr n a).nv = s.nv := by simp [State.sysErr]
@[simp] theorem State.sysErr_time (s : State) (n : Nat) (a : Word) : (s.sysErr n a).time = s.time := by simp [State.sysErr]
@[simp] theorem State.sysErr_sched (s : State) (n : Nat) (a : Word) : (s.sysErr n a).sched = s.sched := by simp [State.sysErr]
@[simp] theorem State.sysErr_halls (s : State) (n : Nat) (a : Word) : (s.sysErr n a).halls = s.halls := by simp [State.sysErr]
@[simp] theorem State.sysErr_gal (s : State) (n : Nat) (a : Word) : (s.sysErr n a).gal = s.gal := by simp [State.sysErr]
@[simp] theorem State.sysErr_eng (s : State) (n : Nat) (a : Word) : (s.sysErr n a).eng = s.eng := by simp [State.sysErr]
@[simp] theorem State.sysErr_voices (s : State) (n : Nat) (a : Word) : (s.sysErr n a).voices = s.voices := by simp [State.sysErr]
@[simp] theorem State.sysErr_mez (s : State) (n : Nat) (a : Word) : (s.sysErr n a).mez = s.mez := by simp [State.sysErr]
@[simp] theorem State.sysErr_out (s : State) (n : Nat) (a : Word) : (s.sysErr n a).out = s.out := by simp [State.sysErr]
@[simp] theorem State.sysErr_tdm (s : State) (n : Nat) (a : Word) : (s.sysErr n a).tdm = s.tdm := by simp [State.sysErr]
@[simp] theorem State.sysErr_dac (s : State) (n : Nat) (a : Word) : (s.sysErr n a).dac = s.dac := by simp [State.sysErr]
@[simp] theorem State.sysErr_spec (s : State) (n : Nat) (a : Word) : (s.sysErr n a).spec = s.spec := by simp [State.sysErr]
@[simp] theorem State.sysErr_mem (s : State) (n : Nat) (a : Word) : (s.sysErr n a).mem = s.mem := by simp [State.sysErr]
@[simp] theorem State.sysErr_foyer (s : State) (n : Nat) (a : Word) : (s.sysErr n a).foyer = s.foyer := by simp [State.sysErr]
@[simp] theorem State.sysErr_ser (s : State) (n : Nat) (a : Word) : (s.sysErr n a).ser = s.ser := by simp [State.sysErr]
@[simp] theorem State.sysErr_pwr (s : State) (n : Nat) (a : Word) : (s.sysErr n a).pwr = s.pwr := by simp [State.sysErr]
@[simp] theorem State.sysErr_fence (s : State) (n : Nat) (a : Word) : (s.sysErr n a).fence = s.fence := by simp [State.sysErr]
@[simp] theorem State.sysErr_mgmt (s : State) (n : Nat) (a : Word) : (s.sysErr n a).mgmt = s.mgmt := by simp [State.sysErr]
@[simp] theorem State.sysErr_bus (s : State) (n : Nat) (a : Word) : (s.sysErr n a).bus = s.bus := by simp [State.sysErr]
@[simp] theorem State.sysErr_pins (s : State) (n : Nat) (a : Word) : (s.sysErr n a).pins = s.pins := by simp [State.sysErr]
@[simp] theorem State.sysErr_pending (s : State) (n : Nat) (a : Word) : (s.sysErr n a).pending = s.pending := by simp [State.sysErr]
@[simp] theorem State.sysErr_fresh (s : State) (n : Nat) (a : Word) : (s.sysErr n a).fresh = s.fresh := by simp [State.sysErr]

/-! ### State.timeErr -/

@[simp] theorem State.timeErr_nv (s : State) (n : Nat) : (s.timeErr n).nv = s.nv := by simp [State.timeErr]
@[simp] theorem State.timeErr_sys (s : State) (n : Nat) : (s.timeErr n).sys = s.sys := by simp [State.timeErr]
@[simp] theorem State.timeErr_sched (s : State) (n : Nat) : (s.timeErr n).sched = s.sched := by simp [State.timeErr]
@[simp] theorem State.timeErr_halls (s : State) (n : Nat) : (s.timeErr n).halls = s.halls := by simp [State.timeErr]
@[simp] theorem State.timeErr_gal (s : State) (n : Nat) : (s.timeErr n).gal = s.gal := by simp [State.timeErr]
@[simp] theorem State.timeErr_eng (s : State) (n : Nat) : (s.timeErr n).eng = s.eng := by simp [State.timeErr]
@[simp] theorem State.timeErr_voices (s : State) (n : Nat) : (s.timeErr n).voices = s.voices := by simp [State.timeErr]
@[simp] theorem State.timeErr_mez (s : State) (n : Nat) : (s.timeErr n).mez = s.mez := by simp [State.timeErr]
@[simp] theorem State.timeErr_out (s : State) (n : Nat) : (s.timeErr n).out = s.out := by simp [State.timeErr]
@[simp] theorem State.timeErr_tdm (s : State) (n : Nat) : (s.timeErr n).tdm = s.tdm := by simp [State.timeErr]
@[simp] theorem State.timeErr_dac (s : State) (n : Nat) : (s.timeErr n).dac = s.dac := by simp [State.timeErr]
@[simp] theorem State.timeErr_spec (s : State) (n : Nat) : (s.timeErr n).spec = s.spec := by simp [State.timeErr]
@[simp] theorem State.timeErr_mem (s : State) (n : Nat) : (s.timeErr n).mem = s.mem := by simp [State.timeErr]
@[simp] theorem State.timeErr_foyer (s : State) (n : Nat) : (s.timeErr n).foyer = s.foyer := by simp [State.timeErr]
@[simp] theorem State.timeErr_ser (s : State) (n : Nat) : (s.timeErr n).ser = s.ser := by simp [State.timeErr]
@[simp] theorem State.timeErr_pwr (s : State) (n : Nat) : (s.timeErr n).pwr = s.pwr := by simp [State.timeErr]
@[simp] theorem State.timeErr_fence (s : State) (n : Nat) : (s.timeErr n).fence = s.fence := by simp [State.timeErr]
@[simp] theorem State.timeErr_mgmt (s : State) (n : Nat) : (s.timeErr n).mgmt = s.mgmt := by simp [State.timeErr]
@[simp] theorem State.timeErr_bus (s : State) (n : Nat) : (s.timeErr n).bus = s.bus := by simp [State.timeErr]
@[simp] theorem State.timeErr_pins (s : State) (n : Nat) : (s.timeErr n).pins = s.pins := by simp [State.timeErr]
@[simp] theorem State.timeErr_pending (s : State) (n : Nat) : (s.timeErr n).pending = s.pending := by simp [State.timeErr]
@[simp] theorem State.timeErr_fresh (s : State) (n : Nat) : (s.timeErr n).fresh = s.fresh := by simp [State.timeErr]

/-! ### State.guar -/

@[simp] theorem State.guar_nv (s : State) (n : Nat) : (s.guar n).nv = s.nv := by simp [State.guar]
@[simp] theorem State.guar_sys (s : State) (n : Nat) : (s.guar n).sys = s.sys := by simp [State.guar]
@[simp] theorem State.guar_time (s : State) (n : Nat) : (s.guar n).time = s.time := by simp [State.guar]
@[simp] theorem State.guar_halls (s : State) (n : Nat) : (s.guar n).halls = s.halls := by simp [State.guar]
@[simp] theorem State.guar_gal (s : State) (n : Nat) : (s.guar n).gal = s.gal := by simp [State.guar]
@[simp] theorem State.guar_eng (s : State) (n : Nat) : (s.guar n).eng = s.eng := by simp [State.guar]
@[simp] theorem State.guar_voices (s : State) (n : Nat) : (s.guar n).voices = s.voices := by simp [State.guar]
@[simp] theorem State.guar_mez (s : State) (n : Nat) : (s.guar n).mez = s.mez := by simp [State.guar]
@[simp] theorem State.guar_out (s : State) (n : Nat) : (s.guar n).out = s.out := by simp [State.guar]
@[simp] theorem State.guar_tdm (s : State) (n : Nat) : (s.guar n).tdm = s.tdm := by simp [State.guar]
@[simp] theorem State.guar_dac (s : State) (n : Nat) : (s.guar n).dac = s.dac := by simp [State.guar]
@[simp] theorem State.guar_spec (s : State) (n : Nat) : (s.guar n).spec = s.spec := by simp [State.guar]
@[simp] theorem State.guar_mem (s : State) (n : Nat) : (s.guar n).mem = s.mem := by simp [State.guar]
@[simp] theorem State.guar_foyer (s : State) (n : Nat) : (s.guar n).foyer = s.foyer := by simp [State.guar]
@[simp] theorem State.guar_ser (s : State) (n : Nat) : (s.guar n).ser = s.ser := by simp [State.guar]
@[simp] theorem State.guar_pwr (s : State) (n : Nat) : (s.guar n).pwr = s.pwr := by simp [State.guar]
@[simp] theorem State.guar_fence (s : State) (n : Nat) : (s.guar n).fence = s.fence := by simp [State.guar]
@[simp] theorem State.guar_mgmt (s : State) (n : Nat) : (s.guar n).mgmt = s.mgmt := by simp [State.guar]
@[simp] theorem State.guar_bus (s : State) (n : Nat) : (s.guar n).bus = s.bus := by simp [State.guar]
@[simp] theorem State.guar_pins (s : State) (n : Nat) : (s.guar n).pins = s.pins := by simp [State.guar]
@[simp] theorem State.guar_pending (s : State) (n : Nat) : (s.guar n).pending = s.pending := by simp [State.guar]
@[simp] theorem State.guar_fresh (s : State) (n : Nat) : (s.guar n).fresh = s.fresh := by simp [State.guar]

/-! ### State.dacErr -/

@[simp] theorem State.dacErr_nv (s : State) (n : Nat) : (s.dacErr n).nv = s.nv := by simp [State.dacErr]
@[simp] theorem State.dacErr_sys (s : State) (n : Nat) : (s.dacErr n).sys = s.sys := by simp [State.dacErr]
@[simp] theorem State.dacErr_time (s : State) (n : Nat) : (s.dacErr n).time = s.time := by simp [State.dacErr]
@[simp] theorem State.dacErr_sched (s : State) (n : Nat) : (s.dacErr n).sched = s.sched := by simp [State.dacErr]
@[simp] theorem State.dacErr_halls (s : State) (n : Nat) : (s.dacErr n).halls = s.halls := by simp [State.dacErr]
@[simp] theorem State.dacErr_gal (s : State) (n : Nat) : (s.dacErr n).gal = s.gal := by simp [State.dacErr]
@[simp] theorem State.dacErr_eng (s : State) (n : Nat) : (s.dacErr n).eng = s.eng := by simp [State.dacErr]
@[simp] theorem State.dacErr_voices (s : State) (n : Nat) : (s.dacErr n).voices = s.voices := by simp [State.dacErr]
@[simp] theorem State.dacErr_mez (s : State) (n : Nat) : (s.dacErr n).mez = s.mez := by simp [State.dacErr]
@[simp] theorem State.dacErr_out (s : State) (n : Nat) : (s.dacErr n).out = s.out := by simp [State.dacErr]
@[simp] theorem State.dacErr_tdm (s : State) (n : Nat) : (s.dacErr n).tdm = s.tdm := by simp [State.dacErr]
@[simp] theorem State.dacErr_spec (s : State) (n : Nat) : (s.dacErr n).spec = s.spec := by simp [State.dacErr]
@[simp] theorem State.dacErr_mem (s : State) (n : Nat) : (s.dacErr n).mem = s.mem := by simp [State.dacErr]
@[simp] theorem State.dacErr_foyer (s : State) (n : Nat) : (s.dacErr n).foyer = s.foyer := by simp [State.dacErr]
@[simp] theorem State.dacErr_ser (s : State) (n : Nat) : (s.dacErr n).ser = s.ser := by simp [State.dacErr]
@[simp] theorem State.dacErr_pwr (s : State) (n : Nat) : (s.dacErr n).pwr = s.pwr := by simp [State.dacErr]
@[simp] theorem State.dacErr_fence (s : State) (n : Nat) : (s.dacErr n).fence = s.fence := by simp [State.dacErr]
@[simp] theorem State.dacErr_mgmt (s : State) (n : Nat) : (s.dacErr n).mgmt = s.mgmt := by simp [State.dacErr]
@[simp] theorem State.dacErr_bus (s : State) (n : Nat) : (s.dacErr n).bus = s.bus := by simp [State.dacErr]
@[simp] theorem State.dacErr_pins (s : State) (n : Nat) : (s.dacErr n).pins = s.pins := by simp [State.dacErr]
@[simp] theorem State.dacErr_pending (s : State) (n : Nat) : (s.dacErr n).pending = s.pending := by simp [State.dacErr]
@[simp] theorem State.dacErr_fresh (s : State) (n : Nat) : (s.dacErr n).fresh = s.fresh := by simp [State.dacErr]

/-! ### State.tdmErr -/

@[simp] theorem State.tdmErr_nv (s : State) (n : Nat) : (s.tdmErr n).nv = s.nv := by simp [State.tdmErr]
@[simp] theorem State.tdmErr_sys (s : State) (n : Nat) : (s.tdmErr n).sys = s.sys := by simp [State.tdmErr]
@[simp] theorem State.tdmErr_time (s : State) (n : Nat) : (s.tdmErr n).time = s.time := by simp [State.tdmErr]
@[simp] theorem State.tdmErr_sched (s : State) (n : Nat) : (s.tdmErr n).sched = s.sched := by simp [State.tdmErr]
@[simp] theorem State.tdmErr_halls (s : State) (n : Nat) : (s.tdmErr n).halls = s.halls := by simp [State.tdmErr]
@[simp] theorem State.tdmErr_gal (s : State) (n : Nat) : (s.tdmErr n).gal = s.gal := by simp [State.tdmErr]
@[simp] theorem State.tdmErr_eng (s : State) (n : Nat) : (s.tdmErr n).eng = s.eng := by simp [State.tdmErr]
@[simp] theorem State.tdmErr_voices (s : State) (n : Nat) : (s.tdmErr n).voices = s.voices := by simp [State.tdmErr]
@[simp] theorem State.tdmErr_mez (s : State) (n : Nat) : (s.tdmErr n).mez = s.mez := by simp [State.tdmErr]
@[simp] theorem State.tdmErr_out (s : State) (n : Nat) : (s.tdmErr n).out = s.out := by simp [State.tdmErr]
@[simp] theorem State.tdmErr_dac (s : State) (n : Nat) : (s.tdmErr n).dac = s.dac := by simp [State.tdmErr]
@[simp] theorem State.tdmErr_spec (s : State) (n : Nat) : (s.tdmErr n).spec = s.spec := by simp [State.tdmErr]
@[simp] theorem State.tdmErr_mem (s : State) (n : Nat) : (s.tdmErr n).mem = s.mem := by simp [State.tdmErr]
@[simp] theorem State.tdmErr_foyer (s : State) (n : Nat) : (s.tdmErr n).foyer = s.foyer := by simp [State.tdmErr]
@[simp] theorem State.tdmErr_ser (s : State) (n : Nat) : (s.tdmErr n).ser = s.ser := by simp [State.tdmErr]
@[simp] theorem State.tdmErr_pwr (s : State) (n : Nat) : (s.tdmErr n).pwr = s.pwr := by simp [State.tdmErr]
@[simp] theorem State.tdmErr_fence (s : State) (n : Nat) : (s.tdmErr n).fence = s.fence := by simp [State.tdmErr]
@[simp] theorem State.tdmErr_mgmt (s : State) (n : Nat) : (s.tdmErr n).mgmt = s.mgmt := by simp [State.tdmErr]
@[simp] theorem State.tdmErr_bus (s : State) (n : Nat) : (s.tdmErr n).bus = s.bus := by simp [State.tdmErr]
@[simp] theorem State.tdmErr_pins (s : State) (n : Nat) : (s.tdmErr n).pins = s.pins := by simp [State.tdmErr]
@[simp] theorem State.tdmErr_pending (s : State) (n : Nat) : (s.tdmErr n).pending = s.pending := by simp [State.tdmErr]
@[simp] theorem State.tdmErr_fresh (s : State) (n : Nat) : (s.tdmErr n).fresh = s.fresh := by simp [State.tdmErr]

/-! ### State.outErr -/

@[simp] theorem State.outErr_nv (s : State) (n : Nat) : (s.outErr n).nv = s.nv := by simp [State.outErr]
@[simp] theorem State.outErr_sys (s : State) (n : Nat) : (s.outErr n).sys = s.sys := by simp [State.outErr]
@[simp] theorem State.outErr_time (s : State) (n : Nat) : (s.outErr n).time = s.time := by simp [State.outErr]
@[simp] theorem State.outErr_sched (s : State) (n : Nat) : (s.outErr n).sched = s.sched := by simp [State.outErr]
@[simp] theorem State.outErr_halls (s : State) (n : Nat) : (s.outErr n).halls = s.halls := by simp [State.outErr]
@[simp] theorem State.outErr_gal (s : State) (n : Nat) : (s.outErr n).gal = s.gal := by simp [State.outErr]
@[simp] theorem State.outErr_eng (s : State) (n : Nat) : (s.outErr n).eng = s.eng := by simp [State.outErr]
@[simp] theorem State.outErr_voices (s : State) (n : Nat) : (s.outErr n).voices = s.voices := by simp [State.outErr]
@[simp] theorem State.outErr_mez (s : State) (n : Nat) : (s.outErr n).mez = s.mez := by simp [State.outErr]
@[simp] theorem State.outErr_tdm (s : State) (n : Nat) : (s.outErr n).tdm = s.tdm := by simp [State.outErr]
@[simp] theorem State.outErr_dac (s : State) (n : Nat) : (s.outErr n).dac = s.dac := by simp [State.outErr]
@[simp] theorem State.outErr_spec (s : State) (n : Nat) : (s.outErr n).spec = s.spec := by simp [State.outErr]
@[simp] theorem State.outErr_mem (s : State) (n : Nat) : (s.outErr n).mem = s.mem := by simp [State.outErr]
@[simp] theorem State.outErr_foyer (s : State) (n : Nat) : (s.outErr n).foyer = s.foyer := by simp [State.outErr]
@[simp] theorem State.outErr_ser (s : State) (n : Nat) : (s.outErr n).ser = s.ser := by simp [State.outErr]
@[simp] theorem State.outErr_pwr (s : State) (n : Nat) : (s.outErr n).pwr = s.pwr := by simp [State.outErr]
@[simp] theorem State.outErr_fence (s : State) (n : Nat) : (s.outErr n).fence = s.fence := by simp [State.outErr]
@[simp] theorem State.outErr_mgmt (s : State) (n : Nat) : (s.outErr n).mgmt = s.mgmt := by simp [State.outErr]
@[simp] theorem State.outErr_bus (s : State) (n : Nat) : (s.outErr n).bus = s.bus := by simp [State.outErr]
@[simp] theorem State.outErr_pins (s : State) (n : Nat) : (s.outErr n).pins = s.pins := by simp [State.outErr]
@[simp] theorem State.outErr_pending (s : State) (n : Nat) : (s.outErr n).pending = s.pending := by simp [State.outErr]
@[simp] theorem State.outErr_fresh (s : State) (n : Nat) : (s.outErr n).fresh = s.fresh := by simp [State.outErr]

/-! ### State.specErr -/

@[simp] theorem State.specErr_nv (s : State) (n : Nat) : (s.specErr n).nv = s.nv := by simp [State.specErr]
@[simp] theorem State.specErr_sys (s : State) (n : Nat) : (s.specErr n).sys = s.sys := by simp [State.specErr]
@[simp] theorem State.specErr_time (s : State) (n : Nat) : (s.specErr n).time = s.time := by simp [State.specErr]
@[simp] theorem State.specErr_sched (s : State) (n : Nat) : (s.specErr n).sched = s.sched := by simp [State.specErr]
@[simp] theorem State.specErr_halls (s : State) (n : Nat) : (s.specErr n).halls = s.halls := by simp [State.specErr]
@[simp] theorem State.specErr_gal (s : State) (n : Nat) : (s.specErr n).gal = s.gal := by simp [State.specErr]
@[simp] theorem State.specErr_eng (s : State) (n : Nat) : (s.specErr n).eng = s.eng := by simp [State.specErr]
@[simp] theorem State.specErr_voices (s : State) (n : Nat) : (s.specErr n).voices = s.voices := by simp [State.specErr]
@[simp] theorem State.specErr_mez (s : State) (n : Nat) : (s.specErr n).mez = s.mez := by simp [State.specErr]
@[simp] theorem State.specErr_out (s : State) (n : Nat) : (s.specErr n).out = s.out := by simp [State.specErr]
@[simp] theorem State.specErr_tdm (s : State) (n : Nat) : (s.specErr n).tdm = s.tdm := by simp [State.specErr]
@[simp] theorem State.specErr_dac (s : State) (n : Nat) : (s.specErr n).dac = s.dac := by simp [State.specErr]
@[simp] theorem State.specErr_mem (s : State) (n : Nat) : (s.specErr n).mem = s.mem := by simp [State.specErr]
@[simp] theorem State.specErr_foyer (s : State) (n : Nat) : (s.specErr n).foyer = s.foyer := by simp [State.specErr]
@[simp] theorem State.specErr_ser (s : State) (n : Nat) : (s.specErr n).ser = s.ser := by simp [State.specErr]
@[simp] theorem State.specErr_pwr (s : State) (n : Nat) : (s.specErr n).pwr = s.pwr := by simp [State.specErr]
@[simp] theorem State.specErr_fence (s : State) (n : Nat) : (s.specErr n).fence = s.fence := by simp [State.specErr]
@[simp] theorem State.specErr_mgmt (s : State) (n : Nat) : (s.specErr n).mgmt = s.mgmt := by simp [State.specErr]
@[simp] theorem State.specErr_bus (s : State) (n : Nat) : (s.specErr n).bus = s.bus := by simp [State.specErr]
@[simp] theorem State.specErr_pins (s : State) (n : Nat) : (s.specErr n).pins = s.pins := by simp [State.specErr]
@[simp] theorem State.specErr_pending (s : State) (n : Nat) : (s.specErr n).pending = s.pending := by simp [State.specErr]
@[simp] theorem State.specErr_fresh (s : State) (n : Nat) : (s.specErr n).fresh = s.fresh := by simp [State.specErr]

/-! ### State.portErr -/

@[simp] theorem State.portErr_nv (s : State) (p : Fin 2) (n : Nat) : (s.portErr p n).nv = s.nv := by simp [State.portErr]
@[simp] theorem State.portErr_sys (s : State) (p : Fin 2) (n : Nat) : (s.portErr p n).sys = s.sys := by simp [State.portErr]
@[simp] theorem State.portErr_time (s : State) (p : Fin 2) (n : Nat) : (s.portErr p n).time = s.time := by simp [State.portErr]
@[simp] theorem State.portErr_sched (s : State) (p : Fin 2) (n : Nat) : (s.portErr p n).sched = s.sched := by simp [State.portErr]
@[simp] theorem State.portErr_halls (s : State) (p : Fin 2) (n : Nat) : (s.portErr p n).halls = s.halls := by simp [State.portErr]
@[simp] theorem State.portErr_gal (s : State) (p : Fin 2) (n : Nat) : (s.portErr p n).gal = s.gal := by simp [State.portErr]
@[simp] theorem State.portErr_eng (s : State) (p : Fin 2) (n : Nat) : (s.portErr p n).eng = s.eng := by simp [State.portErr]
@[simp] theorem State.portErr_voices (s : State) (p : Fin 2) (n : Nat) : (s.portErr p n).voices = s.voices := by simp [State.portErr]
@[simp] theorem State.portErr_mez (s : State) (p : Fin 2) (n : Nat) : (s.portErr p n).mez = s.mez := by simp [State.portErr]
@[simp] theorem State.portErr_out (s : State) (p : Fin 2) (n : Nat) : (s.portErr p n).out = s.out := by simp [State.portErr]
@[simp] theorem State.portErr_tdm (s : State) (p : Fin 2) (n : Nat) : (s.portErr p n).tdm = s.tdm := by simp [State.portErr]
@[simp] theorem State.portErr_dac (s : State) (p : Fin 2) (n : Nat) : (s.portErr p n).dac = s.dac := by simp [State.portErr]
@[simp] theorem State.portErr_spec (s : State) (p : Fin 2) (n : Nat) : (s.portErr p n).spec = s.spec := by simp [State.portErr]
@[simp] theorem State.portErr_mem (s : State) (p : Fin 2) (n : Nat) : (s.portErr p n).mem = s.mem := by simp [State.portErr]
@[simp] theorem State.portErr_ser (s : State) (p : Fin 2) (n : Nat) : (s.portErr p n).ser = s.ser := by simp [State.portErr]
@[simp] theorem State.portErr_pwr (s : State) (p : Fin 2) (n : Nat) : (s.portErr p n).pwr = s.pwr := by simp [State.portErr]
@[simp] theorem State.portErr_fence (s : State) (p : Fin 2) (n : Nat) : (s.portErr p n).fence = s.fence := by simp [State.portErr]
@[simp] theorem State.portErr_mgmt (s : State) (p : Fin 2) (n : Nat) : (s.portErr p n).mgmt = s.mgmt := by simp [State.portErr]
@[simp] theorem State.portErr_bus (s : State) (p : Fin 2) (n : Nat) : (s.portErr p n).bus = s.bus := by simp [State.portErr]
@[simp] theorem State.portErr_pins (s : State) (p : Fin 2) (n : Nat) : (s.portErr p n).pins = s.pins := by simp [State.portErr]
@[simp] theorem State.portErr_pending (s : State) (p : Fin 2) (n : Nat) : (s.portErr p n).pending = s.pending := by simp [State.portErr]
@[simp] theorem State.portErr_fresh (s : State) (p : Fin 2) (n : Nat) : (s.portErr p n).fresh = s.fresh := by simp [State.portErr]

/-! ### State.serErr -/

@[simp] theorem State.serErr_nv (s : State) (n : Fin 4) (m : Nat) : (s.serErr n m).nv = s.nv := by simp [State.serErr]
@[simp] theorem State.serErr_sys (s : State) (n : Fin 4) (m : Nat) : (s.serErr n m).sys = s.sys := by simp [State.serErr]
@[simp] theorem State.serErr_time (s : State) (n : Fin 4) (m : Nat) : (s.serErr n m).time = s.time := by simp [State.serErr]
@[simp] theorem State.serErr_sched (s : State) (n : Fin 4) (m : Nat) : (s.serErr n m).sched = s.sched := by simp [State.serErr]
@[simp] theorem State.serErr_halls (s : State) (n : Fin 4) (m : Nat) : (s.serErr n m).halls = s.halls := by simp [State.serErr]
@[simp] theorem State.serErr_gal (s : State) (n : Fin 4) (m : Nat) : (s.serErr n m).gal = s.gal := by simp [State.serErr]
@[simp] theorem State.serErr_eng (s : State) (n : Fin 4) (m : Nat) : (s.serErr n m).eng = s.eng := by simp [State.serErr]
@[simp] theorem State.serErr_voices (s : State) (n : Fin 4) (m : Nat) : (s.serErr n m).voices = s.voices := by simp [State.serErr]
@[simp] theorem State.serErr_mez (s : State) (n : Fin 4) (m : Nat) : (s.serErr n m).mez = s.mez := by simp [State.serErr]
@[simp] theorem State.serErr_out (s : State) (n : Fin 4) (m : Nat) : (s.serErr n m).out = s.out := by simp [State.serErr]
@[simp] theorem State.serErr_tdm (s : State) (n : Fin 4) (m : Nat) : (s.serErr n m).tdm = s.tdm := by simp [State.serErr]
@[simp] theorem State.serErr_dac (s : State) (n : Fin 4) (m : Nat) : (s.serErr n m).dac = s.dac := by simp [State.serErr]
@[simp] theorem State.serErr_spec (s : State) (n : Fin 4) (m : Nat) : (s.serErr n m).spec = s.spec := by simp [State.serErr]
@[simp] theorem State.serErr_mem (s : State) (n : Fin 4) (m : Nat) : (s.serErr n m).mem = s.mem := by simp [State.serErr]
@[simp] theorem State.serErr_foyer (s : State) (n : Fin 4) (m : Nat) : (s.serErr n m).foyer = s.foyer := by simp [State.serErr]
@[simp] theorem State.serErr_pwr (s : State) (n : Fin 4) (m : Nat) : (s.serErr n m).pwr = s.pwr := by simp [State.serErr]
@[simp] theorem State.serErr_fence (s : State) (n : Fin 4) (m : Nat) : (s.serErr n m).fence = s.fence := by simp [State.serErr]
@[simp] theorem State.serErr_mgmt (s : State) (n : Fin 4) (m : Nat) : (s.serErr n m).mgmt = s.mgmt := by simp [State.serErr]
@[simp] theorem State.serErr_bus (s : State) (n : Fin 4) (m : Nat) : (s.serErr n m).bus = s.bus := by simp [State.serErr]
@[simp] theorem State.serErr_pins (s : State) (n : Fin 4) (m : Nat) : (s.serErr n m).pins = s.pins := by simp [State.serErr]
@[simp] theorem State.serErr_pending (s : State) (n : Fin 4) (m : Nat) : (s.serErr n m).pending = s.pending := by simp [State.serErr]
@[simp] theorem State.serErr_fresh (s : State) (n : Fin 4) (m : Nat) : (s.serErr n m).fresh = s.fresh := by simp [State.serErr]

/-- What an entry of the log changes. -/
theorem State.logAs_shape (s : State) (c : LogClass) (k : Nat) (h : Option Nat) (d : List Byte) :
    ∃ n m, s.logAs c k h d = { s with nv := n, mgmt := m } := by
  unfold State.logAs
  dsimp only [State.logVolatile, State.logFlash]
  split
  · exact ⟨_, _, rfl⟩
  · split <;> exact ⟨_, _, rfl⟩

/-! ### State.logVolatile -/

@[simp] theorem State.logVolatile_sys (s : State) (e : LogEnt) : (s.logVolatile e).sys = s.sys := rfl
@[simp] theorem State.logVolatile_time (s : State) (e : LogEnt) : (s.logVolatile e).time = s.time := rfl
@[simp] theorem State.logVolatile_sched (s : State) (e : LogEnt) : (s.logVolatile e).sched = s.sched := rfl
@[simp] theorem State.logVolatile_halls (s : State) (e : LogEnt) : (s.logVolatile e).halls = s.halls := rfl
@[simp] theorem State.logVolatile_gal (s : State) (e : LogEnt) : (s.logVolatile e).gal = s.gal := rfl
@[simp] theorem State.logVolatile_eng (s : State) (e : LogEnt) : (s.logVolatile e).eng = s.eng := rfl
@[simp] theorem State.logVolatile_voices (s : State) (e : LogEnt) : (s.logVolatile e).voices = s.voices := rfl
@[simp] theorem State.logVolatile_mez (s : State) (e : LogEnt) : (s.logVolatile e).mez = s.mez := rfl
@[simp] theorem State.logVolatile_out (s : State) (e : LogEnt) : (s.logVolatile e).out = s.out := rfl
@[simp] theorem State.logVolatile_tdm (s : State) (e : LogEnt) : (s.logVolatile e).tdm = s.tdm := rfl
@[simp] theorem State.logVolatile_dac (s : State) (e : LogEnt) : (s.logVolatile e).dac = s.dac := rfl
@[simp] theorem State.logVolatile_spec (s : State) (e : LogEnt) : (s.logVolatile e).spec = s.spec := rfl
@[simp] theorem State.logVolatile_mem (s : State) (e : LogEnt) : (s.logVolatile e).mem = s.mem := rfl
@[simp] theorem State.logVolatile_foyer (s : State) (e : LogEnt) : (s.logVolatile e).foyer = s.foyer := rfl
@[simp] theorem State.logVolatile_ser (s : State) (e : LogEnt) : (s.logVolatile e).ser = s.ser := rfl
@[simp] theorem State.logVolatile_irqf (s : State) (e : LogEnt) : (s.logVolatile e).irqf = s.irqf := rfl
@[simp] theorem State.logVolatile_pwr (s : State) (e : LogEnt) : (s.logVolatile e).pwr = s.pwr := rfl
@[simp] theorem State.logVolatile_fence (s : State) (e : LogEnt) : (s.logVolatile e).fence = s.fence := rfl
@[simp] theorem State.logVolatile_bus (s : State) (e : LogEnt) : (s.logVolatile e).bus = s.bus := rfl
@[simp] theorem State.logVolatile_pins (s : State) (e : LogEnt) : (s.logVolatile e).pins = s.pins := rfl
@[simp] theorem State.logVolatile_pending (s : State) (e : LogEnt) : (s.logVolatile e).pending = s.pending := rfl
@[simp] theorem State.logVolatile_fresh (s : State) (e : LogEnt) : (s.logVolatile e).fresh = s.fresh := rfl

/-! ### State.logFlash -/

@[simp] theorem State.logFlash_sys (s : State) (e : LogEnt) : (s.logFlash e).sys = s.sys := rfl
@[simp] theorem State.logFlash_time (s : State) (e : LogEnt) : (s.logFlash e).time = s.time := rfl
@[simp] theorem State.logFlash_sched (s : State) (e : LogEnt) : (s.logFlash e).sched = s.sched := rfl
@[simp] theorem State.logFlash_halls (s : State) (e : LogEnt) : (s.logFlash e).halls = s.halls := rfl
@[simp] theorem State.logFlash_gal (s : State) (e : LogEnt) : (s.logFlash e).gal = s.gal := rfl
@[simp] theorem State.logFlash_eng (s : State) (e : LogEnt) : (s.logFlash e).eng = s.eng := rfl
@[simp] theorem State.logFlash_voices (s : State) (e : LogEnt) : (s.logFlash e).voices = s.voices := rfl
@[simp] theorem State.logFlash_mez (s : State) (e : LogEnt) : (s.logFlash e).mez = s.mez := rfl
@[simp] theorem State.logFlash_out (s : State) (e : LogEnt) : (s.logFlash e).out = s.out := rfl
@[simp] theorem State.logFlash_tdm (s : State) (e : LogEnt) : (s.logFlash e).tdm = s.tdm := rfl
@[simp] theorem State.logFlash_dac (s : State) (e : LogEnt) : (s.logFlash e).dac = s.dac := rfl
@[simp] theorem State.logFlash_spec (s : State) (e : LogEnt) : (s.logFlash e).spec = s.spec := rfl
@[simp] theorem State.logFlash_mem (s : State) (e : LogEnt) : (s.logFlash e).mem = s.mem := rfl
@[simp] theorem State.logFlash_foyer (s : State) (e : LogEnt) : (s.logFlash e).foyer = s.foyer := rfl
@[simp] theorem State.logFlash_ser (s : State) (e : LogEnt) : (s.logFlash e).ser = s.ser := rfl
@[simp] theorem State.logFlash_irqf (s : State) (e : LogEnt) : (s.logFlash e).irqf = s.irqf := rfl
@[simp] theorem State.logFlash_pwr (s : State) (e : LogEnt) : (s.logFlash e).pwr = s.pwr := rfl
@[simp] theorem State.logFlash_fence (s : State) (e : LogEnt) : (s.logFlash e).fence = s.fence := rfl
@[simp] theorem State.logFlash_mgmt (s : State) (e : LogEnt) : (s.logFlash e).mgmt = s.mgmt := rfl
@[simp] theorem State.logFlash_bus (s : State) (e : LogEnt) : (s.logFlash e).bus = s.bus := rfl
@[simp] theorem State.logFlash_pins (s : State) (e : LogEnt) : (s.logFlash e).pins = s.pins := rfl
@[simp] theorem State.logFlash_pending (s : State) (e : LogEnt) : (s.logFlash e).pending = s.pending := rfl
@[simp] theorem State.logFlash_fresh (s : State) (e : LogEnt) : (s.logFlash e).fresh = s.fresh := rfl

/-! ### State.logAs -/

@[simp] theorem State.logAs_sys (s : State) (c : LogClass) (k : Nat) (h : Option Nat) (d : List Byte) : (s.logAs c k h d).sys = s.sys := by obtain ⟨_, _, e⟩ := s.logAs_shape c k h d; rw [e]
@[simp] theorem State.logAs_time (s : State) (c : LogClass) (k : Nat) (h : Option Nat) (d : List Byte) : (s.logAs c k h d).time = s.time := by obtain ⟨_, _, e⟩ := s.logAs_shape c k h d; rw [e]
@[simp] theorem State.logAs_sched (s : State) (c : LogClass) (k : Nat) (h : Option Nat) (d : List Byte) : (s.logAs c k h d).sched = s.sched := by obtain ⟨_, _, e⟩ := s.logAs_shape c k h d; rw [e]
@[simp] theorem State.logAs_halls (s : State) (c : LogClass) (k : Nat) (h : Option Nat) (d : List Byte) : (s.logAs c k h d).halls = s.halls := by obtain ⟨_, _, e⟩ := s.logAs_shape c k h d; rw [e]
@[simp] theorem State.logAs_gal (s : State) (c : LogClass) (k : Nat) (h : Option Nat) (d : List Byte) : (s.logAs c k h d).gal = s.gal := by obtain ⟨_, _, e⟩ := s.logAs_shape c k h d; rw [e]
@[simp] theorem State.logAs_eng (s : State) (c : LogClass) (k : Nat) (h : Option Nat) (d : List Byte) : (s.logAs c k h d).eng = s.eng := by obtain ⟨_, _, e⟩ := s.logAs_shape c k h d; rw [e]
@[simp] theorem State.logAs_voices (s : State) (c : LogClass) (k : Nat) (h : Option Nat) (d : List Byte) : (s.logAs c k h d).voices = s.voices := by obtain ⟨_, _, e⟩ := s.logAs_shape c k h d; rw [e]
@[simp] theorem State.logAs_mez (s : State) (c : LogClass) (k : Nat) (h : Option Nat) (d : List Byte) : (s.logAs c k h d).mez = s.mez := by obtain ⟨_, _, e⟩ := s.logAs_shape c k h d; rw [e]
@[simp] theorem State.logAs_out (s : State) (c : LogClass) (k : Nat) (h : Option Nat) (d : List Byte) : (s.logAs c k h d).out = s.out := by obtain ⟨_, _, e⟩ := s.logAs_shape c k h d; rw [e]
@[simp] theorem State.logAs_tdm (s : State) (c : LogClass) (k : Nat) (h : Option Nat) (d : List Byte) : (s.logAs c k h d).tdm = s.tdm := by obtain ⟨_, _, e⟩ := s.logAs_shape c k h d; rw [e]
@[simp] theorem State.logAs_dac (s : State) (c : LogClass) (k : Nat) (h : Option Nat) (d : List Byte) : (s.logAs c k h d).dac = s.dac := by obtain ⟨_, _, e⟩ := s.logAs_shape c k h d; rw [e]
@[simp] theorem State.logAs_spec (s : State) (c : LogClass) (k : Nat) (h : Option Nat) (d : List Byte) : (s.logAs c k h d).spec = s.spec := by obtain ⟨_, _, e⟩ := s.logAs_shape c k h d; rw [e]
@[simp] theorem State.logAs_mem (s : State) (c : LogClass) (k : Nat) (h : Option Nat) (d : List Byte) : (s.logAs c k h d).mem = s.mem := by obtain ⟨_, _, e⟩ := s.logAs_shape c k h d; rw [e]
@[simp] theorem State.logAs_foyer (s : State) (c : LogClass) (k : Nat) (h : Option Nat) (d : List Byte) : (s.logAs c k h d).foyer = s.foyer := by obtain ⟨_, _, e⟩ := s.logAs_shape c k h d; rw [e]
@[simp] theorem State.logAs_ser (s : State) (c : LogClass) (k : Nat) (h : Option Nat) (d : List Byte) : (s.logAs c k h d).ser = s.ser := by obtain ⟨_, _, e⟩ := s.logAs_shape c k h d; rw [e]
@[simp] theorem State.logAs_irqf (s : State) (c : LogClass) (k : Nat) (h : Option Nat) (d : List Byte) : (s.logAs c k h d).irqf = s.irqf := by obtain ⟨_, _, e⟩ := s.logAs_shape c k h d; rw [e]
@[simp] theorem State.logAs_pwr (s : State) (c : LogClass) (k : Nat) (h : Option Nat) (d : List Byte) : (s.logAs c k h d).pwr = s.pwr := by obtain ⟨_, _, e⟩ := s.logAs_shape c k h d; rw [e]
@[simp] theorem State.logAs_fence (s : State) (c : LogClass) (k : Nat) (h : Option Nat) (d : List Byte) : (s.logAs c k h d).fence = s.fence := by obtain ⟨_, _, e⟩ := s.logAs_shape c k h d; rw [e]
@[simp] theorem State.logAs_bus (s : State) (c : LogClass) (k : Nat) (h : Option Nat) (d : List Byte) : (s.logAs c k h d).bus = s.bus := by obtain ⟨_, _, e⟩ := s.logAs_shape c k h d; rw [e]
@[simp] theorem State.logAs_pins (s : State) (c : LogClass) (k : Nat) (h : Option Nat) (d : List Byte) : (s.logAs c k h d).pins = s.pins := by obtain ⟨_, _, e⟩ := s.logAs_shape c k h d; rw [e]
@[simp] theorem State.logAs_pending (s : State) (c : LogClass) (k : Nat) (h : Option Nat) (d : List Byte) : (s.logAs c k h d).pending = s.pending := by obtain ⟨_, _, e⟩ := s.logAs_shape c k h d; rw [e]
@[simp] theorem State.logAs_fresh (s : State) (c : LogClass) (k : Nat) (h : Option Nat) (d : List Byte) : (s.logAs c k h d).fresh = s.fresh := by obtain ⟨_, _, e⟩ := s.logAs_shape c k h d; rw [e]

/-! ### State.log -/

@[simp] theorem State.log_sys (s : State) (k : Nat) (h : Option Nat) (d : List Byte) : (s.log k h d).sys = s.sys := State.logAs_sys ..
@[simp] theorem State.log_time (s : State) (k : Nat) (h : Option Nat) (d : List Byte) : (s.log k h d).time = s.time := State.logAs_time ..
@[simp] theorem State.log_sched (s : State) (k : Nat) (h : Option Nat) (d : List Byte) : (s.log k h d).sched = s.sched := State.logAs_sched ..
@[simp] theorem State.log_halls (s : State) (k : Nat) (h : Option Nat) (d : List Byte) : (s.log k h d).halls = s.halls := State.logAs_halls ..
@[simp] theorem State.log_gal (s : State) (k : Nat) (h : Option Nat) (d : List Byte) : (s.log k h d).gal = s.gal := State.logAs_gal ..
@[simp] theorem State.log_eng (s : State) (k : Nat) (h : Option Nat) (d : List Byte) : (s.log k h d).eng = s.eng := State.logAs_eng ..
@[simp] theorem State.log_voices (s : State) (k : Nat) (h : Option Nat) (d : List Byte) : (s.log k h d).voices = s.voices := State.logAs_voices ..
@[simp] theorem State.log_mez (s : State) (k : Nat) (h : Option Nat) (d : List Byte) : (s.log k h d).mez = s.mez := State.logAs_mez ..
@[simp] theorem State.log_out (s : State) (k : Nat) (h : Option Nat) (d : List Byte) : (s.log k h d).out = s.out := State.logAs_out ..
@[simp] theorem State.log_tdm (s : State) (k : Nat) (h : Option Nat) (d : List Byte) : (s.log k h d).tdm = s.tdm := State.logAs_tdm ..
@[simp] theorem State.log_dac (s : State) (k : Nat) (h : Option Nat) (d : List Byte) : (s.log k h d).dac = s.dac := State.logAs_dac ..
@[simp] theorem State.log_spec (s : State) (k : Nat) (h : Option Nat) (d : List Byte) : (s.log k h d).spec = s.spec := State.logAs_spec ..
@[simp] theorem State.log_mem (s : State) (k : Nat) (h : Option Nat) (d : List Byte) : (s.log k h d).mem = s.mem := State.logAs_mem ..
@[simp] theorem State.log_foyer (s : State) (k : Nat) (h : Option Nat) (d : List Byte) : (s.log k h d).foyer = s.foyer := State.logAs_foyer ..
@[simp] theorem State.log_ser (s : State) (k : Nat) (h : Option Nat) (d : List Byte) : (s.log k h d).ser = s.ser := State.logAs_ser ..
@[simp] theorem State.log_irqf (s : State) (k : Nat) (h : Option Nat) (d : List Byte) : (s.log k h d).irqf = s.irqf := State.logAs_irqf ..
@[simp] theorem State.log_pwr (s : State) (k : Nat) (h : Option Nat) (d : List Byte) : (s.log k h d).pwr = s.pwr := State.logAs_pwr ..
@[simp] theorem State.log_fence (s : State) (k : Nat) (h : Option Nat) (d : List Byte) : (s.log k h d).fence = s.fence := State.logAs_fence ..
@[simp] theorem State.log_bus (s : State) (k : Nat) (h : Option Nat) (d : List Byte) : (s.log k h d).bus = s.bus := State.logAs_bus ..
@[simp] theorem State.log_pins (s : State) (k : Nat) (h : Option Nat) (d : List Byte) : (s.log k h d).pins = s.pins := State.logAs_pins ..
@[simp] theorem State.log_pending (s : State) (k : Nat) (h : Option Nat) (d : List Byte) : (s.log k h d).pending = s.pending := State.logAs_pending ..
@[simp] theorem State.log_fresh (s : State) (k : Nat) (h : Option Nat) (d : List Byte) : (s.log k h d).fresh = s.fresh := State.logAs_fresh ..

/-! ### State.fenceAdd -/

@[simp] theorem State.fenceAdd_sys (s : State) (k c i h : Nat) : (s.fenceAdd k c i h).sys = s.sys := by simp [State.fenceAdd]
@[simp] theorem State.fenceAdd_time (s : State) (k c i h : Nat) : (s.fenceAdd k c i h).time = s.time := by simp [State.fenceAdd]
@[simp] theorem State.fenceAdd_sched (s : State) (k c i h : Nat) : (s.fenceAdd k c i h).sched = s.sched := by simp [State.fenceAdd]
@[simp] theorem State.fenceAdd_halls (s : State) (k c i h : Nat) : (s.fenceAdd k c i h).halls = s.halls := by simp [State.fenceAdd]
@[simp] theorem State.fenceAdd_gal (s : State) (k c i h : Nat) : (s.fenceAdd k c i h).gal = s.gal := by simp [State.fenceAdd]
@[simp] theorem State.fenceAdd_eng (s : State) (k c i h : Nat) : (s.fenceAdd k c i h).eng = s.eng := by simp [State.fenceAdd]
@[simp] theorem State.fenceAdd_voices (s : State) (k c i h : Nat) : (s.fenceAdd k c i h).voices = s.voices := by simp [State.fenceAdd]
@[simp] theorem State.fenceAdd_mez (s : State) (k c i h : Nat) : (s.fenceAdd k c i h).mez = s.mez := by simp [State.fenceAdd]
@[simp] theorem State.fenceAdd_out (s : State) (k c i h : Nat) : (s.fenceAdd k c i h).out = s.out := by simp [State.fenceAdd]
@[simp] theorem State.fenceAdd_tdm (s : State) (k c i h : Nat) : (s.fenceAdd k c i h).tdm = s.tdm := by simp [State.fenceAdd]
@[simp] theorem State.fenceAdd_dac (s : State) (k c i h : Nat) : (s.fenceAdd k c i h).dac = s.dac := by simp [State.fenceAdd]
@[simp] theorem State.fenceAdd_spec (s : State) (k c i h : Nat) : (s.fenceAdd k c i h).spec = s.spec := by simp [State.fenceAdd]
@[simp] theorem State.fenceAdd_mem (s : State) (k c i h : Nat) : (s.fenceAdd k c i h).mem = s.mem := by simp [State.fenceAdd]
@[simp] theorem State.fenceAdd_foyer (s : State) (k c i h : Nat) : (s.fenceAdd k c i h).foyer = s.foyer := by simp [State.fenceAdd]
@[simp] theorem State.fenceAdd_ser (s : State) (k c i h : Nat) : (s.fenceAdd k c i h).ser = s.ser := by simp [State.fenceAdd]
@[simp] theorem State.fenceAdd_pwr (s : State) (k c i h : Nat) : (s.fenceAdd k c i h).pwr = s.pwr := by simp [State.fenceAdd]
@[simp] theorem State.fenceAdd_bus (s : State) (k c i h : Nat) : (s.fenceAdd k c i h).bus = s.bus := by simp [State.fenceAdd]
@[simp] theorem State.fenceAdd_pins (s : State) (k c i h : Nat) : (s.fenceAdd k c i h).pins = s.pins := by simp [State.fenceAdd]
@[simp] theorem State.fenceAdd_pending (s : State) (k c i h : Nat) : (s.fenceAdd k c i h).pending = s.pending := by simp [State.fenceAdd]
@[simp] theorem State.fenceAdd_fresh (s : State) (k c i h : Nat) : (s.fenceAdd k c i h).fresh = s.fresh := by simp [State.fenceAdd]

/-! ### State.fenceLift -/

@[simp] theorem State.fenceLift_sys (s : State) (k i : Nat) : (s.fenceLift k i).sys = s.sys := by unfold State.fenceLift; split <;> simp
@[simp] theorem State.fenceLift_time (s : State) (k i : Nat) : (s.fenceLift k i).time = s.time := by unfold State.fenceLift; split <;> simp
@[simp] theorem State.fenceLift_sched (s : State) (k i : Nat) : (s.fenceLift k i).sched = s.sched := by unfold State.fenceLift; split <;> simp
@[simp] theorem State.fenceLift_halls (s : State) (k i : Nat) : (s.fenceLift k i).halls = s.halls := by unfold State.fenceLift; split <;> simp
@[simp] theorem State.fenceLift_gal (s : State) (k i : Nat) : (s.fenceLift k i).gal = s.gal := by unfold State.fenceLift; split <;> simp
@[simp] theorem State.fenceLift_eng (s : State) (k i : Nat) : (s.fenceLift k i).eng = s.eng := by unfold State.fenceLift; split <;> simp
@[simp] theorem State.fenceLift_voices (s : State) (k i : Nat) : (s.fenceLift k i).voices = s.voices := by unfold State.fenceLift; split <;> simp
@[simp] theorem State.fenceLift_mez (s : State) (k i : Nat) : (s.fenceLift k i).mez = s.mez := by unfold State.fenceLift; split <;> simp
@[simp] theorem State.fenceLift_out (s : State) (k i : Nat) : (s.fenceLift k i).out = s.out := by unfold State.fenceLift; split <;> simp
@[simp] theorem State.fenceLift_tdm (s : State) (k i : Nat) : (s.fenceLift k i).tdm = s.tdm := by unfold State.fenceLift; split <;> simp
@[simp] theorem State.fenceLift_dac (s : State) (k i : Nat) : (s.fenceLift k i).dac = s.dac := by unfold State.fenceLift; split <;> simp
@[simp] theorem State.fenceLift_spec (s : State) (k i : Nat) : (s.fenceLift k i).spec = s.spec := by unfold State.fenceLift; split <;> simp
@[simp] theorem State.fenceLift_mem (s : State) (k i : Nat) : (s.fenceLift k i).mem = s.mem := by unfold State.fenceLift; split <;> simp
@[simp] theorem State.fenceLift_foyer (s : State) (k i : Nat) : (s.fenceLift k i).foyer = s.foyer := by unfold State.fenceLift; split <;> simp
@[simp] theorem State.fenceLift_ser (s : State) (k i : Nat) : (s.fenceLift k i).ser = s.ser := by unfold State.fenceLift; split <;> simp
@[simp] theorem State.fenceLift_irqf (s : State) (k i : Nat) : (s.fenceLift k i).irqf = s.irqf := by unfold State.fenceLift; split <;> simp
@[simp] theorem State.fenceLift_pwr (s : State) (k i : Nat) : (s.fenceLift k i).pwr = s.pwr := by unfold State.fenceLift; split <;> simp
@[simp] theorem State.fenceLift_bus (s : State) (k i : Nat) : (s.fenceLift k i).bus = s.bus := by unfold State.fenceLift; split <;> simp
@[simp] theorem State.fenceLift_pins (s : State) (k i : Nat) : (s.fenceLift k i).pins = s.pins := by unfold State.fenceLift; split <;> simp
@[simp] theorem State.fenceLift_pending (s : State) (k i : Nat) : (s.fenceLift k i).pending = s.pending := by unfold State.fenceLift; split <;> simp
@[simp] theorem State.fenceLift_fresh (s : State) (k i : Nat) : (s.fenceLift k i).fresh = s.fresh := by unfold State.fenceLift; split <;> simp

end Sys2Proof.Machine
end

