-- ==== Sys2Proof/Laws/Keeps.lean ====
section
/-! SUPPORT. What no operation of the block breaks, whatever else it does, as one relation between the state before and the state
after, and how the relation passes through conditions, loops and updates. -/

namespace Sys2Proof.Machine

/-- What flash and fuses keep: the unit's identity and grade, the rollback fuses (they only rise, to 64 at most), the stage of the
life cycle, the pages retired. -/
structure NvKeeps (v w : Nv) : Prop where
  uid : w.uid = v.uid
  grade : w.a16 = v.a16
  fuses : v.fuses ≤ 64 → v.fuses ≤ w.fuses ∧ w.fuses ≤ 64
  life : v.life.stage ≤ w.life.stage
  retired : ∀ p, p ∈ v.retired → p ∈ w.retired

/-- What every operation keeps: the queue as it is, the memories canonical, what flash and fuses keep, and free values once used
never used again. -/
structure Keeps (s t : State) : Prop where
  queue : t.pending = s.pending
  sram : s.foyer.sram.wf = true → t.foyer.sram.wf = true
  mem : s.mem.wf = true → t.mem.wf = true
  nv : NvKeeps s.nv t.nv
  fresh : s.fresh ≤ t.fresh

theorem NvKeeps.refl (v : Nv) : NvKeeps v v := ⟨rfl, rfl, fun h => ⟨Nat.le_refl _, h⟩, Nat.le_refl _, fun _ h => h⟩

theorem NvKeeps.trans {u v w : Nv} (h : NvKeeps u v) (k : NvKeeps v w) : NvKeeps u w :=
  ⟨k.uid.trans h.uid, k.grade.trans h.grade,
   fun hf => ⟨Nat.le_trans (h.fuses hf).1 (k.fuses (h.fuses hf).2).1, (k.fuses (h.fuses hf).2).2⟩,
   Nat.le_trans h.life k.life, fun p hp => k.retired p (h.retired p hp)⟩

/-- A change of flash that touches none of what is kept. -/
theorem NvKeeps.of {v w : Nv} (hu : w.uid = v.uid) (hg : w.a16 = v.a16) (hf : w.fuses = v.fuses) (hl : w.life = v.life)
    (hr : w.retired = v.retired) : NvKeeps v w :=
  ⟨hu, hg, fun h => ⟨Nat.le_of_eq hf.symm, hf.symm ▸ h⟩, Nat.le_of_eq (hl ▸ rfl), fun _ h => hr.symm ▸ h⟩

theorem Keeps.refl (s : State) : Keeps s s := ⟨rfl, fun h => h, fun h => h, NvKeeps.refl _, Nat.le_refl _⟩

theorem Keeps.trans {s t u : State} (h : Keeps s t) (k : Keeps t u) : Keeps s u :=
  ⟨k.queue.trans h.queue, fun x => k.sram (h.sram x), fun x => k.mem (h.mem x), h.nv.trans k.nv, Nat.le_trans h.fresh k.fresh⟩

/-- A state written out from another. -/
theorem Keeps.upd {s0 s : State} {nv sys time sched halls gal eng voices mez out tdm dac spec mem foyer ser irqf pwr fence mgmt bus
    pins pending fresh} (h : Keeps s0 s) (hq : pending = s.pending) (hn : NvKeeps s.nv nv)
    (hs : s.foyer.sram.wf = true → foyer.sram.wf = true) (hm : s.mem.wf = true → mem.wf = true) (hf : s.fresh ≤ fresh) :
    Keeps s0 (State.mk nv sys time sched halls gal eng voices mez out tdm dac spec mem foyer ser irqf pwr fence mgmt bus pins
      pending fresh) := h.trans ⟨hq, hs, hm, hn, hf⟩

theorem Keeps.ite {s0 a b : State} {c : Prop} [Decidable c] (ha : c → Keeps s0 a) (hb : ¬ c → Keeps s0 b) :
    Keeps s0 (if c then a else b) := by split <;> simp_all

theorem Keeps.iteFst {α : Type} {s0 : State} {a b : State × α} {c : Prop} [Decidable c] (ha : c → Keeps s0 a.1)
    (hb : ¬ c → Keeps s0 b.1) : Keeps s0 (if c then a else b).1 := by split <;> simp_all

/-- The state that a command's result holds. -/
def Res.st : Res → State
  | .done s _ _ => s
  | .wait s _ => s

theorem Keeps.done {s0 s : State} {st : Nat} {data : List Byte} (h : Keeps s0 s) : Keeps s0 (Res.done s st data).st := h

theorem Keeps.wait {s0 s : State} {what : WaitFor} (h : Keeps s0 s) : Keeps s0 (Res.wait s what).st := h

theorem Keeps.pair {α : Type} {s0 s : State} {a : α} (h : Keeps s0 s) : Keeps s0 (s, a).1 := h

theorem Keeps.iteSnd {α : Type} {s0 : State} {a b : α × State} {c : Prop} [Decidable c] (ha : c → Keeps s0 a.2)
    (hb : ¬ c → Keeps s0 b.2) : Keeps s0 (if c then a else b).2 := by split <;> simp_all

theorem Keeps.iteRes {s0 : State} {a b : Res} {c : Prop} [Decidable c] (ha : c → Keeps s0 a.st) (hb : ¬ c → Keeps s0 b.st) :
    Keeps s0 (if c then a else b).st := by split <;> simp_all

theorem Keeps.foldl {β : Type} {s0 s : State} {f : State → β → State} {l : List β}
    (hf : ∀ t b, Keeps s0 t → Keeps s0 (f t b)) (h : Keeps s0 s) : Keeps s0 (l.foldl f s) := by
  induction l generalizing s with
  | nil => exact h
  | cons b l ih => exact ih (hf s b h)

theorem Keeps.foldlFst {α β : Type} {s0 : State} {x : State × α} {f : State × α → β → State × α} {l : List β}
    (hf : ∀ t b, Keeps s0 t.1 → Keeps s0 (f t b).1) (h : Keeps s0 x.1) : Keeps s0 (l.foldl f x).1 := by
  induction l generalizing x with
  | nil => exact h
  | cons b l ih => exact ih (hf x b h)

/-- A state that a pair named. -/
theorem Keeps.ofPair {α : Type} {s0 a : State} {r : State × α} {b : α} (e : r = (a, b)) (h : Keeps s0 r.1) : Keeps s0 a := by
  subst e; exact h

theorem Keeps.ofSome {s0 a : State} {r : Option State} (e : r = some a) (h : ∀ t, r = some t → Keeps s0 t) : Keeps s0 a := h a e

theorem Keeps.ofSomePair {α : Type} {s0 a : State} {r : Option (State × α)} {b : α} (e : r = some (a, b))
    (h : ∀ t, r = some t → Keeps s0 t.1) : Keeps s0 a := h (a, b) e

end Sys2Proof.Machine
end

