-- ==== Sys2Proof/Laws/KeepsFlags.lean ====
section
/-! SUPPORT. What the operations of Machine/Flags.lean keep (Laws/Keeps.lean). -/

namespace Sys2Proof.Machine

theorem State.raise_keeps {s0 s : State} (n : Nat) (h : Keeps s0 s) :
    Keeps s0 (State.raise s n) := by
  unfold State.raise
  refine Keeps.upd ?_ rfl ?_ ?_ ?_ ?_
  with_reducible assumption
  exact NvKeeps.refl _
  exact fun w => w
  exact fun w => w
  exact Nat.le_refl _

theorem State.raiseIf_keeps {s0 s : State} (b : Bool) (n : Nat) (h : Keeps s0 s) :
    Keeps s0 (State.raiseIf s b n) := by
  unfold State.raiseIf
  refine Keeps.ite (fun _ => ?_) (fun _ => ?_)
  apply State.raise_keeps
  with_reducible assumption
  with_reducible assumption

theorem State.sysErr_keeps {s0 s : State} (n : Nat) (addr : Word) (h : Keeps s0 s) :
    Keeps s0 (State.sysErr s n addr) := by
  unfold State.sysErr
  dsimp only
  apply State.raiseIf_keeps
  refine Keeps.upd ?_ rfl ?_ ?_ ?_ ?_
  with_reducible assumption
  exact NvKeeps.refl _
  exact fun w => w
  exact fun w => w
  exact Nat.le_refl _

theorem State.timeErr_keeps {s0 s : State} (n : Nat) (h : Keeps s0 s) :
    Keeps s0 (State.timeErr s n) := by
  unfold State.timeErr
  dsimp only
  apply State.raiseIf_keeps
  refine Keeps.upd ?_ rfl ?_ ?_ ?_ ?_
  with_reducible assumption
  exact NvKeeps.refl _
  exact fun w => w
  exact fun w => w
  exact Nat.le_refl _

theorem State.guar_keeps {s0 s : State} (n : Nat) (h : Keeps s0 s) :
    Keeps s0 (State.guar s n) := by
  unfold State.guar
  apply State.raiseIf_keeps
  refine Keeps.upd ?_ rfl ?_ ?_ ?_ ?_
  with_reducible assumption
  exact NvKeeps.refl _
  exact fun w => w
  exact fun w => w
  exact Nat.le_refl _

theorem State.dacErr_keeps {s0 s : State} (n : Nat) (h : Keeps s0 s) :
    Keeps s0 (State.dacErr s n) := by
  unfold State.dacErr
  dsimp only
  apply State.raiseIf_keeps
  refine Keeps.upd ?_ rfl ?_ ?_ ?_ ?_
  with_reducible assumption
  exact NvKeeps.refl _
  exact fun w => w
  exact fun w => w
  exact Nat.le_refl _

theorem State.tdmErr_keeps {s0 s : State} (n : Nat) (h : Keeps s0 s) :
    Keeps s0 (State.tdmErr s n) := by
  unfold State.tdmErr
  dsimp only
  apply State.raiseIf_keeps
  refine Keeps.upd ?_ rfl ?_ ?_ ?_ ?_
  with_reducible assumption
  exact NvKeeps.refl _
  exact fun w => w
  exact fun w => w
  exact Nat.le_refl _

theorem State.outErr_keeps {s0 s : State} (n : Nat) (h : Keeps s0 s) :
    Keeps s0 (State.outErr s n) := by
  unfold State.outErr
  apply State.raiseIf_keeps
  refine Keeps.upd ?_ rfl ?_ ?_ ?_ ?_
  with_reducible assumption
  exact NvKeeps.refl _
  exact fun w => w
  exact fun w => w
  exact Nat.le_refl _

theorem State.specErr_keeps {s0 s : State} (n : Nat) (h : Keeps s0 s) :
    Keeps s0 (State.specErr s n) := by
  unfold State.specErr
  dsimp only
  apply State.raiseIf_keeps
  refine Keeps.upd ?_ rfl ?_ ?_ ?_ ?_
  with_reducible assumption
  exact NvKeeps.refl _
  exact fun w => w
  exact fun w => w
  exact Nat.le_refl _

theorem State.pwrErr_keeps {s0 s : State} (n : Nat) (h : Keeps s0 s) :
    Keeps s0 (State.pwrErr s n) := by
  unfold State.pwrErr
  refine Keeps.upd ?_ rfl ?_ ?_ ?_ ?_
  with_reducible assumption
  exact NvKeeps.refl _
  exact fun w => w
  exact fun w => w
  exact Nat.le_refl _

theorem State.portErr_keeps {s0 s : State} (p : Fin 2) (n : Nat) (h : Keeps s0 s) :
    Keeps s0 (State.portErr s p n) := by
  unfold State.portErr
  dsimp only
  apply State.raiseIf_keeps
  refine Keeps.upd ?_ rfl ?_ ?_ ?_ ?_
  with_reducible assumption
  exact NvKeeps.refl _
  exact fun w => w
  exact fun w => w
  exact Nat.le_refl _

theorem State.serErr_keeps {s0 s : State} (n : Fin 4) (mask : Nat) (h : Keeps s0 s) :
    Keeps s0 (State.serErr s n mask) := by
  unfold State.serErr
  dsimp only
  apply State.raiseIf_keeps
  refine Keeps.upd ?_ rfl ?_ ?_ ?_ ?_
  with_reducible assumption
  exact NvKeeps.refl _
  exact fun w => w
  exact fun w => w
  exact Nat.le_refl _

theorem State.memRaise_keeps {s0 s : State} (e : MemEvents) (h : Keeps s0 s) :
    Keeps s0 (State.memRaise s e) := by
  unfold State.memRaise
  refine Keeps.upd ?_ rfl ?_ ?_ ?_ ?_
  with_reducible assumption
  exact NvKeeps.refl _
  exact fun w => w
  exact fun w => w
  exact Nat.le_refl _

end Sys2Proof.Machine
end

