-- ==== Sys2Proof/Laws/KeepsOps.lean ====
section
/-! SUPPORT. What the operations of Machine/Ops.lean keep (Laws/Keeps.lean). -/

namespace Sys2Proof.Machine

theorem State.updHall_keeps {s0 s : State} (h' : Fin 8) (f : Hall → Hall) (h : Keeps s0 s) :
    Keeps s0 (State.updHall s h' f) := by
  unfold State.updHall
  refine Keeps.upd ?_ rfl ?_ ?_ ?_ ?_
  with_reducible assumption
  exact NvKeeps.refl _
  exact fun w => w
  exact fun w => w
  exact Nat.le_refl _

theorem State.updRing_keeps {s0 s : State} (h' : Fin 8) (f : Ring → Ring) (h : Keeps s0 s) :
    Keeps s0 (State.updRing s h' f) := by
  unfold State.updRing
  apply State.updHall_keeps
  with_reducible assumption

theorem State.updPort_keeps {s0 s : State} (p : Fin 2) (f : Port → Port) (h : Keeps s0 s) :
    Keeps s0 (State.updPort s p f) := by
  unfold State.updPort
  refine Keeps.upd ?_ rfl ?_ ?_ ?_ ?_
  with_reducible assumption
  exact NvKeeps.refl _
  exact fun w => w
  exact fun w => w
  exact Nat.le_refl _

theorem State.updSer_keeps {s0 s : State} (n : Fin 4) (f : Ser → Ser) (h : Keeps s0 s) :
    Keeps s0 (State.updSer s n f) := by
  unfold State.updSer
  refine Keeps.upd ?_ rfl ?_ ?_ ?_ ?_
  with_reducible assumption
  exact NvKeeps.refl _
  exact fun w => w
  exact fun w => w
  exact Nat.le_refl _

theorem State.updEng_keeps {s0 s : State} (e : Fin 64) (f : Engine → Engine) (h : Keeps s0 s) :
    Keeps s0 (State.updEng s e f) := by
  unfold State.updEng
  refine Keeps.upd ?_ rfl ?_ ?_ ?_ ?_
  with_reducible assumption
  exact NvKeeps.refl _
  exact fun w => w
  exact fun w => w
  exact Nat.le_refl _

theorem State.updGal_keeps {s0 s : State} (g : Fin 8) (f : Gallery → Gallery) (h : Keeps s0 s) :
    Keeps s0 (State.updGal s g f) := by
  unfold State.updGal
  refine Keeps.upd ?_ rfl ?_ ?_ ?_ ?_
  with_reducible assumption
  exact NvKeeps.refl _
  exact fun w => w
  exact fun w => w
  exact Nat.le_refl _

theorem State.updOut_keeps {s0 s : State} (n : Fin 64) (f : OutCh → OutCh) (h : Keeps s0 s) :
    Keeps s0 (State.updOut s n f) := by
  unfold State.updOut
  refine Keeps.upd ?_ rfl ?_ ?_ ?_ ?_
  with_reducible assumption
  exact NvKeeps.refl _
  exact fun w => w
  exact fun w => w
  exact Nat.le_refl _

theorem State.updDac_keeps {s0 s : State} (n : Fin 16) (f : DacCh → DacCh) (h : Keeps s0 s) :
    Keeps s0 (State.updDac s n f) := by
  unfold State.updDac
  refine Keeps.upd ?_ rfl ?_ ?_ ?_ ?_
  with_reducible assumption
  exact NvKeeps.refl _
  exact fun w => w
  exact fun w => w
  exact Nat.le_refl _

theorem State.updSpec_keeps {s0 s : State} (k : Fin 8) (f : SpecCh → SpecCh) (h : Keeps s0 s) :
    Keeps s0 (State.updSpec s k f) := by
  unfold State.updSpec
  refine Keeps.upd ?_ rfl ?_ ?_ ?_ ?_
  with_reducible assumption
  exact NvKeeps.refl _
  exact fun w => w
  exact fun w => w
  exact Nat.le_refl _

theorem State.updAn_keeps {s0 s : State} (a : Fin 2) (f : Analyser → Analyser) (h : Keeps s0 s) :
    Keeps s0 (State.updAn s a f) := by
  unfold State.updAn
  refine Keeps.upd ?_ rfl ?_ ?_ ?_ ?_
  with_reducible assumption
  exact NvKeeps.refl _
  exact fun w => w
  exact fun w => w
  exact Nat.le_refl _

theorem State.updDom_keeps {s0 s : State} (d : Fin 16) (f : Domain → Domain) (h : Keeps s0 s) :
    Keeps s0 (State.updDom s d f) := by
  unfold State.updDom
  refine Keeps.upd ?_ rfl ?_ ?_ ?_ ?_
  with_reducible assumption
  exact NvKeeps.refl _
  exact fun w => w
  exact fun w => w
  exact Nat.le_refl _

theorem State.updTmr_keeps {s0 s : State} (n : Fin 16) (f : Timer → Timer) (h : Keeps s0 s) :
    Keeps s0 (State.updTmr s n f) := by
  unfold State.updTmr
  refine Keeps.upd ?_ rfl ?_ ?_ ?_ ?_
  with_reducible assumption
  exact NvKeeps.refl _
  exact fun w => w
  exact fun w => w
  exact Nat.le_refl _

theorem State.updTrg_keeps {s0 s : State} (t' : Fin 8) (f : Trig → Trig) (h : Keeps s0 s) :
    Keeps s0 (State.updTrg s t' f) := by
  unfold State.updTrg
  refine Keeps.upd ?_ rfl ?_ ?_ ?_ ?_
  with_reducible assumption
  exact NvKeeps.refl _
  exact fun w => w
  exact fun w => w
  exact Nat.le_refl _

theorem State.updMgmt_keeps {s0 s : State} (f : Mgmt → Mgmt) (h : Keeps s0 s) :
    Keeps s0 (State.updMgmt s f) := by
  unfold State.updMgmt
  refine Keeps.upd ?_ rfl ?_ ?_ ?_ ?_
  with_reducible assumption
  exact NvKeeps.refl _
  exact fun w => w
  exact fun w => w
  exact Nat.le_refl _

theorem State.updNv_keeps {s0 s : State} (f : Nv → Nv) (hf : NvKeeps s.nv (f s.nv)) (h : Keeps s0 s) :
    Keeps s0 (s.updNv f) := by
  unfold State.updNv
  refine Keeps.upd ?_ rfl ?_ ?_ ?_ ?_
  with_reducible assumption
  assumption
  exact fun w => w
  exact fun w => w
  exact Nat.le_refl _

theorem State.flashWrote_keeps {s0 s : State} (a b : Nat) (h : Keeps s0 s) : Keeps s0 (State.flashWrote s a b) := by
  unfold State.flashWrote
  exact State.updNv_keeps _ (NvKeeps.of rfl rfl rfl rfl rfl) h

theorem State.updRec_keeps {s0 s : State} (k : Fin 224) (f : Nv → Nv) (hf : NvKeeps s.nv (f s.nv)) (h : Keeps s0 s) :
    Keeps s0 (State.updRec s k f) := by
  unfold State.updRec
  exact State.updNv_keeps _ (hf.trans (NvKeeps.of rfl rfl rfl rfl rfl)) h

theorem State.tapInstr_keeps {s0 s : State} (i : TapInstr) (h : Keeps s0 s) :
    Keeps s0 (State.tapInstr s i) := by
  unfold State.tapInstr
  refine Keeps.upd ?_ rfl ?_ ?_ ?_ ?_
  with_reducible assumption
  exact NvKeeps.refl _
  exact fun w => w
  exact fun w => w
  exact Nat.le_refl _

theorem State.logVolatile_keeps {s0 s : State} (e : LogEnt) (h : Keeps s0 s) :
    Keeps s0 (State.logVolatile s e) := by
  unfold State.logVolatile
  refine Keeps.upd ?_ rfl ?_ ?_ ?_ ?_
  with_reducible assumption
  exact NvKeeps.of rfl rfl rfl rfl rfl
  exact fun w => w
  exact fun w => w
  exact Nat.le_refl _

theorem State.logFlash_keeps {s0 s : State} (e : LogEnt) (h : Keeps s0 s) :
    Keeps s0 (State.logFlash s e) := by
  unfold State.logFlash
  refine Keeps.upd ?_ rfl ?_ ?_ ?_ ?_
  with_reducible assumption
  exact NvKeeps.of rfl rfl rfl rfl rfl
  exact fun w => w
  exact fun w => w
  exact Nat.le_refl _

theorem State.logAs_keeps {s0 s : State} (cls : LogClass) (code : Nat) (hall : Option Nat) (data : List Byte) (h : Keeps s0 s) :
    Keeps s0 (State.logAs s cls code hall data) := by
  unfold State.logAs
  dsimp only
  refine Keeps.ite (fun _ => ?_) (fun _ => ?_)
  refine Keeps.upd ?_ rfl ?_ ?_ ?_ ?_
  apply State.logVolatile_keeps
  with_reducible assumption
  exact NvKeeps.refl _
  exact fun w => w
  exact fun w => w
  exact Nat.le_refl _
  refine Keeps.upd ?_ rfl ?_ ?_ ?_ ?_
  apply State.logFlash_keeps
  apply State.logVolatile_keeps
  refine Keeps.ite (fun _ => ?_) (fun _ => ?_)
  with_reducible assumption
  refine Keeps.upd ?_ rfl ?_ ?_ ?_ ?_
  apply State.logFlash_keeps
  apply State.logVolatile_keeps
  with_reducible assumption
  exact NvKeeps.refl _
  exact fun w => w
  exact fun w => w
  exact Nat.le_refl _
  exact NvKeeps.refl _
  exact fun w => w
  exact fun w => w
  exact Nat.le_refl _

theorem State.log_keeps {s0 s : State} (code : Nat) (hall : Option Nat) (data : List Byte) (h : Keeps s0 s) :
    Keeps s0 (State.log s code hall data) := by
  unfold State.log
  apply State.logAs_keeps
  with_reducible assumption

theorem State.fenceAdd_keeps {s0 s : State} (kind : Nat) (cause : Nat) (index : Nat) (halls : Nat) (h : Keeps s0 s) :
    Keeps s0 (State.fenceAdd s kind cause index halls) := by
  unfold State.fenceAdd
  apply State.log_keeps
  apply State.raise_keeps
  refine Keeps.upd ?_ rfl ?_ ?_ ?_ ?_
  with_reducible assumption
  exact NvKeeps.refl _
  exact fun w => w
  exact fun w => w
  exact Nat.le_refl _

theorem State.fenceLift_keeps {s0 s : State} (kind : Nat) (index : Nat) (h : Keeps s0 s) :
    Keeps s0 (State.fenceLift s kind index) := by
  unfold State.fenceLift
  split
  with_reducible assumption
  apply State.log_keeps
  refine Keeps.upd ?_ rfl ?_ ?_ ?_ ?_
  with_reducible assumption
  exact NvKeeps.refl _
  exact fun w => w
  exact fun w => w
  exact Nat.le_refl _

theorem State.sramWrite_keeps {s0 s : State} (a : Nat) (bs : List Byte) (h : Keeps s0 s) :
    Keeps s0 (State.sramWrite s a bs) := by
  unfold State.sramWrite
  refine Keeps.upd ?_ rfl ?_ ?_ ?_ ?_
  with_reducible assumption
  exact NvKeeps.refl _
  intro _
  with_reducible apply Memory.wf_writeList
  assumption
  exact fun w => w
  exact Nat.le_refl _

theorem State.answer_keeps {s0 s : State} (v : Word) (h : Keeps s0 s) :
    Keeps s0 (State.answer s v) := by
  unfold State.answer
  refine Keeps.upd ?_ rfl ?_ ?_ ?_ ?_
  with_reducible assumption
  exact NvKeeps.refl _
  exact fun w => w
  exact fun w => w
  exact Nat.le_refl _

end Sys2Proof.Machine
end

