-- ==== Sys2Proof/Laws/KeepsClock.lean ====
section
/-! SUPPORT. What the operations of Machine/Clock.lean keep (Laws/Keeps.lean). -/

namespace Sys2Proof.Machine

theorem State.openHall0_keeps {s0 s : State}  (h : Keeps s0 s) :
    Keeps s0 (State.openHall0 s) := by
  unfold State.openHall0
  dsimp only
  refine Keeps.upd ?_ rfl ?_ ?_ ?_ ?_
  with_reducible assumption
  exact NvKeeps.refl _
  exact fun w => w
  exact fun w => w
  exact Nat.le_refl _

theorem State.bringup_keeps {s0 s : State}  (h : Keeps s0 s) :
    Keeps s0 (State.bringup s) := by
  unfold State.bringup
  dsimp only
  apply State.openHall0_keeps
  refine Keeps.upd ?_ rfl ?_ ?_ ?_ ?_
  with_reducible assumption
  exact NvKeeps.refl _
  exact fun w => w
  exact fun w => w
  exact Nat.le_refl _

theorem State.edges_keeps {s0 s : State} (k : Nat) (h : Keeps s0 s) :
    Keeps s0 (State.edges s k) := by
  unfold State.edges
  dsimp only
  refine Keeps.upd ?_ rfl ?_ ?_ ?_ ?_
  with_reducible assumption
  exact NvKeeps.refl _
  exact fun w => w
  exact fun w => w
  exact Nat.le_refl _

theorem State.advance_keeps {s0 s : State} (k : Nat) (h : Keeps s0 s) :
    Keeps s0 (State.advance s k) := by
  unfold State.advance
  dsimp only
  refine Keeps.ite (fun _ => ?_) (fun _ => ?_)
  apply State.edges_keeps
  apply State.bringup_keeps
  apply State.edges_keeps
  with_reducible assumption
  apply State.edges_keeps
  with_reducible assumption

theorem State.advanceTo_keeps {s0 s : State} (t' : Nat) (h : Keeps s0 s) :
    Keeps s0 (State.advanceTo s t') := by
  unfold State.advanceTo
  refine Keeps.ite (fun _ => ?_) (fun _ => ?_)
  apply State.advance_keeps
  with_reducible assumption
  with_reducible assumption

end Sys2Proof.Machine
end

