-- ==== Sys2Proof/Laws/KeepsRegsA.lean ====
section
/-! SUPPORT. What the operations of Machine/RegsA.lean keep (Laws/Keeps.lean). -/

namespace Sys2Proof.Machine

theorem State.sysWrite_keeps {s0 s : State} (off : Nat) (v : Word) (h : Keeps s0 s) :
    Keeps s0 (State.sysWrite s off v) := by
  unfold State.sysWrite
  split
  refine Keeps.upd ?_ rfl ?_ ?_ ?_ ?_
  with_reducible assumption
  exact NvKeeps.refl _
  exact fun w => w
  exact fun w => w
  exact Nat.le_refl _
  refine Keeps.upd ?_ rfl ?_ ?_ ?_ ?_
  with_reducible assumption
  exact NvKeeps.refl _
  exact fun w => w
  exact fun w => w
  exact Nat.le_refl _
  with_reducible assumption

theorem State.schedWrite_keeps {s0 s : State} (off : Nat) (v : Word) (h : Keeps s0 s) :
    Keeps s0 (State.schedWrite s off v) := by
  unfold State.schedWrite
  split
  refine Keeps.upd ?_ rfl ?_ ?_ ?_ ?_
  with_reducible assumption
  exact NvKeeps.refl _
  exact fun w => w
  exact fun w => w
  exact Nat.le_refl _
  with_reducible assumption

theorem State.portWrite_keeps {s0 s : State} (p : Fin 2) (off : Nat) (v : Word) (h : Keeps s0 s) :
    Keeps s0 (State.portWrite s p off v) := by
  unfold State.portWrite
  refine Keeps.ite (fun _ => ?_) (fun _ => ?_)
  apply State.updPort_keeps
  with_reducible assumption
  with_reducible assumption

theorem State.galWrite_keeps {s0 s : State} (g : Fin 8) (off : Nat) (v : Word) (h : Keeps s0 s) :
    Keeps s0 (State.galWrite s g off v) := by
  unfold State.galWrite
  refine Keeps.ite (fun _ => ?_) (fun _ => ?_)
  apply State.updEng_keeps
  with_reducible assumption
  with_reducible assumption

theorem State.setRoute_keeps {s0 s : State} (k : Nat) (f : Nat) (r : InRoute) (h : Keeps s0 s) :
    Keeps s0 (State.setRoute s k f r) := by
  unfold State.setRoute
  refine Keeps.upd ?_ rfl ?_ ?_ ?_ ?_
  with_reducible assumption
  exact NvKeeps.refl _
  exact fun w => w
  exact fun w => w
  exact Nat.le_refl _

theorem State.setRet_keeps {s0 s : State} (c : Nat) (f : Nat) (x : Word × Word) (h : Keeps s0 s) :
    Keeps s0 (State.setRet s c f x) := by
  unfold State.setRet
  refine Keeps.upd ?_ rfl ?_ ?_ ?_ ?_
  with_reducible assumption
  exact NvKeeps.refl _
  exact fun w => w
  exact fun w => w
  exact Nat.le_refl _

theorem State.outWrite_keeps {s0 s : State} (off : Nat) (v : Word) (h : Keeps s0 s) :
    Keeps s0 (State.outWrite s off v) := by
  unfold State.outWrite
  split
  refine Keeps.upd ?_ rfl ?_ ?_ ?_ ?_
  with_reducible assumption
  exact NvKeeps.refl _
  exact fun w => w
  exact fun w => w
  exact Nat.le_refl _
  dsimp only
  refine Keeps.ite (fun _ => ?_) (fun _ => ?_)
  refine Keeps.ite (fun _ => ?_) (fun _ => ?_)
  apply State.setRoute_keeps
  with_reducible assumption
  refine Keeps.ite (fun _ => ?_) (fun _ => ?_)
  apply State.setRoute_keeps
  with_reducible assumption
  with_reducible assumption
  refine Keeps.ite (fun _ => ?_) (fun _ => ?_)
  refine Keeps.ite (fun _ => ?_) (fun _ => ?_)
  apply State.setRet_keeps
  with_reducible assumption
  refine Keeps.ite (fun _ => ?_) (fun _ => ?_)
  apply State.setRet_keeps
  with_reducible assumption
  with_reducible assumption
  with_reducible assumption

theorem State.chWrite_keeps {s0 s : State} (n : Fin 64) (off : Nat) (v : Word) (h : Keeps s0 s) :
    Keeps s0 (State.chWrite s n off v) := by
  unfold State.chWrite
  dsimp only
  split
  apply State.updOut_keeps
  with_reducible assumption
  apply State.updOut_keeps
  with_reducible assumption
  apply State.updOut_keeps
  with_reducible assumption
  apply State.updOut_keeps
  with_reducible assumption
  apply State.updOut_keeps
  with_reducible assumption
  apply State.updOut_keeps
  with_reducible assumption
  apply State.updOut_keeps
  with_reducible assumption
  with_reducible assumption

theorem State.tdmWrite_keeps {s0 s : State} (off : Nat) (v : Word) (h : Keeps s0 s) :
    Keeps s0 (State.tdmWrite s off v) := by
  unfold State.tdmWrite
  split
  refine Keeps.upd ?_ rfl ?_ ?_ ?_ ?_
  with_reducible assumption
  exact NvKeeps.refl _
  exact fun w => w
  exact fun w => w
  exact Nat.le_refl _
  refine Keeps.ite (fun _ => ?_) (fun _ => ?_)
  refine Keeps.upd ?_ rfl ?_ ?_ ?_ ?_
  with_reducible assumption
  exact NvKeeps.refl _
  exact fun w => w
  exact fun w => w
  exact Nat.le_refl _
  with_reducible assumption

theorem State.timeWrite_keeps {s0 s : State} (off : Nat) (v : Word) (h : Keeps s0 s) :
    Keeps s0 (State.timeWrite s off v) := by
  unfold State.timeWrite
  split
  refine Keeps.upd ?_ rfl ?_ ?_ ?_ ?_
  with_reducible assumption
  exact NvKeeps.refl _
  exact fun w => w
  exact fun w => w
  exact Nat.le_refl _
  with_reducible assumption

theorem State.tmrWrite_keeps {s0 s : State} (n : Fin 16) (off : Nat) (v : Word) (h : Keeps s0 s) :
    Keeps s0 (State.tmrWrite s n off v) := by
  unfold State.tmrWrite
  split
  apply State.updTmr_keeps
  with_reducible assumption
  apply State.updTmr_keeps
  with_reducible assumption
  apply State.updTmr_keeps
  with_reducible assumption
  apply State.updTmr_keeps
  with_reducible assumption
  with_reducible assumption

theorem State.trgWrite_keeps {s0 s : State} (t' : Fin 8) (off : Nat) (v : Word) (h : Keeps s0 s) :
    Keeps s0 (State.trgWrite s t' off v) := by
  unfold State.trgWrite
  split
  apply State.updTrg_keeps
  with_reducible assumption
  apply State.updTrg_keeps
  with_reducible assumption
  with_reducible assumption

end Sys2Proof.Machine
end

