-- ==== Sys2Proof/Laws/KeepsRegsB.lean ====
section
/-! SUPPORT. What the operations of Machine/RegsB.lean keep (Laws/Keeps.lean). -/

namespace Sys2Proof.Machine

theorem State.setChCfg_keeps {s0 s : State} (k : Fin 8) (f : ChCfg → ChCfg) (h : Keeps s0 s) :
    Keeps s0 (State.setChCfg s k f) := by
  unfold State.setChCfg
  apply State.updSpec_keeps
  with_reducible assumption

theorem State.specWrite_keeps {s0 s : State} (off : Nat) (v : Word) (h : Keeps s0 s) :
    Keeps s0 (State.specWrite s off v) := by
  unfold State.specWrite
  refine Keeps.ite (fun _ => ?_) (fun _ => ?_)
  refine Keeps.upd ?_ rfl ?_ ?_ ?_ ?_
  with_reducible assumption
  exact NvKeeps.refl _
  exact fun w => w
  exact fun w => w
  exact Nat.le_refl _
  refine Keeps.ite (fun _ => ?_) (fun _ => ?_)
  dsimp only
  split
  apply State.updSpec_keeps
  with_reducible assumption
  apply State.setChCfg_keeps
  with_reducible assumption
  apply State.setChCfg_keeps
  with_reducible assumption
  apply State.setChCfg_keeps
  with_reducible assumption
  with_reducible assumption
  refine Keeps.ite (fun _ => ?_) (fun _ => ?_)
  dsimp only
  split
  apply State.updAn_keeps
  with_reducible assumption
  apply State.updAn_keeps
  with_reducible assumption
  with_reducible assumption
  with_reducible assumption

theorem State.memChWrite_keeps {s0 s : State} (c : Fin 4) (off : Nat) (v : Word) (h : Keeps s0 s) :
    Keeps s0 (State.memChWrite s c off v) := by
  unfold State.memChWrite
  dsimp only
  split
  refine Keeps.upd ?_ rfl ?_ ?_ ?_ ?_
  with_reducible assumption
  exact NvKeeps.refl _
  exact fun w => w
  exact fun w => w
  exact Nat.le_refl _
  refine Keeps.ite (fun _ => ?_) (fun _ => ?_)
  refine Keeps.upd ?_ rfl ?_ ?_ ?_ ?_
  with_reducible assumption
  exact NvKeeps.refl _
  exact fun w => w
  exact fun w => w
  exact Nat.le_refl _
  with_reducible assumption

theorem State.memWrite_keeps {s0 s : State} (off : Nat) (v : Word) (h : Keeps s0 s) :
    Keeps s0 (State.memWrite s off v) := by
  unfold State.memWrite
  refine Keeps.ite (fun _ => ?_) (fun _ => ?_)
  refine Keeps.upd ?_ rfl ?_ ?_ ?_ ?_
  with_reducible assumption
  exact NvKeeps.refl _
  exact fun w => w
  exact fun w => w
  exact Nat.le_refl _
  with_reducible assumption

theorem State.loadTrims_keeps {s0 s : State}  (h : Keeps s0 s) :
    Keeps s0 (State.loadTrims s) := by
  unfold State.loadTrims
  split
  refine Keeps.upd ?_ rfl ?_ ?_ ?_ ?_
  with_reducible assumption
  exact NvKeeps.refl _
  exact fun w => w
  exact fun w => w
  exact Nat.le_refl _
  with_reducible assumption

theorem State.dacWrite_keeps {s0 s : State} (off : Nat) (v : Word) (h : Keeps s0 s) :
    Keeps s0 (State.dacWrite s off v) := by
  unfold State.dacWrite
  split
  refine Keeps.upd ?_ rfl ?_ ?_ ?_ ?_
  with_reducible assumption
  exact NvKeeps.refl _
  exact fun w => w
  exact fun w => w
  exact Nat.le_refl _
  refine Keeps.upd ?_ rfl ?_ ?_ ?_ ?_
  with_reducible assumption
  exact NvKeeps.refl _
  exact fun w => w
  exact fun w => w
  exact Nat.le_refl _
  with_reducible assumption

theorem State.dacChWrite_keeps {s0 s : State} (n : Fin 16) (off : Nat) (v : Word) (h : Keeps s0 s) :
    Keeps s0 (State.dacChWrite s n off v) := by
  unfold State.dacChWrite
  refine Keeps.ite (fun _ => ?_) (fun _ => ?_)
  with_reducible assumption
  split
  apply State.updDac_keeps
  with_reducible assumption
  apply State.updDac_keeps
  with_reducible assumption
  with_reducible assumption

theorem State.serWrite_keeps {s0 s : State} (n : Fin 4) (off : Nat) (v : Word) (h : Keeps s0 s) :
    Keeps s0 (State.serWrite s n off v) := by
  unfold State.serWrite
  split
  apply State.updSer_keeps
  with_reducible assumption
  apply State.updSer_keeps
  with_reducible assumption
  apply State.updSer_keeps
  with_reducible assumption
  apply State.updSer_keeps
  with_reducible assumption
  apply State.updSer_keeps
  with_reducible assumption
  with_reducible assumption

end Sys2Proof.Machine
end

