-- ==== Sys2Proof/Laws/KeepsRegsC.lean ====
section
/-! SUPPORT. What the operations of Machine/RegsC.lean keep (Laws/Keeps.lean). -/

namespace Sys2Proof.Machine

theorem State.irqfWrite_keeps {s0 s : State} (off : Nat) (v : Word) (h : Keeps s0 s) :
    Keeps s0 (State.irqfWrite s off v) := by
  unfold State.irqfWrite
  refine Keeps.ite (fun _ => ?_) (fun _ => ?_)
  refine Keeps.upd ?_ rfl ?_ ?_ ?_ ?_
  with_reducible assumption
  exact NvKeeps.refl _
  exact fun w => w
  exact fun w => w
  exact Nat.le_refl _
  with_reducible assumption

theorem State.mgmtWrite_keeps {s0 s : State} (off : Nat) (v : Word) (h : Keeps s0 s) :
    Keeps s0 (State.mgmtWrite s off v) := by
  unfold State.mgmtWrite
  refine Keeps.ite (fun _ => ?_) (fun _ => ?_)
  apply State.updMgmt_keeps
  with_reducible assumption
  refine Keeps.ite (fun _ => ?_) (fun _ => ?_)
  dsimp only
  apply State.updMgmt_keeps
  with_reducible assumption
  with_reducible assumption

theorem State.pwrWrite_keeps {s0 s : State} (off : Nat) (v : Word) (h : Keeps s0 s) :
    Keeps s0 (State.pwrWrite s off v) := by
  unfold State.pwrWrite
  split
  refine Keeps.upd ?_ rfl ?_ ?_ ?_ ?_
  with_reducible assumption
  exact NvKeeps.refl _
  exact fun w => w
  exact fun w => w
  exact Nat.le_refl _
  refine Keeps.upd ?_ rfl ?_ ?_ ?_ ?_
  with_reducible assumption
  exact NvKeeps.refl _
  exact fun w => w
  exact fun w => w
  exact Nat.le_refl _
  with_reducible assumption

theorem State.regPut_keeps {s0 s : State} (b : Block) (off : Nat) (v : Word) (h : Keeps s0 s) :
    Keeps s0 (State.regPut s b off v) := by
  unfold State.regPut
  split
  apply State.sysWrite_keeps
  with_reducible assumption
  apply State.portWrite_keeps
  with_reducible assumption
  apply State.galWrite_keeps
  with_reducible assumption
  apply State.schedWrite_keeps
  with_reducible assumption
  apply State.specWrite_keeps
  with_reducible assumption
  apply State.memChWrite_keeps
  with_reducible assumption
  apply State.memWrite_keeps
  with_reducible assumption
  apply State.outWrite_keeps
  with_reducible assumption
  apply State.chWrite_keeps
  with_reducible assumption
  apply State.dacWrite_keeps
  with_reducible assumption
  apply State.dacChWrite_keeps
  with_reducible assumption
  apply State.tdmWrite_keeps
  with_reducible assumption
  apply State.serWrite_keeps
  with_reducible assumption
  apply State.timeWrite_keeps
  with_reducible assumption
  apply State.tmrWrite_keeps
  with_reducible assumption
  apply State.trgWrite_keeps
  with_reducible assumption
  apply State.irqfWrite_keeps
  with_reducible assumption
  apply State.pwrWrite_keeps
  with_reducible assumption
  apply State.mgmtWrite_keeps
  with_reducible assumption
  with_reducible assumption
  with_reducible assumption
  with_reducible assumption
  with_reducible assumption
  with_reducible assumption
  with_reducible assumption

end Sys2Proof.Machine
end

