-- ==== Sys2Proof/Laws/KeepsRings.lean ====
section
/-! SUPPORT. What the operations of Machine/Rings.lean keep (Laws/Keeps.lean). -/

namespace Sys2Proof.Machine

theorem State.irqEval_keeps {s0 s : State} (p : Fin 2) (h : Keeps s0 s) :
    Keeps s0 (State.irqEval s p) := by
  unfold State.irqEval
  dsimp only
  refine Keeps.ite (fun _ => ?_) (fun _ => ?_)
  with_reducible assumption
  apply State.updPort_keeps
  with_reducible assumption

theorem State.irqHall_keeps {s0 s : State} (h' : Fin 8) (h : Keeps s0 s) :
    Keeps s0 (State.irqHall s h') := by
  unfold State.irqHall
  split
  apply State.irqEval_keeps
  with_reducible assumption
  with_reducible assumption

theorem State.taking_keeps {s0 s : State} (h' : Fin 8) (need : Nat) (h : Keeps s0 s) : Keeps s0 (State.taking s h' need) :=
  Keeps.upd h rfl (NvKeeps.refl _) (fun w => w) (fun w => w) (Nat.le_refl _)

theorem State.taken_keeps {s0 s : State} (h : Keeps s0 s) : Keeps s0 (State.taken s) :=
  Keeps.upd h rfl (NvKeeps.refl _) (fun w => w) (fun w => w) (Nat.le_refl _)

theorem State.postEntries_keeps {s0 s : State} (h' : Fin 8) (x2 : List (List Byte)) (h : Keeps s0 s) :
    Keeps s0 (State.postEntries s h' x2) := by
  induction x2 generalizing s with
  | nil => exact h
  | cons e es ih => exact ih (State.updRing_keeps _ _ (State.sramWrite_keeps _ _ h))

theorem State.postLost_keeps {s0 s : State} (h' : Fin 8) (h : Keeps s0 s) :
    Keeps s0 (State.postLost s h') := by
  unfold State.postLost
  apply State.updRing_keeps
  apply State.postEntries_keeps
  with_reducible assumption

theorem State.answerBox_keeps {s0 s : State} (x : Held) (h : Keeps s0 s) : Keeps s0 (State.answerBox s x) := by
  unfold State.answerBox
  split
  · exact State.irqEval_keeps _ (State.updPort_keeps _ _ h)
  · exact h

theorem State.postItem_keeps {s0 s : State} (h' : Fin 8) (x : Held) (h : Keeps s0 s) :
    Keeps s0 (State.postItem s h' x) := by
  have hf : ∀ u : State, Keeps s0 u → Keeps s0 (match x.free with
      | some (p, b) => u.updPort p fun q => { q with bufs := q.bufs.put b false }
      | none => u) := by
    intro u hu
    split
    · exact State.updPort_keeps _ _ hu
    · exact hu
  unfold State.postItem
  refine Keeps.ite (fun _ => State.postLost_keeps _ h) (fun _ => ?_)
  have hp := State.answerBox_keeps x (hf _ (State.postEntries_keeps h' (chunks64 (x.bytes.length / 64) x.bytes) h))
  refine Keeps.ite (fun _ => ?_) (fun _ => hp)
  split
  · exact State.updPort_keeps _ _ hp
  · exact hp

theorem State.flush_keeps {s0 s : State} (h' : Fin 8) (x1 : Nat) (h : Keeps s0 s) :
    Keeps s0 (State.flush h' x1 s) := by
  induction x1 generalizing s with
  | zero => exact h
  | succ n ih =>
    unfold State.flush
    dsimp only
    split
    · exact h
    · split
      · exact ih (State.postItem_keeps _ _ (State.updRing_keeps _ _ h))
      · exact h

theorem State.pump_keeps {s0 s : State} (h' : Fin 8) (h : Keeps s0 s) :
    Keeps s0 (State.pump s h') := by
  unfold State.pump
  dsimp only
  apply State.irqHall_keeps
  apply State.flush_keeps
  refine Keeps.ite (fun _ => ?_) (fun _ => ?_)
  apply State.updRing_keeps
  with_reducible assumption
  with_reducible assumption

theorem State.notice_keeps {s0 s : State} (h' : Fin 8) (kind : Nat) (data : List Byte) (h : Keeps s0 s) :
    Keeps s0 (State.notice s h' kind data) := by
  unfold State.notice
  dsimp only
  refine Keeps.ite (fun _ => ?_) (fun _ => ?_)
  with_reducible assumption
  refine Keeps.ite (fun _ => ?_) (fun _ => ?_)
  apply State.updRing_keeps
  with_reducible assumption
  apply State.pump_keeps
  apply State.updRing_keeps
  with_reducible assumption

theorem State.voiceNotice_keeps {s0 s : State} (h' : Nat) (key : Option Nat) (reason : Nat) (hvn : Nat) (time : Nat) (h : Keeps s0 s) :
    Keeps s0 (State.voiceNotice s h' key reason hvn time) := by
  unfold State.voiceNotice
  apply State.notice_keeps
  with_reducible assumption

theorem State.pageNotice_keeps {s0 s : State} (h' : Nat) (page : Nat) (cw : Nat) (event : Nat) (h : Keeps s0 s) :
    Keeps s0 (State.pageNotice s h' page cw event) := by
  unfold State.pageNotice
  apply State.notice_keeps
  with_reducible assumption

theorem State.unitNotice_keeps {s0 s : State} (h' : Nat) (unit : Nat) (index : Nat) (event : Nat) (h : Keeps s0 s) :
    Keeps s0 (State.unitNotice s h' unit index event) := by
  unfold State.unitNotice
  apply State.notice_keeps
  with_reducible assumption

theorem State.ackAll_keeps {s0 s : State} (h' : Fin 8) (h : Keeps s0 s) : Keeps s0 (State.ackAll s h') :=
  State.updRing_keeps _ _ h

theorem State.readRing_keeps {s0 s : State} (h' : Fin 8) (n : Nat) (h : Keeps s0 s) : Keeps s0 (State.readRing h' n s) := by
  induction n generalizing s with
  | zero => exact h
  | succ n ih =>
    unfold State.readRing
    exact Keeps.ite (fun _ => State.ackAll_keeps _ h) (fun _ => ih (State.pump_keeps _ (State.ackAll_keeps _ h)))

theorem State.complete_keeps {s0 s : State} (h' : Fin 8) (op : Nat) (tag : Nat) (quiet : Bool) (via : Via) (status : Nat)
    (data : List Byte) (keep : Nat) (h : Keeps s0 s) : Keeps s0 (State.complete s h' op tag quiet via status data keep) := by
  unfold State.complete
  dsimp only
  refine Keeps.ite (fun _ => State.readRing_keeps _ _ ?_) (fun _ => ?_) <;>
    exact Keeps.ite (fun _ => State.postItem_keeps _ _ h) (fun _ => State.pump_keeps _ (State.updRing_keeps _ _ h))

theorem State.postCmd_keeps {s0 s : State} (h' : Fin 8) (c : Cmd) (k : Nat) (h : Keeps s0 s) : Keeps s0 (State.postCmd s h' c k) := by
  induction k with
  | zero => exact h
  | succ k ih =>
    unfold State.postCmd
    exact State.updRing_keeps _ _ (State.sramWrite_keeps _ _ ih)

theorem State.endWait_keeps {s0 s : State} (h' : Fin 8) (status : Nat) (data : List Byte) (h : Keeps s0 s) :
    Keeps s0 (State.endWait s h' status data) := by
  unfold State.endWait
  split
  with_reducible assumption
  apply State.complete_keeps
  apply State.updHall_keeps
  with_reducible assumption

end Sys2Proof.Machine
end

