-- ==== Sys2Proof/Laws/KeepsEvents.lean ====
section
/-! SUPPORT. What the operations of Machine/Events.lean keep (Laws/Keeps.lean). -/

namespace Sys2Proof.Machine

theorem State.noteLate_keeps {s0 s : State} (h' : Fin 8) (src : Nat) (org : Nat) (h : Keeps s0 s) :
    Keeps s0 (State.noteLate s h' src org) := by
  unfold State.noteLate
  dsimp only
  refine Keeps.ite (fun _ => ?_) (fun _ => ?_)
  apply State.updHall_keeps
  apply State.guar_keeps
  refine Keeps.upd ?_ rfl ?_ ?_ ?_ ?_
  with_reducible assumption
  exact NvKeeps.refl _
  exact fun w => w
  exact fun w => w
  exact Nat.le_refl _
  apply State.log_keeps
  apply State.updHall_keeps
  apply State.guar_keeps
  refine Keeps.upd ?_ rfl ?_ ?_ ?_ ?_
  with_reducible assumption
  exact NvKeeps.refl _
  exact fun w => w
  exact fun w => w
  exact Nat.le_refl _

theorem State.arrive_keeps {s0 s : State} (h' : Fin 8) (src : Nat) (tag : Nat) (org : Nat) (a : Nat) (t' : Nat) (kind : EvKind) (h : Keeps s0 s) :
    Keeps s0 (State.arrive s h' src tag org a t' kind).1 := by
  unfold State.arrive
  dsimp only
  refine Keeps.ite (fun _ => ?_) (fun _ => ?_)
  apply State.noteLate_keeps
  apply State.updHall_keeps
  refine Keeps.upd ?_ rfl ?_ ?_ ?_ ?_
  with_reducible assumption
  exact NvKeeps.refl _
  exact fun w => w
  exact fun w => w
  exact Nat.le_refl _
  apply State.updHall_keeps
  refine Keeps.upd ?_ rfl ?_ ?_ ?_ ?_
  with_reducible assumption
  exact NvKeeps.refl _
  exact fun w => w
  exact fun w => w
  exact Nat.le_refl _

theorem State.deliver_keeps {s0 s : State} (h' : Fin 8) (src : Nat) (tag : Nat) (org : Nat) (a : Nat) (t' : Nat) (kind : EvKind) (h : Keeps s0 s) :
    Keeps s0 (State.deliver s h' src tag org a t' kind).1 := by
  unfold State.deliver
  refine Keeps.iteFst (fun _ => ?_) (fun _ => ?_)
  refine Keeps.pair ?_
  with_reducible assumption
  refine Keeps.iteFst (fun _ => ?_) (fun _ => ?_)
  refine Keeps.pair ?_
  with_reducible assumption
  refine Keeps.iteFst (fun _ => ?_) (fun _ => ?_)
  refine Keeps.pair ?_
  with_reducible assumption
  refine Keeps.pair ?_
  apply State.arrive_keeps
  with_reducible assumption

theorem State.dropMapped_keeps {s0 s : State} (m : Mapped) (h : Keeps s0 s) :
    Keeps s0 (State.dropMapped s m) := by
  unfold State.dropMapped
  apply State.updTrg_keeps
  with_reducible assumption

theorem State.dropMappedOf_keeps {s0 s : State} (h' : Fin 8) (h : Keeps s0 s) :
    Keeps s0 (State.dropMappedOf s h') := by
  unfold State.dropMappedOf
  refine Keeps.foldl (fun _ _ _ => ?_) ?_
  apply State.dropMapped_keeps
  with_reducible assumption
  refine Keeps.upd ?_ rfl ?_ ?_ ?_ ?_
  with_reducible assumption
  exact NvKeeps.refl _
  exact fun w => w
  exact fun w => w
  exact Nat.le_refl _

theorem State.forwardOne_keeps {s0 s : State} (m : Mapped) (h : Keeps s0 s) :
    Keeps s0 (State.forwardOne s m) := by
  unfold State.forwardOne
  refine Keeps.ite (fun _ => ?_) (fun _ => ?_)
  apply State.deliver_keeps
  with_reducible assumption
  apply State.dropMapped_keeps
  apply State.deliver_keeps
  with_reducible assumption

theorem State.forward_keeps {s0 s : State} (h : Keeps s0 s) :
    Keeps s0 (State.forward s) := by
  unfold State.forward
  refine Keeps.foldl (fun _ _ _ => ?_) ?_
  apply State.forwardOne_keeps
  with_reducible assumption
  refine Keeps.upd ?_ rfl ?_ ?_ ?_ ?_
  with_reducible assumption
  exact NvKeeps.refl _
  exact fun w => w
  exact fun w => w
  exact Nat.le_refl _

theorem State.pass_keeps {s0 s : State} (k : Nat) (h : Keeps s0 s) :
    Keeps s0 (State.pass s k) := by
  unfold State.pass
  apply State.forward_keeps
  apply State.advance_keeps
  with_reducible assumption

theorem State.passTo_keeps {s0 s : State} (t' : Nat) (h : Keeps s0 s) :
    Keeps s0 (State.passTo s t') := by
  unfold State.passTo
  apply State.forward_keeps
  apply State.advanceTo_keeps
  with_reducible assumption

theorem State.idle_keeps {s0 s : State}  (h : Keeps s0 s) :
    Keeps s0 (State.idle s) := by
  unfold State.idle
  apply State.pass_keeps
  with_reducible assumption

theorem State.mapVoices_keeps {s0 s : State} (f : Voice → Voice) (h : Keeps s0 s) :
    Keeps s0 (State.mapVoices s f) := by
  unfold State.mapVoices
  refine Keeps.upd ?_ rfl ?_ ?_ ?_ ?_
  with_reducible assumption
  exact NvKeeps.refl _
  exact fun w => w
  exact fun w => w
  exact Nat.le_refl _

theorem State.putVoice_keeps {s0 s : State} (F : Nat) (e : Ev) (x : StartSpec) (p : ProgEnt) (prio : Nat) (h' : Hall) (he : HallEng) (h : Keeps s0 s) :
    Keeps s0 (State.putVoice s F e x p prio h' he) := by
  unfold State.putVoice
  dsimp only
  refine Keeps.ite (fun _ => ?_) (fun _ => ?_)
  apply State.guar_keeps
  apply State.updHall_keeps
  refine Keeps.upd ?_ rfl ?_ ?_ ?_ ?_
  with_reducible assumption
  exact NvKeeps.refl _
  exact fun w => w
  exact fun w => w
  exact Nat.le_refl _
  apply State.updHall_keeps
  refine Keeps.upd ?_ rfl ?_ ?_ ?_ ?_
  with_reducible assumption
  exact NvKeeps.refl _
  exact fun w => w
  exact fun w => w
  exact Nat.le_refl _

theorem State.place_keeps {s0 s : State} (F : Nat) (e : Ev) (x : StartSpec) (h : Keeps s0 s) :
    Keeps s0 (State.place s F e x) := by
  unfold State.place
  dsimp only
  split
  split
  refine Keeps.ite (fun _ => ?_) (fun _ => ?_)
  with_reducible assumption
  apply State.serErr_keeps
  apply State.updSer_keeps
  with_reducible assumption
  with_reducible assumption
  split
  apply State.putVoice_keeps
  apply State.mapVoices_keeps
  with_reducible assumption
  split
  apply State.putVoice_keeps
  refine Keeps.upd ?_ rfl ?_ ?_ ?_ ?_
  apply State.mapVoices_keeps
  apply State.mapVoices_keeps
  with_reducible assumption
  exact NvKeeps.refl _
  exact fun w => w
  exact fun w => w
  exact Nat.le_refl _
  apply State.voiceNotice_keeps
  apply State.updHall_keeps
  apply State.mapVoices_keeps
  with_reducible assumption

theorem State.applyFlight_keeps {s0 s : State} (F : Nat) (e : Ev) (h : Keeps s0 s) :
    Keeps s0 (State.applyFlight s F e) := by
  unfold State.applyFlight
  split
  apply State.place_keeps
  with_reducible assumption
  apply State.mapVoices_keeps
  with_reducible assumption
  apply State.mapVoices_keeps
  with_reducible assumption
  apply State.mapVoices_keeps
  with_reducible assumption
  apply State.updHall_keeps
  with_reducible assumption

theorem State.wipePage_keeps {s0 s : State} (p : Nat) (h : Keeps s0 s) :
    Keeps s0 (State.wipePage s p) := by
  unfold State.wipePage
  apply State.fenceLift_keeps
  refine Keeps.upd ?_ rfl ?_ ?_ ?_ ?_
  with_reducible assumption
  exact NvKeeps.refl _
  exact fun w => w
  intro _
  with_reducible apply WaveMem.wf_wipe
  assumption
  exact Nat.le_refl _

theorem State.wipePages_keeps {s0 s : State} (ps : List Nat) (h : Keeps s0 s) :
    Keeps s0 (State.wipePages s ps) := by
  unfold State.wipePages
  refine Keeps.foldl (fun _ _ _ => ?_) ?_
  apply State.wipePage_keeps
  with_reducible assumption
  with_reducible assumption

theorem State.wipeLate_keeps {s0 s : State} (ps : List Nat) (h : Keeps s0 s) :
    Keeps s0 (State.wipeLate s ps) := by
  unfold State.wipeLate
  refine Keeps.foldl (fun _ _ _ => ?_) ?_
  apply State.fenceLift_keeps
  refine Keeps.upd ?_ rfl ?_ ?_ ?_ ?_
  with_reducible assumption
  exact NvKeeps.refl _
  exact fun w => w
  intro _
  with_reducible apply WaveMem.wf_wipeLater
  assumption
  exact Nat.le_refl _
  with_reducible assumption

theorem State.reap_keeps {s0 s : State} (h' : Fin 8) (h : Keeps s0 s) :
    Keeps s0 (State.reap s h') := by
  unfold State.reap
  dsimp only
  refine Keeps.ite (fun _ => ?_) (fun _ => ?_)
  with_reducible assumption
  apply State.updHall_keeps
  apply State.wipePages_keeps
  with_reducible assumption

theorem State.reapAll_keeps {s0 s : State}  (h : Keeps s0 s) :
    Keeps s0 (State.reapAll s) := by
  unfold State.reapAll
  refine Keeps.foldl (fun _ _ _ => ?_) ?_
  apply State.reap_keeps
  with_reducible assumption
  with_reducible assumption

theorem State.undrain_keeps {s0 s : State} (F : Nat) (h : Keeps s0 s) :
    Keeps s0 (State.undrain s F) := by
  unfold State.undrain
  dsimp only
  refine Keeps.upd ?_ rfl ?_ ?_ ?_ ?_
  with_reducible assumption
  exact NvKeeps.refl _
  exact fun w => w
  exact fun w => w
  exact Nat.le_refl _

theorem State.freeEnded_keeps {s0 s : State} (F : Nat) (h : Keeps s0 s) :
    Keeps s0 (State.freeEnded s F) := by
  unfold State.freeEnded
  refine Keeps.upd ?_ rfl ?_ ?_ ?_ ?_
  with_reducible assumption
  exact NvKeeps.refl _
  exact fun w => w
  exact fun w => w
  exact Nat.le_refl _

theorem State.takeFlight_keeps {s0 s : State} (t' : Nat) (h : Keeps s0 s) :
    Keeps s0 (State.takeFlight s t').2 := by
  unfold State.takeFlight
  dsimp only
  refine Keeps.upd ?_ rfl ?_ ?_ ?_ ?_
  with_reducible assumption
  exact NvKeeps.refl _
  exact fun w => w
  exact fun w => w
  exact Nat.le_refl _

theorem State.closeList_keeps {s0 s : State} (F : Nat) (h : Keeps s0 s) :
    Keeps s0 (State.closeList s F) := by
  unfold State.closeList
  dsimp only
  apply State.reapAll_keeps
  refine Keeps.upd ?_ rfl ?_ ?_ ?_ ?_
  refine Keeps.foldl (fun _ _ _ => ?_) ?_
  apply State.applyFlight_keeps
  with_reducible assumption
  apply State.takeFlight_keeps
  apply State.undrain_keeps
  apply State.freeEnded_keeps
  with_reducible assumption
  exact NvKeeps.refl _
  exact fun w => w
  exact fun w => w
  exact Nat.le_refl _

theorem State.applyOther_keeps {s0 s : State} (e : Ev) (h : Keeps s0 s) :
    Keeps s0 (State.applyOther s e) := by
  unfold State.applyOther
  dsimp only
  split
  apply State.setRoute_keeps
  with_reducible assumption
  refine Keeps.ite (fun _ => ?_) (fun _ => ?_)
  apply State.setRoute_keeps
  with_reducible assumption
  with_reducible assumption
  refine Keeps.upd ?_ rfl ?_ ?_ ?_ ?_
  with_reducible assumption
  exact NvKeeps.refl _
  exact fun w => w
  exact fun w => w
  exact Nat.le_refl _
  apply State.updDac_keeps
  with_reducible assumption
  refine Keeps.upd ?_ rfl ?_ ?_ ?_ ?_
  with_reducible assumption
  exact NvKeeps.refl _
  exact fun w => w
  exact fun w => w
  exact Nat.le_refl _
  apply State.updOut_keeps
  with_reducible assumption
  apply State.updOut_keeps
  with_reducible assumption
  with_reducible assumption

theorem State.settleBy_keeps {s0 s : State} (t' : Nat) (h : Keeps s0 s) :
    Keeps s0 (State.settleBy s t') := by
  unfold State.settleBy
  dsimp only
  refine Keeps.ite (fun _ => ?_) (fun _ => ?_)
  with_reducible assumption
  refine Keeps.foldl (fun _ _ _ => ?_) ?_
  apply State.applyOther_keeps
  with_reducible assumption
  refine Keeps.upd ?_ rfl ?_ ?_ ?_ ?_
  with_reducible assumption
  exact NvKeeps.refl _
  exact fun w => w
  exact fun w => w
  exact Nat.le_refl _

theorem State.settle_keeps {s0 s : State}  (h : Keeps s0 s) :
    Keeps s0 (State.settle s) := by
  unfold State.settle
  apply State.settleBy_keeps
  with_reducible assumption

theorem State.runTo_keeps {s0 s : State} (t' : Nat) (h : Keeps s0 s) :
    Keeps s0 (State.runTo s t') := by
  unfold State.runTo
  apply State.settle_keeps
  apply State.passTo_keeps
  with_reducible assumption

theorem State.traffic_keeps {s0 s : State} (h' : Fin 8) (h : Keeps s0 s) :
    Keeps s0 (State.traffic s h') := by
  unfold State.traffic
  apply State.updHall_keeps
  with_reducible assumption

theorem State.lapse_keeps {s0 s : State} (h' : Fin 8) (h : Keeps s0 s) :
    Keeps s0 (State.lapse s h') := by
  unfold State.lapse
  dsimp only
  apply State.reap_keeps
  apply State.log_keeps
  apply State.updHall_keeps
  apply State.mapVoices_keeps
  with_reducible assumption

end Sys2Proof.Machine
end

