-- ==== Sys2Proof/Laws/KeepsPowerOps.lean ====
section
/-! SUPPORT. What the operations of Machine/PowerOps.lean keep (Laws/Keeps.lean). -/

namespace Sys2Proof.Machine

theorem State.switchOn_keeps {s0 s : State} (d : Fin 16) (h : Keeps s0 s) :
    Keeps s0 (State.switchOn s d) := by
  unfold State.switchOn
  apply State.updDom_keeps
  with_reducible assumption

theorem State.switchOff_keeps {s0 s : State} (d : Fin 16) (h : Keeps s0 s) :
    Keeps s0 (State.switchOff s d) := by
  unfold State.switchOff
  apply State.updDom_keeps
  refine Keeps.ite (fun _ => ?_) (fun _ => ?_)
  refine Keeps.upd ?_ rfl ?_ ?_ ?_ ?_
  with_reducible assumption
  exact NvKeeps.refl _
  exact fun w => w
  exact fun w => w
  exact Nat.le_refl _
  with_reducible assumption

theorem State.specRest_keeps {s0 s : State}  (h : Keeps s0 s) :
    Keeps s0 (State.specRest s) := by
  unfold State.specRest
  refine Keeps.ite (fun _ => ?_) (fun _ => ?_)
  apply State.switchOff_keeps
  with_reducible assumption
  with_reducible assumption

theorem State.convRelease_keeps {s0 s : State} (k : Fin 8) (h : Keeps s0 s) :
    Keeps s0 (State.convRelease s k) := by
  unfold State.convRelease
  dsimp only
  refine Keeps.ite (fun _ => ?_) (fun _ => ?_)
  with_reducible assumption
  apply State.updSpec_keeps
  split
  apply State.wipePages_keeps
  with_reducible assumption
  with_reducible assumption

theorem State.unstruck_keeps {s0 s : State} (u : WmUnit) (h : Keeps s0 s) :
    Keeps s0 (State.unstruck s u) := by
  unfold State.unstruck
  refine Keeps.upd ?_ rfl ?_ ?_ ?_ ?_
  with_reducible assumption
  exact NvKeeps.refl _
  exact fun w => w
  exact fun w => w
  exact Nat.le_refl _

theorem State.convFree_keeps {s0 s : State} (k : Fin 8) (h : Keeps s0 s) :
    Keeps s0 (State.convFree s k) := by
  unfold State.convFree
  dsimp only
  apply State.specRest_keeps
  apply State.unstruck_keeps
  apply State.updSpec_keeps
  refine Keeps.upd ?_ rfl ?_ ?_ ?_ ?_
  apply State.wipePages_keeps
  with_reducible assumption
  exact NvKeeps.refl _
  exact fun w => w
  exact fun w => w
  exact Nat.le_refl _

theorem State.convFades_keeps {s0 s : State}  (h : Keeps s0 s) :
    Keeps s0 (State.convFades s) := by
  unfold State.convFades
  refine Keeps.foldl (fun _ _ _ => ?_) ?_
  dsimp only
  split
  refine Keeps.ite (fun _ => ?_) (fun _ => ?_)
  apply State.convFree_keeps
  with_reducible assumption
  with_reducible assumption
  with_reducible assumption
  with_reducible assumption

theorem State.anRelease_keeps {s0 s : State} (a : Fin 2) (h : Keeps s0 s) :
    Keeps s0 (State.anRelease s a) := by
  unfold State.anRelease
  apply State.specRest_keeps
  apply State.unstruck_keeps
  apply State.updAn_keeps
  with_reducible assumption

theorem State.specReleaseHall_keeps {s0 s : State} (h' : Nat) (h : Keeps s0 s) :
    Keeps s0 (State.specReleaseHall s h') := by
  unfold State.specReleaseHall
  dsimp only
  refine Keeps.foldl (fun _ _ _ => ?_) ?_
  refine Keeps.ite (fun _ => ?_) (fun _ => ?_)
  apply State.anRelease_keeps
  with_reducible assumption
  with_reducible assumption
  refine Keeps.foldl (fun _ _ _ => ?_) ?_
  refine Keeps.ite (fun _ => ?_) (fun _ => ?_)
  apply State.convRelease_keeps
  with_reducible assumption
  with_reducible assumption
  with_reducible assumption

theorem State.specTell_keeps {s0 s : State} (event : Nat) (h : Keeps s0 s) :
    Keeps s0 (State.specTell s event) := by
  unfold State.specTell
  dsimp only
  refine Keeps.foldl (fun _ _ _ => ?_) ?_
  refine Keeps.ite (fun _ => ?_) (fun _ => ?_)
  apply State.unitNotice_keeps
  with_reducible assumption
  with_reducible assumption
  refine Keeps.foldl (fun _ _ _ => ?_) ?_
  split
  apply State.unitNotice_keeps
  with_reducible assumption
  with_reducible assumption
  with_reducible assumption

theorem State.specHalt_keeps {s0 s : State}  (h : Keeps s0 s) :
    Keeps s0 (State.specHalt s) := by
  unfold State.specHalt
  dsimp only
  apply State.specTell_keeps
  apply State.raise_keeps
  apply State.log_keeps
  refine Keeps.upd ?_ rfl ?_ ?_ ?_ ?_
  with_reducible assumption
  exact NvKeeps.refl _
  exact fun w => w
  exact fun w => w
  exact Nat.le_refl _

end Sys2Proof.Machine
end

