-- ==== Sys2Proof/Laws/KeepsFences.lean ====
section
/-! SUPPORT. What the operations of Machine/Fences.lean keep (Laws/Keeps.lean). -/

namespace Sys2Proof.Machine

theorem State.endVoice_keeps {s0 s : State} (v : Voice) (x : Stop) (h : Keeps s0 s) :
    Keeps s0 (State.endVoice s v x).1 := by
  unfold State.endVoice
  dsimp only
  split
  apply State.voiceNotice_keeps
  split
  apply State.updHall_keeps
  refine Keeps.ite (fun _ => ?_) (fun _ => ?_)
  refine Keeps.upd ?_ rfl ?_ ?_ ?_ ?_
  with_reducible assumption
  exact NvKeeps.refl _
  exact fun w => w
  exact fun w => w
  exact Nat.le_refl _
  with_reducible assumption
  apply State.updHall_keeps
  refine Keeps.ite (fun _ => ?_) (fun _ => ?_)
  refine Keeps.upd ?_ rfl ?_ ?_ ?_ ?_
  with_reducible assumption
  exact NvKeeps.refl _
  exact fun w => w
  exact fun w => w
  exact Nat.le_refl _
  with_reducible assumption
  apply State.updHall_keeps
  refine Keeps.ite (fun _ => ?_) (fun _ => ?_)
  refine Keeps.upd ?_ rfl ?_ ?_ ?_ ?_
  with_reducible assumption
  exact NvKeeps.refl _
  exact fun w => w
  exact fun w => w
  exact Nat.le_refl _
  with_reducible assumption
  refine Keeps.ite (fun _ => ?_) (fun _ => ?_)
  refine Keeps.upd ?_ rfl ?_ ?_ ?_ ?_
  with_reducible assumption
  exact NvKeeps.refl _
  exact fun w => w
  exact fun w => w
  exact Nat.le_refl _
  with_reducible assumption
  refine Keeps.ite (fun _ => ?_) (fun _ => ?_)
  refine Keeps.upd ?_ rfl ?_ ?_ ?_ ?_
  with_reducible assumption
  exact NvKeeps.refl _
  exact fun w => w
  exact fun w => w
  exact Nat.le_refl _
  with_reducible assumption
  refine Keeps.ite (fun _ => ?_) (fun _ => ?_)
  refine Keeps.upd ?_ rfl ?_ ?_ ?_ ?_
  with_reducible assumption
  exact NvKeeps.refl _
  exact fun w => w
  exact fun w => w
  exact Nat.le_refl _
  with_reducible assumption
  split
  apply State.updHall_keeps
  refine Keeps.ite (fun _ => ?_) (fun _ => ?_)
  refine Keeps.upd ?_ rfl ?_ ?_ ?_ ?_
  with_reducible assumption
  exact NvKeeps.refl _
  exact fun w => w
  exact fun w => w
  exact Nat.le_refl _
  with_reducible assumption
  apply State.updHall_keeps
  refine Keeps.ite (fun _ => ?_) (fun _ => ?_)
  refine Keeps.upd ?_ rfl ?_ ?_ ?_ ?_
  with_reducible assumption
  exact NvKeeps.refl _
  exact fun w => w
  exact fun w => w
  exact Nat.le_refl _
  with_reducible assumption
  apply State.updHall_keeps
  refine Keeps.ite (fun _ => ?_) (fun _ => ?_)
  refine Keeps.upd ?_ rfl ?_ ?_ ?_ ?_
  with_reducible assumption
  exact NvKeeps.refl _
  exact fun w => w
  exact fun w => w
  exact Nat.le_refl _
  with_reducible assumption
  refine Keeps.ite (fun _ => ?_) (fun _ => ?_)
  refine Keeps.upd ?_ rfl ?_ ?_ ?_ ?_
  with_reducible assumption
  exact NvKeeps.refl _
  exact fun w => w
  exact fun w => w
  exact Nat.le_refl _
  with_reducible assumption
  refine Keeps.ite (fun _ => ?_) (fun _ => ?_)
  refine Keeps.upd ?_ rfl ?_ ?_ ?_ ?_
  with_reducible assumption
  exact NvKeeps.refl _
  exact fun w => w
  exact fun w => w
  exact Nat.le_refl _
  with_reducible assumption
  refine Keeps.ite (fun _ => ?_) (fun _ => ?_)
  refine Keeps.upd ?_ rfl ?_ ?_ ?_ ?_
  with_reducible assumption
  exact NvKeeps.refl _
  exact fun w => w
  exact fun w => w
  exact Nat.le_refl _
  with_reducible assumption

theorem State.foldVoices_keeps {s0 s : State} (f : State → Voice → State × Voice) (hf : ∀ t0 t1, Keeps s0 t0 → Keeps s0 (f t0 t1).1) (h : Keeps s0 s) :
    Keeps s0 (State.foldVoices s f) := by
  unfold State.foldVoices
  dsimp only
  refine Keeps.upd ?_ rfl ?_ ?_ ?_ ?_
  refine Keeps.foldlFst (fun _ _ _ => ?_) ?_
  refine Keeps.pair ?_
  apply_assumption
  assumption
  refine Keeps.pair ?_
  with_reducible assumption
  exact NvKeeps.refl _
  exact fun w => w
  exact fun w => w
  exact Nat.le_refl _

theorem State.loseVoice_keeps {s0 s : State} (v : Voice) (n : Nat) (h : Keeps s0 s) :
    Keeps s0 (State.loseVoice s v n).1 := by
  unfold State.loseVoice
  split
  · split <;> exact State.endVoice_keeps _ _ h
  · exact State.endVoice_keeps _ _ h

theorem State.loseTarget_keeps {s0 s : State} (v : Voice) (x : HallEng) (h : Keeps s0 s) :
    Keeps s0 (State.loseTarget s v x).1 := by
  unfold State.loseTarget
  dsimp only
  refine Keeps.iteFst (fun _ => ?_) (fun _ => ?_)
  apply State.loseVoice_keeps
  with_reducible assumption
  refine Keeps.pair ?_
  with_reducible assumption

theorem State.loseEngine_keeps {s0 s : State} (e : Nat) (h : Keeps s0 s) :
    Keeps s0 (State.loseEngine s e) := by
  unfold State.loseEngine
  dsimp only
  apply State.updEng_keeps
  apply State.reapAll_keeps
  refine Keeps.upd ?_ rfl (NvKeeps.refl _) (fun w => w) (fun w => w) (Nat.le_refl _)
  refine State.foldVoices_keeps _ (fun t v ht => ?_) h
  split
  · exact ht
  split
  · exact ht
  split
  · exact State.loseVoice_keeps v _ ht
  split
  · exact State.loseTarget_keeps v _ ht
  · exact ht

theorem State.fenceAgain_keeps {s0 s : State} (g : Fin 8) (cause : Nat) (h : Keeps s0 s) :
    Keeps s0 (State.fenceAgain s g cause) := by
  unfold State.fenceAgain
  dsimp only
  refine Keeps.ite (fun _ => ?_) (fun _ => ?_)
  apply State.raise_keeps
  apply State.fenceAdd_keeps
  apply State.updGal_keeps
  with_reducible assumption
  apply State.updGal_keeps
  with_reducible assumption

theorem State.fenceGallery_keeps {s0 s : State} (g : Fin 8) (cause : Nat) (h : Keeps s0 s) :
    Keeps s0 (State.fenceGallery s g cause) := by
  unfold State.fenceGallery
  refine Keeps.ite (fun _ => ?_) (fun _ => ?_)
  apply State.fenceAgain_keeps
  with_reducible assumption
  dsimp only
  apply State.raise_keeps
  apply State.fenceAdd_keeps
  apply State.updGal_keeps
  refine Keeps.foldl (fun _ _ _ => ?_) ?_
  refine Keeps.ite (fun _ => ?_) (fun _ => ?_)
  with_reducible assumption
  apply State.loseEngine_keeps
  with_reducible assumption
  with_reducible assumption

theorem State.noteFenced_keeps {s0 s : State} (e : Fin 64) (h : Keeps s0 s) :
    Keeps s0 (State.noteFenced s e) := by
  unfold State.noteFenced
  dsimp only
  refine Keeps.ite (fun _ => ?_) (fun _ => ?_)
  apply State.fenceGallery_keeps
  apply State.updGal_keeps
  with_reducible assumption
  apply State.updGal_keeps
  with_reducible assumption

theorem State.fenceEngine_keeps {s0 s : State} (e : Fin 64) (cause : Nat) (h : Keeps s0 s) :
    Keeps s0 (State.fenceEngine s e cause) := by
  unfold State.fenceEngine
  refine Keeps.ite (fun _ => ?_) (fun _ => ?_)
  with_reducible assumption
  dsimp only
  apply State.noteFenced_keeps
  apply State.raise_keeps
  apply State.fenceAdd_keeps
  apply State.updEng_keeps
  refine Keeps.ite (fun _ => ?_) (fun _ => ?_)
  with_reducible assumption
  apply State.loseEngine_keeps
  with_reducible assumption

theorem State.fenceHall_keeps {s0 s : State} (h' : Fin 8) (cause : Nat) (h : Keeps s0 s) :
    Keeps s0 (State.fenceHall s h' cause) := by
  unfold State.fenceHall
  dsimp only
  refine Keeps.ite (fun _ => ?_) (fun _ => ?_)
  with_reducible assumption
  apply State.fenceAdd_keeps
  apply State.updHall_keeps
  with_reducible assumption

theorem State.hallFenceAt_keeps {s0 s : State} (h' : Fin 8) (m : Nat) (h : Keeps s0 s) :
    Keeps s0 (State.hallFenceAt s h' m) := by
  unfold State.hallFenceAt
  dsimp only
  split
  split
  apply State.endWait_keeps
  apply State.specReleaseHall_keeps
  apply State.reap_keeps
  apply State.updHall_keeps
  apply State.mapVoices_keeps
  with_reducible assumption
  apply State.endWait_keeps
  apply State.specReleaseHall_keeps
  apply State.reap_keeps
  apply State.updHall_keeps
  apply State.mapVoices_keeps
  with_reducible assumption
  apply State.endWait_keeps
  apply State.specReleaseHall_keeps
  apply State.reap_keeps
  apply State.updHall_keeps
  apply State.mapVoices_keeps
  with_reducible assumption
  apply State.specReleaseHall_keeps
  apply State.reap_keeps
  apply State.updHall_keeps
  apply State.mapVoices_keeps
  with_reducible assumption
  apply State.specReleaseHall_keeps
  apply State.reap_keeps
  apply State.updHall_keeps
  apply State.mapVoices_keeps
  with_reducible assumption

theorem State.zeroRings_keeps {s0 s : State} (h' : Fin 8) (h : Keeps s0 s) :
    Keeps s0 (State.zeroRings s h') := by
  unfold State.zeroRings
  dsimp only
  apply State.updRing_keeps
  refine Keeps.upd ?_ rfl ?_ ?_ ?_ ?_
  with_reducible assumption
  exact NvKeeps.refl _
  intro _
  with_reducible apply Memory.wf_clear
  assumption
  exact fun w => w
  exact Nat.le_refl _

theorem State.liftHall_keeps {s0 s : State} (h' : Fin 8) (h : Keeps s0 s) :
    Keeps s0 (State.liftHall s h') := by
  unfold State.liftHall
  dsimp only
  apply State.pump_keeps
  apply State.fenceLift_keeps
  apply State.updHall_keeps
  apply State.zeroRings_keeps
  with_reducible assumption

theorem State.outFenced_keeps {s0 s : State} (n : Fin 64) (cause : Nat) (h : Keeps s0 s) :
    Keeps s0 (State.outFenced s n cause) := by
  unfold State.outFenced
  dsimp only
  refine Keeps.foldl (fun _ _ _ => ?_) ?_
  apply State.unitNotice_keeps
  with_reducible assumption
  apply State.fenceAdd_keeps
  apply State.outErr_keeps
  with_reducible assumption

theorem State.fenceOut_keeps {s0 s : State} (n : Fin 64) (h : Keeps s0 s) :
    Keeps s0 (State.fenceOut s n) := by
  unfold State.fenceOut
  dsimp only
  refine Keeps.ite (fun _ => ?_) (fun _ => ?_)
  with_reducible assumption
  apply State.outFenced_keeps
  apply State.updOut_keeps
  with_reducible assumption

theorem State.liftOut_keeps {s0 s : State} (n : Fin 64) (h : Keeps s0 s) :
    Keeps s0 (State.liftOut s n) := by
  unfold State.liftOut
  dsimp only
  refine Keeps.foldl (fun _ _ _ => ?_) ?_
  apply State.unitNotice_keeps
  with_reducible assumption
  apply State.fenceLift_keeps
  apply State.updOut_keeps
  with_reducible assumption

theorem State.liftPort_keeps {s0 s : State} (p : Fin 2) (h : Keeps s0 s) :
    Keeps s0 (State.liftPort s p) := by
  unfold State.liftPort
  refine Keeps.ite (fun _ => ?_) (fun _ => ?_)
  apply State.irqEval_keeps
  apply State.fenceLift_keeps
  apply State.updPort_keeps
  with_reducible assumption
  with_reducible assumption

theorem State.liftSer_keeps {s0 s : State} (n : Fin 4) (h : Keeps s0 s) :
    Keeps s0 (State.liftSer s n) := by
  unfold State.liftSer
  refine Keeps.ite (fun _ => ?_) (fun _ => ?_)
  apply State.fenceLift_keeps
  apply State.log_keeps
  apply State.updSer_keeps
  with_reducible assumption
  with_reducible assumption

theorem State.liftUnit_keeps {s0 s : State} (kind : Nat) (index : Nat) (h : Keeps s0 s) :
    Keeps s0 (State.liftUnit s kind index) := by
  unfold State.liftUnit
  dsimp only
  refine Keeps.ite (fun _ => ?_) (fun _ => ?_)
  refine Keeps.upd ?_ rfl ?_ ?_ ?_ ?_
  with_reducible assumption
  exact NvKeeps.refl _
  exact fun w => w
  exact fun w => w
  exact Nat.le_refl _
  refine Keeps.ite (fun _ => ?_) (fun _ => ?_)
  refine Keeps.upd ?_ rfl ?_ ?_ ?_ ?_
  with_reducible assumption
  exact NvKeeps.refl _
  exact fun w => w
  exact fun w => w
  exact Nat.le_refl _
  split
  refine Keeps.upd ?_ rfl ?_ ?_ ?_ ?_
  apply State.updEng_keeps
  with_reducible assumption
  exact NvKeeps.refl _
  exact fun w => w
  exact fun w => w
  exact Nat.le_refl _
  refine Keeps.ite (fun _ => ?_) (fun _ => ?_)
  refine Keeps.upd ?_ rfl ?_ ?_ ?_ ?_
  with_reducible assumption
  exact NvKeeps.refl _
  exact fun w => w
  exact fun w => w
  exact Nat.le_refl _
  refine Keeps.upd ?_ rfl ?_ ?_ ?_ ?_
  apply State.fenceLift_keeps
  apply State.updGal_keeps
  with_reducible assumption
  exact NvKeeps.refl _
  exact fun w => w
  exact fun w => w
  exact Nat.le_refl _
  refine Keeps.upd ?_ rfl ?_ ?_ ?_ ?_
  apply State.liftHall_keeps
  with_reducible assumption
  exact NvKeeps.refl _
  exact fun w => w
  exact fun w => w
  exact Nat.le_refl _
  refine Keeps.upd ?_ rfl ?_ ?_ ?_ ?_
  apply State.liftPort_keeps
  with_reducible assumption
  exact NvKeeps.refl _
  exact fun w => w
  exact fun w => w
  exact Nat.le_refl _
  refine Keeps.upd ?_ rfl ?_ ?_ ?_ ?_
  apply State.liftSer_keeps
  with_reducible assumption
  exact NvKeeps.refl _
  exact fun w => w
  exact fun w => w
  exact Nat.le_refl _
  refine Keeps.upd ?_ rfl ?_ ?_ ?_ ?_
  apply State.liftOut_keeps
  with_reducible assumption
  exact NvKeeps.refl _
  exact fun w => w
  exact fun w => w
  exact Nat.le_refl _
  refine Keeps.upd ?_ rfl ?_ ?_ ?_ ?_
  apply State.fenceLift_keeps
  with_reducible assumption
  exact NvKeeps.refl _
  exact fun w => w
  exact fun w => w
  exact Nat.le_refl _

theorem State.fenceUnit_keeps {s0 s : State} (kind : Nat) (index : Nat) (h : Keeps s0 s) :
    Keeps s0 (State.fenceUnit s kind index) := by
  unfold State.fenceUnit
  dsimp only
  refine Keeps.ite (fun _ => ?_) (fun _ => ?_)
  refine Keeps.upd ?_ rfl ?_ ?_ ?_ ?_
  with_reducible assumption
  exact NvKeeps.refl _
  exact fun w => w
  exact fun w => w
  exact Nat.le_refl _
  refine Keeps.ite (fun _ => ?_) (fun _ => ?_)
  refine Keeps.upd ?_ rfl ?_ ?_ ?_ ?_
  with_reducible assumption
  exact NvKeeps.refl _
  exact fun w => w
  exact fun w => w
  exact Nat.le_refl _
  split
  refine Keeps.upd ?_ rfl ?_ ?_ ?_ ?_
  apply State.updEng_keeps
  with_reducible assumption
  exact NvKeeps.refl _
  exact fun w => w
  exact fun w => w
  exact Nat.le_refl _
  refine Keeps.upd ?_ rfl ?_ ?_ ?_ ?_
  apply State.updGal_keeps
  with_reducible assumption
  exact NvKeeps.refl _
  exact fun w => w
  exact fun w => w
  exact Nat.le_refl _
  refine Keeps.ite (fun _ => ?_) (fun _ => ?_)
  refine Keeps.upd ?_ rfl ?_ ?_ ?_ ?_
  apply State.fenceHall_keeps
  with_reducible assumption
  exact NvKeeps.refl _
  exact fun w => w
  exact fun w => w
  exact Nat.le_refl _
  refine Keeps.upd ?_ rfl ?_ ?_ ?_ ?_
  with_reducible assumption
  exact NvKeeps.refl _
  exact fun w => w
  exact fun w => w
  exact Nat.le_refl _
  refine Keeps.upd ?_ rfl ?_ ?_ ?_ ?_
  apply State.fenceOut_keeps
  with_reducible assumption
  exact NvKeeps.refl _
  exact fun w => w
  exact fun w => w
  exact Nat.le_refl _

theorem State.fenceCtrl_keeps {s0 s : State} (v : Word) (h : Keeps s0 s) :
    Keeps s0 (State.fenceCtrl s v) := by
  unfold State.fenceCtrl
  refine Keeps.ite (fun _ => ?_) (fun _ => ?_)
  with_reducible assumption
  refine Keeps.ite (fun _ => ?_) (fun _ => ?_)
  apply State.fenceUnit_keeps
  with_reducible assumption
  apply State.liftUnit_keeps
  with_reducible assumption

theorem State.fenceDone_keeps {s0 s : State} (code : Nat) (h : Keeps s0 s) :
    Keeps s0 (State.fenceDone s code) := by
  unfold State.fenceDone
  dsimp only
  refine Keeps.foldl (fun _ _ _ => ?_) ?_
  split
  split
  apply State.endWait_keeps
  with_reducible assumption
  with_reducible assumption
  with_reducible assumption
  refine Keeps.upd ?_ rfl ?_ ?_ ?_ ?_
  with_reducible assumption
  exact NvKeeps.refl _
  exact fun w => w
  exact fun w => w
  exact Nat.le_refl _

theorem State.poisoned_keeps {s0 s : State} (x : Nat × Bool) (h : Keeps s0 s) :
    Keeps s0 (State.poisoned s x) := by
  unfold State.poisoned
  dsimp only
  refine Keeps.ite (fun _ => ?_) (fun _ => ?_)
  apply State.fenceAdd_keeps
  split
  apply State.pageNotice_keeps
  apply State.guar_keeps
  apply State.log_keeps
  with_reducible assumption
  apply State.guar_keeps
  apply State.log_keeps
  with_reducible assumption
  split
  apply State.pageNotice_keeps
  apply State.guar_keeps
  apply State.log_keeps
  with_reducible assumption
  apply State.guar_keeps
  apply State.log_keeps
  with_reducible assumption

theorem State.retiredPage_keeps {s0 s : State} (p : Nat) (h : Keeps s0 s) :
    Keeps s0 (State.retiredPage s p) := by
  have k : ∀ u : State, Keeps s0 u → Keeps s0 (if u.nv.retired.contains p then u
      else if u.nv.retired.length < 64 then u.updRec sectorRetired fun n => { n with retired := n.retired ++ [p] }
      else ({ u with mem := { u.mem with listFull := true } }.raise 116)) := by
    intro u k
    refine Keeps.ite (fun _ => k) (fun _ => Keeps.ite (fun _ => ?_) (fun _ => ?_))
    · exact State.updRec_keeps _ _ ⟨rfl, rfl, fun w => ⟨Nat.le_refl _, w⟩, Nat.le_refl _, fun q hq => List.mem_append_left _ hq⟩ k
    · exact State.raise_keeps _ (Keeps.upd k rfl (NvKeeps.refl _) (fun w => w) (fun w => w) (Nat.le_refl _))
  unfold State.retiredPage
  refine k _ ?_
  split
  · exact State.pageNotice_keeps _ _ _ _ (State.fenceLift_keeps _ _ (State.raise_keeps _ (State.log_keeps _ _ _ h)))
  · exact State.fenceLift_keeps _ _ (State.raise_keeps _ (State.log_keeps _ _ _ h))

theorem State.memDo_keeps {s0 s : State} (x : WaveMem × MemEvents) (hx : s.mem.wf = true → x.1.wf = true) (h : Keeps s0 s) :
    Keeps s0 (s.memDo x) := by
  unfold State.memDo
  refine Keeps.foldl (fun t p k => State.retiredPage_keeps p k) (Keeps.foldl (fun t p k => State.poisoned_keeps p k) ?_)
  exact State.memRaise_keeps _ (Keeps.upd h rfl (NvKeeps.refl _) (fun w => w) hx (Nat.le_refl _))

theorem State.zeroHist_keeps {s0 s : State} (b : Nat) (k : Fin 8) (h : Keeps s0 s) :
    Keeps s0 (State.zeroHist s b k) := by
  unfold State.zeroHist
  dsimp only
  apply State.updSpec_keeps
  refine Keeps.foldl (fun _ _ _ => ?_) ?_
  apply State.memDo_keeps
  intro _
  with_reducible apply WaveMem.wf_writeBytes
  assumption
  with_reducible assumption
  with_reducible assumption

theorem State.specResume_keeps {s0 s : State}  (h : Keeps s0 s) :
    Keeps s0 (State.specResume s) := by
  unfold State.specResume
  refine Keeps.ite (fun _ => ?_) (fun _ => ?_)
  with_reducible assumption
  dsimp only
  refine Keeps.foldl (fun _ _ _ => ?_) ?_
  apply State.zeroHist_keeps
  with_reducible assumption
  refine Keeps.upd ?_ rfl ?_ ?_ ?_ ?_
  with_reducible assumption
  exact NvKeeps.refl _
  exact fun w => w
  exact fun w => w
  exact Nat.le_refl _

theorem State.specCtrl_keeps {s0 s : State} (v : Word) (h : Keeps s0 s) :
    Keeps s0 (State.specCtrl s v) := by
  unfold State.specCtrl
  refine Keeps.ite (fun _ => ?_) (fun _ => ?_)
  apply State.specResume_keeps
  with_reducible assumption
  with_reducible assumption

end Sys2Proof.Machine
end

