-- ==== Sys2Proof/Laws/KeepsWrites.lean ====
section
/-! SUPPORT. What the operations of Machine/Writes.lean keep (Laws/Keeps.lean). -/

namespace Sys2Proof.Machine

theorem State.schedCfg_keeps {s0 s : State} (v : Word) (h : Keeps s0 s) :
    Keeps s0 (State.schedCfg s v) := by
  unfold State.schedCfg
  refine Keeps.ite (fun _ => ?_) (fun _ => ?_)
  with_reducible assumption
  dsimp only
  refine Keeps.ite (fun _ => ?_) (fun _ => ?_)
  refine Keeps.upd ?_ rfl ?_ ?_ ?_ ?_
  with_reducible assumption
  exact NvKeeps.refl _
  exact fun w => w
  exact fun w => w
  exact Nat.le_refl _
  refine Keeps.ite (fun _ => ?_) (fun _ => ?_)
  refine Keeps.upd ?_ rfl ?_ ?_ ?_ ?_
  with_reducible assumption
  exact NvKeeps.refl _
  exact fun w => w
  exact fun w => w
  exact Nat.le_refl _
  apply State.log_keeps
  apply State.timeErr_keeps
  refine Keeps.upd ?_ rfl ?_ ?_ ?_ ?_
  with_reducible assumption
  exact NvKeeps.refl _
  exact fun w => w
  exact fun w => w
  exact Nat.le_refl _

theorem State.measSet_keeps {s0 s : State} (en : Bool) (h : Keeps s0 s) :
    Keeps s0 (State.measSet s en) := by
  unfold State.measSet
  refine Keeps.ite (fun _ => ?_) (fun _ => ?_)
  apply State.guar_keeps
  refine Keeps.upd ?_ rfl ?_ ?_ ?_ ?_
  with_reducible assumption
  exact NvKeeps.refl _
  exact fun w => w
  exact fun w => w
  exact Nat.le_refl _
  refine Keeps.ite (fun _ => ?_) (fun _ => ?_)
  with_reducible assumption
  refine Keeps.upd ?_ rfl ?_ ?_ ?_ ?_
  with_reducible assumption
  exact NvKeeps.refl _
  exact fun w => w
  exact fun w => w
  exact Nat.le_refl _

theorem State.setMargin_keeps {s0 s : State} (m : Nat) (h : Keeps s0 s) :
    Keeps s0 (State.setMargin s m) := by
  unfold State.setMargin
  refine Keeps.upd ?_ rfl ?_ ?_ ?_ ?_
  with_reducible assumption
  exact NvKeeps.refl _
  exact fun w => w
  exact fun w => w
  exact Nat.le_refl _

theorem State.measCtrl_keeps {s0 s : State} (i : Initiator) (v : Word) (h : Keeps s0 s) :
    Keeps s0 (State.measCtrl s i v) := by
  unfold State.measCtrl
  dsimp only
  refine Keeps.ite (fun _ => ?_) (fun _ => ?_)
  apply State.measSet_keeps
  apply State.setMargin_keeps
  with_reducible assumption
  apply State.setMargin_keeps
  with_reducible assumption

theorem State.muteNow_keeps {s0 s : State}  (h : Keeps s0 s) :
    Keeps s0 (State.muteNow s) := by
  unfold State.muteNow
  refine Keeps.ite (fun _ => ?_) (fun _ => ?_)
  refine Keeps.upd ?_ rfl ?_ ?_ ?_ ?_
  with_reducible assumption
  exact NvKeeps.refl _
  exact fun w => w
  exact fun w => w
  exact Nat.le_refl _
  with_reducible assumption

theorem State.muteOff_keeps {s0 s : State}  (h : Keeps s0 s) :
    Keeps s0 (State.muteOff s) := by
  unfold State.muteOff
  refine Keeps.upd ?_ rfl ?_ ?_ ?_ ?_
  with_reducible assumption
  exact NvKeeps.refl _
  exact fun w => w
  exact fun w => w
  exact Nat.le_refl _

theorem State.dacCtrl_keeps {s0 s : State} (i : Initiator) (v : Word) (h : Keeps s0 s) :
    Keeps s0 (State.dacCtrl s i v) := by
  unfold State.dacCtrl
  dsimp only
  refine Keeps.ite (fun _ => ?_) (fun _ => ?_)
  apply State.muteNow_keeps
  refine Keeps.upd ?_ rfl ?_ ?_ ?_ ?_
  apply State.dacWrite_keeps
  with_reducible assumption
  exact NvKeeps.refl _
  exact fun w => w
  exact fun w => w
  exact Nat.le_refl _
  apply State.dacWrite_keeps
  with_reducible assumption

theorem State.dacChCtrl_keeps {s0 s : State} (n : Fin 16) (v : Word) (h : Keeps s0 s) :
    Keeps s0 (State.dacChCtrl s n v) := by
  unfold State.dacChCtrl
  refine Keeps.ite (fun _ => ?_) (fun _ => ?_)
  with_reducible assumption
  dsimp only
  refine Keeps.ite (fun _ => ?_) (fun _ => ?_)
  apply State.dacErr_keeps
  apply State.updDac_keeps
  with_reducible assumption
  apply State.updDac_keeps
  with_reducible assumption

theorem State.resCtrl_keeps {s0 s : State} (c : Fin 4) (v : Word) (h : Keeps s0 s) :
    Keeps s0 (State.resCtrl s c v) := by
  unfold State.resCtrl
  refine Keeps.ite (fun _ => ?_) (fun _ => ?_)
  refine Keeps.upd ?_ rfl ?_ ?_ ?_ ?_
  with_reducible assumption
  exact NvKeeps.refl _
  exact fun w => w
  exact fun w => w
  exact Nat.le_refl _
  with_reducible assumption

theorem State.prioSet_keeps {s0 s : State} (c : Fin 4) (second : Bool) (v : Word) (h : Keeps s0 s) :
    Keeps s0 (State.prioSet s c second v) := by
  unfold State.prioSet
  refine Keeps.upd ?_ rfl ?_ ?_ ?_ ?_
  with_reducible assumption
  exact NvKeeps.refl _
  exact fun w => w
  exact fun w => w
  exact Nat.le_refl _

theorem State.newTail_keeps {s0 s : State} (h' : Fin 8) (t' : BitVec 16) (h : Keeps s0 s) :
    Keeps s0 (State.newTail s h' t').1 := by
  unfold State.newTail
  dsimp only
  refine Keeps.iteFst (fun _ => ?_) (fun _ => ?_)
  refine Keeps.pair ?_
  with_reducible assumption
  refine Keeps.iteFst (fun _ => ?_) (fun _ => ?_)
  refine Keeps.pair ?_
  apply State.raise_keeps
  apply State.updRing_keeps
  with_reducible assumption
  refine Keeps.pair ?_
  apply State.updRing_keeps
  with_reducible assumption

theorem State.hallDb_keeps {s0 s : State} (i : Initiator) (h' : Fin 8) (v : Word) (h : Keeps s0 s) :
    Keeps s0 (State.hallDb s i h' v) := by
  unfold State.hallDb
  refine Keeps.ite (fun _ => ?_) (fun _ => ?_)
  apply State.newTail_keeps
  with_reducible assumption
  with_reducible assumption

theorem State.closePort_keeps {s0 s : State} (p : Fin 2) (h : Keeps s0 s) :
    Keeps s0 (State.closePort s p) := by
  unfold State.closePort
  refine Keeps.ite (fun _ => ?_) (fun _ => ?_)
  with_reducible assumption
  dsimp only
  apply State.irqEval_keeps
  apply State.updPort_keeps
  refine Keeps.ite (fun _ => ?_) (fun _ => ?_)
  apply State.fenceLift_keeps
  with_reducible assumption
  with_reducible assumption

theorem State.portCtrl_keeps {s0 s : State} (i : Initiator) (p : Fin 2) (v : Word) (h : Keeps s0 s) :
    Keeps s0 (State.portCtrl s i p v) := by
  unfold State.portCtrl
  refine Keeps.ite (fun _ => ?_) (fun _ => ?_)
  with_reducible assumption
  dsimp only
  refine Keeps.ite (fun _ => ?_) (fun _ => ?_)
  apply State.closePort_keeps
  refine Keeps.ite (fun _ => ?_) (fun _ => ?_)
  apply State.liftPort_keeps
  with_reducible assumption
  with_reducible assumption
  refine Keeps.ite (fun _ => ?_) (fun _ => ?_)
  apply State.liftPort_keeps
  with_reducible assumption
  with_reducible assumption

theorem State.serCtrl_keeps {s0 s : State} (i : Initiator) (n : Fin 4) (v : Word) (h : Keeps s0 s) :
    Keeps s0 (State.serCtrl s i n v) := by
  unfold State.serCtrl
  dsimp only
  refine Keeps.ite (fun _ => ?_) (fun _ => ?_)
  apply State.liftSer_keeps
  refine Keeps.ite (fun _ => ?_) (fun _ => ?_)
  apply State.updSer_keeps
  apply State.serWrite_keeps
  with_reducible assumption
  apply State.serWrite_keeps
  with_reducible assumption
  refine Keeps.ite (fun _ => ?_) (fun _ => ?_)
  apply State.updSer_keeps
  apply State.serWrite_keeps
  with_reducible assumption
  apply State.serWrite_keeps
  with_reducible assumption

theorem State.serTx_keeps {s0 s : State} (n : Fin 4) (v : Word) (h : Keeps s0 s) :
    Keeps s0 (State.serTx s n v) := by
  unfold State.serTx
  dsimp only
  refine Keeps.ite (fun _ => ?_) (fun _ => ?_)
  apply State.updSer_keeps
  with_reducible assumption
  with_reducible assumption

theorem State.conInput_keeps {s0 s : State} (n : Fin 4) (h : Keeps s0 s) :
    Keeps s0 (State.conInput s n) := by
  unfold State.conInput
  split
  refine Keeps.ite (fun _ => ?_) (fun _ => ?_)
  apply State.updMgmt_keeps
  with_reducible assumption
  with_reducible assumption
  with_reducible assumption

theorem State.serRx_keeps {s0 s : State} (i : Initiator) (n : Fin 4) (h : Keeps s0 s) :
    Keeps s0 (State.serRx s i n).1 := by
  unfold State.serRx
  dsimp only
  split
  refine Keeps.pair ?_
  with_reducible assumption
  refine Keeps.iteFst (fun _ => ?_) (fun _ => ?_)
  refine Keeps.pair ?_
  apply State.serErr_keeps
  apply State.conInput_keeps
  refine Keeps.upd ?_ rfl ?_ ?_ ?_ ?_
  with_reducible assumption
  exact NvKeeps.refl _
  exact fun w => w
  exact fun w => w
  exact Nat.le_refl _
  refine Keeps.pair ?_
  refine Keeps.upd ?_ rfl ?_ ?_ ?_ ?_
  with_reducible assumption
  exact NvKeeps.refl _
  exact fun w => w
  exact fun w => w
  exact Nat.le_refl _

theorem State.timeGo_keeps {s0 s : State} (v : Word) (h : Keeps s0 s) :
    Keeps s0 (State.timeGo s v) := by
  unfold State.timeGo
  refine Keeps.upd ?_ rfl ?_ ?_ ?_ ?_
  with_reducible assumption
  exact NvKeeps.refl _
  exact fun w => w
  exact fun w => w
  exact Nat.le_refl _

theorem State.readTmr_keeps {s0 s : State} (n : Fin 16) (h : Keeps s0 s) :
    Keeps s0 (State.readTmr s n).1 := by
  unfold State.readTmr
  dsimp only
  refine Keeps.upd ?_ rfl ?_ ?_ ?_ ?_
  with_reducible assumption
  exact NvKeeps.refl _
  exact fun w => w
  exact fun w => w
  exact Nat.le_refl _

theorem State.readTrg_keeps {s0 s : State} (t' : Fin 8) (h : Keeps s0 s) :
    Keeps s0 (State.readTrg s t').1 := by
  unfold State.readTrg
  dsimp only
  apply State.updTrg_keeps
  with_reducible assumption

theorem State.healthy_keeps {s0 s : State}  (h : Keeps s0 s) :
    Keeps s0 (State.healthy s) := by
  unfold State.healthy
  refine Keeps.ite (fun _ => ?_) (fun _ => ?_)
  with_reducible assumption
  refine Keeps.upd ?_ rfl ?_ ?_ ?_ ?_
  with_reducible assumption
  exact NvKeeps.refl _
  exact fun w => w
  exact fun w => w
  exact Nat.le_refl _

theorem State.irqDb_keeps {s0 s : State} (v : Word) (h : Keeps s0 s) :
    Keeps s0 (State.irqDb s v) := by
  unfold State.irqDb
  dsimp only
  refine Keeps.ite (fun _ => ?_) (fun _ => ?_)
  apply State.healthy_keeps
  refine Keeps.upd ?_ rfl ?_ ?_ ?_ ?_
  with_reducible assumption
  exact NvKeeps.refl _
  exact fun w => w
  exact fun w => w
  exact Nat.le_refl _
  refine Keeps.upd ?_ rfl ?_ ?_ ?_ ?_
  with_reducible assumption
  exact NvKeeps.refl _
  exact fun w => w
  exact fun w => w
  exact Nat.le_refl _

theorem State.irqAckBy_keeps {s0 s : State} (t' : Fin 3) (h : Keeps s0 s) :
    Keeps s0 (State.irqAckBy s t').1 := by
  unfold State.irqAckBy
  dsimp only
  refine Keeps.upd ?_ rfl ?_ ?_ ?_ ?_
  with_reducible assumption
  exact NvKeeps.refl _
  exact fun w => w
  exact fun w => w
  exact Nat.le_refl _

theorem State.irqEoiBy_keeps {s0 s : State} (t' : Fin 3) (v : Word) (h : Keeps s0 s) :
    Keeps s0 (State.irqEoiBy s t' v) := by
  unfold State.irqEoiBy
  refine Keeps.upd ?_ rfl ?_ ?_ ?_ ?_
  with_reducible assumption
  exact NvKeeps.refl _
  exact fun w => w
  exact fun w => w
  exact Nat.le_refl _

theorem State.irqCfg_keeps {s0 s : State} (v : Word) (h : Keeps s0 s) :
    Keeps s0 (State.irqCfg s v) := by
  unfold State.irqCfg
  refine Keeps.upd ?_ rfl ?_ ?_ ?_ ?_
  with_reducible assumption
  exact NvKeeps.refl _
  exact fun w => w
  exact fun w => w
  exact Nat.le_refl _

theorem State.irqRoute_keeps {s0 s : State} (n : Nat) (v : Word) (h : Keeps s0 s) :
    Keeps s0 (State.irqRoute s n v) := by
  unfold State.irqRoute
  refine Keeps.upd ?_ rfl ?_ ?_ ?_ ?_
  with_reducible assumption
  exact NvKeeps.refl _
  exact fun w => w
  exact fun w => w
  exact Nat.le_refl _

theorem State.alcoveErase_keeps {s0 s : State} (a : Nat) (n : Nat) (h : Keeps s0 s) :
    Keeps s0 (State.alcoveErase s a n) := by
  unfold State.alcoveErase
  apply State.updMgmt_keeps
  with_reducible assumption

theorem State.erasePkg_keeps {s0 s : State} (h' : Fin 8) (h : Keeps s0 s) :
    Keeps s0 (State.erasePkg s h') := by
  unfold State.erasePkg
  apply State.updMgmt_keeps
  apply State.alcoveErase_keeps
  with_reducible assumption

theorem State.openSession_keeps {s0 s : State} (n : Fin 4) (h : Keeps s0 s) :
    Keeps s0 (State.openSession s n) := by
  unfold State.openSession
  dsimp only
  refine Keeps.upd ?_ rfl ?_ ?_ ?_ ?_
  apply State.updMgmt_keeps
  with_reducible assumption
  exact NvKeeps.refl _
  exact fun w => w
  exact fun w => w
  exact Nat.le_succ _

theorem State.endSession_keeps {s0 s : State}  (h : Keeps s0 s) :
    Keeps s0 (State.endSession s) := by
  unfold State.endSession
  apply State.updMgmt_keeps
  apply State.alcoveErase_keeps
  with_reducible assumption

theorem State.alcoveWipe_keeps {s0 s : State} (why : WipeWhy) (h : Keeps s0 s) :
    Keeps s0 (State.alcoveWipe s why) := by
  unfold State.alcoveWipe
  dsimp only
  refine Keeps.ite (fun _ => ?_) (fun _ => ?_)
  apply State.raiseIf_keeps
  apply State.updMgmt_keeps
  with_reducible assumption
  apply State.log_keeps
  apply State.raiseIf_keeps
  apply State.updMgmt_keeps
  with_reducible assumption

theorem State.alcCtrl_keeps {s0 s : State} (v : Word) (h : Keeps s0 s) :
    Keeps s0 (State.alcCtrl s v) := by
  unfold State.alcCtrl
  dsimp only
  refine Keeps.ite (fun _ => ?_) (fun _ => ?_)
  apply State.alcoveWipe_keeps
  apply State.updMgmt_keeps
  with_reducible assumption
  apply State.updMgmt_keeps
  with_reducible assumption

theorem State.switch_keeps {s0 s : State} (d : Fin 16) (on : Bool) (h : Keeps s0 s) :
    Keeps s0 (State.switch s d on) := by
  unfold State.switch
  refine Keeps.ite (fun _ => ?_) (fun _ => ?_)
  apply State.switchOn_keeps
  with_reducible assumption
  dsimp only
  apply State.muteNow_keeps
  apply State.switchOff_keeps
  refine Keeps.ite (fun _ => ?_) (fun _ => ?_)
  apply State.updGal_keeps
  with_reducible assumption
  with_reducible assumption

theorem State.pwrCtrl_keeps {s0 s : State} (d : Fin 16) (v : Word) (h : Keeps s0 s) :
    Keeps s0 (State.pwrCtrl s d v) := by
  unfold State.pwrCtrl
  dsimp only
  refine Keeps.ite (fun _ => ?_) (fun _ => ?_)
  refine Keeps.ite (fun _ => ?_) (fun _ => ?_)
  apply State.updDom_keeps
  with_reducible assumption
  with_reducible assumption
  refine Keeps.ite (fun _ => ?_) (fun _ => ?_)
  apply State.switch_keeps
  refine Keeps.ite (fun _ => ?_) (fun _ => ?_)
  apply State.updDom_keeps
  with_reducible assumption
  with_reducible assumption
  apply State.pwrErr_keeps
  refine Keeps.ite (fun _ => ?_) (fun _ => ?_)
  apply State.updDom_keeps
  with_reducible assumption
  with_reducible assumption

end Sys2Proof.Machine
end

