-- ==== Sys2Proof/Laws/KeepsBus.lean ====
section
/-! SUPPORT. What the operations of Machine/Bus.lean keep (Laws/Keeps.lean). -/

namespace Sys2Proof.Machine

theorem State.sizeErr_keeps {s0 s : State} (a : Nat) (h : Keeps s0 s) :
    Keeps s0 (State.sizeErr s a) := by
  unfold State.sizeErr
  apply State.sysErr_keeps
  with_reducible assumption

theorem State.unmappedErr_keeps {s0 s : State} (a : Nat) (h : Keeps s0 s) :
    Keeps s0 (State.unmappedErr s a) := by
  unfold State.unmappedErr
  apply State.sysErr_keeps
  with_reducible assumption

theorem State.deniedErr_keeps {s0 s : State} (a : Nat) (h : Keeps s0 s) :
    Keeps s0 (State.deniedErr s a) := by
  unfold State.deniedErr
  apply State.log_keeps
  apply State.sysErr_keeps
  with_reducible assumption

theorem State.offErr_keeps {s0 s : State} (a : Nat) (h : Keeps s0 s) :
    Keeps s0 (State.offErr s a) := by
  unfold State.offErr
  apply State.pwrErr_keeps
  refine Keeps.upd ?_ rfl ?_ ?_ ?_ ?_
  with_reducible assumption
  exact NvKeeps.refl _
  exact fun w => w
  exact fun w => w
  exact Nat.le_refl _

theorem State.reachErr_keeps {s0 s : State} (a : Nat) (x2 : Reach) (h : Keeps s0 s) :
    Keeps s0 (State.reachErr s a x2) := by
  unfold State.reachErr
  split
  apply State.sizeErr_keeps
  with_reducible assumption
  apply State.unmappedErr_keeps
  with_reducible assumption
  apply State.deniedErr_keeps
  with_reducible assumption
  apply State.offErr_keeps
  with_reducible assumption
  with_reducible assumption

theorem State.pairLo_keeps {s0 s : State} (b : Block) (off : Nat) (a : Nat) (h : Keeps s0 s) :
    Keeps s0 (State.pairLo s b off a).1 := by
  unfold State.pairLo
  refine Keeps.pair ?_
  refine Keeps.upd ?_ rfl ?_ ?_ ?_ ?_
  with_reducible assumption
  exact NvKeeps.refl _
  exact fun w => w
  exact fun w => w
  exact Nat.le_refl _

theorem State.pairHi_keeps {s0 s : State} (b : Block) (off : Nat) (a : Nat) (h : Keeps s0 s) :
    Keeps s0 (State.pairHi s b off a).1 := by
  unfold State.pairHi
  split
  refine Keeps.pair ?_
  refine Keeps.upd ?_ rfl ?_ ?_ ?_ ?_
  with_reducible assumption
  exact NvKeeps.refl _
  exact fun w => w
  exact fun w => w
  exact Nat.le_refl _
  refine Keeps.pair ?_
  with_reducible assumption

theorem State.pairHold_keeps {s0 s : State} (a : Nat) (v : Word) (h : Keeps s0 s) :
    Keeps s0 (State.pairHold s a v) := by
  unfold State.pairHold
  refine Keeps.upd ?_ rfl ?_ ?_ ?_ ?_
  with_reducible assumption
  exact NvKeeps.refl _
  exact fun w => w
  exact fun w => w
  exact Nat.le_refl _

theorem State.pairCommit_keeps {s0 s : State} (b : Block) (off : Nat) (a : Nat) (v : Word) (h : Keeps s0 s) :
    Keeps s0 (State.pairCommit s b off a v) := by
  unfold State.pairCommit
  split
  apply State.regPut_keeps
  apply State.regPut_keeps
  refine Keeps.upd ?_ rfl ?_ ?_ ?_ ?_
  with_reducible assumption
  exact NvKeeps.refl _
  exact fun w => w
  exact fun w => w
  exact Nat.le_refl _
  apply State.regPut_keeps
  with_reducible assumption

theorem State.sramWord_keeps {s0 s : State} (off : Nat) (h : Keeps s0 s) :
    Keeps s0 (State.sramWord s off).1 := by
  unfold State.sramWord
  refine Keeps.iteFst (fun _ => ?_) (fun _ => ?_)
  refine Keeps.pair ?_
  with_reducible assumption
  refine Keeps.iteFst (fun _ => ?_) (fun _ => ?_)
  refine Keeps.pair ?_
  refine Keeps.upd ?_ rfl ?_ ?_ ?_ ?_
  with_reducible assumption
  exact NvKeeps.refl _
  exact fun w => w
  exact fun w => w
  exact Nat.le_succ _
  refine Keeps.pair ?_
  with_reducible assumption

theorem State.sramPut_keeps {s0 s : State} (i : Initiator) (off : Nat) (v : Word) (h : Keeps s0 s) :
    Keeps s0 (State.sramPut s i off v) := by
  unfold State.sramPut
  refine Keeps.ite (fun _ => ?_) (fun _ => ?_)
  with_reducible assumption
  apply State.sramWrite_keeps
  with_reducible assumption

theorem State.readEffect_keeps {s0 s : State} (i : Initiator) (b : Block) (off : Nat) (h : Keeps s0 s) :
    ∀ t, State.readEffect s i b off = some t → Keeps s0 t.1 := by
  intro t e
  unfold State.readEffect at e
  split at e
  · split at e <;> cases e; exact State.serRx_keeps _ _ h
  · split at e <;> cases e; exact State.readTmr_keeps _ h
  · split at e <;> cases e; exact State.readTrg_keeps _ h
  · split at e <;> cases e; exact State.irqAckBy_keeps _ h
  · cases e

theorem State.readBlock_keeps {s0 s : State} (i : Initiator) (b : Block) (off : Nat) (a : Nat) (h : Keeps s0 s) :
    Keeps s0 (State.readBlock s i b off a).1 := by
  unfold State.readBlock
  split
  · exact State.sramWord_keeps _ h
  · exact h
  · exact State.memDo_keeps _ (fun w => WaveMem.wf_readCws _ _ w) h
  · exact h
  · split
    · exact State.readEffect_keeps _ _ _ h _ (by assumption)
    · refine Keeps.iteFst (fun _ => State.pairLo_keeps _ _ _ h) (fun _ => ?_)
      exact Keeps.iteFst (fun _ => State.pairHi_keeps _ _ _ h) (fun _ => h)

theorem State.busRead_keeps {s0 s : State} (i : Initiator) (a : Nat) (h : Keeps s0 s) :
    Keeps s0 (State.busRead s i a) := by
  unfold State.busRead
  split
  dsimp only
  apply State.answer_keeps
  apply State.readBlock_keeps
  with_reducible assumption
  apply State.answer_keeps
  apply State.reachErr_keeps
  with_reducible assumption

theorem State.writeEffect_keeps {s0 s : State} (i : Initiator) (b : Block) (off : Nat) (v : Word) (h : Keeps s0 s) :
    ∀ t, State.writeEffect s i b off v = some t → Keeps s0 t := by
  intro t e
  cases b <;> simp only [State.writeEffect] at e <;> (repeat' split at e) <;> simp only [reduceCtorEq, Option.some.injEq] at e <;>
    subst e <;>
    first
    | exact h
    | exact State.schedCfg_keeps _ h
    | exact State.measCtrl_keeps _ _ h
    | exact State.hallDb_keeps _ _ _ h
    | exact State.portCtrl_keeps _ _ _ h
    | exact State.specCtrl_keeps _ h
    | exact State.resCtrl_keeps _ _ h
    | exact State.prioSet_keeps _ _ _ h
    | exact State.dacCtrl_keeps _ _ h
    | exact State.dacChCtrl_keeps _ _ h
    | exact State.serCtrl_keeps _ _ _ h
    | exact State.serTx_keeps _ _ h
    | exact State.timeGo_keeps _ h
    | exact State.irqCfg_keeps _ h
    | exact State.irqDb_keeps _ h
    | exact State.irqEoiBy_keeps _ _ h
    | exact State.irqRoute_keeps _ _ h
    | exact State.pwrCtrl_keeps _ _ h
    | exact State.fenceCtrl_keeps _ h
    | exact State.alcCtrl_keeps _ h

theorem State.writeBlock_keeps {s0 s : State} (i : Initiator) (b : Block) (off : Nat) (a : Nat) (v : Word) (h : Keeps s0 s) :
    Keeps s0 (State.writeBlock s i b off a v) := by
  unfold State.writeBlock
  split
  · exact State.sramPut_keeps _ _ _ h
  · exact h
  · exact State.memDo_keeps _ (fun w => WaveMem.wf_writeBytes _ _ _ w) h
  · exact State.updMgmt_keeps _ h
  · split
    · exact State.writeEffect_keeps _ _ _ _ h _ (by assumption)
    · refine Keeps.ite (fun _ => State.pairHold_keeps _ _ h) (fun _ => ?_)
      exact Keeps.ite (fun _ => State.pairCommit_keeps _ _ _ _ h) (fun _ => State.regPut_keeps _ _ _ h)

theorem State.busWrite_keeps {s0 s : State} (i : Initiator) (a : Nat) (v : Word) (h : Keeps s0 s) :
    Keeps s0 (State.busWrite s i a v) := by
  unfold State.busWrite
  split
  apply State.writeBlock_keeps
  with_reducible assumption
  apply State.reachErr_keeps
  with_reducible assumption

end Sys2Proof.Machine
end

