-- ==== Sys2Proof/Laws/KeepsRegRows.lean ====
section
/-! SUPPORT. What the operations of Machine/RegRows.lean keep (Laws/Keeps.lean). -/

namespace Sys2Proof.Machine

theorem State.when_keeps {s0 s : State} (b : Bool) (f : State → State) (hf : ∀ t0, Keeps s0 t0 → Keeps s0 (f t0)) (h : Keeps s0 s) :
    Keeps s0 (State.when s b f) := by
  unfold State.when
  refine Keeps.ite (fun _ => ?_) (fun _ => ?_)
  apply_assumption
  with_reducible assumption
  with_reducible assumption

theorem State.zeroRead_keeps {s0 s : State} (write : Bool) (h : Keeps s0 s) :
    Keeps s0 (State.zeroRead s write) := by
  unfold State.zeroRead
  refine Keeps.ite (fun _ => ?_) (fun _ => ?_)
  with_reducible assumption
  apply State.answer_keeps
  with_reducible assumption

theorem State.recompute_keeps {s0 s : State} (f : Nat) (h : Keeps s0 s) :
    Keeps s0 (State.recompute s f) := by
  unfold State.recompute
  dsimp only
  refine Keeps.upd ?_ rfl ?_ ?_ ?_ ?_
  with_reducible assumption
  exact NvKeeps.refl _
  exact fun w => w
  exact fun w => w
  exact Nat.le_refl _

end Sys2Proof.Machine
end

