-- ==== Sys2Proof/Laws/KeepsSchedRows.lean ====
section
/-! SUPPORT. What the operations of Machine/SchedRows.lean keep (Laws/Keeps.lean). -/

namespace Sys2Proof.Machine

theorem State.boundaryFences_keeps {s0 s : State} (F : Nat) (h : Keeps s0 s) :
    Keeps s0 (State.boundaryFences s F) := by
  unfold State.boundaryFences
  dsimp only
  refine Keeps.foldl (fun _ _ _ => ?_) ?_
  refine Keeps.ite (fun _ => ?_) (fun _ => ?_)
  apply State.hallFenceAt_keeps
  with_reducible assumption
  with_reducible assumption
  refine Keeps.foldl (fun _ _ _ => ?_) ?_
  split
  apply State.fenceGallery_keeps
  with_reducible assumption
  with_reducible assumption
  refine Keeps.foldl (fun _ _ _ => ?_) ?_
  split
  apply State.fenceEngine_keeps
  with_reducible assumption
  with_reducible assumption
  with_reducible assumption

theorem State.unparkOne_keeps {s0 s : State}  (h : Keeps s0 s) :
    ∀ t, State.unparkOne s = some t → Keeps s0 t.1 := by
  intro t e
  unfold State.unparkOne at e
  obtain ⟨g, -, rfl⟩ := Option.map_eq_some_iff.1 e
  exact State.switchOn_keeps _ h

theorem State.boundaryMap_keeps {s0 s : State} (F : Nat) (h : Keeps s0 s) :
    Keeps s0 (State.boundaryMap s F) := by
  have k : ∀ u : State, Keeps s0 u →
      Keeps s0 (if noneDark u.halls then u else match u.unparkOne with | some x => x.1 | none => u) := by
    intro u k
    refine Keeps.ite (fun _ => k) (fun _ => ?_)
    split
    · exact State.unparkOne_keeps k _ (by assumption)
    · exact k
  unfold State.boundaryMap
  exact k _ (Keeps.upd h rfl (NvKeeps.refl _) (fun w => w) (fun w => w) (Nat.le_refl _))

theorem State.boundaryPark_keeps {s0 s : State} (g : Fin 8) (h : Keeps s0 s) :
    Keeps s0 (State.boundaryPark s g) := by
  unfold State.boundaryPark
  refine Keeps.ite (fun _ => ?_) (fun _ => ?_)
  apply State.switchOff_keeps
  apply State.updGal_keeps
  with_reducible assumption
  with_reducible assumption

theorem State.noteIdle_keeps {s0 s : State}  (h : Keeps s0 s) :
    Keeps s0 (State.noteIdle s) := by
  unfold State.noteIdle
  refine Keeps.upd ?_ rfl ?_ ?_ ?_ ?_
  with_reducible assumption
  exact NvKeeps.refl _
  exact fun w => w
  exact fun w => w
  exact Nat.le_refl _

theorem State.measDrain_keeps {s0 s : State}  (h : Keeps s0 s) :
    Keeps s0 (State.measDrain s) := by
  unfold State.measDrain
  refine Keeps.ite (fun _ => ?_) (fun _ => ?_)
  with_reducible assumption
  refine Keeps.upd ?_ rfl ?_ ?_ ?_ ?_
  with_reducible assumption
  exact NvKeeps.refl _
  exact fun w => w
  exact fun w => w
  exact Nat.le_refl _

theorem State.boundary_keeps {s0 s : State} (F : Nat) (h : Keeps s0 s) :
    Keeps s0 (State.boundary s F) := by
  unfold State.boundary
  dsimp only
  refine Keeps.upd ?_ rfl ?_ ?_ ?_ ?_
  split
  refine Keeps.ite (fun _ => ?_) (fun _ => ?_)
  apply State.fenceDone_keeps
  apply State.noteIdle_keeps
  apply State.convFades_keeps
  refine Keeps.upd ?_ rfl ?_ ?_ ?_ ?_
  refine Keeps.foldl (fun _ _ _ => ?_) ?_
  apply State.boundaryPark_keeps
  with_reducible assumption
  apply State.measDrain_keeps
  apply State.boundaryMap_keeps
  apply State.boundaryFences_keeps
  with_reducible assumption
  exact NvKeeps.refl _
  exact fun w => w
  exact fun w => w
  exact Nat.le_refl _
  apply State.noteIdle_keeps
  apply State.convFades_keeps
  refine Keeps.upd ?_ rfl ?_ ?_ ?_ ?_
  refine Keeps.foldl (fun _ _ _ => ?_) ?_
  apply State.boundaryPark_keeps
  with_reducible assumption
  apply State.measDrain_keeps
  apply State.boundaryMap_keeps
  apply State.boundaryFences_keeps
  with_reducible assumption
  exact NvKeeps.refl _
  exact fun w => w
  exact fun w => w
  exact Nat.le_refl _
  apply State.noteIdle_keeps
  apply State.convFades_keeps
  refine Keeps.upd ?_ rfl ?_ ?_ ?_ ?_
  refine Keeps.foldl (fun _ _ _ => ?_) ?_
  apply State.boundaryPark_keeps
  with_reducible assumption
  apply State.measDrain_keeps
  apply State.boundaryMap_keeps
  apply State.boundaryFences_keeps
  with_reducible assumption
  exact NvKeeps.refl _
  exact fun w => w
  exact fun w => w
  exact Nat.le_refl _
  exact NvKeeps.refl _
  exact fun w => w
  exact fun w => w
  exact Nat.le_refl _

theorem State.noteArith_keeps {s0 s : State} (e : Fin 64) (st : Stat) (h : Keeps s0 s) :
    Keeps s0 (State.noteArith s e st) := by
  unfold State.noteArith
  dsimp only
  apply State.raiseIf_keeps
  apply State.updEng_keeps
  with_reducible assumption

theorem State.noteHallArith_keeps {s0 s : State} (h' : Nat) (st : Stat) (h : Keeps s0 s) :
    Keeps s0 (State.noteHallArith s h' st) := by
  unfold State.noteHallArith
  apply State.updHall_keeps
  with_reducible assumption

theorem State.noteEnded_keeps {s0 s : State} (v : Voice) (h : Keeps s0 s) :
    Keeps s0 (State.noteEnded s v) := by
  unfold State.noteEnded
  split
  refine Keeps.ite (fun _ => ?_) (fun _ => ?_)
  apply State.voiceNotice_keeps
  with_reducible assumption
  with_reducible assumption
  with_reducible assumption

theorem State.notePoison_keeps {s0 s : State} (v : Voice) (h : Keeps s0 s) :
    Keeps s0 (State.notePoison s v) := by
  unfold State.notePoison
  apply State.fenceAdd_keeps
  with_reducible assumption

theorem State.afterVoice_keeps {s0 s : State} (e : Fin 64) (f : Nat) (v : Voice) (r : RenderSt) (h : Keeps s0 s) :
    Keeps s0 (State.afterVoice s e f v r).1 := by
  unfold State.afterVoice
  dsimp only
  refine Keeps.iteFst (fun _ => ?_) (fun _ => ?_)
  refine Keeps.pair ?_
  apply State.noteEnded_keeps
  refine Keeps.ite (fun _ => ?_) (fun _ => ?_)
  apply State.updEng_keeps
  refine Keeps.ite (fun _ => ?_) (fun _ => ?_)
  apply State.guar_keeps
  apply State.noteHallArith_keeps
  apply State.noteArith_keeps
  refine Keeps.ite (fun _ => ?_) (fun _ => ?_)
  with_reducible assumption
  refine Keeps.upd ?_ rfl ?_ ?_ ?_ ?_
  with_reducible assumption
  exact NvKeeps.refl _
  exact fun w => w
  exact fun w => w
  exact Nat.le_refl _
  apply State.noteHallArith_keeps
  apply State.noteArith_keeps
  refine Keeps.ite (fun _ => ?_) (fun _ => ?_)
  with_reducible assumption
  refine Keeps.upd ?_ rfl ?_ ?_ ?_ ?_
  with_reducible assumption
  exact NvKeeps.refl _
  exact fun w => w
  exact fun w => w
  exact Nat.le_refl _
  refine Keeps.ite (fun _ => ?_) (fun _ => ?_)
  apply State.guar_keeps
  apply State.noteHallArith_keeps
  apply State.noteArith_keeps
  refine Keeps.ite (fun _ => ?_) (fun _ => ?_)
  with_reducible assumption
  refine Keeps.upd ?_ rfl ?_ ?_ ?_ ?_
  with_reducible assumption
  exact NvKeeps.refl _
  exact fun w => w
  exact fun w => w
  exact Nat.le_refl _
  apply State.noteHallArith_keeps
  apply State.noteArith_keeps
  refine Keeps.ite (fun _ => ?_) (fun _ => ?_)
  with_reducible assumption
  refine Keeps.upd ?_ rfl ?_ ?_ ?_ ?_
  with_reducible assumption
  exact NvKeeps.refl _
  exact fun w => w
  exact fun w => w
  exact Nat.le_refl _
  split
  refine Keeps.iteFst (fun _ => ?_) (fun _ => ?_)
  refine Keeps.pair ?_
  refine Keeps.upd ?_ rfl ?_ ?_ ?_ ?_
  apply State.endVoice_keeps
  refine Keeps.ite (fun _ => ?_) (fun _ => ?_)
  apply State.notePoison_keeps
  refine Keeps.ite (fun _ => ?_) (fun _ => ?_)
  apply State.updEng_keeps
  refine Keeps.ite (fun _ => ?_) (fun _ => ?_)
  apply State.guar_keeps
  apply State.noteHallArith_keeps
  apply State.noteArith_keeps
  refine Keeps.ite (fun _ => ?_) (fun _ => ?_)
  with_reducible assumption
  refine Keeps.upd ?_ rfl ?_ ?_ ?_ ?_
  with_reducible assumption
  exact NvKeeps.refl _
  exact fun w => w
  exact fun w => w
  exact Nat.le_refl _
  apply State.noteHallArith_keeps
  apply State.noteArith_keeps
  refine Keeps.ite (fun _ => ?_) (fun _ => ?_)
  with_reducible assumption
  refine Keeps.upd ?_ rfl ?_ ?_ ?_ ?_
  with_reducible assumption
  exact NvKeeps.refl _
  exact fun w => w
  exact fun w => w
  exact Nat.le_refl _
  refine Keeps.ite (fun _ => ?_) (fun _ => ?_)
  apply State.guar_keeps
  apply State.noteHallArith_keeps
  apply State.noteArith_keeps
  refine Keeps.ite (fun _ => ?_) (fun _ => ?_)
  with_reducible assumption
  refine Keeps.upd ?_ rfl ?_ ?_ ?_ ?_
  with_reducible assumption
  exact NvKeeps.refl _
  exact fun w => w
  exact fun w => w
  exact Nat.le_refl _
  apply State.noteHallArith_keeps
  apply State.noteArith_keeps
  refine Keeps.ite (fun _ => ?_) (fun _ => ?_)
  with_reducible assumption
  refine Keeps.upd ?_ rfl ?_ ?_ ?_ ?_
  with_reducible assumption
  exact NvKeeps.refl _
  exact fun w => w
  exact fun w => w
  exact Nat.le_refl _
  refine Keeps.ite (fun _ => ?_) (fun _ => ?_)
  apply State.updEng_keeps
  refine Keeps.ite (fun _ => ?_) (fun _ => ?_)
  apply State.guar_keeps
  apply State.noteHallArith_keeps
  apply State.noteArith_keeps
  refine Keeps.ite (fun _ => ?_) (fun _ => ?_)
  with_reducible assumption
  refine Keeps.upd ?_ rfl ?_ ?_ ?_ ?_
  with_reducible assumption
  exact NvKeeps.refl _
  exact fun w => w
  exact fun w => w
  exact Nat.le_refl _
  apply State.noteHallArith_keeps
  apply State.noteArith_keeps
  refine Keeps.ite (fun _ => ?_) (fun _ => ?_)
  with_reducible assumption
  refine Keeps.upd ?_ rfl ?_ ?_ ?_ ?_
  with_reducible assumption
  exact NvKeeps.refl _
  exact fun w => w
  exact fun w => w
  exact Nat.le_refl _
  refine Keeps.ite (fun _ => ?_) (fun _ => ?_)
  apply State.guar_keeps
  apply State.noteHallArith_keeps
  apply State.noteArith_keeps
  refine Keeps.ite (fun _ => ?_) (fun _ => ?_)
  with_reducible assumption
  refine Keeps.upd ?_ rfl ?_ ?_ ?_ ?_
  with_reducible assumption
  exact NvKeeps.refl _
  exact fun w => w
  exact fun w => w
  exact Nat.le_refl _
  apply State.noteHallArith_keeps
  apply State.noteArith_keeps
  refine Keeps.ite (fun _ => ?_) (fun _ => ?_)
  with_reducible assumption
  refine Keeps.upd ?_ rfl ?_ ?_ ?_ ?_
  with_reducible assumption
  exact NvKeeps.refl _
  exact fun w => w
  exact fun w => w
  exact Nat.le_refl _
  exact NvKeeps.refl _
  exact fun w => w
  exact fun w => w
  exact Nat.le_refl _
  refine Keeps.pair ?_
  refine Keeps.ite (fun _ => ?_) (fun _ => ?_)
  apply State.updEng_keeps
  refine Keeps.ite (fun _ => ?_) (fun _ => ?_)
  apply State.guar_keeps
  apply State.noteHallArith_keeps
  apply State.noteArith_keeps
  refine Keeps.ite (fun _ => ?_) (fun _ => ?_)
  with_reducible assumption
  refine Keeps.upd ?_ rfl ?_ ?_ ?_ ?_
  with_reducible assumption
  exact NvKeeps.refl _
  exact fun w => w
  exact fun w => w
  exact Nat.le_refl _
  apply State.noteHallArith_keeps
  apply State.noteArith_keeps
  refine Keeps.ite (fun _ => ?_) (fun _ => ?_)
  with_reducible assumption
  refine Keeps.upd ?_ rfl ?_ ?_ ?_ ?_
  with_reducible assumption
  exact NvKeeps.refl _
  exact fun w => w
  exact fun w => w
  exact Nat.le_refl _
  refine Keeps.ite (fun _ => ?_) (fun _ => ?_)
  apply State.guar_keeps
  apply State.noteHallArith_keeps
  apply State.noteArith_keeps
  refine Keeps.ite (fun _ => ?_) (fun _ => ?_)
  with_reducible assumption
  refine Keeps.upd ?_ rfl ?_ ?_ ?_ ?_
  with_reducible assumption
  exact NvKeeps.refl _
  exact fun w => w
  exact fun w => w
  exact Nat.le_refl _
  apply State.noteHallArith_keeps
  apply State.noteArith_keeps
  refine Keeps.ite (fun _ => ?_) (fun _ => ?_)
  with_reducible assumption
  refine Keeps.upd ?_ rfl ?_ ?_ ?_ ?_
  with_reducible assumption
  exact NvKeeps.refl _
  exact fun w => w
  exact fun w => w
  exact Nat.le_refl _
  refine Keeps.pair ?_
  refine Keeps.ite (fun _ => ?_) (fun _ => ?_)
  apply State.updEng_keeps
  refine Keeps.ite (fun _ => ?_) (fun _ => ?_)
  apply State.guar_keeps
  apply State.noteHallArith_keeps
  apply State.noteArith_keeps
  refine Keeps.ite (fun _ => ?_) (fun _ => ?_)
  with_reducible assumption
  refine Keeps.upd ?_ rfl ?_ ?_ ?_ ?_
  with_reducible assumption
  exact NvKeeps.refl _
  exact fun w => w
  exact fun w => w
  exact Nat.le_refl _
  apply State.noteHallArith_keeps
  apply State.noteArith_keeps
  refine Keeps.ite (fun _ => ?_) (fun _ => ?_)
  with_reducible assumption
  refine Keeps.upd ?_ rfl ?_ ?_ ?_ ?_
  with_reducible assumption
  exact NvKeeps.refl _
  exact fun w => w
  exact fun w => w
  exact Nat.le_refl _
  refine Keeps.ite (fun _ => ?_) (fun _ => ?_)
  apply State.guar_keeps
  apply State.noteHallArith_keeps
  apply State.noteArith_keeps
  refine Keeps.ite (fun _ => ?_) (fun _ => ?_)
  with_reducible assumption
  refine Keeps.upd ?_ rfl ?_ ?_ ?_ ?_
  with_reducible assumption
  exact NvKeeps.refl _
  exact fun w => w
  exact fun w => w
  exact Nat.le_refl _
  apply State.noteHallArith_keeps
  apply State.noteArith_keeps
  refine Keeps.ite (fun _ => ?_) (fun _ => ?_)
  with_reducible assumption
  refine Keeps.upd ?_ rfl ?_ ?_ ?_ ?_
  with_reducible assumption
  exact NvKeeps.refl _
  exact fun w => w
  exact fun w => w
  exact Nat.le_refl _

theorem State.render_keeps {s0 s : State} (e : Fin 64) (f : Nat) (h : Keeps s0 s) :
    Keeps s0 (State.render s e f) := by
  unfold State.render
  dsimp only
  apply State.reapAll_keeps
  apply State.updEng_keeps
  apply State.memDo_keeps
  intro _
  with_reducible apply WaveMem.wf_readCws
  assumption
  apply State.foldVoices_keeps
  intro _
  intro _
  intro _
  refine Keeps.iteFst (fun _ => ?_) (fun _ => ?_)
  apply State.afterVoice_keeps
  with_reducible assumption
  refine Keeps.pair ?_
  with_reducible assumption
  with_reducible assumption

theorem State.lapseKill_keeps {s0 s : State} (h' : Fin 8) (t' : Nat) (h : Keeps s0 s) :
    Keeps s0 (State.lapseKill s h' t') := by
  unfold State.lapseKill
  dsimp only
  apply State.mapVoices_keeps
  with_reducible assumption

end Sys2Proof.Machine
end

