-- ==== Sys2Proof/Laws/KeepsMezRows.lean ====
section
/-! SUPPORT. What the operations of Machine/MezRows.lean keep (Laws/Keeps.lean). -/

namespace Sys2Proof.Machine

theorem State.feedSpec_keeps {s0 s : State} (F : Nat) (buses : List (List Int)) (h : Keeps s0 s) :
    Keeps s0 (State.feedSpec s F buses) := by
  unfold State.feedSpec
  dsimp only
  refine Keeps.ite (fun _ => ?_) (fun _ => ?_)
  apply State.specErr_keeps
  refine Keeps.upd ?_ rfl ?_ ?_ ?_ ?_
  with_reducible assumption
  exact NvKeeps.refl _
  exact fun w => w
  exact fun w => w
  exact Nat.le_refl _
  refine Keeps.upd ?_ rfl ?_ ?_ ?_ ?_
  with_reducible assumption
  exact NvKeeps.refl _
  exact fun w => w
  exact fun w => w
  exact Nat.le_refl _

theorem State.laneUnder_keeps {s0 s : State} (F : Nat) (l : Nat) (h : Keeps s0 s) :
    Keeps s0 (State.laneUnder s F l) := by
  unfold State.laneUnder
  refine Keeps.ite (fun _ => ?_) (fun _ => ?_)
  apply State.tdmErr_keeps
  refine Keeps.upd ?_ rfl ?_ ?_ ?_ ?_
  with_reducible assumption
  exact NvKeeps.refl _
  exact fun w => w
  exact fun w => w
  exact Nat.le_refl _
  with_reducible assumption

theorem State.mezzanine_keeps {s0 s : State} (F : Nat) (h : Keeps s0 s) :
    Keeps s0 (State.mezzanine s F) := by
  unfold State.mezzanine
  dsimp only
  refine Keeps.upd ?_ rfl ?_ ?_ ?_ ?_
  refine Keeps.ite (fun _ => ?_) (fun _ => ?_)
  apply State.outErr_keeps
  apply State.feedSpec_keeps
  apply State.laneUnder_keeps
  apply State.laneUnder_keeps
  with_reducible assumption
  apply State.feedSpec_keeps
  apply State.laneUnder_keeps
  apply State.laneUnder_keeps
  with_reducible assumption
  exact NvKeeps.refl _
  exact fun w => w
  exact fun w => w
  exact Nat.le_refl _

end Sys2Proof.Machine
end

