-- ==== Sys2Proof/Laws/KeepsOutRows.lean ====
section
/-! SUPPORT. What the operations of Machine/OutRows.lean keep (Laws/Keeps.lean). -/

namespace Sys2Proof.Machine

theorem State.fillDac_keeps {s0 s : State} (n : Fin 16) (h : Keeps s0 s) :
    Keeps s0 (State.fillDac s n) := by
  unfold State.fillDac
  refine Keeps.ite (fun _ => ?_) (fun _ => ?_)
  with_reducible assumption
  dsimp only
  refine Keeps.ite (fun _ => ?_) (fun _ => ?_)
  apply State.updDac_keeps
  with_reducible assumption
  apply State.raise_keeps
  apply State.dacErr_keeps
  refine Keeps.upd ?_ rfl ?_ ?_ ?_ ?_
  apply State.updDac_keeps
  with_reducible assumption
  exact NvKeeps.refl _
  exact fun w => w
  exact fun w => w
  exact Nat.le_refl _

theorem State.fillOut_keeps {s0 s : State}  (h : Keeps s0 s) :
    Keeps s0 (State.fillOut s) := by
  unfold State.fillOut
  dsimp only
  refine Keeps.upd ?_ rfl ?_ ?_ ?_ ?_
  refine Keeps.foldl (fun _ _ _ => ?_) ?_
  apply State.fillDac_keeps
  with_reducible assumption
  with_reducible assumption
  exact NvKeeps.refl _
  exact fun w => w
  exact fun w => w
  exact Nat.le_refl _

theorem State.eqLoads_keeps {s0 s : State} (n0 : Nat) (h : Keeps s0 s) :
    Keeps s0 (State.eqLoads s n0) := by
  unfold State.eqLoads
  refine Keeps.foldl (fun _ _ _ => ?_) ?_
  dsimp only
  refine Keeps.foldl (fun _ _ _ => ?_) ?_
  split
  refine Keeps.ite (fun _ => ?_) (fun _ => ?_)
  apply State.endWait_keeps
  apply State.updOut_keeps
  with_reducible assumption
  apply State.updOut_keeps
  with_reducible assumption
  apply State.updOut_keeps
  with_reducible assumption
  apply State.updOut_keeps
  with_reducible assumption
  with_reducible assumption

theorem State.trackOn_keeps {s0 s : State}  (h : Keeps s0 s) :
    Keeps s0 (State.trackOn s) := by
  unfold State.trackOn
  dsimp only
  refine Keeps.upd ?_ rfl ?_ ?_ ?_ ?_
  with_reducible assumption
  exact NvKeeps.refl _
  exact fun w => w
  exact fun w => w
  exact Nat.le_succ _

theorem State.trackOff_keeps {s0 s : State}  (h : Keeps s0 s) :
    Keeps s0 (State.trackOff s) := by
  unfold State.trackOff
  split
  with_reducible assumption
  dsimp only
  refine Keeps.upd ?_ rfl ?_ ?_ ?_ ?_
  with_reducible assumption
  exact NvKeeps.refl _
  exact fun w => w
  exact fun w => w
  exact Nat.le_refl _

theorem State.outFrame_keeps {s0 s : State} (F : Nat) (buses : List (List Int)) (n : Fin 64) (h : Keeps s0 s) :
    Keeps s0 (State.outFrame s F buses n) := by
  unfold State.outFrame
  dsimp only
  refine Keeps.ite (fun _ => ?_) (fun _ => ?_)
  apply State.outFenced_keeps
  refine Keeps.ite (fun _ => ?_) (fun _ => ?_)
  apply State.outErr_keeps
  apply State.updOut_keeps
  apply State.updOut_keeps
  with_reducible assumption
  apply State.updOut_keeps
  with_reducible assumption
  refine Keeps.ite (fun _ => ?_) (fun _ => ?_)
  apply State.outErr_keeps
  apply State.updOut_keeps
  apply State.updOut_keeps
  with_reducible assumption
  apply State.updOut_keeps
  with_reducible assumption

theorem State.landingUnder_keeps {s0 s : State} (F : Nat) (h : Keeps s0 s) :
    Keeps s0 (State.landingUnder s F) := by
  unfold State.landingUnder
  dsimp only
  apply State.log_keeps
  apply State.guar_keeps
  apply State.outErr_keeps
  refine Keeps.upd ?_ rfl ?_ ?_ ?_ ?_
  with_reducible assumption
  exact NvKeeps.refl _
  exact fun w => w
  exact fun w => w
  exact Nat.le_refl _

theorem State.takeFrame_keeps {s0 s : State} (F : Nat) (h : Keeps s0 s) :
    Keeps s0 (State.takeFrame s F) := by
  unfold State.takeFrame
  dsimp only
  apply State.fillOut_keeps
  split
  apply State.fenceDone_keeps
  refine Keeps.upd ?_ rfl ?_ ?_ ?_ ?_
  refine Keeps.foldl (fun _ _ _ => ?_) ?_
  apply State.outFrame_keeps
  with_reducible assumption
  refine Keeps.ite (fun _ => ?_) (fun _ => ?_)
  apply State.trackOn_keeps
  split
  apply State.eqLoads_keeps
  with_reducible assumption
  apply State.landingUnder_keeps
  apply State.eqLoads_keeps
  with_reducible assumption
  split
  apply State.eqLoads_keeps
  with_reducible assumption
  apply State.landingUnder_keeps
  apply State.eqLoads_keeps
  with_reducible assumption
  exact NvKeeps.refl _
  exact fun w => w
  exact fun w => w
  exact Nat.le_refl _
  refine Keeps.upd ?_ rfl ?_ ?_ ?_ ?_
  refine Keeps.foldl (fun _ _ _ => ?_) ?_
  apply State.outFrame_keeps
  with_reducible assumption
  refine Keeps.ite (fun _ => ?_) (fun _ => ?_)
  apply State.trackOn_keeps
  split
  apply State.eqLoads_keeps
  with_reducible assumption
  apply State.landingUnder_keeps
  apply State.eqLoads_keeps
  with_reducible assumption
  split
  apply State.eqLoads_keeps
  with_reducible assumption
  apply State.landingUnder_keeps
  apply State.eqLoads_keeps
  with_reducible assumption
  exact NvKeeps.refl _
  exact fun w => w
  exact fun w => w
  exact Nat.le_refl _

theorem State.latchOne_keeps {s0 s : State} (t' : Nat) (e : Int) (n : Fin 16) (h : Keeps s0 s) :
    Keeps s0 (State.latchOne s t' e n) := by
  unfold State.latchOne
  refine Keeps.ite (fun _ => ?_) (fun _ => ?_)
  with_reducible assumption
  dsimp only
  refine Keeps.ite (fun _ => ?_) (fun _ => ?_)
  apply State.raise_keeps
  apply State.dacErr_keeps
  refine Keeps.upd ?_ rfl ?_ ?_ ?_ ?_
  apply State.updDac_keeps
  with_reducible assumption
  exact NvKeeps.refl _
  exact fun w => w
  exact fun w => w
  exact Nat.le_refl _
  apply State.updDac_keeps
  with_reducible assumption

theorem State.latchAll_keeps {s0 s : State} (t' : Nat) (e : Int) (h : Keeps s0 s) :
    Keeps s0 (State.latchAll s t' e) := by
  unfold State.latchAll
  refine Keeps.foldl (fun _ _ _ => ?_) ?_
  apply State.latchOne_keeps
  with_reducible assumption
  apply State.muteOff_keeps
  with_reducible assumption

theorem State.clockRest_keeps {s0 s : State}  (h : Keeps s0 s) :
    Keeps s0 (State.clockRest s) := by
  unfold State.clockRest
  dsimp only
  refine Keeps.ite (fun _ => ?_) (fun _ => ?_)
  refine Keeps.upd ?_ rfl ?_ ?_ ?_ ?_
  with_reducible assumption
  exact NvKeeps.refl _
  exact fun w => w
  exact fun w => w
  exact Nat.le_refl _
  with_reducible assumption

theorem State.wordClock_keeps {s0 s : State}  (h : Keeps s0 s) :
    Keeps s0 (State.wordClock s) := by
  unfold State.wordClock
  dsimp only
  apply State.fillOut_keeps
  apply State.clockRest_keeps
  refine Keeps.upd ?_ rfl ?_ ?_ ?_ ?_
  refine Keeps.foldl (fun _ _ _ => ?_) ?_
  apply State.latchOne_keeps
  with_reducible assumption
  apply State.muteOff_keeps
  apply State.runTo_keeps
  with_reducible assumption
  exact NvKeeps.refl _
  exact fun w => w
  exact fun w => w
  exact Nat.le_refl _

theorem State.unpacedEdge_keeps {s0 s : State}  (h : Keeps s0 s) :
    Keeps s0 (State.unpacedEdge s) := by
  unfold State.unpacedEdge
  apply State.latchAll_keeps
  with_reducible assumption

theorem State.anyEdge_keeps {s0 s : State}  (h : Keeps s0 s) :
    Keeps s0 (State.anyEdge s) := by
  unfold State.anyEdge
  refine Keeps.ite (fun _ => ?_) (fun _ => ?_)
  apply State.unpacedEdge_keeps
  with_reducible assumption
  apply State.wordClock_keeps
  with_reducible assumption

theorem State.vrefOut_keeps {s0 s : State}  (h : Keeps s0 s) :
    Keeps s0 (State.vrefOut s) := by
  unfold State.vrefOut
  dsimp only
  refine Keeps.upd ?_ rfl ?_ ?_ ?_ ?_
  refine Keeps.ite (fun _ => ?_) (fun _ => ?_)
  apply State.dacErr_keeps
  refine Keeps.upd ?_ rfl ?_ ?_ ?_ ?_
  with_reducible assumption
  exact NvKeeps.refl _
  exact fun w => w
  exact fun w => w
  exact Nat.le_refl _
  with_reducible assumption
  exact NvKeeps.refl _
  exact fun w => w
  exact fun w => w
  exact Nat.le_refl _

theorem State.formOuts_keeps {s0 s : State}  (h : Keeps s0 s) :
    Keeps s0 (State.formOuts s) := by
  unfold State.formOuts
  dsimp only
  refine Keeps.upd ?_ rfl ?_ ?_ ?_ ?_
  with_reducible assumption
  exact NvKeeps.refl _
  exact fun w => w
  exact fun w => w
  exact Nat.le_refl _

theorem State.regrid_keeps {s0 s : State} (phi : Nat) (h : Keeps s0 s) :
    Keeps s0 (State.regrid s phi) := by
  unfold State.regrid
  dsimp only
  refine Keeps.upd ?_ rfl ?_ ?_ ?_ ?_
  with_reducible assumption
  exact NvKeeps.refl _
  exact fun w => w
  exact fun w => w
  exact Nat.le_refl _

theorem State.wclkGone_keeps {s0 s : State}  (h : Keeps s0 s) :
    Keeps s0 (State.wclkGone s) := by
  unfold State.wclkGone
  dsimp only
  apply State.muteNow_keeps
  apply State.dacErr_keeps
  apply State.outErr_keeps
  refine Keeps.upd ?_ rfl ?_ ?_ ?_ ?_
  apply State.trackOff_keeps
  with_reducible assumption
  exact NvKeeps.refl _
  exact fun w => w
  exact fun w => w
  exact Nat.le_refl _


end Sys2Proof.Machine
end

