-- ==== Sys2Proof/Laws/KeepsSpecRows.lean ====
section
/-! SUPPORT. What the operations of Machine/SpecRows.lean keep (Laws/Keeps.lean). -/

namespace Sys2Proof.Machine

theorem State.specRead_keeps {s0 s : State} (k : Fin 8) (cws : List Nat) (h : Keeps s0 s) :
    Keeps s0 (State.specRead s k cws) := by
  unfold State.specRead
  dsimp only
  refine Keeps.ite (fun _ => ?_) (fun _ => ?_)
  apply State.memDo_keeps
  intro _
  with_reducible apply WaveMem.wf_readCws
  assumption
  with_reducible assumption
  split
  apply State.unitNotice_keeps
  apply State.guar_keeps
  apply State.specErr_keeps
  apply State.memDo_keeps
  intro _
  with_reducible apply WaveMem.wf_readCws
  assumption
  with_reducible assumption
  apply State.guar_keeps
  apply State.specErr_keeps
  apply State.memDo_keeps
  intro _
  with_reducible apply WaveMem.wf_readCws
  assumption
  with_reducible assumption

theorem State.storeAt_keeps {s0 s : State} (pages : List Nat) (off : Nat) (bs : List Byte) (h : Keeps s0 s) :
    Keeps s0 (State.storeAt s pages off bs) := by
  unfold State.storeAt
  refine Keeps.foldl (fun _ _ _ => ?_) ?_
  apply State.memDo_keeps
  intro _
  with_reducible apply WaveMem.wf_writeBytes
  assumption
  with_reducible assumption
  with_reducible assumption

theorem State.convBuilt_keeps {s0 s : State} (k : Fin 8) (bd : Build) (h : Keeps s0 s) :
    Keeps s0 (State.convBuilt s k bd) := by
  unfold State.convBuilt
  dsimp only
  apply State.storeAt_keeps
  refine Keeps.foldl (fun _ _ _ => ?_) ?_
  apply State.storeAt_keeps
  with_reducible assumption
  apply State.specRead_keeps
  with_reducible assumption

theorem State.convSwap_keeps {s0 s : State} (k : Fin 8) (bd : Build) (b : Nat) (h : Keeps s0 s) :
    Keeps s0 (State.convSwap s k bd b) := by
  unfold State.convSwap
  dsimp only
  apply State.updSpec_keeps
  apply State.wipePages_keeps
  apply State.storeAt_keeps
  refine Keeps.foldl (fun _ _ _ => ?_) ?_
  apply State.storeAt_keeps
  with_reducible assumption
  apply State.specRead_keeps
  with_reducible assumption

theorem State.convDue_keeps {s0 s : State} (b : Nat) (k : Fin 8) (h : Keeps s0 s) :
    Keeps s0 (State.convDue s b k) := by
  unfold State.convDue
  split
  refine Keeps.ite (fun _ => ?_) (fun _ => ?_)
  apply State.convSwap_keeps
  with_reducible assumption
  with_reducible assumption
  with_reducible assumption

theorem State.convOne_keeps {s0 s : State} (b : Nat) (k : Fin 8) (h : Keeps s0 s) :
    Keeps s0 (State.convOne s b k) := by
  unfold State.convOne
  dsimp only
  refine Keeps.ite (fun _ => ?_) (fun _ => ?_)
  apply State.convDue_keeps
  with_reducible assumption
  refine Keeps.ite (fun _ => ?_) (fun _ => ?_)
  apply State.updSpec_keeps
  apply State.memDo_keeps
  intro _
  with_reducible apply WaveMem.wf_writeBytes
  assumption
  apply State.storeAt_keeps
  apply State.specRead_keeps
  apply State.convDue_keeps
  with_reducible assumption
  apply State.specErr_keeps
  refine Keeps.upd ?_ rfl ?_ ?_ ?_ ?_
  apply State.updSpec_keeps
  apply State.memDo_keeps
  intro _
  with_reducible apply WaveMem.wf_writeBytes
  assumption
  apply State.storeAt_keeps
  apply State.specRead_keeps
  apply State.convDue_keeps
  with_reducible assumption
  exact NvKeeps.refl _
  exact fun w => w
  exact fun w => w
  exact Nat.le_refl _

theorem State.convSwitchAt_keeps {s0 s : State} (k : Fin 8) (bd : Build) (b : Nat) (h : Keeps s0 s) :
    Keeps s0 (State.convSwitchAt s k bd b) := by
  unfold State.convSwitchAt
  dsimp only
  refine Keeps.ite (fun _ => ?_) (fun _ => ?_)
  apply State.convSwap_keeps
  refine Keeps.upd ?_ rfl ?_ ?_ ?_ ?_
  apply State.updSpec_keeps
  apply State.convBuilt_keeps
  with_reducible assumption
  exact NvKeeps.refl _
  exact fun w => w
  exact fun w => w
  exact Nat.le_refl _
  apply State.updSpec_keeps
  apply State.updSpec_keeps
  apply State.convBuilt_keeps
  with_reducible assumption


end Sys2Proof.Machine
end

