-- ==== Sys2Proof/Laws/KeepsWaits.lean ====
section
/-! SUPPORT. What the operations of Machine/Waits.lean keep (Laws/Keeps.lean). -/

namespace Sys2Proof.Machine

theorem State.rewait_keeps {s0 s : State} (h' : Fin 8) (what : WaitFor) (h : Keeps s0 s) :
    Keeps s0 (State.rewait s h' what) := by
  unfold State.rewait
  apply State.updHall_keeps
  with_reducible assumption

theorem State.pageAllocNow_keeps {s0 s : State} (h' : Fin 8) (n : Nat) (contig : Bool) (h : Keeps s0 s) :
    ∀ t, State.pageAllocNow s h' n contig = some t → Keeps s0 t.1 := by
  intro t e
  unfold State.pageAllocNow at e
  split at e
  · split at e <;> cases e
    · exact h
    · exact Keeps.upd h rfl (NvKeeps.refl _) (fun w => w) (fun w => WaveMem.wf_claim _ _ _ _ w) (Nat.le_refl _)
  · cases e
  · cases e; exact h

theorem State.convGiveUp_keeps {s0 s : State} (k : Fin 8) (h : Keeps s0 s) :
    Keeps s0 (State.convGiveUp s k) := by
  unfold State.convGiveUp
  refine Keeps.ite (fun _ => ?_) (fun _ => ?_)
  apply State.convFree_keeps
  with_reducible assumption
  apply State.updSpec_keeps
  with_reducible assumption

theorem State.convBuild_keeps {s0 s : State} (k : Fin 8) (h' : Nat) (ps : List Nat) (h : Keeps s0 s) :
    Keeps s0 (State.convBuild s k h' ps) := by
  unfold State.convBuild
  dsimp only
  apply State.switchOn_keeps
  apply State.updSpec_keeps
  refine Keeps.upd ?_ rfl ?_ ?_ ?_ ?_
  with_reducible assumption
  exact NvKeeps.refl _
  exact fun w => w
  intro _
  with_reducible apply WaveMem.wf_claim
  assumption
  exact Nat.le_refl _

theorem State.serveHall_keeps {s0 s : State} (h' : Fin 8) (h : Keeps s0 s) :
    Keeps s0 (State.serveHall s h') := by
  unfold State.serveHall
  split
  · exact h
  · split
    · split
      · exact State.endWait_keeps _ _ _ (State.pageAllocNow_keeps _ _ _ h _ (by assumption))
      · exact h
    · split
      · exact State.rewait_keeps _ _ (Keeps.upd h rfl (NvKeeps.refl _) (fun w => w) (fun w => WaveMem.wf_claim _ _ _ _ w) (Nat.le_refl _))
      · exact h
      · exact State.endWait_keeps _ _ _ h
    · dsimp only
      split
      · exact State.rewait_keeps _ _ (State.convBuild_keeps _ _ _ h)
      · exact h
      · exact State.endWait_keeps _ _ _ (State.convGiveUp_keeps _ h)
    · exact h

theorem State.servePages_keeps {s0 s : State}  (h : Keeps s0 s) :
    Keeps s0 (State.servePages s) := by
  unfold State.servePages
  refine Keeps.foldl (fun _ _ _ => ?_) ?_
  apply State.serveHall_keeps
  with_reducible assumption
  with_reducible assumption

end Sys2Proof.Machine
end

