-- ==== Sys2Proof/Laws/KeepsMemRows.lean ====
section
/-! SUPPORT. What the operations of Machine/MemRows.lean keep (Laws/Keeps.lean). -/

namespace Sys2Proof.Machine

theorem State.patrolRead_keeps {s0 s : State} (c : Fin 4) (h : Keeps s0 s) :
    Keeps s0 (State.patrolRead s c) := by
  unfold State.patrolRead
  dsimp only
  refine Keeps.upd ?_ rfl ?_ ?_ ?_ ?_
  refine Keeps.ite (fun _ => ?_) (fun _ => ?_)
  with_reducible assumption
  apply State.memDo_keeps
  intro _
  with_reducible apply WaveMem.wf_readCw
  assumption
  with_reducible assumption
  exact NvKeeps.refl _
  exact fun w => w
  exact fun w => w
  exact Nat.le_refl _

theorem State.scrubEnded_keeps {s0 s : State} (p : Nat) (wiped : Bool) (ev : MemEvents) (bad : Option Nat) (h : Keeps s0 s) :
    Keeps s0 (State.scrubEnded s p wiped ev bad) := by
  unfold State.scrubEnded
  split
  dsimp only
  apply State.memDo_keeps
  intro _
  split
  with_reducible apply WaveMem.wf_setPage
  with_reducible apply WaveMem.wf_retire
  assumption
  with_reducible apply WaveMem.wf_retire
  assumption
  with_reducible assumption
  dsimp only
  refine Keeps.ite (fun _ => ?_) (fun _ => ?_)
  refine Keeps.upd ?_ rfl ?_ ?_ ?_ ?_
  apply State.memDo_keeps
  exact fun w => w
  with_reducible assumption
  exact NvKeeps.refl _
  exact fun w => w
  intro _
  with_reducible apply WaveMem.wf_setPage
  assumption
  exact Nat.le_refl _
  split
  apply State.pageNotice_keeps
  apply State.fenceLift_keeps
  refine Keeps.upd ?_ rfl ?_ ?_ ?_ ?_
  apply State.memDo_keeps
  exact fun w => w
  with_reducible assumption
  exact NvKeeps.refl _
  exact fun w => w
  intro _
  with_reducible apply WaveMem.wf_setPage
  assumption
  exact Nat.le_refl _
  apply State.fenceLift_keeps
  refine Keeps.upd ?_ rfl ?_ ?_ ?_ ?_
  apply State.memDo_keeps
  exact fun w => w
  with_reducible assumption
  exact NvKeeps.refl _
  exact fun w => w
  intro _
  with_reducible apply WaveMem.wf_setPage
  assumption
  exact Nat.le_refl _

theorem State.fillPage_keeps {s0 s : State} (p : Nat) (bs : List Byte) (st : PageState) (h : Keeps s0 s) :
    Keeps s0 (State.fillPage s p bs st) := by
  unfold State.fillPage
  dsimp only
  refine Keeps.ite (fun _ => ?_) (fun _ => ?_)
  refine Keeps.upd ?_ rfl ?_ ?_ ?_ ?_
  apply State.memDo_keeps
  intro _
  with_reducible apply WaveMem.wf_writeBytes
  assumption
  with_reducible assumption
  exact NvKeeps.refl _
  exact fun w => w
  intro _
  with_reducible apply WaveMem.wf_setPage
  assumption
  exact Nat.le_refl _
  apply State.memDo_keeps
  intro _
  with_reducible apply WaveMem.wf_writeBytes
  assumption
  with_reducible assumption

theorem State.storeProg_keeps {s0 s : State} (h' : Fin 8) (image : List Byte) (p : Prog) (pages : List Nat) (h : Keeps s0 s) :
    Keeps s0 (State.storeProg s h' image p pages) := by
  unfold State.storeProg
  split
  apply State.endWait_keeps
  apply State.wipePages_keeps
  with_reducible assumption
  dsimp only
  apply State.endWait_keeps
  apply State.updHall_keeps
  apply State.storeAt_keeps
  with_reducible assumption

end Sys2Proof.Machine
end

