-- ==== Sys2Proof/Laws/KeepsTake.lean ====
section
/-! SUPPORT. What the operations of Machine/Take.lean keep (Laws/Keeps.lean). -/

namespace Sys2Proof.Machine

theorem Opcode.run_keeps {s0 s : State} (o : Opcode) (hb : ∀ t i c, Keeps s0 t → Keeps s0 (o.body t i c).st) (h' : Fin 8) (c : Cmd) (h : Keeps s0 s) :
    Keeps s0 (Opcode.run o s h' c).st := by
  unfold Opcode.run
  split
  · exact h
  · exact hb _ _ _ h

theorem State.finish_keeps {s0 s : State} (h' : Fin 8) (c : Cmd) (need : Nat) (r : Res) (hr : Keeps s0 r.st) :
    Keeps s0 (State.finish s h' c need r) := by
  unfold State.finish
  split
  apply State.complete_keeps
  apply State.taken_keeps
  (subst_vars; assumption)
  apply State.updHall_keeps
  apply State.taken_keeps
  (subst_vars; assumption)

theorem State.served_keeps {s0 s : State} (h' : Fin 8) (h : Keeps s0 s) :
    Keeps s0 (State.served s h') := by
  unfold State.served
  refine Keeps.upd ?_ rfl ?_ ?_ ?_ ?_
  with_reducible assumption
  exact NvKeeps.refl _
  exact fun w => w
  exact fun w => w
  exact Nat.le_refl _

theorem State.stall_keeps {s0 s : State} (h' : Fin 8) (h : Keeps s0 s) :
    Keeps s0 (State.stall s h') := by
  unfold State.stall
  apply State.served_keeps
  apply State.updRing_keeps
  with_reducible assumption

theorem State.takeEntries_keeps {s0 s : State} (h' : Fin 8) (n need : Nat) (h : Keeps s0 s) :
    Keeps s0 (State.takeEntries s h' n need) := by
  unfold State.takeEntries
  apply State.taking_keeps
  apply State.served_keeps
  apply State.updRing_keeps
  with_reducible assumption

theorem Opcode.take_keeps {s0 s : State} (o : Opcode) (hb : ∀ t i c, Keeps s0 t → Keeps s0 (o.body t i c).st) (sel : Cmd → Bool) (h' : Fin 8) (h : Keeps s0 s) :
    Keeps s0 (Opcode.take o sel h' s) := by
  unfold Opcode.take
  refine Keeps.ite (fun _ => h) (fun _ => ?_)
  split
  · refine Keeps.ite (fun _ => h) (fun _ => Keeps.ite (fun _ => State.stall_keeps _ h) (fun _ => Keeps.ite (fun _ => State.served_keeps _ h)
      (fun _ => ?_)))
    exact State.finish_keeps _ _ _ _ (Opcode.run_keeps _ hb _ _ (State.takeEntries_keeps _ _ _ h))
  · refine Keeps.ite (fun _ => h) (fun _ => Keeps.ite (fun _ => State.stall_keeps _ h) (fun _ => ?_))
    exact State.complete_keeps _ _ _ _ _ _ _ _ (State.taken_keeps (State.takeEntries_keeps _ _ _ h))
  · exact h
  · exact h

theorem State.timed_keeps {s0 s : State} (h' : Fin 8) (c : Cmd) (kind : EvKind) (extra : List Byte) (h : Keeps s0 s) :
    Keeps s0 (State.timed s h' c kind extra).st := by
  generalize e : State.timed s h' c kind extra = r
  unfold State.timed at e
  extract_lets a t at e
  split at e
  · subst e; exact h
  · generalize e2 : s.arrive h' 0 c.tag c.tag a t kind = q at e
    obtain ⟨u, x, y⟩ := q
    dsimp only at e
    subst e
    exact Keeps.done (Keeps.ofPair e2 (State.arrive_keeps _ _ _ _ _ _ _ h))

theorem State.checked_keeps {s0 s : State} (cs : List (Bool × Nat)) (go : State → Res) (hgo : ∀ t0, Keeps s0 t0 → Keeps s0 (go t0).st) (h : Keeps s0 s) :
    Keeps s0 (State.checked s cs go).st := by
  unfold State.checked
  split
  refine Keeps.done ?_
  with_reducible assumption
  apply_assumption
  with_reducible assumption

end Sys2Proof.Machine
end

