-- ==== Sys2Proof/Laws/KeepsCmdsA.lean ====
section
/-! SUPPORT. What the operations of Machine/CmdsA.lean keep (Laws/Keeps.lean). -/

namespace Sys2Proof.Machine

theorem cmdHelloEcho_keeps {s0 s : State} (h' : Fin 8) (x2 : Cmd) (h : Keeps s0 s) :
    Keeps s0 (cmdHelloEcho s h' x2).st := by
  unfold cmdHelloEcho
  split
  dsimp only
  refine Keeps.done ?_
  with_reducible assumption
  refine Keeps.done ?_
  with_reducible assumption

theorem cmdGetInfo_keeps {s0 s : State} (h' : Fin 8) (x2 : Cmd) (h : Keeps s0 s) :
    Keeps s0 (cmdGetInfo s h' x2).st := by
  unfold cmdGetInfo
  refine Keeps.done ?_
  with_reducible assumption

theorem cmdBye_keeps {s0 s : State} (h' : Fin 8) (c : Cmd) (h : Keeps s0 s) :
    Keeps s0 (cmdBye s h' c).st := by
  unfold cmdBye
  apply State.checked_keeps
  intro _
  intro _
  refine Keeps.iteRes (fun _ => ?_) (fun _ => ?_)
  refine Keeps.done ?_
  apply State.lapse_keeps
  with_reducible assumption
  refine Keeps.done ?_
  apply State.updHall_keeps
  with_reducible assumption
  with_reducible assumption

theorem cmdKeepalive_keeps {s0 s : State} (x1 : Fin 8) (x2 : Cmd) (h : Keeps s0 s) :
    Keeps s0 (cmdKeepalive s x1 x2).st := by
  unfold cmdKeepalive
  refine Keeps.done ?_
  with_reducible assumption

theorem cmdPortSleep_keeps {s0 s : State} (x1 : Fin 8) (x2 : Cmd) (h : Keeps s0 s) :
    Keeps s0 (cmdPortSleep s x1 x2).st := by
  unfold cmdPortSleep
  refine Keeps.done ?_
  with_reducible assumption

theorem cmdModSet_keeps {s0 s : State} (h' : Fin 8) (c : Cmd) (h : Keeps s0 s) :
    Keeps s0 (cmdModSet s h' c).st := by
  unfold cmdModSet
  dsimp only
  apply State.checked_keeps
  intro _
  intro _
  refine Keeps.done ?_
  apply State.updRing_keeps
  with_reducible assumption
  with_reducible assumption

theorem State.mapWait_keeps {s0 s : State} (payload : List Byte) (can : Bool) (h : Keeps s0 s) :
    Keeps s0 (State.mapWait s payload can).st := by
  unfold State.mapWait
  split
  · rename_i x e
    split at e
    · exact State.unparkOne_keeps h _ e
    · cases e
  · exact h

theorem State.hallMake_keeps {s0 s : State} (p : List Byte) (h : Keeps s0 s) :
    Keeps s0 (State.hallMake s p).st := by
  unfold State.hallMake
  dsimp only
  split
  apply State.mapWait_keeps
  with_reducible assumption
  refine Keeps.done ?_
  apply State.irqHall_keeps
  refine Keeps.upd ?_ rfl ?_ ?_ ?_ ?_
  with_reducible assumption
  exact NvKeeps.refl _
  exact fun w => w
  exact fun w => w
  exact Nat.le_refl _

theorem cmdHallCreate_keeps {s0 s : State} (x1 : Fin 8) (c : Cmd) (h : Keeps s0 s) :
    Keeps s0 (cmdHallCreate s x1 c).st := by
  unfold cmdHallCreate
  apply State.checked_keeps
  intro _
  intro _
  apply State.hallMake_keeps
  with_reducible assumption
  with_reducible assumption

theorem State.freeRoutes_keeps {s0 s : State} (h' : Fin 8) (keep : Nat → Bool) (h : Keeps s0 s) :
    Keeps s0 (State.freeRoutes s h' keep) := by
  unfold State.freeRoutes
  refine Keeps.foldl (fun _ _ _ => ?_) ?_
  dsimp only
  refine Keeps.ite (fun _ => ?_) (fun _ => ?_)
  apply State.setRoute_keeps
  with_reducible assumption
  with_reducible assumption
  with_reducible assumption

theorem State.setMask_keeps {s0 s : State} (h' : Fin 8) (m : BitVec 64) (h : Keeps s0 s) :
    Keeps s0 (State.setMask s h' m) := by
  unfold State.setMask
  apply State.freeRoutes_keeps
  apply State.updHall_keeps
  with_reducible assumption

theorem State.resizeRest_keeps {s0 s : State} (h' : Fin 8) (p : List Byte) (h : Keeps s0 s) :
    Keeps s0 (State.resizeRest s h' p) := by
  unfold State.resizeRest
  dsimp only
  apply State.irqHall_keeps
  refine Keeps.ite (fun _ => ?_) (fun _ => ?_)
  apply State.updHall_keeps
  refine Keeps.ite (fun _ => ?_) (fun _ => ?_)
  apply State.updRing_keeps
  refine Keeps.ite (fun _ => ?_) (fun _ => ?_)
  apply State.updHall_keeps
  refine Keeps.ite (fun _ => ?_) (fun _ => ?_)
  apply State.updRing_keeps
  refine Keeps.ite (fun _ => ?_) (fun _ => ?_)
  apply State.setMask_keeps
  refine Keeps.ite (fun _ => ?_) (fun _ => ?_)
  apply State.updHall_keeps
  with_reducible assumption
  with_reducible assumption
  refine Keeps.ite (fun _ => ?_) (fun _ => ?_)
  apply State.updHall_keeps
  with_reducible assumption
  with_reducible assumption
  refine Keeps.ite (fun _ => ?_) (fun _ => ?_)
  apply State.setMask_keeps
  refine Keeps.ite (fun _ => ?_) (fun _ => ?_)
  apply State.updHall_keeps
  with_reducible assumption
  with_reducible assumption
  refine Keeps.ite (fun _ => ?_) (fun _ => ?_)
  apply State.updHall_keeps
  with_reducible assumption
  with_reducible assumption
  refine Keeps.ite (fun _ => ?_) (fun _ => ?_)
  apply State.updRing_keeps
  refine Keeps.ite (fun _ => ?_) (fun _ => ?_)
  apply State.setMask_keeps
  refine Keeps.ite (fun _ => ?_) (fun _ => ?_)
  apply State.updHall_keeps
  with_reducible assumption
  with_reducible assumption
  refine Keeps.ite (fun _ => ?_) (fun _ => ?_)
  apply State.updHall_keeps
  with_reducible assumption
  with_reducible assumption
  refine Keeps.ite (fun _ => ?_) (fun _ => ?_)
  apply State.setMask_keeps
  refine Keeps.ite (fun _ => ?_) (fun _ => ?_)
  apply State.updHall_keeps
  with_reducible assumption
  with_reducible assumption
  refine Keeps.ite (fun _ => ?_) (fun _ => ?_)
  apply State.updHall_keeps
  with_reducible assumption
  with_reducible assumption
  refine Keeps.ite (fun _ => ?_) (fun _ => ?_)
  apply State.updHall_keeps
  refine Keeps.ite (fun _ => ?_) (fun _ => ?_)
  apply State.updRing_keeps
  refine Keeps.ite (fun _ => ?_) (fun _ => ?_)
  apply State.setMask_keeps
  refine Keeps.ite (fun _ => ?_) (fun _ => ?_)
  apply State.updHall_keeps
  with_reducible assumption
  with_reducible assumption
  refine Keeps.ite (fun _ => ?_) (fun _ => ?_)
  apply State.updHall_keeps
  with_reducible assumption
  with_reducible assumption
  refine Keeps.ite (fun _ => ?_) (fun _ => ?_)
  apply State.setMask_keeps
  refine Keeps.ite (fun _ => ?_) (fun _ => ?_)
  apply State.updHall_keeps
  with_reducible assumption
  with_reducible assumption
  refine Keeps.ite (fun _ => ?_) (fun _ => ?_)
  apply State.updHall_keeps
  with_reducible assumption
  with_reducible assumption
  refine Keeps.ite (fun _ => ?_) (fun _ => ?_)
  apply State.updRing_keeps
  refine Keeps.ite (fun _ => ?_) (fun _ => ?_)
  apply State.setMask_keeps
  refine Keeps.ite (fun _ => ?_) (fun _ => ?_)
  apply State.updHall_keeps
  with_reducible assumption
  with_reducible assumption
  refine Keeps.ite (fun _ => ?_) (fun _ => ?_)
  apply State.updHall_keeps
  with_reducible assumption
  with_reducible assumption
  refine Keeps.ite (fun _ => ?_) (fun _ => ?_)
  apply State.setMask_keeps
  refine Keeps.ite (fun _ => ?_) (fun _ => ?_)
  apply State.updHall_keeps
  with_reducible assumption
  with_reducible assumption
  refine Keeps.ite (fun _ => ?_) (fun _ => ?_)
  apply State.updHall_keeps
  with_reducible assumption
  with_reducible assumption
  refine Keeps.ite (fun _ => ?_) (fun _ => ?_)
  apply State.updRing_keeps
  refine Keeps.ite (fun _ => ?_) (fun _ => ?_)
  apply State.updHall_keeps
  refine Keeps.ite (fun _ => ?_) (fun _ => ?_)
  apply State.updRing_keeps
  refine Keeps.ite (fun _ => ?_) (fun _ => ?_)
  apply State.setMask_keeps
  refine Keeps.ite (fun _ => ?_) (fun _ => ?_)
  apply State.updHall_keeps
  with_reducible assumption
  with_reducible assumption
  refine Keeps.ite (fun _ => ?_) (fun _ => ?_)
  apply State.updHall_keeps
  with_reducible assumption
  with_reducible assumption
  refine Keeps.ite (fun _ => ?_) (fun _ => ?_)
  apply State.setMask_keeps
  refine Keeps.ite (fun _ => ?_) (fun _ => ?_)
  apply State.updHall_keeps
  with_reducible assumption
  with_reducible assumption
  refine Keeps.ite (fun _ => ?_) (fun _ => ?_)
  apply State.updHall_keeps
  with_reducible assumption
  with_reducible assumption
  refine Keeps.ite (fun _ => ?_) (fun _ => ?_)
  apply State.updRing_keeps
  refine Keeps.ite (fun _ => ?_) (fun _ => ?_)
  apply State.setMask_keeps
  refine Keeps.ite (fun _ => ?_) (fun _ => ?_)
  apply State.updHall_keeps
  with_reducible assumption
  with_reducible assumption
  refine Keeps.ite (fun _ => ?_) (fun _ => ?_)
  apply State.updHall_keeps
  with_reducible assumption
  with_reducible assumption
  refine Keeps.ite (fun _ => ?_) (fun _ => ?_)
  apply State.setMask_keeps
  refine Keeps.ite (fun _ => ?_) (fun _ => ?_)
  apply State.updHall_keeps
  with_reducible assumption
  with_reducible assumption
  refine Keeps.ite (fun _ => ?_) (fun _ => ?_)
  apply State.updHall_keeps
  with_reducible assumption
  with_reducible assumption
  refine Keeps.ite (fun _ => ?_) (fun _ => ?_)
  apply State.updHall_keeps
  refine Keeps.ite (fun _ => ?_) (fun _ => ?_)
  apply State.updRing_keeps
  refine Keeps.ite (fun _ => ?_) (fun _ => ?_)
  apply State.setMask_keeps
  refine Keeps.ite (fun _ => ?_) (fun _ => ?_)
  apply State.updHall_keeps
  with_reducible assumption
  with_reducible assumption
  refine Keeps.ite (fun _ => ?_) (fun _ => ?_)
  apply State.updHall_keeps
  with_reducible assumption
  with_reducible assumption
  refine Keeps.ite (fun _ => ?_) (fun _ => ?_)
  apply State.setMask_keeps
  refine Keeps.ite (fun _ => ?_) (fun _ => ?_)
  apply State.updHall_keeps
  with_reducible assumption
  with_reducible assumption
  refine Keeps.ite (fun _ => ?_) (fun _ => ?_)
  apply State.updHall_keeps
  with_reducible assumption
  with_reducible assumption
  refine Keeps.ite (fun _ => ?_) (fun _ => ?_)
  apply State.updRing_keeps
  refine Keeps.ite (fun _ => ?_) (fun _ => ?_)
  apply State.setMask_keeps
  refine Keeps.ite (fun _ => ?_) (fun _ => ?_)
  apply State.updHall_keeps
  with_reducible assumption
  with_reducible assumption
  refine Keeps.ite (fun _ => ?_) (fun _ => ?_)
  apply State.updHall_keeps
  with_reducible assumption
  with_reducible assumption
  refine Keeps.ite (fun _ => ?_) (fun _ => ?_)
  apply State.setMask_keeps
  refine Keeps.ite (fun _ => ?_) (fun _ => ?_)
  apply State.updHall_keeps
  with_reducible assumption
  with_reducible assumption
  refine Keeps.ite (fun _ => ?_) (fun _ => ?_)
  apply State.updHall_keeps
  with_reducible assumption
  with_reducible assumption

theorem State.hallResize_keeps {s0 s : State} (p : List Byte) (h : Keeps s0 s) :
    Keeps s0 (State.hallResize s p).st := by
  unfold State.hallResize
  dsimp only
  refine Keeps.iteRes (fun _ => ?_) (fun _ => ?_)
  refine Keeps.done ?_
  apply State.updHall_keeps
  apply State.resizeRest_keeps
  with_reducible assumption
  split
  apply State.mapWait_keeps
  with_reducible assumption
  refine Keeps.done ?_
  apply State.updHall_keeps
  apply State.resizeRest_keeps
  refine Keeps.upd ?_ rfl ?_ ?_ ?_ ?_
  with_reducible assumption
  exact NvKeeps.refl _
  exact fun w => w
  exact fun w => w
  exact Nat.le_refl _

theorem cmdHallResize_keeps {s0 s : State} (x1 : Fin 8) (c : Cmd) (h : Keeps s0 s) :
    Keeps s0 (cmdHallResize s x1 c).st := by
  unfold cmdHallResize
  apply State.checked_keeps
  intro _
  intro _
  apply State.hallResize_keeps
  with_reducible assumption
  with_reducible assumption

theorem State.mapAgain_keeps {s0 s : State} (h' : Fin 8) (h : Keeps s0 s) :
    Keeps s0 (State.mapAgain s h') := by
  unfold State.mapAgain
  split
  · split
    · rename_i w _ _ p _
      have k : Keeps s0 (if w.op = 0x0201 then s.hallMake p else s.checked (s.resizeChecks p) fun s => s.hallResize p).st :=
        Keeps.iteRes (fun _ => State.hallMake_keeps _ h) (fun _ => State.checked_keeps _ _ (fun t k => State.hallResize_keeps _ k) h)
      split
      · rename_i e; rw [e] at k; exact State.endWait_keeps _ _ _ k
      · rename_i e; rw [e] at k; exact k
    · exact h
  · exact h

theorem cmdHallBind_keeps {s0 s : State} (x1 : Fin 8) (c : Cmd) (h : Keeps s0 s) :
    Keeps s0 (cmdHallBind s x1 c).st := by
  unfold cmdHallBind
  dsimp only
  apply State.checked_keeps
  intro _
  intro _
  refine Keeps.done ?_
  apply State.irqHall_keeps
  split
  apply State.irqEval_keeps
  apply State.updHall_keeps
  with_reducible assumption
  apply State.updHall_keeps
  with_reducible assumption
  with_reducible assumption

theorem State.dropBulks_keeps {s0 s : State} (h' : Fin 8) (h : Keeps s0 s) :
    Keeps s0 (State.dropBulks s h') := by
  unfold State.dropBulks
  refine Keeps.foldl (fun _ _ _ => ?_) ?_
  apply State.updPort_keeps
  with_reducible assumption
  with_reducible assumption

theorem State.closeHall_keeps {s0 s : State} (h' : Fin 8) (h : Keeps s0 s) :
    Keeps s0 (State.closeHall s h') := by
  unfold State.closeHall
  dsimp only
  split
  apply State.irqEval_keeps
  apply State.updHall_keeps
  refine Keeps.upd ?_ rfl ?_ ?_ ?_ ?_
  apply State.dropMappedOf_keeps
  apply State.erasePkg_keeps
  apply State.dropBulks_keeps
  apply State.freeRoutes_keeps
  refine Keeps.ite (fun _ => ?_) (fun _ => ?_)
  apply State.wipeLate_keeps
  apply State.specReleaseHall_keeps
  refine Keeps.upd ?_ rfl ?_ ?_ ?_ ?_
  apply State.mapVoices_keeps
  with_reducible assumption
  exact NvKeeps.refl _
  exact fun w => w
  exact fun w => w
  exact Nat.le_refl _
  apply State.wipePages_keeps
  apply State.specReleaseHall_keeps
  refine Keeps.upd ?_ rfl ?_ ?_ ?_ ?_
  apply State.mapVoices_keeps
  with_reducible assumption
  exact NvKeeps.refl _
  exact fun w => w
  exact fun w => w
  exact Nat.le_refl _
  exact NvKeeps.refl _
  exact fun w => w
  exact fun w => w
  exact Nat.le_refl _
  apply State.updHall_keeps
  refine Keeps.upd ?_ rfl ?_ ?_ ?_ ?_
  apply State.dropMappedOf_keeps
  apply State.erasePkg_keeps
  apply State.dropBulks_keeps
  apply State.freeRoutes_keeps
  refine Keeps.ite (fun _ => ?_) (fun _ => ?_)
  apply State.wipeLate_keeps
  apply State.specReleaseHall_keeps
  refine Keeps.upd ?_ rfl ?_ ?_ ?_ ?_
  apply State.mapVoices_keeps
  with_reducible assumption
  exact NvKeeps.refl _
  exact fun w => w
  exact fun w => w
  exact Nat.le_refl _
  apply State.wipePages_keeps
  apply State.specReleaseHall_keeps
  refine Keeps.upd ?_ rfl ?_ ?_ ?_ ?_
  apply State.mapVoices_keeps
  with_reducible assumption
  exact NvKeeps.refl _
  exact fun w => w
  exact fun w => w
  exact Nat.le_refl _
  exact NvKeeps.refl _
  exact fun w => w
  exact fun w => w
  exact Nat.le_refl _

theorem cmdHallClose_keeps {s0 s : State} (x1 : Fin 8) (c : Cmd) (h : Keeps s0 s) :
    Keeps s0 (cmdHallClose s x1 c).st := by
  unfold cmdHallClose
  dsimp only
  apply State.checked_keeps
  intro _
  intro _
  refine Keeps.done ?_
  apply State.closeHall_keeps
  with_reducible assumption
  with_reducible assumption

end Sys2Proof.Machine
end

