-- ==== Sys2Proof/Laws/KeepsCmdsB.lean ====
section
/-! SUPPORT. What the operations of Machine/CmdsB.lean keep (Laws/Keeps.lean). -/

namespace Sys2Proof.Machine

theorem State.progTake_keeps {s0 s : State} (h' : Fin 8) (bs : List Byte) (p : Prog) (h : Keeps s0 s) :
    Keeps s0 (State.progTake s h' bs p).st := by
  generalize e : State.progTake s h' bs p = r
  unfold State.progTake at e
  dsimp only at e
  repeat' split at e
  all_goals subst e
  all_goals first
    | exact h
    | exact Keeps.upd h rfl (NvKeeps.refl _) (fun w => w) (fun w => WaveMem.wf_claim _ _ _ _ w) (Nat.le_refl _)

theorem State.progStaged_keeps {s0 s : State} (h' : Fin 8) (first : Nat) (len : Nat) (h : Keeps s0 s) :
    Keeps s0 (State.progStaged s h' first len).st := by
  unfold State.progStaged
  dsimp only
  split
  refine Keeps.done ?_
  apply State.memDo_keeps
  intro _
  with_reducible apply WaveMem.wf_readCws
  assumption
  with_reducible assumption
  split
  refine Keeps.done ?_
  apply State.memDo_keeps
  intro _
  with_reducible apply WaveMem.wf_readCws
  assumption
  with_reducible assumption
  split
  refine Keeps.done ?_
  apply State.memDo_keeps
  intro _
  with_reducible apply WaveMem.wf_readCws
  assumption
  with_reducible assumption
  apply State.progTake_keeps
  apply State.memDo_keeps
  intro _
  with_reducible apply WaveMem.wf_readCws
  assumption
  with_reducible assumption

theorem cmdProgLoad_keeps {s0 s : State} (h' : Fin 8) (c : Cmd) (h : Keeps s0 s) :
    Keeps s0 (cmdProgLoad s h' c).st := by
  unfold cmdProgLoad
  dsimp only
  refine Keeps.iteRes (fun _ => ?_) (fun _ => ?_)
  refine Keeps.done ?_
  with_reducible assumption
  refine Keeps.iteRes (fun _ => ?_) (fun _ => ?_)
  refine Keeps.done ?_
  with_reducible assumption
  refine Keeps.iteRes (fun _ => ?_) (fun _ => ?_)
  refine Keeps.done ?_
  with_reducible assumption
  refine Keeps.iteRes (fun _ => ?_) (fun _ => ?_)
  refine Keeps.done ?_
  with_reducible assumption
  apply State.progStaged_keeps
  with_reducible assumption

theorem cmdProgFree_keeps {s0 s : State} (h' : Fin 8) (c : Cmd) (h : Keeps s0 s) :
    Keeps s0 (cmdProgFree s h' c).st := by
  unfold cmdProgFree
  dsimp only
  apply State.checked_keeps
  intro _
  intro _
  refine Keeps.done ?_
  apply State.reap_keeps
  apply State.updHall_keeps
  with_reducible assumption
  with_reducible assumption

theorem cmdProgInfo_keeps {s0 s : State} (h' : Fin 8) (c : Cmd) (h : Keeps s0 s) :
    Keeps s0 (cmdProgInfo s h' c).st := by
  unfold cmdProgInfo
  refine Keeps.iteRes (fun _ => ?_) (fun _ => ?_)
  refine Keeps.done ?_
  with_reducible assumption
  split
  refine Keeps.done ?_
  with_reducible assumption
  refine Keeps.done ?_
  with_reducible assumption

theorem cmdPageAlloc_keeps {s0 s : State} (h' : Fin 8) (c : Cmd) (h : Keeps s0 s) :
    Keeps s0 (cmdPageAlloc s h' c).st := by
  unfold cmdPageAlloc
  dsimp only
  refine State.checked_keeps _ _ (fun t k => ?_) h
  refine Keeps.iteRes (fun _ => k) (fun _ => ?_)
  split
  · exact State.pageAllocNow_keeps _ _ _ k _ (by assumption)
  · exact k

theorem cmdPageFree_keeps {s0 s : State} (h' : Fin 8) (c : Cmd) (h : Keeps s0 s) :
    Keeps s0 (cmdPageFree s h' c).st := by
  unfold cmdPageFree
  dsimp only
  apply State.checked_keeps
  intro _
  intro _
  split
  refine Keeps.done ?_
  with_reducible assumption
  refine Keeps.done ?_
  apply State.wipePages_keeps
  with_reducible assumption
  with_reducible assumption

theorem State.waveWrite_keeps {s0 s : State} (h' : Fin 8) (page : Nat) (off : Nat) (data : List Byte) (h : Keeps s0 s) :
    Keeps s0 (State.waveWrite s h' page off data).st := by
  unfold State.waveWrite
  dsimp only
  refine Keeps.iteRes (fun _ => ?_) (fun _ => ?_)
  refine Keeps.done ?_
  with_reducible assumption
  refine Keeps.iteRes (fun _ => ?_) (fun _ => ?_)
  refine Keeps.done ?_
  with_reducible assumption
  refine Keeps.iteRes (fun _ => ?_) (fun _ => ?_)
  refine Keeps.done ?_
  with_reducible assumption
  split
  refine Keeps.done ?_
  with_reducible assumption
  refine Keeps.done ?_
  apply State.memDo_keeps
  intro _
  with_reducible apply WaveMem.wf_writeBytes
  assumption
  with_reducible assumption

theorem cmdWaveWrite_keeps {s0 s : State} (h' : Fin 8) (c : Cmd) (h : Keeps s0 s) :
    Keeps s0 (cmdWaveWrite s h' c).st := by
  unfold cmdWaveWrite
  refine Keeps.iteRes (fun _ => ?_) (fun _ => ?_)
  refine Keeps.done ?_
  with_reducible assumption
  apply State.waveWrite_keeps
  with_reducible assumption

theorem State.takeBulk_keeps {s0 s : State} (h' : Fin 8) (j : BulkJob) (h : Keeps s0 s) :
    Keeps s0 (State.takeBulk s h' j) := by
  unfold State.takeBulk
  dsimp only
  refine Keeps.ite (fun _ => ?_) (fun _ => ?_)
  apply State.stall_keeps
  with_reducible assumption
  apply State.finish_keeps
  refine Keeps.iteRes (fun _ => ?_) (fun _ => ?_)
  refine Keeps.done ?_
  apply State.takeEntries_keeps
  apply State.updHall_keeps
  with_reducible assumption
  apply State.waveWrite_keeps
  apply State.takeEntries_keeps
  apply State.updHall_keeps
  with_reducible assumption

theorem State.unwrapPkg_keeps {s0 s : State} (h' : Fin 8) (stage : Nat) (h : Keeps s0 s) :
    Keeps s0 (State.unwrapPkg s h' stage) := by
  unfold State.unwrapPkg
  extract_lets at_ slot kek
  refine Keeps.ite (fun _ => h) (fun _ => ?_)
  generalize keyUnwrap _ _ = k
  cases k with
  | none => exact h
  | some key => exact State.updMgmt_keeps _ h

theorem cmdWaveLoadSealed_keeps {s0 s : State} (h' : Fin 8) (c : Cmd) (h : Keeps s0 s) :
    Keeps s0 (cmdWaveLoadSealed s h' c).st := by
  unfold cmdWaveLoadSealed
  dsimp only
  refine Keeps.iteRes (fun _ => ?_) (fun _ => ?_)
  refine Keeps.done ?_
  with_reducible assumption
  refine Keeps.iteRes (fun _ => ?_) (fun _ => ?_)
  refine Keeps.done ?_
  with_reducible assumption
  refine Keeps.iteRes (fun _ => ?_) (fun _ => ?_)
  refine Keeps.done ?_
  with_reducible assumption
  refine Keeps.iteRes (fun _ => ?_) (fun _ => ?_)
  refine Keeps.done ?_
  with_reducible assumption
  refine Keeps.iteRes (fun _ => ?_) (fun _ => ?_)
  refine Keeps.done ?_
  with_reducible assumption
  refine Keeps.iteRes (fun _ => ?_) (fun _ => ?_)
  refine Keeps.done ?_
  apply State.memDo_keeps
  intro _
  with_reducible apply WaveMem.wf_readCws
  assumption
  with_reducible assumption
  refine Keeps.iteRes (fun _ => ?_) (fun _ => ?_)
  refine Keeps.done ?_
  apply State.memDo_keeps
  intro _
  with_reducible apply WaveMem.wf_readCws
  assumption
  with_reducible assumption
  split
  refine Keeps.done ?_
  apply State.memDo_keeps
  intro _
  with_reducible apply WaveMem.wf_readCws
  assumption
  with_reducible assumption
  refine Keeps.iteRes (fun _ => ?_) (fun _ => ?_)
  refine Keeps.done ?_
  apply State.memDo_keeps
  intro _
  with_reducible apply WaveMem.wf_readCws
  assumption
  with_reducible assumption
  refine Keeps.wait ?_
  apply State.unwrapPkg_keeps
  refine Keeps.upd ?_ rfl ?_ ?_ ?_ ?_
  apply State.memDo_keeps
  intro _
  with_reducible apply WaveMem.wf_readCws
  assumption
  with_reducible assumption
  exact NvKeeps.refl _
  exact fun w => w
  intro _
  with_reducible apply WaveMem.wf_claim
  assumption
  exact Nat.le_refl _

end Sys2Proof.Machine
end

