-- ==== Sys2Proof/Laws/KeepsCmdsC.lean ====
section
/-! SUPPORT. What the operations of Machine/CmdsC.lean keep (Laws/Keeps.lean). -/

namespace Sys2Proof.Machine

theorem cmdVoiceStart_keeps {s0 s : State} (h' : Fin 8) (c : Cmd) (h : Keeps s0 s) :
    Keeps s0 (cmdVoiceStart s h' c).st := by
  unfold cmdVoiceStart
  apply State.checked_keeps
  intro _
  intro _
  apply State.timed_keeps
  with_reducible assumption
  with_reducible assumption

theorem cmdVoiceRelease_keeps {s0 s : State} (h' : Fin 8) (c : Cmd) (h : Keeps s0 s) :
    Keeps s0 (cmdVoiceRelease s h' c).st := by
  unfold cmdVoiceRelease
  apply State.checked_keeps
  intro _
  intro _
  apply State.timed_keeps
  with_reducible assumption
  with_reducible assumption

theorem cmdVoiceKill_keeps {s0 s : State} (h' : Fin 8) (c : Cmd) (h : Keeps s0 s) :
    Keeps s0 (cmdVoiceKill s h' c).st := by
  unfold cmdVoiceKill
  apply State.checked_keeps
  intro _
  intro _
  apply State.timed_keeps
  with_reducible assumption
  with_reducible assumption

theorem cmdParamSet_keeps {s0 s : State} (h' : Fin 8) (c : Cmd) (h : Keeps s0 s) :
    Keeps s0 (cmdParamSet s h' c).st := by
  unfold cmdParamSet
  apply State.checked_keeps
  intro _
  intro _
  apply State.timed_keeps
  with_reducible assumption
  with_reducible assumption

theorem cmdParamRamp_keeps {s0 s : State} (h' : Fin 8) (c : Cmd) (h : Keeps s0 s) :
    Keeps s0 (cmdParamRamp s h' c).st := by
  unfold cmdParamRamp
  apply State.checked_keeps
  intro _
  intro _
  apply State.timed_keeps
  with_reducible assumption
  with_reducible assumption

theorem cmdHallCtrl_keeps {s0 s : State} (h' : Fin 8) (c : Cmd) (h : Keeps s0 s) :
    Keeps s0 (cmdHallCtrl s h' c).st := by
  unfold cmdHallCtrl
  apply State.checked_keeps
  intro _
  intro _
  apply State.timed_keeps
  with_reducible assumption
  with_reducible assumption

theorem cmdInRoute_keeps {s0 s : State} (h' : Fin 8) (c : Cmd) (h : Keeps s0 s) :
    Keeps s0 (cmdInRoute s h' c).st := by
  unfold cmdInRoute
  dsimp only
  apply State.checked_keeps
  intro _
  intro _
  split
  refine Keeps.done ?_
  with_reducible assumption
  refine Keeps.iteRes (fun _ => ?_) (fun _ => ?_)
  apply State.timed_keeps
  with_reducible assumption
  refine Keeps.done ?_
  with_reducible assumption
  with_reducible assumption

theorem cmdInFree_keeps {s0 s : State} (h' : Fin 8) (c : Cmd) (h : Keeps s0 s) :
    Keeps s0 (cmdInFree s h' c).st := by
  unfold cmdInFree
  dsimp only
  apply State.checked_keeps
  intro _
  intro _
  apply State.timed_keeps
  with_reducible assumption
  with_reducible assumption

theorem cmdTdmDest_keeps {s0 s : State} (h' : Fin 8) (c : Cmd) (h : Keeps s0 s) :
    Keeps s0 (cmdTdmDest s h' c).st := by
  unfold cmdTdmDest
  dsimp only
  apply State.checked_keeps
  intro _
  intro _
  apply State.timed_keeps
  with_reducible assumption
  with_reducible assumption

theorem cmdDacDest_keeps {s0 s : State} (h' : Fin 8) (c : Cmd) (h : Keeps s0 s) :
    Keeps s0 (cmdDacDest s h' c).st := by
  unfold cmdDacDest
  dsimp only
  apply State.checked_keeps
  intro _
  intro _
  apply State.timed_keeps
  with_reducible assumption
  with_reducible assumption

theorem cmdSync_keeps {s0 s : State} (h' : Fin 8) (c : Cmd) (h : Keeps s0 s) :
    Keeps s0 (cmdSync s h' c).st := by
  unfold cmdSync
  dsimp only
  apply State.checked_keeps
  intro _
  intro _
  apply State.timed_keeps
  with_reducible assumption
  with_reducible assumption

theorem cmdEqLoad_keeps {s0 s : State} (h' : Fin 8) (c : Cmd) (h : Keeps s0 s) :
    Keeps s0 (cmdEqLoad s h' c).st := by
  unfold cmdEqLoad
  dsimp only
  apply State.checked_keeps
  intro _
  intro _
  refine Keeps.wait ?_
  apply State.updOut_keeps
  with_reducible assumption
  with_reducible assumption

theorem cmdEqSwap_keeps {s0 s : State} (h' : Fin 8) (c : Cmd) (h : Keeps s0 s) :
    Keeps s0 (cmdEqSwap s h' c).st := by
  unfold cmdEqSwap
  dsimp only
  apply State.checked_keeps
  intro _
  intro _
  apply State.timed_keeps
  with_reducible assumption
  with_reducible assumption

theorem cmdDelaySet_keeps {s0 s : State} (h' : Fin 8) (c : Cmd) (h : Keeps s0 s) :
    Keeps s0 (cmdDelaySet s h' c).st := by
  unfold cmdDelaySet
  dsimp only
  apply State.checked_keeps
  intro _
  intro _
  apply State.timed_keeps
  with_reducible assumption
  with_reducible assumption

theorem State.detCoefs_keeps {s0 s : State} (bus : Nat) (p : List Byte) (h : Keeps s0 s) :
    Keeps s0 (State.detCoefs s bus p) := by
  unfold State.detCoefs
  apply State.updOut_keeps
  with_reducible assumption

theorem State.detBind_keeps {s0 s : State} (h' : Fin 8) (i : Nat) (bus : Nat) (which : Nat) (h : Keeps s0 s) :
    Keeps s0 (State.detBind s h' i bus which) := by
  unfold State.detBind
  dsimp only
  apply State.updHall_keeps
  with_reducible assumption

theorem cmdDetectorCfg_keeps {s0 s : State} (h' : Fin 8) (c : Cmd) (h : Keeps s0 s) :
    Keeps s0 (cmdDetectorCfg s h' c).st := by
  unfold cmdDetectorCfg
  dsimp only
  apply State.checked_keeps
  intro _
  intro _
  refine Keeps.done ?_
  refine Keeps.ite (fun _ => ?_) (fun _ => ?_)
  refine Keeps.ite (fun _ => ?_) (fun _ => ?_)
  apply State.detCoefs_keeps
  with_reducible assumption
  with_reducible assumption
  apply State.detBind_keeps
  refine Keeps.ite (fun _ => ?_) (fun _ => ?_)
  apply State.detCoefs_keeps
  with_reducible assumption
  with_reducible assumption
  with_reducible assumption

end Sys2Proof.Machine
end

