-- ==== Sys2Proof/Laws/KeepsCmdsD.lean ====
section
/-! SUPPORT. What the operations of Machine/CmdsD.lean keep (Laws/Keeps.lean). -/

namespace Sys2Proof.Machine

theorem State.convTake_keeps {s0 s : State} (h' : Fin 8) (k : Fin 8) (b : Build) (h : Keeps s0 s) :
    Keeps s0 (State.convTake s h' k b).st := by
  generalize e : State.convTake s h' k b = r
  unfold State.convTake at e
  dsimp only at e
  repeat' split at e
  all_goals subst e
  · exact h
  · exact State.convBuild_keeps _ _ _ (State.updSpec_keeps _ _ h)
  · exact State.updSpec_keeps _ _ h

theorem cmdConvLoad_keeps {s0 s : State} (h' : Fin 8) (c : Cmd) (h : Keeps s0 s) :
    Keeps s0 (cmdConvLoad s h' c).st := by
  unfold cmdConvLoad
  dsimp only
  refine Keeps.iteRes (fun _ => ?_) (fun _ => ?_)
  refine Keeps.done ?_
  with_reducible assumption
  refine Keeps.iteRes (fun _ => ?_) (fun _ => ?_)
  refine Keeps.done ?_
  with_reducible assumption
  refine Keeps.iteRes (fun _ => ?_) (fun _ => ?_)
  refine Keeps.done ?_
  with_reducible assumption
  refine Keeps.iteRes (fun _ => ?_) (fun _ => ?_)
  refine Keeps.done ?_
  with_reducible assumption
  refine Keeps.iteRes (fun _ => ?_) (fun _ => ?_)
  refine Keeps.done ?_
  with_reducible assumption
  refine Keeps.iteRes (fun _ => ?_) (fun _ => ?_)
  refine Keeps.done ?_
  apply State.memDo_keeps
  intro _
  with_reducible apply WaveMem.wf_readCws
  assumption
  with_reducible assumption
  refine Keeps.iteRes (fun _ => ?_) (fun _ => ?_)
  refine Keeps.done ?_
  apply State.memDo_keeps
  intro _
  with_reducible apply WaveMem.wf_readCws
  assumption
  with_reducible assumption
  apply State.convTake_keeps
  apply State.memDo_keeps
  intro _
  with_reducible apply WaveMem.wf_readCws
  assumption
  with_reducible assumption

theorem State.convRoute_keeps {s0 s : State} (k : Fin 8) (p : List Byte) (h : Keeps s0 s) :
    Keeps s0 (State.convRoute s k p) := by
  unfold State.convRoute
  dsimp only
  apply State.setRet_keeps
  apply State.setChCfg_keeps
  with_reducible assumption

theorem cmdConvRoute_keeps {s0 s : State} (h' : Fin 8) (c : Cmd) (h : Keeps s0 s) :
    Keeps s0 (cmdConvRoute s h' c).st := by
  unfold cmdConvRoute
  dsimp only
  apply State.checked_keeps
  intro _
  intro _
  refine Keeps.done ?_
  refine Keeps.ite (fun _ => ?_) (fun _ => ?_)
  apply State.convRelease_keeps
  with_reducible assumption
  apply State.convRoute_keeps
  with_reducible assumption
  with_reducible assumption

theorem State.anSet_keeps {s0 s : State} (a : Fin 2) (h' : Nat) (p : List Byte) (h : Keeps s0 s) :
    Keeps s0 (State.anSet s a h' p) := by
  unfold State.anSet
  dsimp only
  apply State.unstruck_keeps
  apply State.updAn_keeps
  with_reducible assumption

theorem cmdResynCfg_keeps {s0 s : State} (h' : Fin 8) (c : Cmd) (h : Keeps s0 s) :
    Keeps s0 (cmdResynCfg s h' c).st := by
  unfold cmdResynCfg
  dsimp only
  apply State.checked_keeps
  intro _
  intro _
  refine Keeps.iteRes (fun _ => ?_) (fun _ => ?_)
  refine Keeps.done ?_
  apply State.anRelease_keeps
  with_reducible assumption
  refine Keeps.iteRes (fun _ => ?_) (fun _ => ?_)
  refine Keeps.done ?_
  apply State.anSet_keeps
  with_reducible assumption
  refine Keeps.wait ?_
  apply State.switchOn_keeps
  apply State.anSet_keeps
  with_reducible assumption
  with_reducible assumption

theorem State.specAwake_keeps {s0 s : State} (h' : Fin 8) (h : Keeps s0 s) :
    Keeps s0 (State.specAwake s h') := by
  unfold State.specAwake
  split
  split
  apply State.endWait_keeps
  apply State.anSet_keeps
  with_reducible assumption
  with_reducible assumption
  with_reducible assumption

theorem cmdTimeGet_keeps {s0 s : State} (x1 : Fin 8) (x2 : Cmd) (h : Keeps s0 s) :
    Keeps s0 (cmdTimeGet s x1 x2).st := by
  unfold cmdTimeGet
  refine Keeps.done ?_
  with_reducible assumption

theorem cmdTriggerMap_keeps {s0 s : State} (h' : Fin 8) (c : Cmd) (h : Keeps s0 s) :
    Keeps s0 (cmdTriggerMap s h' c).st := by
  unfold cmdTriggerMap
  dsimp only
  apply State.checked_keeps
  intro _
  intro _
  refine Keeps.done ?_
  apply State.updTrg_keeps
  with_reducible assumption
  with_reducible assumption

theorem cmdStats_keeps {s0 s : State} (h' : Fin 8) (x2 : Cmd) (h : Keeps s0 s) :
    Keeps s0 (cmdStats s h' x2).st := by
  unfold cmdStats
  refine Keeps.done ?_
  with_reducible assumption

theorem cmdFenceStatus_keeps {s0 s : State} (h' : Fin 8) (c : Cmd) (h : Keeps s0 s) :
    Keeps s0 (cmdFenceStatus s h' c).st := by
  unfold cmdFenceStatus
  apply State.checked_keeps
  intro _
  intro _
  refine Keeps.done ?_
  with_reducible assumption
  with_reducible assumption

theorem cmdFenceLift_keeps {s0 s : State} (h' : Fin 8) (c : Cmd) (h : Keeps s0 s) :
    Keeps s0 (cmdFenceLift s h' c).st := by
  unfold cmdFenceLift
  apply State.checked_keeps
  intro _
  intro _
  dsimp only
  refine Keeps.iteRes (fun _ => ?_) (fun _ => ?_)
  refine Keeps.wait ?_
  apply State.liftUnit_keeps
  with_reducible assumption
  refine Keeps.done ?_
  apply State.liftUnit_keeps
  with_reducible assumption
  with_reducible assumption

theorem cmdLogRead_keeps {s0 s : State} (h' : Fin 8) (c : Cmd) (h : Keeps s0 s) :
    Keeps s0 (cmdLogRead s h' c).st := by
  unfold cmdLogRead
  dsimp only
  apply State.checked_keeps
  intro _
  intro _
  refine Keeps.done ?_
  with_reducible assumption
  with_reducible assumption


end Sys2Proof.Machine
end

