-- ==== Sys2Proof/Laws/KeepsUpdate.lean ====
section
/-! SUPPORT. What the operations of Machine/Update.lean keep (Laws/Keeps.lean). -/

namespace Sys2Proof.Machine

/-- An allowed transition never goes back to an earlier stage. -/
theorem lifeAllowed_stage (c : Bool) (a b : LifeCycle) (h : lifeAllowed c a b = true) : a.stage ≤ b.stage := by
  cases a <;> cases b <;> simp_all [lifeAllowed, LifeCycle.stage]

theorem State.logUpd_keeps {s0 s : State} (code : Nat) (n : Fin 2) (h : Keeps s0 s) :
    Keeps s0 (State.logUpd s code n) := by
  unfold State.logUpd
  apply State.log_keeps
  with_reducible assumption

theorem State.updOpen_keeps {s0 s : State} (len : Nat) (con : Option (Fin 4)) (h : Keeps s0 s) :
    Keeps s0 (State.updOpen s len con) := by
  unfold State.updOpen
  dsimp only
  apply State.logUpd_keeps
  apply State.updMgmt_keeps
  apply State.updNv_keeps
  exact NvKeeps.of rfl rfl rfl rfl rfl
  with_reducible assumption

theorem State.updProgram_keeps {s0 s : State} (data : List Byte) (con : Option (Fin 4)) (h : Keeps s0 s) :
    Keeps s0 (State.updProgram s data con) := by
  unfold State.updProgram
  apply State.updMgmt_keeps
  with_reducible assumption

theorem State.updCommit_keeps {s0 s : State} (restart : Bool) (h : Keeps s0 s) :
    Keeps s0 (State.updCommit s restart).1 := by
  unfold State.updCommit
  split
  refine Keeps.pair ?_
  with_reducible assumption
  refine Keeps.iteFst (fun _ => ?_) (fun _ => ?_)
  refine Keeps.pair ?_
  with_reducible assumption
  dsimp only
  refine Keeps.iteFst (fun _ => ?_) (fun _ => ?_)
  refine Keeps.pair ?_
  with_reducible assumption
  refine Keeps.iteFst (fun _ => ?_) (fun _ => ?_)
  refine Keeps.pair ?_
  with_reducible assumption
  refine Keeps.pair ?_
  apply State.logUpd_keeps
  apply State.updMgmt_keeps
  apply State.updNv_keeps
  exact NvKeeps.of rfl rfl rfl rfl rfl
  with_reducible assumption

theorem State.updRollback_keeps {s0 s : State}  (h : Keeps s0 s) :
    Keeps s0 (State.updRollback s).1 := by
  unfold State.updRollback
  dsimp only
  refine Keeps.iteFst (fun _ => ?_) (fun _ => ?_)
  refine Keeps.pair ?_
  apply State.logUpd_keeps
  apply State.updNv_keeps
  exact NvKeeps.of rfl rfl rfl rfl rfl
  with_reducible assumption
  refine Keeps.pair ?_
  with_reducible assumption

theorem State.unseal_keeps {s0 s : State} (p : Nat) (h : Keeps s0 s) :
    Keeps s0 (State.unseal s p) := by
  unfold State.unseal
  dsimp only
  refine Keeps.upd (State.memDo_keeps _ (fun w => WaveMem.wf_writeBytes _ _ _ w) h) rfl (NvKeeps.refl _) (fun w => w) ?_ (Nat.le_refl _)
  exact fun w => WaveMem.wf_setPage _ _ _ w

theorem State.failSealed_keeps {s0 s : State} (h' : Fin 8) (h : Keeps s0 s) :
    Keeps s0 (State.failSealed s h') := by
  unfold State.failSealed
  split
  split
  apply State.endWait_keeps
  with_reducible assumption
  with_reducible assumption
  with_reducible assumption

theorem State.lifeTo_keeps {s0 s : State} (t' : LifeCycle) (ht : s.nv.life.stage ≤ t'.stage) (h : Keeps s0 s) :
    Keeps s0 (s.lifeTo t') := by
  have hn : NvKeeps s.nv { s.nv with life := t' } := ⟨rfl, rfl, fun w => ⟨Nat.le_refl _, w⟩, ht, fun _ w => w⟩
  have k1 : Keeps s0 (if t' = .service ∨ (s.nv.life = .service ∧ t' = .field) then s.updRec sectorKeys fun v => { v with life := t' }
      else s.updNv fun v => { v with life := t' }) :=
    Keeps.ite (fun _ => State.updRec_keeps _ _ hn h) (fun _ => State.updNv_keeps _ hn h)
  have k := State.log_keeps 0x0A01 none [byte s.nv.life.code, byte t'.code] (State.alcoveWipe_keeps .lc k1)
  unfold State.lifeTo
  dsimp only
  revert k
  generalize State.log _ _ _ _ = u
  intro k
  cases t'
  · exact k
  · exact k
  · exact Keeps.ite (fun _ => State.updMgmt_keeps _ k) (fun _ => k)
  · exact Keeps.foldl (fun _ _ w => State.failSealed_keeps _ w) (Keeps.foldl (fun _ _ w => State.unseal_keeps _ w) k)
  · exact State.updRec_keeps _ _ (NvKeeps.of rfl rfl rfl rfl rfl) k

theorem State.lifeChange_keeps {s0 s : State} (console : Bool) (cur : Nat) (tgt : Nat) (h : Keeps s0 s) :
    Keeps s0 (State.lifeChange s console cur tgt).1 := by
  unfold State.lifeChange
  split
  · exact h
  · refine Keeps.iteFst (fun w => State.lifeTo_keeps _ (lifeAllowed_stage _ _ _ w.2) h) (fun _ => h)

end Sys2Proof.Machine
end

