-- ==== Sys2Proof/Laws/KeepsCmdsE.lean ====
section
/-! SUPPORT. What the operations of Machine/CmdsE.lean keep (Laws/Keeps.lean). -/

namespace Sys2Proof.Machine

theorem cmdUpdBegin_keeps {s0 s : State} (x1 : Fin 8) (c : Cmd) (h : Keeps s0 s) :
    Keeps s0 (cmdUpdBegin s x1 c).st := by
  unfold cmdUpdBegin
  dsimp only
  apply State.checked_keeps
  intro _
  intro _
  refine Keeps.iteRes (fun _ => ?_) (fun _ => ?_)
  refine Keeps.done ?_
  with_reducible assumption
  refine Keeps.iteRes (fun _ => ?_) (fun _ => ?_)
  refine Keeps.done ?_
  with_reducible assumption
  refine Keeps.wait ?_
  apply State.updOpen_keeps
  with_reducible assumption
  with_reducible assumption

theorem cmdUpdChunk_keeps {s0 s : State} (h' : Fin 8) (c : Cmd) (h : Keeps s0 s) :
    Keeps s0 (cmdUpdChunk s h' c).st := by
  generalize e : cmdUpdChunk s h' c = r
  unfold cmdUpdChunk at e
  dsimp only at e
  repeat' split at e
  all_goals subst e
  iterate 5 exact h
  exact State.updProgram_keeps _ _ (State.memDo_keeps _ (fun w => WaveMem.wf_readCws _ _ w) h)

theorem cmdUpdCommit_keeps {s0 s : State} (x1 : Fin 8) (c : Cmd) (h : Keeps s0 s) :
    Keeps s0 (cmdUpdCommit s x1 c).st := by
  unfold cmdUpdCommit
  apply State.checked_keeps
  intro _
  intro _
  dsimp only
  refine Keeps.done ?_
  apply State.updCommit_keeps
  with_reducible assumption
  with_reducible assumption

theorem cmdUpdRollback_keeps {s0 s : State} (x1 : Fin 8) (x2 : Cmd) (h : Keeps s0 s) :
    Keeps s0 (cmdUpdRollback s x1 x2).st := by
  unfold cmdUpdRollback
  refine Keeps.done ?_
  apply State.updRollback_keeps
  with_reducible assumption

theorem cmdLifecycle_keeps {s0 s : State} (x1 : Fin 8) (c : Cmd) (h : Keeps s0 s) :
    Keeps s0 (cmdLifecycle s x1 c).st := by
  unfold cmdLifecycle
  apply State.checked_keeps
  intro _
  intro _
  dsimp only
  refine Keeps.done ?_
  apply State.lifeChange_keeps
  with_reducible assumption
  with_reducible assumption

theorem State.flashAnswer_keeps {s0 s : State} (sel : WaitFor → Bool) (data : List Byte) (h : Keeps s0 s) :
    Keeps s0 (State.flashAnswer s sel data) := by
  unfold State.flashAnswer
  refine Keeps.foldl (fun _ _ _ => ?_) ?_
  split
  refine Keeps.ite (fun _ => ?_) (fun _ => ?_)
  apply State.endWait_keeps
  with_reducible assumption
  with_reducible assumption
  with_reducible assumption
  with_reducible assumption

theorem State.say_keeps {s0 s : State} (n : Fin 4) (bs : List Byte) (h : Keeps s0 s) :
    Keeps s0 (State.say s n bs) := by
  unfold State.say
  apply State.updSer_keeps
  apply State.updMgmt_keeps
  with_reducible assumption

theorem cmdPowerPolicy_keeps {s0 s : State} (x1 : Fin 8) (c : Cmd) (h : Keeps s0 s) :
    Keeps s0 (cmdPowerPolicy s x1 c).st := by
  unfold cmdPowerPolicy
  dsimp only
  apply State.checked_keeps
  intro _
  intro _
  refine Keeps.done ?_
  apply State.measSet_keeps
  apply State.updMgmt_keeps
  apply State.setMargin_keeps
  refine Keeps.upd ?_ rfl ?_ ?_ ?_ ?_
  with_reducible assumption
  exact NvKeeps.refl _
  exact fun w => w
  exact fun w => w
  exact Nat.le_refl _
  with_reducible assumption

theorem State.parkGal_keeps {s0 s : State} (g : Fin 8) (h : Keeps s0 s) :
    ∀ t, State.parkGal s g = some t → Keeps s0 t := by
  intro t e
  unfold State.parkGal at e
  dsimp only at e
  obtain ⟨halls, -, rfl⟩ := Option.map_eq_some_iff.1 e
  exact State.updGal_keeps _ _ (Keeps.upd h rfl (NvKeeps.refl _) (fun w => w) (fun w => w) (Nat.le_refl _))

theorem cmdGalleryPark_keeps {s0 s : State} (x1 : Fin 8) (c : Cmd) (h : Keeps s0 s) :
    Keeps s0 (cmdGalleryPark s x1 c).st := by
  unfold cmdGalleryPark
  dsimp only
  refine State.checked_keeps _ _ (fun t k => ?_) h
  refine Keeps.iteRes (fun _ => k) (fun _ => Keeps.iteRes (fun _ => k) (fun _ => ?_))
  split
  · exact State.parkGal_keeps _ k _ (by assumption)
  · exact k

theorem cmdGalleryUnpark_keeps {s0 s : State} (x1 : Fin 8) (c : Cmd) (h : Keeps s0 s) :
    Keeps s0 (cmdGalleryUnpark s x1 c).st := by
  unfold cmdGalleryUnpark
  dsimp only
  apply State.checked_keeps
  intro _
  intro _
  refine Keeps.iteRes (fun _ => ?_) (fun _ => ?_)
  refine Keeps.wait ?_
  apply State.switchOn_keeps
  with_reducible assumption
  refine Keeps.done ?_
  with_reducible assumption
  with_reducible assumption

end Sys2Proof.Machine
end

