-- ==== Sys2Proof/Laws/KeepsCmdsF.lean ====
section
/-! SUPPORT. What the operations of Machine/CmdsF.lean keep (Laws/Keeps.lean). -/

namespace Sys2Proof.Machine

theorem State.setRole_keeps {s0 s : State} (n : Fin 4) (role : Nat) (rate : Nat) (addr : Nat) (h : Keeps s0 s) :
    Keeps s0 (State.setRole s n role rate addr) := by
  unfold State.setRole
  dsimp only
  apply State.updSer_keeps
  with_reducible assumption

theorem State.giveRole_keeps {s0 s : State} (p : List Byte) (h : Keeps s0 s) :
    Keeps s0 (State.giveRole s p) := by
  unfold State.giveRole
  dsimp only
  refine Keeps.ite (fun _ => ?_) (fun _ => ?_)
  apply State.switchOff_keeps
  apply State.setRole_keeps
  with_reducible assumption
  apply State.setRole_keeps
  with_reducible assumption

theorem cmdSerRole_keeps {s0 s : State} (x1 : Fin 8) (c : Cmd) (h : Keeps s0 s) :
    Keeps s0 (cmdSerRole s x1 c).st := by
  unfold cmdSerRole
  dsimp only
  apply State.checked_keeps
  intro _
  intro _
  refine Keeps.iteRes (fun _ => ?_) (fun _ => ?_)
  refine Keeps.done ?_
  apply State.giveRole_keeps
  with_reducible assumption
  refine Keeps.wait ?_
  apply State.switchOn_keeps
  with_reducible assumption
  with_reducible assumption

theorem State.serAwake_keeps {s0 s : State} (h' : Fin 8) (h : Keeps s0 s) :
    Keeps s0 (State.serAwake s h') := by
  unfold State.serAwake
  split
  split
  apply State.endWait_keeps
  apply State.giveRole_keeps
  with_reducible assumption
  with_reducible assumption
  with_reducible assumption

theorem cmdDmxPatch_keeps {s0 s : State} (x1 : Fin 8) (c : Cmd) (h : Keeps s0 s) :
    Keeps s0 (cmdDmxPatch s x1 c).st := by
  unfold cmdDmxPatch
  dsimp only
  refine Keeps.iteRes (fun _ => ?_) (fun _ => ?_)
  apply State.checked_keeps
  intro _
  intro _
  refine Keeps.done ?_
  with_reducible assumption
  with_reducible assumption
  apply State.checked_keeps
  intro _
  intro _
  refine Keeps.done ?_
  apply State.updSer_keeps
  with_reducible assumption
  with_reducible assumption

theorem cmdRdmIdent_keeps {s0 s : State} (x1 : Fin 8) (c : Cmd) (h : Keeps s0 s) :
    Keeps s0 (cmdRdmIdent s x1 c).st := by
  unfold cmdRdmIdent
  dsimp only
  apply State.checked_keeps
  intro _
  intro _
  refine Keeps.done ?_
  apply State.updSer_keeps
  with_reducible assumption
  with_reducible assumption

theorem cmdUndefined_keeps {s0 s : State} (h' : Fin 8) (c : Cmd) (h : Keeps s0 s) :
    Keeps s0 (cmdUndefined s h' c).st := by
  unfold cmdUndefined
  refine Keeps.done ?_
  with_reducible assumption

theorem Opcode.runUndefined_keeps {s0 s : State} (h' : Fin 8) (h : Keeps s0 s) :
    Keeps s0 (Opcode.runUndefined h' s) := by
  unfold Opcode.runUndefined
  refine Keeps.ite (fun _ => ?_) (fun _ => ?_)
  with_reducible assumption
  split
  refine Keeps.ite (fun _ => ?_) (fun _ => ?_)
  with_reducible assumption
  refine Keeps.ite (fun _ => ?_) (fun _ => ?_)
  apply State.stall_keeps
  with_reducible assumption
  dsimp only
  apply State.finish_keeps
  apply cmdUndefined_keeps
  apply State.takeEntries_keeps
  with_reducible assumption
  refine Keeps.ite (fun _ => ?_) (fun _ => ?_)
  with_reducible assumption
  refine Keeps.ite (fun _ => ?_) (fun _ => ?_)
  apply State.stall_keeps
  with_reducible assumption
  apply State.complete_keeps
  apply State.taken_keeps
  apply State.takeEntries_keeps
  with_reducible assumption
  with_reducible assumption
  with_reducible assumption


end Sys2Proof.Machine
end

