-- ==== Sys2Proof/Laws/KeepsReset.lean ====
section
/-! SUPPORT. What the operations of Machine/Reset.lean keep (Laws/Keeps.lean). -/

namespace Sys2Proof.Machine

theorem State.release_keeps {s0 s : State}  (h : Keeps s0 s) :
    Keeps s0 (State.release s) := by
  unfold State.release
  refine Keeps.ite (fun _ => ?_) (fun _ => ?_)
  refine Keeps.upd ?_ rfl ?_ ?_ ?_ ?_
  with_reducible assumption
  exact NvKeeps.refl _
  exact fun w => w
  exact fun w => w
  exact Nat.le_refl _
  with_reducible assumption

theorem State.restart_keeps {s0 s : State} (c : RstCause) (pins : Pins) (h : Keeps s0 s) :
    Keeps s0 (State.restart s c pins) := by
  unfold State.restart
  exact h.trans ⟨rfl, fun _ => rfl, fun _ => WaveMem.wf_reset, NvKeeps.of rfl rfl rfl rfl rfl, Nat.le_refl _⟩

theorem State.internalReset_keeps {s0 s : State} (c : RstCause) (h : Keeps s0 s) :
    Keeps s0 (State.internalReset s c) := by
  unfold State.internalReset
  apply State.release_keeps
  apply State.restart_keeps
  with_reducible assumption

theorem State.bootChoice_keeps {s0 s : State}  (h : Keeps s0 s) :
    Keeps s0 (State.bootChoice s).1 := by
  unfold State.bootChoice
  split
  refine Keeps.iteFst (fun _ => ?_) (fun _ => ?_)
  refine Keeps.pair ?_
  apply State.updNv_keeps
  exact NvKeeps.of rfl rfl rfl rfl rfl
  with_reducible assumption
  refine Keeps.pair ?_
  apply State.updNv_keeps
  exact NvKeeps.of rfl rfl rfl rfl rfl
  with_reducible assumption
  split
  refine Keeps.pair ?_
  with_reducible assumption
  refine Keeps.pair ?_
  with_reducible assumption

theorem State.bootSlot_keeps {s0 s : State}  (h : Keeps s0 s) :
    Keeps s0 (State.bootSlot s).1 := by
  unfold State.bootSlot
  dsimp only
  refine Keeps.iteFst (fun _ => ?_) (fun _ => ?_)
  refine Keeps.pair ?_
  apply State.bootChoice_keeps
  with_reducible assumption
  refine Keeps.iteFst (fun _ => ?_) (fun _ => ?_)
  refine Keeps.pair ?_
  apply State.logUpd_keeps
  apply State.updNv_keeps
  exact NvKeeps.of rfl rfl rfl rfl rfl
  apply State.bootChoice_keeps
  with_reducible assumption
  refine Keeps.pair ?_
  apply State.bootChoice_keeps
  with_reducible assumption

theorem State.loadKeys_keeps {s0 s : State}  (h : Keeps s0 s) :
    Keeps s0 (State.loadKeys s) := by
  unfold State.loadKeys
  refine Keeps.ite (fun _ => ?_) (fun _ => ?_)
  with_reducible assumption
  dsimp only
  refine Keeps.ite (fun _ => ?_) (fun _ => ?_)
  apply State.updMgmt_keeps
  with_reducible assumption
  apply State.updMgmt_keeps
  with_reducible assumption

theorem State.bootDomain_keeps {s0 s : State} (d : Fin 16) (h : Keeps s0 s) :
    Keeps s0 (State.bootDomain s d) := by
  unfold State.bootDomain
  dsimp only
  apply State.raise_keeps
  apply State.updDom_keeps
  refine Keeps.upd ?_ rfl ?_ ?_ ?_ ?_
  with_reducible assumption
  exact NvKeeps.refl _
  exact fun w => w
  exact fun w => w
  exact Nat.le_succ _

theorem State.bootGallery_keeps {s0 s : State} (g : Fin 8) (h : Keeps s0 s) :
    Keeps s0 (State.bootGallery s g) := by
  unfold State.bootGallery
  refine Keeps.ite (fun _ => ?_) (fun _ => ?_)
  apply State.bootDomain_keeps
  with_reducible assumption
  apply State.updGal_keeps
  with_reducible assumption

theorem State.bootBad_keeps {s0 s : State} (cw : Nat) (h : Keeps s0 s) :
    Keeps s0 (State.bootBad s cw) := by
  unfold State.bootBad
  dsimp only
  refine Keeps.ite (fun _ => ?_) (fun _ => ?_)
  with_reducible assumption
  apply State.memDo_keeps
  intro _
  with_reducible apply WaveMem.wf_retire
  with_reducible apply WaveMem.wf_setPage
  assumption
  with_reducible assumption

theorem State.bootMem_keeps {s0 s : State} (bad : List (Fin 4194304)) (h : Keeps s0 s) :
    Keeps s0 (State.bootMem s bad) := by
  unfold State.bootMem
  dsimp only
  refine Keeps.foldl (fun t cw k => State.bootBad_keeps _ k) ?_
  exact Keeps.upd h rfl (NvKeeps.refl _) (fun w => w) (fun w => WaveMem.wf_fold _ (fun m p hm => WaveMem.wf_setPage m p _ hm) _ _ w) (Nat.le_refl _)

theorem State.bootRoles_keeps {s0 s : State}  (h : Keeps s0 s) :
    Keeps s0 (State.bootRoles s) := by
  unfold State.bootRoles
  refine Keeps.ite (fun _ => ?_) (fun _ => ?_)
  with_reducible assumption
  refine Keeps.foldl (fun _ _ _ => ?_) ?_
  split
  refine Keeps.ite (fun _ => ?_) (fun _ => ?_)
  with_reducible assumption
  apply State.setRole_keeps
  with_reducible assumption
  with_reducible assumption
  apply State.bootDomain_keeps
  with_reducible assumption

theorem State.bootRange_keeps {s0 s : State} (n : Fin 16) (h : Keeps s0 s) :
    Keeps s0 (State.bootRange s n) := by
  unfold State.bootRange
  split
  refine Keeps.ite (fun _ => ?_) (fun _ => ?_)
  with_reducible assumption
  apply State.updDac_keeps
  with_reducible assumption
  with_reducible assumption

theorem State.bootAna_keeps {s0 s : State}  (h : Keeps s0 s) :
    Keeps s0 (State.bootAna s) := by
  unfold State.bootAna
  dsimp only
  refine Keeps.ite (fun _ => ?_) (fun _ => ?_)
  refine Keeps.upd ?_ rfl ?_ ?_ ?_ ?_
  with_reducible assumption
  exact NvKeeps.refl _
  exact fun w => w
  exact fun w => w
  exact Nat.le_refl _
  refine Keeps.foldl (fun _ _ _ => ?_) ?_
  apply State.bootRange_keeps
  with_reducible assumption
  refine Keeps.upd ?_ rfl ?_ ?_ ?_ ?_
  apply State.loadTrims_keeps
  apply State.bootDomain_keeps
  refine Keeps.upd ?_ rfl ?_ ?_ ?_ ?_
  with_reducible assumption
  exact NvKeeps.refl _
  exact fun w => w
  exact fun w => w
  exact Nat.le_refl _
  exact NvKeeps.refl _
  exact fun w => w
  exact fun w => w
  exact Nat.le_refl _

theorem State.bootFirmware_keeps {s0 s : State}  (h : Keeps s0 s) :
    Keeps s0 (State.bootFirmware s) := by
  unfold State.bootFirmware
  dsimp only
  refine Keeps.upd ?_ rfl ?_ ?_ ?_ ?_
  with_reducible assumption
  exact NvKeeps.refl _
  exact fun w => w
  exact fun w => w
  exact Nat.le_refl _

theorem State.clockTo_keeps {s0 s : State} (n : Nat) (h : Keeps s0 s) :
    Keeps s0 (State.clockTo s n) := by
  unfold State.clockTo
  apply State.advance_keeps
  with_reducible assumption

theorem State.recovery_keeps {s0 s : State}  (h : Keeps s0 s) :
    Keeps s0 (State.recovery s) := by
  unfold State.recovery
  dsimp only
  apply State.updSer_keeps
  apply State.setRole_keeps
  apply State.bootDomain_keeps
  apply State.log_keeps
  apply State.updMgmt_keeps
  with_reducible assumption

theorem State.startFirmware_keeps {s0 s : State} (bad : List (Fin 4194304)) (n : Fin 2) (trial : Bool) (i : FwInfo) (h : Keeps s0 s) :
    Keeps s0 (State.startFirmware s bad n trial i) := by
  unfold State.startFirmware
  dsimp only
  refine Keeps.upd ?_ rfl ?_ ?_ ?_ ?_
  apply State.clockTo_keeps
  apply State.schedCfg_keeps
  apply State.clockTo_keeps
  apply State.bootFirmware_keeps
  apply State.bootAna_keeps
  apply State.bootRoles_keeps
  refine Keeps.foldl (fun _ _ _ => ?_) ?_
  apply State.bootGallery_keeps
  with_reducible assumption
  apply State.bootDomain_keeps
  apply State.bootMem_keeps
  refine Keeps.upd ?_ rfl ?_ ?_ ?_ ?_
  refine Keeps.foldl (fun _ _ _ => ?_) ?_
  apply State.bootDomain_keeps
  with_reducible assumption
  apply State.loadKeys_keeps
  apply State.updMgmt_keeps
  with_reducible assumption
  exact NvKeeps.refl _
  exact fun w => w
  exact fun w => w
  exact Nat.le_refl _
  exact NvKeeps.refl _
  exact fun w => w
  exact fun w => w
  exact Nat.le_refl _

end Sys2Proof.Machine
end

