-- ==== Sys2Proof/Laws/KeepsMgmtRows.lean ====
section
/-! SUPPORT. What the operations of Machine/MgmtRows.lean keep (Laws/Keeps.lean). -/

namespace Sys2Proof.Machine

theorem State.thermStep_keeps {s0 s : State} (t' : Therm) (h : Keeps s0 s) :
    Keeps s0 (State.thermStep s t') := by
  unfold State.thermStep
  apply State.log_keeps
  apply State.raise_keeps
  apply State.updMgmt_keeps
  with_reducible assumption

theorem State.thermHalt_keeps {s0 s : State}  (h : Keeps s0 s) :
    Keeps s0 (State.thermHalt s) := by
  unfold State.thermHalt
  dsimp only
  refine Keeps.upd ?_ rfl ?_ ?_ ?_ ?_
  apply State.muteNow_keeps
  apply State.dacErr_keeps
  refine Keeps.upd ?_ rfl ?_ ?_ ?_ ?_
  with_reducible assumption
  exact NvKeeps.refl _
  exact fun w => w
  exact fun w => w
  exact Nat.le_refl _
  exact NvKeeps.refl _
  exact fun w => w
  exact fun w => w
  exact Nat.le_refl _

theorem State.thermEnter_keeps {s0 s : State}  (h : Keeps s0 s) :
    Keeps s0 (State.thermEnter s) := by
  unfold State.thermEnter
  dsimp only
  refine Keeps.ite (fun _ => ?_) (fun _ => ?_)
  apply State.thermHalt_keeps
  apply State.thermStep_keeps
  refine Keeps.ite (fun _ => ?_) (fun _ => ?_)
  apply State.thermStep_keeps
  refine Keeps.ite (fun _ => ?_) (fun _ => ?_)
  apply State.guar_keeps
  apply State.thermStep_keeps
  with_reducible assumption
  with_reducible assumption
  refine Keeps.ite (fun _ => ?_) (fun _ => ?_)
  apply State.guar_keeps
  apply State.thermStep_keeps
  with_reducible assumption
  with_reducible assumption
  refine Keeps.ite (fun _ => ?_) (fun _ => ?_)
  apply State.thermStep_keeps
  refine Keeps.ite (fun _ => ?_) (fun _ => ?_)
  apply State.guar_keeps
  apply State.thermStep_keeps
  with_reducible assumption
  with_reducible assumption
  refine Keeps.ite (fun _ => ?_) (fun _ => ?_)
  apply State.guar_keeps
  apply State.thermStep_keeps
  with_reducible assumption
  with_reducible assumption

theorem State.voltOne_keeps {s0 s : State} (d : Fin 16) (mv : Nat) (h : Keeps s0 s) :
    Keeps s0 (State.voltOne s d mv) := by
  unfold State.voltOne
  dsimp only
  refine Keeps.ite (fun _ => ?_) (fun _ => ?_)
  apply State.log_keeps
  apply State.raiseIf_keeps
  apply State.updMgmt_keeps
  with_reducible assumption
  apply State.raiseIf_keeps
  apply State.updMgmt_keeps
  with_reducible assumption

theorem State.notePace_keeps {s0 s : State} (g : Fin 8) (reading : Nat) (h : Keeps s0 s) :
    Keeps s0 (State.notePace s g reading) := by
  unfold State.notePace
  refine Keeps.ite (fun _ => ?_) (fun _ => ?_)
  with_reducible assumption
  apply State.updGal_keeps
  with_reducible assumption

theorem State.refreshed_keeps {s0 s : State} (k : Fin 224) (bits : List Nat) (h : Keeps s0 s) :
    Keeps s0 (State.refreshed s k bits) := by
  unfold State.refreshed
  dsimp only
  split
  apply State.updNv_keeps
  exact NvKeeps.of rfl rfl rfl rfl rfl
  with_reducible assumption
  apply State.updNv_keeps
  exact NvKeeps.of rfl rfl rfl rfl rfl
  with_reducible assumption

end Sys2Proof.Machine
end

