-- ==== Sys2Proof/Laws/KeepsMade.lean ====
section
/-! SUPPORT. What the operations of Machine/Made.lean keep (Laws/Keeps.lean). -/

namespace Sys2Proof.Machine

theorem State.make_keeps {s0 s : State} (h' : Fin 8) (src : Nat) (tag : Nat) (org : Nat) (a : Nat) (t' : Nat) (op : Nat) (template : List Byte) (h : Keeps s0 s) :
    Keeps s0 (State.make s h' src tag org a t' op template).1 := by
  unfold State.make
  split
  refine Keeps.pair ?_
  with_reducible assumption
  apply State.deliver_keeps
  with_reducible assumption

end Sys2Proof.Machine
end

