-- ==== Sys2Proof/Laws/KeepsSerRows.lean ====
section
/-! SUPPORT. What the operations of Machine/SerRows.lean keep (Laws/Keeps.lean). -/

namespace Sys2Proof.Machine

theorem State.serStore_keeps {s0 s : State} (n : Fin 4) (c : RxChar) (h : Keeps s0 s) :
    Keeps s0 (State.serStore s n c) := by
  unfold State.serStore
  dsimp only
  apply State.raise_keeps
  apply State.serErr_keeps
  apply State.updSer_keeps
  with_reducible assumption

theorem State.autobaud_keeps {s0 s : State} (n : Fin 4) (ch : SerChar) (h : Keeps s0 s) :
    Keeps s0 (State.autobaud s n ch) := by
  unfold State.autobaud
  dsimp only
  split
  with_reducible assumption
  refine Keeps.ite (fun _ => ?_) (fun _ => ?_)
  apply State.serStore_keeps
  apply State.updSer_keeps
  with_reducible assumption
  apply State.raise_keeps
  apply State.updSer_keeps
  with_reducible assumption

theorem State.serKeep_keeps {s0 s : State} (n : Fin 4) (c : RxChar) (h : Keeps s0 s) :
    Keeps s0 (State.serKeep s n c) := by
  unfold State.serKeep
  apply State.updSer_keeps
  apply State.serStore_keeps
  with_reducible assumption

theorem State.serChar_keeps {s0 s : State} (n : Fin 4) (m : Sampler) (fin : CharEnd) (half : Bool) (h : Keeps s0 s) :
    Keeps s0 (State.serChar s n m fin half) := by
  unfold State.serChar
  dsimp only
  split
  apply State.raise_keeps
  apply State.updSer_keeps
  with_reducible assumption
  refine Keeps.ite (fun _ => ?_) (fun _ => ?_)
  apply State.updSer_keeps
  apply State.updSer_keeps
  with_reducible assumption
  apply State.serKeep_keeps
  apply State.updSer_keeps
  with_reducible assumption

theorem State.fenceSer_keeps {s0 s : State} (n : Fin 4) (cause : Nat) (h : Keeps s0 s) :
    Keeps s0 (State.fenceSer s n cause) := by
  unfold State.fenceSer
  dsimp only
  apply State.fenceAdd_keeps
  apply State.log_keeps
  apply State.serErr_keeps
  apply State.updSer_keeps
  with_reducible assumption

theorem State.serDrop_keeps {s0 s : State} (n : Fin 4) (h : Keeps s0 s) :
    Keeps s0 (State.serDrop s n) := by
  unfold State.serDrop
  apply State.serErr_keeps
  apply State.updSer_keeps
  with_reducible assumption

theorem State.midiMake_keeps {s0 s : State} (n : Fin 4) (ts : Nat) (kind : EvKind) (h : Keeps s0 s) :
    Keeps s0 (State.midiMake s n ts kind) := by
  unfold State.midiMake
  split
  apply State.serDrop_keeps
  with_reducible assumption
  refine Keeps.ite (fun _ => ?_) (fun _ => ?_)
  apply State.serDrop_keeps
  with_reducible assumption
  dsimp only
  refine Keeps.ite (fun _ => ?_) (fun _ => ?_)
  apply State.serDrop_keeps
  with_reducible assumption
  apply State.updSer_keeps
  apply State.deliver_keeps
  with_reducible assumption

theorem State.serTraffic_keeps {s0 s : State} (n : Fin 4) (h : Keeps s0 s) :
    Keeps s0 (State.serTraffic s n) := by
  unfold State.serTraffic
  split
  apply State.traffic_keeps
  with_reducible assumption
  with_reducible assumption

theorem State.dmxRamp_keeps {s0 s : State} (t' : Nat) (p : Patch) (v : Int) (h : Keeps s0 s) :
    Keeps s0 (State.dmxRamp s t' p v) := by
  unfold State.dmxRamp
  dsimp only
  apply State.guar_keeps
  apply State.updHall_keeps
  with_reducible assumption

theorem State.dmxApply_keeps {s0 s : State} (n : Fin 4) (old : Dmx) (new : Dmx) (t' : Nat) (p : Patch) (h : Keeps s0 s) :
    Keeps s0 (State.dmxApply s n old new t' p) := by
  unfold State.dmxApply
  refine Keeps.ite (fun _ => ?_) (fun _ => ?_)
  with_reducible assumption
  refine Keeps.ite (fun _ => ?_) (fun _ => ?_)
  apply State.serDrop_keeps
  with_reducible assumption
  apply State.dmxRamp_keeps
  with_reducible assumption

end Sys2Proof.Machine
end

