-- ==== Sys2Proof/Laws/KeepsShowBus.lean ====
section
/-! SUPPORT. What the operations of Machine/ShowBus.lean keep (Laws/Keeps.lean). -/

namespace Sys2Proof.Machine

theorem State.rdmSend_keeps {s0 s : State} (n : Fin 4) (bs : List Byte) (found : Bool) (h : Keeps s0 s) :
    Keeps s0 (State.rdmSend s n bs found) := by
  unfold State.rdmSend
  dsimp only
  refine Keeps.upd ?_ rfl ?_ ?_ ?_ ?_
  apply State.updSer_keeps
  with_reducible assumption
  exact NvKeeps.refl _
  exact fun w => w
  exact fun w => w
  exact Nat.le_succ _

theorem State.rdmServe_keeps {s0 s : State} (n : Fin 4) (r : RdmReq) (h : Keeps s0 s) :
    Keeps s0 (State.rdmServe s n r) := by
  unfold State.rdmServe
  dsimp only
  split
  refine Keeps.ite (fun _ => ?_) (fun _ => ?_)
  refine Keeps.ite (fun _ => ?_) (fun _ => ?_)
  apply State.log_keeps
  apply State.updSer_keeps
  with_reducible assumption
  apply State.updSer_keeps
  with_reducible assumption
  apply State.rdmSend_keeps
  refine Keeps.ite (fun _ => ?_) (fun _ => ?_)
  apply State.log_keeps
  apply State.updSer_keeps
  with_reducible assumption
  apply State.updSer_keeps
  with_reducible assumption
  refine Keeps.ite (fun _ => ?_) (fun _ => ?_)
  apply State.log_keeps
  apply State.updSer_keeps
  with_reducible assumption
  apply State.updSer_keeps
  with_reducible assumption

theorem State.tsbSend_keeps {s0 s : State} (n : Fin 4) (f : List Byte) (h : Keeps s0 s) :
    Keeps s0 (State.tsbSend s n f) := by
  unfold State.tsbSend
  refine Keeps.ite (fun _ => ?_) (fun _ => ?_)
  apply State.updSer_keeps
  with_reducible assumption
  with_reducible assumption

theorem State.tsbHear_keeps {s0 s : State} (n : Fin 4) (src : Nat) (pl : List Byte) (h : Keeps s0 s) :
    Keeps s0 (State.tsbHear s n src pl) := by
  unfold State.tsbHear
  dsimp only
  refine Keeps.ite (fun _ => ?_) (fun _ => ?_)
  apply State.updSer_keeps
  with_reducible assumption
  refine Keeps.ite (fun _ => ?_) (fun _ => ?_)
  apply State.serErr_keeps
  apply State.updSer_keeps
  with_reducible assumption
  apply State.log_keeps
  apply State.serErr_keeps
  apply State.updSer_keeps
  with_reducible assumption

theorem State.tsbEvent_keeps {s0 s : State} (n : Fin 4) (ts : Nat) (pl : List Byte) (h : Keeps s0 s) :
    Keeps s0 (State.tsbEvent s n ts pl).1 := by
  unfold State.tsbEvent
  split
  refine Keeps.pair ?_
  with_reducible assumption
  dsimp only
  refine Keeps.iteFst (fun _ => ?_) (fun _ => ?_)
  refine Keeps.pair ?_
  apply State.traffic_keeps
  with_reducible assumption
  refine Keeps.iteFst (fun _ => ?_) (fun _ => ?_)
  refine Keeps.pair ?_
  apply State.traffic_keeps
  with_reducible assumption
  refine Keeps.iteFst (fun _ => ?_) (fun _ => ?_)
  refine Keeps.pair ?_
  apply State.traffic_keeps
  with_reducible assumption
  apply State.make_keeps
  apply State.traffic_keeps
  with_reducible assumption

theorem State.tsbTake_keeps {s0 s : State} (n : Fin 4) (ts : Nat) (ver : Nat) (src : Nat) (dst : Nat) (pl : List Byte) (h : Keeps s0 s) :
    Keeps s0 (State.tsbTake s n ts ver src dst pl) := by
  unfold State.tsbTake
  split
  dsimp only
  refine Keeps.ite (fun _ => ?_) (fun _ => ?_)
  apply State.tsbSend_keeps
  refine Keeps.ite (fun _ => ?_) (fun _ => ?_)
  apply State.serDrop_keeps
  refine Keeps.ofPair (by assumption) ?_
  apply State.tsbEvent_keeps
  with_reducible assumption
  apply State.updSer_keeps
  refine Keeps.ofPair (by assumption) ?_
  apply State.tsbEvent_keeps
  with_reducible assumption
  refine Keeps.ite (fun _ => ?_) (fun _ => ?_)
  apply State.serDrop_keeps
  refine Keeps.ofPair (by assumption) ?_
  apply State.tsbEvent_keeps
  with_reducible assumption
  apply State.updSer_keeps
  refine Keeps.ofPair (by assumption) ?_
  apply State.tsbEvent_keeps
  with_reducible assumption

end Sys2Proof.Machine
end

