-- ==== Sys2Proof/Laws/KeepsConsoleRows.lean ====
section
/-! SUPPORT. What the operations of Machine/ConsoleRows.lean keep (Laws/Keeps.lean). -/

namespace Sys2Proof.Machine

theorem State.conSay_keeps {s0 s : State} (n : Fin 4) (text : List Byte) (st : Nat) (h : Keeps s0 s) :
    Keeps s0 (State.conSay s n text st) := by
  unfold State.conSay
  apply State.say_keeps
  with_reducible assumption

theorem State.conTake_keeps {s0 s : State} (n : Fin 4) (h : Keeps s0 s) :
    Keeps s0 (State.conTake s n) := by
  unfold State.conTake
  apply State.updSer_keeps
  with_reducible assumption

theorem State.conUnknown_keeps {s0 s : State} (n : Fin 4) (h : Keeps s0 s) :
    Keeps s0 (State.conUnknown s n) := by
  unfold State.conUnknown
  refine Keeps.foldl (fun _ _ _ => ?_) ?_
  apply State.conSay_keeps
  apply State.conTake_keeps
  with_reducible assumption
  with_reducible assumption

theorem State.conRow_keeps {s0 s : State} (n : Fin 4) (k : Con) (f : List (List Byte) → List Byte → State → State) (hf : ∀ t0 t1 t2, Keeps s0 t2 → Keeps s0 (f t0 t1 t2)) (h : Keeps s0 s) :
    Keeps s0 (State.conRow s n k f) := by
  unfold State.conRow
  refine Keeps.ite (fun _ => ?_) (fun _ => ?_)
  with_reducible assumption
  dsimp only
  split
  apply State.conUnknown_keeps
  with_reducible assumption
  split
  apply State.conUnknown_keeps
  with_reducible assumption
  refine Keeps.ite (fun _ => ?_) (fun _ => ?_)
  apply State.conUnknown_keeps
  with_reducible assumption
  refine Keeps.ite (fun _ => ?_) (fun _ => ?_)
  apply State.conSay_keeps
  apply State.conTake_keeps
  apply State.conUnknown_keeps
  with_reducible assumption
  refine Keeps.ite (fun _ => ?_) (fun _ => ?_)
  apply State.conSay_keeps
  apply State.conTake_keeps
  apply State.conUnknown_keeps
  with_reducible assumption
  apply_assumption
  apply State.conTake_keeps
  apply State.conUnknown_keeps
  with_reducible assumption

theorem conVer_keeps {s0 s : State} (n : Fin 4) (args : List (List Byte)) (x2 : List Byte) (h : Keeps s0 s) :
    Keeps s0 (conVer n args x2 s) := by
  unfold conVer
  refine Keeps.ite (fun _ => ?_) (fun _ => ?_)
  apply State.conSay_keeps
  with_reducible assumption
  apply State.conSay_keeps
  with_reducible assumption

theorem conStat_keeps {s0 s : State} (n : Fin 4) (args : List (List Byte)) (x2 : List Byte) (h : Keeps s0 s) :
    Keeps s0 (conStat n args x2 s) := by
  unfold conStat
  refine Keeps.ite (fun _ => ?_) (fun _ => ?_)
  apply State.conSay_keeps
  with_reducible assumption
  apply State.conSay_keeps
  with_reducible assumption

theorem conLog_keeps {s0 s : State} (n : Fin 4) (args : List (List Byte)) (x2 : List Byte) (h : Keeps s0 s) :
    Keeps s0 (conLog n args x2 s) := by
  unfold conLog
  split
  refine Keeps.ite (fun _ => ?_) (fun _ => ?_)
  apply State.conSay_keeps
  with_reducible assumption
  dsimp only
  apply State.conSay_keeps
  with_reducible assumption
  apply State.conSay_keeps
  with_reducible assumption

theorem conAuth_keeps {s0 s : State} (n : Fin 4) (args : List (List Byte)) (x2 : List Byte) (h : Keeps s0 s) :
    Keeps s0 (conAuth n args x2 s) := by
  unfold conAuth
  refine Keeps.ite (fun _ => ?_) (fun _ => ?_)
  apply State.conSay_keeps
  with_reducible assumption
  dsimp only
  apply State.conSay_keeps
  apply State.updMgmt_keeps
  refine Keeps.upd ?_ rfl ?_ ?_ ?_ ?_
  with_reducible assumption
  exact NvKeeps.refl _
  exact fun w => w
  exact fun w => w
  exact Nat.le_succ _

theorem conResp_keeps {s0 s : State} (n : Fin 4) (args : List (List Byte)) (x2 : List Byte) (h : Keeps s0 s) :
    Keeps s0 (conResp n args x2 s) := by
  unfold conResp
  split
  refine Keeps.ite (fun _ => ?_) (fun _ => ?_)
  apply State.conSay_keeps
  with_reducible assumption
  dsimp only
  refine Keeps.ite (fun _ => ?_) (fun _ => ?_)
  apply State.conSay_keeps
  apply State.openSession_keeps
  apply State.updMgmt_keeps
  with_reducible assumption
  apply State.conSay_keeps
  apply State.updMgmt_keeps
  with_reducible assumption
  apply State.conSay_keeps
  with_reducible assumption

theorem conUpdBegin_keeps {s0 s : State} (n : Fin 4) (args : List (List Byte)) (x2 : List Byte) (h : Keeps s0 s) :
    Keeps s0 (conUpdBegin n args x2 s) := by
  unfold conUpdBegin
  split
  refine Keeps.ite (fun _ => ?_) (fun _ => ?_)
  apply State.conSay_keeps
  with_reducible assumption
  refine Keeps.ite (fun _ => ?_) (fun _ => ?_)
  apply State.conSay_keeps
  with_reducible assumption
  refine Keeps.ite (fun _ => ?_) (fun _ => ?_)
  apply State.conSay_keeps
  with_reducible assumption
  apply State.updOpen_keeps
  with_reducible assumption
  apply State.conSay_keeps
  with_reducible assumption

theorem conUpdD_keeps {s0 s : State} (n : Fin 4) (x1 : List (List Byte)) (line : List Byte) (h : Keeps s0 s) :
    Keeps s0 (conUpdD n x1 line s) := by
  unfold conUpdD
  split
  apply State.conSay_keeps
  with_reducible assumption
  refine Keeps.ite (fun _ => ?_) (fun _ => ?_)
  apply State.conSay_keeps
  with_reducible assumption
  split
  apply State.conSay_keeps
  with_reducible assumption
  apply State.updProgram_keeps
  with_reducible assumption

theorem conUpdCommit_keeps {s0 s : State} (n : Fin 4) (args : List (List Byte)) (x2 : List Byte) (h : Keeps s0 s) :
    Keeps s0 (conUpdCommit n args x2 s) := by
  unfold conUpdCommit
  refine Keeps.ite (fun _ => State.conSay_keeps _ _ _ h) (fun _ => ?_)
  exact State.conSay_keeps _ _ _ (State.updCommit_keeps _ h)

theorem conRollback_keeps {s0 s : State} (n : Fin 4) (args : List (List Byte)) (x2 : List Byte) (h : Keeps s0 s) :
    Keeps s0 (conRollback n args x2 s) := by
  unfold conRollback
  refine Keeps.ite (fun _ => State.conSay_keeps _ _ _ h) (fun _ => ?_)
  exact State.conSay_keeps _ _ _ (State.updRollback_keeps h)

theorem conLc_keeps {s0 s : State} (n : Fin 4) (args : List (List Byte)) (x2 : List Byte) (h : Keeps s0 s) :
    Keeps s0 (conLc n args x2 s) := by
  unfold conLc
  split
  · exact State.conSay_keeps _ _ _ (State.lifeChange_keeps _ _ _ h)
  · exact State.conSay_keeps _ _ _ h

theorem conKey_keeps {s0 s : State} (n : Fin 4) (args : List (List Byte)) (x2 : List Byte) (h : Keeps s0 s) :
    Keeps s0 (conKey n args x2 s) := by
  unfold conKey
  split
  split
  refine Keeps.ite (fun _ => ?_) (fun _ => ?_)
  apply State.conSay_keeps
  apply State.updNv_keeps
  exact NvKeeps.of rfl rfl rfl rfl rfl
  with_reducible assumption
  apply State.conSay_keeps
  with_reducible assumption
  apply State.conSay_keeps
  with_reducible assumption
  apply State.conSay_keeps
  with_reducible assumption

end Sys2Proof.Machine
end

