-- ==== Sys2Proof/Laws/KeepsPowerRows.lean ====
section
/-! SUPPORT. What the operations of Machine/PowerRows.lean keep (Laws/Keeps.lean). -/

namespace Sys2Proof.Machine

theorem State.waits_keeps {s0 s : State} (f : State → Fin 8 → WaitFor → State) (hf : ∀ t0 t1 t2, Keeps s0 t0 → Keeps s0 (f t0 t1 t2)) (h : Keeps s0 s) :
    Keeps s0 (State.waits s f) := by
  unfold State.waits
  refine Keeps.foldl (fun _ _ _ => ?_) ?_
  split
  apply_assumption
  with_reducible assumption
  with_reducible assumption
  with_reducible assumption

theorem State.unparked_keeps {s0 s : State} (g : Fin 8) (st : Nat) (h : Keeps s0 s) :
    Keeps s0 (State.unparked s g st) := by
  unfold State.unparked
  apply State.waits_keeps
  intro _
  intro _
  intro _
  intro _
  split
  refine Keeps.ite (fun _ => ?_) (fun _ => ?_)
  apply State.endWait_keeps
  with_reducible assumption
  with_reducible assumption
  with_reducible assumption
  with_reducible assumption

theorem State.parkDone_keeps {s0 s : State} (g : Fin 8) (h : Keeps s0 s) :
    Keeps s0 (State.parkDone s g) := by
  unfold State.parkDone
  apply State.waits_keeps
  intro _
  intro _
  intro _
  intro _
  split
  refine Keeps.ite (fun _ => ?_) (fun _ => ?_)
  apply State.endWait_keeps
  with_reducible assumption
  with_reducible assumption
  with_reducible assumption
  apply State.raise_keeps
  with_reducible assumption

theorem State.awake_keeps {s0 s : State} (d : Fin 16) (h : Keeps s0 s) :
    Keeps s0 (State.awake s d) := by
  unfold State.awake
  refine Keeps.ite (fun _ => ?_) (fun _ => ?_)
  dsimp only
  refine Keeps.foldl (fun _ _ _ => ?_) ?_
  apply State.mapAgain_keeps
  with_reducible assumption
  apply State.unparked_keeps
  apply State.raise_keeps
  apply State.updGal_keeps
  with_reducible assumption
  refine Keeps.ite (fun _ => ?_) (fun _ => ?_)
  apply State.specRest_keeps
  refine Keeps.foldl (fun _ _ _ => ?_) ?_
  apply State.specAwake_keeps
  with_reducible assumption
  with_reducible assumption
  refine Keeps.ite (fun _ => ?_) (fun _ => ?_)
  refine Keeps.foldl (fun _ _ _ => ?_) ?_
  apply State.serAwake_keeps
  with_reducible assumption
  with_reducible assumption
  refine Keeps.ite (fun _ => ?_) (fun _ => ?_)
  apply State.loadTrims_keeps
  with_reducible assumption
  with_reducible assumption

theorem State.specLost_keeps {s0 s : State}  (h : Keeps s0 s) :
    Keeps s0 (State.specLost s) := by
  unfold State.specLost
  apply State.waits_keeps
  intro _
  intro _
  intro _
  intro _
  split
  dsimp only
  apply State.endWait_keeps
  apply State.convGiveUp_keeps
  split
  apply State.wipePages_keeps
  with_reducible assumption
  with_reducible assumption
  apply State.endWait_keeps
  apply State.anRelease_keeps
  with_reducible assumption
  with_reducible assumption
  apply State.specHalt_keeps
  with_reducible assumption

theorem State.serLost_keeps {s0 s : State}  (h : Keeps s0 s) :
    Keeps s0 (State.serLost s) := by
  unfold State.serLost
  apply State.waits_keeps
  intro _
  intro _
  intro _
  intro _
  split
  apply State.endWait_keeps
  with_reducible assumption
  with_reducible assumption
  refine Keeps.foldl (fun _ _ _ => ?_) ?_
  refine Keeps.ite (fun _ => ?_) (fun _ => ?_)
  with_reducible assumption
  apply State.fenceSer_keeps
  with_reducible assumption
  with_reducible assumption

theorem State.wakeLost_keeps {s0 s : State} (d : Fin 16) (h : Keeps s0 s) :
    Keeps s0 (State.wakeLost s d) := by
  unfold State.wakeLost
  refine Keeps.ite (fun _ => ?_) (fun _ => ?_)
  dsimp only
  refine Keeps.foldl (fun _ _ _ => ?_) ?_
  apply State.mapAgain_keeps
  with_reducible assumption
  apply State.unparked_keeps
  apply State.fenceGallery_keeps
  with_reducible assumption
  refine Keeps.ite (fun _ => ?_) (fun _ => ?_)
  apply State.specLost_keeps
  with_reducible assumption
  refine Keeps.ite (fun _ => ?_) (fun _ => ?_)
  apply State.serLost_keeps
  with_reducible assumption
  with_reducible assumption

theorem State.domOff_keeps {s0 s : State} (d : Fin 16) (st : DomSt) (h : Keeps s0 s) :
    Keeps s0 (State.domOff s d st) := by
  unfold State.domOff
  dsimp only
  apply State.raise_keeps
  apply State.updDom_keeps
  refine Keeps.ite (fun _ => ?_) (fun _ => ?_)
  refine Keeps.upd ?_ rfl ?_ ?_ ?_ ?_
  with_reducible assumption
  exact NvKeeps.refl _
  exact fun w => w
  exact fun w => w
  exact Nat.le_refl _
  with_reducible assumption

end Sys2Proof.Machine
end

