-- ==== Sys2Proof/Laws/KeepsTimeRows.lean ====
section
/-! SUPPORT. What the operations of Machine/TimeRows.lean keep (Laws/Keeps.lean). -/

namespace Sys2Proof.Machine

theorem State.refBad_keeps {s0 s : State} (still : Bool) (h : Keeps s0 s) :
    Keeps s0 (State.refBad s still) := by
  unfold State.refBad
  apply State.log_keeps
  apply State.timeErr_keeps
  refine Keeps.upd ?_ rfl ?_ ?_ ?_ ?_
  with_reducible assumption
  exact NvKeeps.refl _
  exact fun w => w
  exact fun w => w
  exact Nat.le_refl _

theorem State.wclkBack_keeps {s0 s : State}  (h : Keeps s0 s) :
    Keeps s0 (State.wclkBack s) := by
  unfold State.wclkBack
  refine Keeps.ite (fun _ => ?_) (fun _ => ?_)
  refine Keeps.upd ?_ rfl ?_ ?_ ?_ ?_
  with_reducible assumption
  exact NvKeeps.refl _
  exact fun w => w
  exact fun w => w
  exact Nat.le_refl _
  with_reducible assumption

theorem State.toTick_keeps {s0 s : State} (n : Fin 16) (k : Nat) (h : Keeps s0 s) :
    Keeps s0 (State.toTick s n k) := by
  unfold State.toTick
  refine Keeps.ite (fun _ => ?_) (fun _ => ?_)
  with_reducible assumption
  split
  apply State.pass_keeps
  with_reducible assumption
  with_reducible assumption

theorem State.trigTick_keeps {s0 s : State} (t' : Fin 8) (h : Keeps s0 s) :
    Keeps s0 (State.trigTick s t') := by
  unfold State.trigTick
  refine Keeps.upd ?_ rfl ?_ ?_ ?_ ?_
  with_reducible assumption
  exact NvKeeps.refl _
  exact fun w => w
  exact fun w => w
  exact Nat.le_refl _

theorem State.trigEvent_keeps {s0 s : State} (t' : Fin 8) (rising : Bool) (stamp : Nat) (h : Keeps s0 s) :
    Keeps s0 (State.trigEvent s t' rising stamp) := by
  unfold State.trigEvent
  split
  with_reducible assumption
  refine Keeps.ite (fun _ => ?_) (fun _ => ?_)
  with_reducible assumption
  split
  apply State.updTrg_keeps
  with_reducible assumption
  dsimp only
  refine Keeps.upd ?_ rfl ?_ ?_ ?_ ?_
  with_reducible assumption
  exact NvKeeps.refl _
  exact fun w => w
  exact fun w => w
  exact Nat.le_refl _

theorem State.trigStamp_keeps {s0 s : State} (t' : Fin 8) (rising : Bool) (stamp : Nat) (h : Keeps s0 s) :
    Keeps s0 (State.trigStamp s t' rising stamp) := by
  unfold State.trigStamp
  dsimp only
  apply State.trigEvent_keeps
  apply State.raiseIf_keeps
  refine Keeps.ite (fun _ => ?_) (fun _ => ?_)
  apply State.timeErr_keeps
  apply State.updTrg_keeps
  with_reducible assumption
  apply State.updTrg_keeps
  with_reducible assumption

end Sys2Proof.Machine
end

