-- ==== Sys2Proof/Laws/KeepsPortRows.lean ====
section
/-! SUPPORT. What the operations of Machine/PortRows.lean keep (Laws/Keeps.lean). -/

namespace Sys2Proof.Machine

theorem State.portRecord_keeps {s0 s : State} (p : Fin 2) (code : Nat) (seq : Nat) (r : PortRes) (h : Keeps s0 s) :
    Keeps s0 (State.portRecord s p code seq r) := by
  unfold State.portRecord
  dsimp only
  split
  apply State.portErr_keeps
  apply State.updPort_keeps
  with_reducible assumption
  apply State.updPort_keeps
  with_reducible assumption

theorem State.portBusy_keeps {s0 s : State} (p : Fin 2) (h : Keeps s0 s) :
    Keeps s0 (State.portBusy s p) := by
  unfold State.portBusy
  apply State.updPort_keeps
  with_reducible assumption

theorem State.notReady_keeps {s0 s : State} (p : Fin 2) (code : Nat) (seq : Nat) (h : Keeps s0 s) :
    Keeps s0 (State.notReady s p code seq) := by
  unfold State.notReady
  apply State.portRecord_keeps
  with_reducible assumption

theorem State.claimSup_keeps {s0 s : State} (p : Fin 2) (h : Keeps s0 s) :
    Keeps s0 (State.claimSup s p) := by
  unfold State.claimSup
  refine Keeps.ite (fun _ => ?_) (fun _ => ?_)
  apply State.updHall_keeps
  refine Keeps.upd ?_ rfl ?_ ?_ ?_ ?_
  with_reducible assumption
  exact NvKeeps.refl _
  exact fun w => w
  exact fun w => w
  exact Nat.le_refl _
  with_reducible assumption

theorem State.validTxn_keeps {s0 s : State} (p : Fin 2) (h : Keeps s0 s) :
    Keeps s0 (State.validTxn s p) := by
  unfold State.validTxn
  dsimp only
  split
  apply State.traffic_keeps
  apply State.updPort_keeps
  apply State.claimSup_keeps
  with_reducible assumption
  apply State.updPort_keeps
  apply State.claimSup_keeps
  with_reducible assumption

theorem State.portEnd_keeps {s0 s : State} (p : Fin 2) (code : Nat) (seq : Nat) (resp : Bool) (ph : Phase) (r : PortRes) (data : List Byte) (h : Keeps s0 s) :
    Keeps s0 (State.portEnd s p code seq resp ph r data) := by
  unfold State.portEnd
  dsimp only
  apply State.irqEval_keeps
  apply State.portBusy_keeps
  apply State.portRecord_keeps
  refine Keeps.ite (fun _ => ?_) (fun _ => ?_)
  apply State.updPort_keeps
  refine Keeps.upd ?_ rfl ?_ ?_ ?_ ?_
  with_reducible assumption
  exact NvKeeps.refl _
  exact fun w => w
  exact fun w => w
  exact Nat.le_succ _
  with_reducible assumption

theorem State.refuseIf_keeps {s0 s : State} (p : Fin 2) (b : Bool) (h : Keeps s0 s) :
    Keeps s0 (State.refuseIf s p b) := by
  unfold State.refuseIf
  refine Keeps.ite (fun _ => ?_) (fun _ => ?_)
  apply State.updPort_keeps
  with_reducible assumption
  with_reducible assumption

theorem State.txn_keeps {s0 s : State} (p : Fin 2) (code : Nat) (seq : Nat) (ph : Phase) (act : State → State × PortRes × List Byte) (hact : ∀ t0, Keeps s0 t0 → Keeps s0 (act t0).1) (h : Keeps s0 s) :
    Keeps s0 (State.txn s p code seq ph act) := by
  unfold State.txn
  refine Keeps.ite (fun _ => ?_) (fun _ => ?_)
  with_reducible assumption
  dsimp only
  refine Keeps.ite (fun _ => ?_) (fun _ => ?_)
  apply State.notReady_keeps
  with_reducible assumption
  split
  with_reducible assumption
  apply State.portBusy_keeps
  apply State.refuseIf_keeps
  with_reducible assumption
  refine Keeps.ite (fun _ => ?_) (fun _ => ?_)
  apply State.portEnd_keeps
  apply State.refuseIf_keeps
  apply_assumption
  apply State.validTxn_keeps
  with_reducible assumption
  apply State.portEnd_keeps
  with_reducible assumption
  refine Keeps.ite (fun _ => ?_) (fun _ => ?_)
  apply State.portEnd_keeps
  apply State.refuseIf_keeps
  apply_assumption
  apply State.validTxn_keeps
  with_reducible assumption
  apply State.portEnd_keeps
  with_reducible assumption
  refine Keeps.ite (fun _ => ?_) (fun _ => ?_)
  apply State.portEnd_keeps
  apply State.refuseIf_keeps
  apply_assumption
  apply State.validTxn_keeps
  with_reducible assumption
  apply State.portEnd_keeps
  with_reducible assumption

theorem State.res_keeps {s0 s : State} (r : PortRes) (h : Keeps s0 s) :
    Keeps s0 (State.res s r).1 := by
  unfold State.res
  refine Keeps.pair ?_
  with_reducible assumption

theorem State.attachedOp_keeps {s0 s : State} (p : Fin 2) (len : Nat) (max : Nat) (f : Fin 8 → State × PortRes × List Byte) (hf : ∀ t0, Keeps s0 (f t0).1) (h : Keeps s0 s) :
    Keeps s0 (State.attachedOp s p len max f).1 := by
  unfold State.attachedOp
  refine Keeps.iteFst (fun _ => ?_) (fun _ => ?_)
  apply State.res_keeps
  with_reducible assumption
  refine Keeps.iteFst (fun _ => ?_) (fun _ => ?_)
  apply State.res_keeps
  with_reducible assumption
  split
  apply_assumption
  apply State.res_keeps
  with_reducible assumption

theorem State.attachedFix_keeps {s0 s : State} (p : Fin 2) (len : Nat) (fix : Nat) (f : Fin 8 → State × PortRes × List Byte) (hf : ∀ t0, Keeps s0 (f t0).1) (h : Keeps s0 s) :
    Keeps s0 (State.attachedFix s p len fix f).1 := by
  unfold State.attachedFix
  refine Keeps.iteFst (fun _ => ?_) (fun _ => ?_)
  apply State.res_keeps
  with_reducible assumption
  split
  apply_assumption
  apply State.res_keeps
  with_reducible assumption

theorem State.doRead_keeps {s0 s : State} (p : Fin 2) (addr : Nat) (len : Nat) (h : Keeps s0 s) :
    Keeps s0 (State.doRead s p addr len).1 := by
  unfold State.doRead
  apply State.attachedOp_keeps
  intro _
  split
  refine Keeps.pair ?_
  with_reducible assumption
  apply State.res_keeps
  with_reducible assumption
  with_reducible assumption

theorem State.doWrite_keeps {s0 s : State} (p : Fin 2) (addr : Nat) (bs : List Byte) (h : Keeps s0 s) :
    Keeps s0 (State.doWrite s p addr bs).1 := by
  unfold State.doWrite
  refine State.attachedOp_keeps _ _ _ _ (fun i => ?_) h
  split
  · exact Keeps.iteFst (fun _ => State.res_keeps _ h) (fun _ => State.sramWrite_keeps _ _ h)
  · exact State.res_keeps _ h

theorem State.doDoorbell_keeps {s0 s : State} (p : Fin 2) (bs : List Byte) (h : Keeps s0 s) :
    Keeps s0 (State.doDoorbell s p bs).1 := by
  unfold State.doDoorbell
  apply State.attachedFix_keeps
  intro _
  dsimp only
  apply State.newTail_keeps
  with_reducible assumption
  with_reducible assumption

theorem State.ackTo_keeps {s0 s : State} (h' : Fin 8) (p : Fin 2) (k : BitVec 16) (h : Keeps s0 s) :
    Keeps s0 (State.ackTo s h' p k) := by
  unfold State.ackTo
  dsimp only
  apply State.pump_keeps
  apply State.updPort_keeps
  apply State.updRing_keeps
  with_reducible assumption

theorem State.doAck_keeps {s0 s : State} (p : Fin 2) (bs : List Byte) (h : Keeps s0 s) :
    Keeps s0 (State.doAck s p bs).1 := by
  unfold State.doAck
  apply State.attachedFix_keeps
  intro _
  dsimp only
  refine Keeps.iteFst (fun _ => ?_) (fun _ => ?_)
  refine Keeps.pair ?_
  apply State.ackTo_keeps
  with_reducible assumption
  apply State.res_keeps
  with_reducible assumption
  with_reducible assumption

theorem State.regOp_keeps {s0 s : State} (p : Fin 2) (addr : Nat) (len : Nat) (f : State × PortRes × List Byte) (hf : Keeps s0 f.1) (h : Keeps s0 s) :
    Keeps s0 (State.regOp s p addr len f).1 := by
  unfold State.regOp
  refine Keeps.iteFst (fun _ => ?_) (fun _ => ?_)
  apply State.res_keeps
  with_reducible assumption
  refine Keeps.iteFst (fun _ => ?_) (fun _ => ?_)
  apply State.res_keeps
  with_reducible assumption
  refine Keeps.iteFst (fun _ => ?_) (fun _ => ?_)
  apply State.res_keeps
  with_reducible assumption
  refine Keeps.iteFst (fun _ => ?_) (fun _ => ?_)
  apply State.res_keeps
  with_reducible assumption
  refine Keeps.iteFst (fun _ => ?_) (fun _ => ?_)
  apply State.res_keeps
  with_reducible assumption
  assumption

theorem State.regWords_keeps {s0 s : State} (addr : Nat) (x2 : Nat) (h : Keeps s0 s) :
    Keeps s0 (State.regWords s addr x2).1 := by
  induction x2 with
  | zero => exact h
  | succ n ih => exact State.busRead_keeps _ _ ih

theorem State.doRegRead_keeps {s0 s : State} (p : Fin 2) (addr : Nat) (len : Nat) (h : Keeps s0 s) :
    Keeps s0 (State.doRegRead s p addr len).1 := by
  unfold State.doRegRead
  apply State.regOp_keeps
  dsimp only
  apply State.regWords_keeps
  with_reducible assumption
  with_reducible assumption

theorem State.regPutWords_keeps {s0 s : State} (x1 : List (Nat × Word)) (h : Keeps s0 s) :
    Keeps s0 (State.regPutWords s x1) := by
  induction s, x1 using State.regPutWords.induct with
  | case1 => exact h
  | case2 s x => exact State.busWrite_keeps _ _ _ h
  | case3 s x y rest hp ih => rw [State.regPutWords, if_pos hp]; exact ih (State.busWrite_keeps _ _ _ (State.busWrite_keeps _ _ _ h))
  | case4 s x y rest hp ih => rw [State.regPutWords, if_neg hp]; exact ih (State.busWrite_keeps _ _ _ h)

theorem State.doRegWrite_keeps {s0 s : State} (p : Fin 2) (addr : Nat) (bs : List Byte) (h : Keeps s0 s) :
    Keeps s0 (State.doRegWrite s p addr bs).1 := by
  unfold State.doRegWrite
  apply State.regOp_keeps
  refine Keeps.pair ?_
  apply State.regPutWords_keeps
  with_reducible assumption
  with_reducible assumption

theorem State.stage_keeps {s0 s : State} (h' : Fin 8) (p : Fin 2) (b : Fin 2) (addr : Nat) (bs : List Byte) (h : Keeps s0 s) :
    Keeps s0 (State.stage s h' p b addr bs) := by
  unfold State.stage
  dsimp only
  apply State.updHall_keeps
  apply State.updPort_keeps
  apply State.sramWrite_keeps
  with_reducible assumption

theorem State.doBulk_keeps {s0 s : State} (p : Fin 2) (addr : Nat) (bs : List Byte) (h : Keeps s0 s) :
    Keeps s0 (State.doBulk s p addr bs).1 := by
  unfold State.doBulk
  refine Keeps.iteFst (fun _ => ?_) (fun _ => ?_)
  apply State.res_keeps
  with_reducible assumption
  apply State.attachedOp_keeps
  intro _
  split
  apply State.res_keeps
  with_reducible assumption
  refine Keeps.pair ?_
  apply State.stage_keeps
  with_reducible assumption
  with_reducible assumption

theorem State.doBye_keeps {s0 s : State} (p : Fin 2) (len : Nat) (h : Keeps s0 s) :
    Keeps s0 (State.doBye s p len).1 := by
  unfold State.doBye
  refine Keeps.iteFst (fun _ => ?_) (fun _ => ?_)
  refine Keeps.pair ?_
  apply State.updPort_keeps
  with_reducible assumption
  apply State.res_keeps
  with_reducible assumption

theorem State.helloTo_keeps {s0 s : State} (p : Fin 2) (v : Nat) (bs : List Byte) (h : Keeps s0 s) :
    Keeps s0 (State.helloTo s p v bs).1 := by
  unfold State.helloTo
  dsimp only
  apply State.log_keeps
  apply State.updPort_keeps
  refine Keeps.ite (fun _ => ?_) (fun _ => ?_)
  apply State.fenceLift_keeps
  with_reducible assumption
  with_reducible assumption

theorem State.doHello_keeps {s0 s : State} (p : Fin 2) (bs : List Byte) (h : Keeps s0 s) :
    Keeps s0 (State.doHello s p bs).1 := by
  unfold State.doHello
  refine Keeps.iteFst (fun _ => ?_) (fun _ => ?_)
  apply State.res_keeps
  with_reducible assumption
  split
  apply State.res_keeps
  with_reducible assumption
  apply State.helloTo_keeps
  with_reducible assumption

theorem State.fencePort_keeps {s0 s : State} (p : Fin 2) (h : Keeps s0 s) :
    Keeps s0 (State.fencePort s p) := by
  unfold State.fencePort
  dsimp only
  apply State.fenceAdd_keeps
  apply State.log_keeps
  apply State.portErr_keeps
  apply State.updPort_keeps
  with_reducible assumption

theorem State.crcFail_keeps {s0 s : State} (p : Fin 2) (h : Keeps s0 s) :
    Keeps s0 (State.crcFail s p).1 := by
  unfold State.crcFail
  dsimp only
  refine Keeps.iteFst (fun _ => ?_) (fun _ => ?_)
  refine Keeps.pair ?_
  apply State.portErr_keeps
  apply State.updPort_keeps
  with_reducible assumption
  refine Keeps.iteFst (fun _ => ?_) (fun _ => ?_)
  refine Keeps.pair ?_
  apply State.fencePort_keeps
  apply State.portErr_keeps
  apply State.updPort_keeps
  with_reducible assumption
  refine Keeps.pair ?_
  apply State.portErr_keeps
  apply State.updPort_keeps
  with_reducible assumption

theorem State.noise_keeps {s0 s : State} (p : Fin 2) (code : Nat) (seq : Nat) (resp : Bool) (ph : Phase) (h : Keeps s0 s) :
    Keeps s0 (State.noise s p code seq resp ph) := by
  unfold State.noise
  refine Keeps.ite (fun _ => ?_) (fun _ => ?_)
  with_reducible assumption
  refine Keeps.ite (fun _ => ?_) (fun _ => ?_)
  apply State.notReady_keeps
  with_reducible assumption
  split
  with_reducible assumption
  apply State.portBusy_keeps
  apply State.refuseIf_keeps
  with_reducible assumption
  dsimp only
  apply State.portEnd_keeps
  apply State.crcFail_keeps
  with_reducible assumption
  dsimp only
  apply State.portEnd_keeps
  apply State.crcFail_keeps
  with_reducible assumption
  dsimp only
  apply State.portEnd_keeps
  apply State.crcFail_keeps
  with_reducible assumption

theorem State.unframed_keeps {s0 s : State} (p : Fin 2) (code : Nat) (h : Keeps s0 s) :
    Keeps s0 (State.unframed s p code) := by
  unfold State.unframed
  dsimp only
  refine Keeps.ite (fun _ => ?_) (fun _ => ?_)
  refine Keeps.upd ?_ rfl ?_ ?_ ?_ ?_
  with_reducible assumption
  exact NvKeeps.refl _
  exact fun w => w
  exact fun w => w
  exact Nat.le_succ _
  refine Keeps.ite (fun _ => ?_) (fun _ => ?_)
  apply State.notReady_keeps
  refine Keeps.upd ?_ rfl ?_ ?_ ?_ ?_
  with_reducible assumption
  exact NvKeeps.refl _
  exact fun w => w
  exact fun w => w
  exact Nat.le_succ _
  split
  refine Keeps.upd ?_ rfl ?_ ?_ ?_ ?_
  with_reducible assumption
  exact NvKeeps.refl _
  exact fun w => w
  exact fun w => w
  exact Nat.le_succ _
  apply State.portBusy_keeps
  apply State.refuseIf_keeps
  refine Keeps.upd ?_ rfl ?_ ?_ ?_ ?_
  with_reducible assumption
  exact NvKeeps.refl _
  exact fun w => w
  exact fun w => w
  exact Nat.le_succ _
  apply State.portEnd_keeps
  refine Keeps.upd ?_ rfl ?_ ?_ ?_ ?_
  with_reducible assumption
  exact NvKeeps.refl _
  exact fun w => w
  exact fun w => w
  exact Nat.le_succ _
  refine Keeps.ite (fun _ => ?_) (fun _ => ?_)
  apply State.portEnd_keeps
  refine Keeps.upd ?_ rfl ?_ ?_ ?_ ?_
  with_reducible assumption
  exact NvKeeps.refl _
  exact fun w => w
  exact fun w => w
  exact Nat.le_succ _
  apply State.portEnd_keeps
  apply State.crcFail_keeps
  refine Keeps.upd ?_ rfl ?_ ?_ ?_ ?_
  with_reducible assumption
  exact NvKeeps.refl _
  exact fun w => w
  exact fun w => w
  exact Nat.le_succ _
  refine Keeps.ite (fun _ => ?_) (fun _ => ?_)
  apply State.portBusy_keeps
  apply State.refuseIf_keeps
  refine Keeps.upd ?_ rfl ?_ ?_ ?_ ?_
  with_reducible assumption
  exact NvKeeps.refl _
  exact fun w => w
  exact fun w => w
  exact Nat.le_succ _
  apply State.portEnd_keeps
  apply State.crcFail_keeps
  refine Keeps.upd ?_ rfl ?_ ?_ ?_ ?_
  with_reducible assumption
  exact NvKeeps.refl _
  exact fun w => w
  exact fun w => w
  exact Nat.le_succ _

theorem State.selectionIgnored_keeps {s0 s : State} (x1 : Fin 2) (h : Keeps s0 s) :
    Keeps s0 (State.selectionIgnored s x1) := by
  unfold State.selectionIgnored
  with_reducible assumption

end Sys2Proof.Machine
end

