-- ==== Sys2Proof/Laws/KeepsUhp2Rows.lean ====
section
/-! SUPPORT. What the operations of Machine/Uhp2Rows.lean keep (Laws/Keeps.lean). -/

namespace Sys2Proof.Machine

/-- Every command that the mailbox starts keeps it. -/
theorem mbxOpcode_keeps (n : Nat) (o : Opcode) (e : mbxOpcode n = some o) {s0 : State} (t : State) (i : Fin 8) (c : Cmd)
    (k : Keeps s0 t) : Keeps s0 (o.body t i c).st := by
  unfold mbxOpcode at e
  split at e <;> cases e
  · exact cmdGetInfo_keeps i c k
  · exact cmdVoiceStart_keeps i c k
  · exact cmdVoiceRelease_keeps i c k
  · exact cmdVoiceKill_keeps i c k
  · exact cmdParamSet_keeps i c k
  · exact cmdHallCtrl_keeps i c k
  · exact cmdProgLoad_keeps i c k
  · exact cmdProgFree_keeps i c k
  · exact cmdWaveWrite_keeps i c k
  · exact cmdKeepalive_keeps i c k

theorem State.uhp2_keeps {s0 s : State} (p : Fin 2) (code : Nat) (act : State → State) (hact : ∀ t0, Keeps s0 t0 → Keeps s0 (act t0)) (h : Keeps s0 s) :
    Keeps s0 (State.uhp2 s p code act) := by
  unfold State.uhp2
  dsimp only
  refine Keeps.ite (fun _ => ?_) (fun _ => ?_)
  apply State.unframed_keeps
  with_reducible assumption
  split
  apply State.irqEval_keeps
  apply State.portBusy_keeps
  apply_assumption
  apply State.updPort_keeps
  apply State.validTxn_keeps
  with_reducible assumption
  apply State.irqEval_keeps
  apply State.portBusy_keeps
  apply_assumption
  apply State.updPort_keeps
  apply State.validTxn_keeps
  with_reducible assumption
  apply State.unframed_keeps
  with_reducible assumption
  apply State.unframed_keeps
  with_reducible assumption
  apply State.unframed_keeps
  with_reducible assumption

theorem State.windowWr_keeps {s0 s : State} (p : Fin 2) (a : Nat) (ws : List (BitVec 16)) (h : Keeps s0 s) :
    Keeps s0 (State.windowWr s p a ws) := by
  unfold State.windowWr
  refine Keeps.ite (fun _ => ?_) (fun _ => ?_)
  apply State.refuseIf_keeps
  with_reducible assumption
  apply State.updPort_keeps
  with_reducible assumption

theorem State.windowRd_keeps {s0 s : State} (p : Fin 2) (a : Nat) (n : Nat) (h : Keeps s0 s) :
    Keeps s0 (State.windowRd s p a n) := by
  unfold State.windowRd
  refine Keeps.ite (fun _ => ?_) (fun _ => ?_)
  apply State.refuseIf_keeps
  with_reducible assumption
  dsimp only
  apply State.updPort_keeps
  with_reducible assumption

theorem State.mbxHall_keeps {s0 s : State} (p : Fin 2) (h' : Fin 8) (o : Opcode) (hb : ∀ t i c, Keeps s0 t → Keeps s0 (o.body t i c).st) (h : Keeps s0 s) :
    Keeps s0 (State.mbxHall s p h' o) := by
  unfold State.mbxHall
  dsimp only
  refine Keeps.ite (fun _ => ?_) (fun _ => ?_)
  with_reducible assumption
  refine Keeps.ite (fun _ => ?_) (fun _ => ?_)
  apply State.served_keeps
  with_reducible assumption
  refine Keeps.ite (fun _ => ?_) (fun _ => ?_)
  apply State.stall_keeps
  apply State.readRing_keeps
  with_reducible assumption
  apply State.finish_keeps
  apply Opcode.run_keeps
  intro _
  intro _
  intro _
  intro _
  apply_assumption
  with_reducible assumption
  apply State.takeEntries_keeps
  apply State.postCmd_keeps
  apply State.readRing_keeps
  with_reducible assumption

theorem State.mbxRun_keeps {s0 s : State} (p : Fin 2) (h : Keeps s0 s) :
    Keeps s0 (State.mbxRun s p) := by
  unfold State.mbxRun
  dsimp only
  split
  · exact State.irqEval_keeps _ (State.updPort_keeps _ _ h)
  · split
    · exact State.irqEval_keeps _ (State.updPort_keeps _ _ h)
    · rename_i o e
      have k := State.mbxHall_keeps p (hallIx ‹Nat›) o (fun t i c k => mbxOpcode_keeps _ o e t i c k) h
      exact Keeps.ite (fun _ => State.servePages_keeps k) (fun _ => k)

theorem State.mbxStart_keeps {s0 s : State} (p : Fin 2) (h : Keeps s0 s) :
    Keeps s0 (State.mbxStart s p) := by
  unfold State.mbxStart
  refine Keeps.ite (fun _ => ?_) (fun _ => ?_)
  with_reducible assumption
  apply State.uhp2_keeps
  intro _
  intro _
  apply State.windowWr_keeps
  with_reducible assumption
  with_reducible assumption

end Sys2Proof.Machine
end

