-- ==== Sys2Proof/Laws/Take.lean ====
section
/-! SUPPORT. What taking a host command comes to, said once for every opcode. -/

namespace Sys2Proof.Machine

/-! ### State.served -/

@[simp] theorem State.served_nv (s : State) (h : Fin 8) : (s.served h).nv = s.nv := rfl
@[simp] theorem State.served_sys (s : State) (h : Fin 8) : (s.served h).sys = s.sys := rfl
@[simp] theorem State.served_time (s : State) (h : Fin 8) : (s.served h).time = s.time := rfl
@[simp] theorem State.served_sched (s : State) (h : Fin 8) : (s.served h).sched = s.sched := rfl
@[simp] theorem State.served_halls (s : State) (h : Fin 8) : (s.served h).halls = s.halls := rfl
@[simp] theorem State.served_gal (s : State) (h : Fin 8) : (s.served h).gal = s.gal := rfl
@[simp] theorem State.served_eng (s : State) (h : Fin 8) : (s.served h).eng = s.eng := rfl
@[simp] theorem State.served_voices (s : State) (h : Fin 8) : (s.served h).voices = s.voices := rfl
@[simp] theorem State.served_mez (s : State) (h : Fin 8) : (s.served h).mez = s.mez := rfl
@[simp] theorem State.served_out (s : State) (h : Fin 8) : (s.served h).out = s.out := rfl
@[simp] theorem State.served_tdm (s : State) (h : Fin 8) : (s.served h).tdm = s.tdm := rfl
@[simp] theorem State.served_dac (s : State) (h : Fin 8) : (s.served h).dac = s.dac := rfl
@[simp] theorem State.served_spec (s : State) (h : Fin 8) : (s.served h).spec = s.spec := rfl
@[simp] theorem State.served_mem (s : State) (h : Fin 8) : (s.served h).mem = s.mem := rfl
@[simp] theorem State.served_foyer (s : State) (h : Fin 8) : (s.served h).foyer = { s.foyer with last := h } := rfl
@[simp] theorem State.served_ser (s : State) (h : Fin 8) : (s.served h).ser = s.ser := rfl
@[simp] theorem State.served_irqf (s : State) (h : Fin 8) : (s.served h).irqf = s.irqf := rfl
@[simp] theorem State.served_pwr (s : State) (h : Fin 8) : (s.served h).pwr = s.pwr := rfl
@[simp] theorem State.served_fence (s : State) (h : Fin 8) : (s.served h).fence = s.fence := rfl
@[simp] theorem State.served_mgmt (s : State) (h : Fin 8) : (s.served h).mgmt = s.mgmt := rfl
@[simp] theorem State.served_bus (s : State) (h : Fin 8) : (s.served h).bus = s.bus := rfl
@[simp] theorem State.served_pins (s : State) (h : Fin 8) : (s.served h).pins = s.pins := rfl
@[simp] theorem State.served_pending (s : State) (h : Fin 8) : (s.served h).pending = s.pending := rfl
@[simp] theorem State.served_fresh (s : State) (h : Fin 8) : (s.served h).fresh = s.fresh := rfl

/-! ### State.taking -/

@[simp] theorem State.taking_nv (s : State) (h : Fin 8) (need : Nat) : (s.taking h need).nv = s.nv := rfl
@[simp] theorem State.taking_sys (s : State) (h : Fin 8) (need : Nat) : (s.taking h need).sys = s.sys := rfl
@[simp] theorem State.taking_time (s : State) (h : Fin 8) (need : Nat) : (s.taking h need).time = s.time := rfl
@[simp] theorem State.taking_sched (s : State) (h : Fin 8) (need : Nat) : (s.taking h need).sched = s.sched := rfl
@[simp] theorem State.taking_halls (s : State) (h : Fin 8) (need : Nat) : (s.taking h need).halls = s.halls := rfl
@[simp] theorem State.taking_gal (s : State) (h : Fin 8) (need : Nat) : (s.taking h need).gal = s.gal := rfl
@[simp] theorem State.taking_eng (s : State) (h : Fin 8) (need : Nat) : (s.taking h need).eng = s.eng := rfl
@[simp] theorem State.taking_voices (s : State) (h : Fin 8) (need : Nat) : (s.taking h need).voices = s.voices := rfl
@[simp] theorem State.taking_mez (s : State) (h : Fin 8) (need : Nat) : (s.taking h need).mez = s.mez := rfl
@[simp] theorem State.taking_out (s : State) (h : Fin 8) (need : Nat) : (s.taking h need).out = s.out := rfl
@[simp] theorem State.taking_tdm (s : State) (h : Fin 8) (need : Nat) : (s.taking h need).tdm = s.tdm := rfl
@[simp] theorem State.taking_dac (s : State) (h : Fin 8) (need : Nat) : (s.taking h need).dac = s.dac := rfl
@[simp] theorem State.taking_spec (s : State) (h : Fin 8) (need : Nat) : (s.taking h need).spec = s.spec := rfl
@[simp] theorem State.taking_mem (s : State) (h : Fin 8) (need : Nat) : (s.taking h need).mem = s.mem := rfl
@[simp] theorem State.taking_foyer (s : State) (h : Fin 8) (need : Nat) : (s.taking h need).foyer = { s.foyer with taking := some (h, need) } := rfl
@[simp] theorem State.taking_ser (s : State) (h : Fin 8) (need : Nat) : (s.taking h need).ser = s.ser := rfl
@[simp] theorem State.taking_irqf (s : State) (h : Fin 8) (need : Nat) : (s.taking h need).irqf = s.irqf := rfl
@[simp] theorem State.taking_pwr (s : State) (h : Fin 8) (need : Nat) : (s.taking h need).pwr = s.pwr := rfl
@[simp] theorem State.taking_fence (s : State) (h : Fin 8) (need : Nat) : (s.taking h need).fence = s.fence := rfl
@[simp] theorem State.taking_mgmt (s : State) (h : Fin 8) (need : Nat) : (s.taking h need).mgmt = s.mgmt := rfl
@[simp] theorem State.taking_bus (s : State) (h : Fin 8) (need : Nat) : (s.taking h need).bus = s.bus := rfl
@[simp] theorem State.taking_pins (s : State) (h : Fin 8) (need : Nat) : (s.taking h need).pins = s.pins := rfl
@[simp] theorem State.taking_pending (s : State) (h : Fin 8) (need : Nat) : (s.taking h need).pending = s.pending := rfl
@[simp] theorem State.taking_fresh (s : State) (h : Fin 8) (need : Nat) : (s.taking h need).fresh = s.fresh := rfl

/-! ### State.taken -/

@[simp] theorem State.taken_nv (s : State) : (s.taken).nv = s.nv := rfl
@[simp] theorem State.taken_sys (s : State) : (s.taken).sys = s.sys := rfl
@[simp] theorem State.taken_time (s : State) : (s.taken).time = s.time := rfl
@[simp] theorem State.taken_sched (s : State) : (s.taken).sched = s.sched := rfl
@[simp] theorem State.taken_halls (s : State) : (s.taken).halls = s.halls := rfl
@[simp] theorem State.taken_gal (s : State) : (s.taken).gal = s.gal := rfl
@[simp] theorem State.taken_eng (s : State) : (s.taken).eng = s.eng := rfl
@[simp] theorem State.taken_voices (s : State) : (s.taken).voices = s.voices := rfl
@[simp] theorem State.taken_mez (s : State) : (s.taken).mez = s.mez := rfl
@[simp] theorem State.taken_out (s : State) : (s.taken).out = s.out := rfl
@[simp] theorem State.taken_tdm (s : State) : (s.taken).tdm = s.tdm := rfl
@[simp] theorem State.taken_dac (s : State) : (s.taken).dac = s.dac := rfl
@[simp] theorem State.taken_spec (s : State) : (s.taken).spec = s.spec := rfl
@[simp] theorem State.taken_mem (s : State) : (s.taken).mem = s.mem := rfl
@[simp] theorem State.taken_foyer (s : State) : (s.taken).foyer = { s.foyer with taking := none } := rfl
@[simp] theorem State.taken_ser (s : State) : (s.taken).ser = s.ser := rfl
@[simp] theorem State.taken_irqf (s : State) : (s.taken).irqf = s.irqf := rfl
@[simp] theorem State.taken_pwr (s : State) : (s.taken).pwr = s.pwr := rfl
@[simp] theorem State.taken_fence (s : State) : (s.taken).fence = s.fence := rfl
@[simp] theorem State.taken_mgmt (s : State) : (s.taken).mgmt = s.mgmt := rfl
@[simp] theorem State.taken_bus (s : State) : (s.taken).bus = s.bus := rfl
@[simp] theorem State.taken_pins (s : State) : (s.taken).pins = s.pins := rfl
@[simp] theorem State.taken_pending (s : State) : (s.taken).pending = s.pending := rfl
@[simp] theorem State.taken_fresh (s : State) : (s.taken).fresh = s.fresh := rfl

theorem Opcode.check_run {o : Opcode} {s : State} {h : Fin 8} {c : Cmd} (hc : o.check s h c = none) : o.run s h c = o.body s h c := by
  simp only [Opcode.run, hc]

/-- The checks of a command do not ask how many entries are reserved for it. -/
theorem Opcode.check_takeEntries (o : Opcode) (s : State) (h : Fin 8) (c : Cmd) (n need : Nat) :
    o.check (s.takeEntries h n need) h c = o.check (s.takeEntries h n) h c := rfl

/-- A command that is taken is carried out, whatever picks it. -/
theorem Opcode.take_of_takes {o : Opcode} {sel : Cmd → Bool} {s : State} {h : Fin 8} {c : Cmd} {n : Nat} (ht : s.Takes o h c n)
    (hs : sel c = true) : o.take sel h s =
      (s.takeEntries h n (o.need s h c)).finish h c (o.need s h c) (o.body (s.takeEntries h n (o.need s h c)) h c) := by
  obtain ⟨h1, h2, h0, h3, -, h5, h6, h7, h8⟩ := ht
  have hq : ¬ (o.timed = true ∧ s.queueRoom h = false) := fun ⟨a, b⟩ => by simp [h6 a] at b
  have hp : ¬ (s.cp0Runs = false ∨ (s.halls.get h).port?.isNone = true ∨ s.turn h = false) := by
    rintro (a | a | a)
    · simp [h1] at a
    · cases e : (s.halls.get h).port? <;> simp [e] at a h2
    · simp [h0] at a
  have hr := Opcode.check_run ((o.check_takeEntries s h c n (o.need s h c)).trans h7)
  simp only [Opcode.take, if_neg hp, h3, hs, h5, h8, if_neg hq, Bool.true_eq_false, Bool.false_eq_true, or_self, if_false, hr]

/-- A row that takes every command of its opcode. -/
theorem Opcode.row_of_takes {o : Opcode} {s : State} {h : Fin 8} {c : Cmd} {n : Nat} (ht : s.Takes o h c n) :
    o.row h s =
      .next ((s.takeEntries h n (o.need s h c)).finish h c (o.need s h c) (o.body (s.takeEntries h n (o.need s h c)) h c)) := by
  rw [Opcode.row, Opcode.take_of_takes ht]
  simp [Opcode.is, ht.2.2.2.2.1]

theorem State.finish_done (u s : State) (h : Fin 8) (c : Cmd) (need st : Nat) (data : List Byte) :
    u.finish h c need (.done s st data) = s.answered h c st data need := rfl

theorem State.finish_wait (u s : State) (h : Fin 8) (c : Cmd) (need : Nat) (what : WaitFor) :
    u.finish h c need (.wait s what) = s.begun h c need what := rfl

/-- Checks that all pass let a command go on. -/
theorem State.checked_pass {s : State} {cs : List (Bool × Nat)} {go : State → Res} (h : firstFail cs = none) : s.checked cs go = go s := by
  simp only [State.checked, h]

/-- The first check that fails gives the status. -/
theorem State.checked_fail {s : State} {cs : List (Bool × Nat)} {go : State → Res} {st : Nat} (h : firstFail cs = some st) :
    s.checked cs go = .done s st [] := by
  simp only [State.checked, h]

end Sys2Proof.Machine
end

