-- ==== Sys2Proof/Machine/PinView.lean ====
section
/-! DEFINITION. The digital output pins as partners see them (spec/12_host_ports_and_mailboxes.md R352, spec/10_output_chain.md R298,
R300, spec/18_power_reset_faults.md R491, spec/19_electrical_and_package.md R496) and the JTAG port's registers (R503). -/

namespace Sys2Proof.Machine

def Level.of (b : Bool) : Level := if b then .high else .low

/-- The I/O bank of a pin (R496). -/
def DPin.bank : DPin → Bank
  | .rdy p => if p = 0 then .ha else .hb
  | .irq p => if p = 0 then .ha else .hb
  | .hd p _ => if p = 0 then .ha else .hb
  | .pulse => .sys
  | .tx _ => .ser
  | .de _ => .ser
  | .bclk => .tdm
  | .fsync => .tdm
  | .wclkOut => .tdm
  | .tdmo _ => .tdm

/-- SPn_TX at the instant `now` (R390, R491): the characters of the last transmission, one bit period after SPn_DE, and high between
transmissions. DESIGN CHOICE (assumption log 112). -/
def Ser.txAt (p : Ser) (fresh now : Nat) : Level :=
  if now < p.txFrom + p.div ∨ p.txTo ≤ now ∨ p.div = 0 then .high
  else if p.role = 2 then Level.of (Config.dmxLevel fresh)
  else
    let i := (now - p.txFrom - p.div) / p.div
    let b := p.sent.getD (i / p.charBits) 0#8
    match i % p.charBits with
    | 0 => .low
    | j + 1 =>
      if j < 8 then Level.of (b.getLsbD j)
      else if j = 8 ∧ bits p.cfg 5 4 ≠ 0 then
        Level.of ((List.range 8).foldl (fun x k => x != b.getLsbD k) (bits p.cfg 5 4 == 2))
      else .high

/-- What the device itself puts on a pin whose bank has its supply, in BCLK period `k` of the TDM frame and in the first or second half
of the pin's own period. HA_IRQ_n and HB_IRQ_n are pulled low or released; the clocks of the TDM port are its own in master mode only,
held low while they do not run; WCLK_OUT rises at the edge. HA_D0–3 and HB_D0–3 are driven in response phases only (R324), none of
which lasts from one command to the next. DESIGN CHOICE (assumption log 112). -/
def State.ownLevel (s : State) (k : Nat) (second : Bool) : DPin → Level
  | .rdy p => Level.of (s.port p).rdy
  | .irq p => if (s.port p).irq then .low else .z
  | .hd _ _ => .z
  | .pulse => Level.of (s.mgmt.pulse && !second)
  | .tx n => if s.pwr.on pdSerial then (s.ser.get n).txAt s.fresh (s.line64 false) else .high
  | .de n => Level.of (s.serDe n == some true)
  | .bclk => if s.out.master then Level.of (s.tdm.running && bclkAt s.tdm.cfg second) else .z
  | .fsync => if s.out.master then Level.of (s.tdm.running && fsyncAt s.tdm.cfg (if s.slots8 then 256 else 512) k) else .z
  | .wclkOut => Level.of (s.tdm.running && !second)
  | .tdmo l => Level.of (s.tdm.dataAt l.val k)

/-- A pin that the device drives: high impedance where its bank has no supply (R496), under HIGHZ high impedance, under EXTEST and CLAMP
what its boundary cell drives (R503). -/
def State.pinOut (s : State) (k : Nat) (second : Bool) (p : DPin) : Level :=
  if s.bankOn p.bank = false then .z else
  let cell := ((s.pins.cells.find? fun c => c.1 == p).map fun c => c.2).getD .z
  match s.pins.tap with
  | .highz => .z
  | .extest => cell
  | .clamp => cell
  | .idcode => s.ownLevel k second p
  | .bypass => s.ownLevel k second p
  | .sample => s.ownLevel k second p
  | .debug => s.ownLevel k second p
  | .reset => s.ownLevel k second p

/-! ### The JTAG port (R503) -/

/-- The boundary register's cells of the pins that the device drives, in an order of the model's. DESIGN CHOICE
(assumption log 112). -/
def DPin.all : List DPin :=
  [.rdy 0, .rdy 1, .irq 0, .irq 1] ++ [(0 : Fin 2), 1].flatMap (fun p => (List.finRange 4).map (DPin.hd p)) ++
  (List.finRange 4).flatMap (fun n => [.tx n, .de n]) ++ [.pulse, .bclk, .fsync, .wclkOut] ++ (List.finRange 4).map DPin.tdmo

/-- The boundary register's cells of the inputs, which follow. DESIGN CHOICE (assumption log 112). -/
def IPin.all : List IPin :=
  [.clk 0, .clk 1, .cs 0, .cs 1] ++ (List.finRange 4).map IPin.rx ++ [.tdmi 0, .tdmi 1, .wclkIn, .refclk] ++
  (List.finRange 8).map IPin.trig ++ [.resetN, .tamperN]

/-- The level at an input, cell `k`: what the state holds of it, and otherwise free. DESIGN CHOICE (assumption log 112). -/
def State.pinIn (s : State) (k : Nat) : IPin → Bool
  | .rx n => (s.ser.get n).line
  | .resetN => !s.pins.resetLow
  | .tamperN => !s.pins.tamper
  | _ => Config.inputLevel s.fresh k

/-- What Capture-DR loads: the identification, the pins, or the single bit of BYPASS. -/
def State.captured (s : State) (k : Nat) (second : Bool) : List Bool :=
  let pins := (DPin.all.map fun p => s.pinOut k second p == .high) ++ IPin.all.zipIdx.map fun p => s.pinIn p.2 p.1
  match s.pins.tap with
  | .idcode => (List.range 32).map fun i => bit idCode i
  | .sample => pins
  | .extest => pins
  | .bypass => [false]
  | .highz => [false]
  | .clamp => [false]
  | .debug => [false]
  | .reset => [false]

/-- Whether Update-DR loads the boundary cells. -/
def TapInstr.scans : TapInstr → Bool
  | .sample => true
  | .extest => true
  | _ => false

/-- The instruction behind a code of the part's. DESIGN CHOICE (assumption log 112). -/
def TapInstr.ofCode (n : Nat) : TapInstr :=
  match n % 8 with
  | 0 => .idcode | 1 => .bypass | 2 => .sample | 3 => .extest | 4 => .highz | 5 => .clamp | 6 => .debug | _ => .reset

/-- The instruction that Update-IR makes of the instruction register: all ones are BYPASS by IEEE 1149.1, the other codes are not given
and free. PRESUMED, DESIGN CHOICE (assumption log 112). -/
def TapInstr.decode (ir : List Bool) : TapInstr := if ir.all id then .bypass else .ofCode (Config.tapCode ir)

/-- A rising edge of TCK with TMS and TDI: the controller moves, Capture-DR and Shift-DR act on the data register, Update-DR on the
boundary cells, Capture-IR and Shift-IR on the instruction register, Update-IR brings its instruction, and Test-Logic-Reset selects
IDCODE; bank SYS without its supply sees none. No row of the table brings it. PRESUMED (assumption log 112). -/
def State.tck (s : State) (tms tdi : Bool) (k : Nat) (second : Bool) : State :=
  if s.bankOn .sys = false then s else
  let p := s.pins
  let st := p.tapSt.next tms
  let dr := match p.tapSt with
    | .captureDr => s.captured k second
    | .shiftDr => p.dr.drop 1 ++ [tdi]
    | _ => p.dr
  let ir := match p.tapSt with
    | .captureIr => Config.tapCapture
    | .shiftIr => p.ir.drop 1 ++ [tdi]
    | _ => p.ir
  let cells := if st = .updateDr ∧ p.tap.scans = true then DPin.all.zip (dr.map Level.of) else p.cells
  let s := { s with pins := { p with tapSt := st, ir := ir, dr := dr, cells := cells } }
  match st with
  | .logicReset => s.tapInstr .idcode
  | .updateIr => s.tapInstr (.decode ir)
  | _ => s

/-- TRST_n is asserted: Test-Logic-Reset without a clock. No row of the table brings it. PRESUMED (assumption log 112). -/
def State.trst (s : State) : State :=
  if s.bankOn .sys then { s with pins := { s.pins with tapSt := .logicReset } }.tapInstr .idcode else s

/-- TDO: high impedance outside Shift-DR and Shift-IR and without the supply of bank SYS (R496, R503). -/
def State.tdo (s : State) : Level :=
  if s.bankOn .sys = false then .z else
  match s.pins.tapSt with
  | .shiftDr => Level.of (s.pins.dr.headD false)
  | .shiftIr => Level.of (s.pins.ir.headD false)
  | _ => .z

end Sys2Proof.Machine
end

