-- ==== Sys2Proof/Tests/Slice0.lean ====
section
/-! SUPPORT. Tests: the checks of WellFormed, worked examples of the spec, and for every statement that has hypotheses a state and
operands that meet them, clause by clause. -/

namespace Sys2Proof.Tests

set_option Elab.async false

open Sys2Proof Sys2Proof.Machine

/-! ### Small states -/

/-- Every domain is on, CP0's firmware runs, REFCLK and rendering run, both ports speak UHP3, port A is the supervisor's, and wave
memory is ready. -/
def dev : State :=
  { State.reset with
    pwr := { State.reset.pwr with dom := State.reset.pwr.dom.map fun d => { d with st := .on } }
    mgmt := { State.reset.mgmt with fwOk := true }
    time := { State.reset.time with counting := true, refclk := true, running := true, rclk := 7372800, et := 1000000 }
    sched := { State.reset.sched with cfg := 0x80000000#32, cfgSet := true, nextClose := 63, nextBound := 62 }
    halls := State.reset.halls.upd 0 fun h =>
      { h with alive := true, rv := 1, binding := 0x40000000#32, nHe := 1, hb := 196608, hs := 32, hd := 65536, quota := 16,
               mask := [(0, BitVec.allOnes 64)], engs := [{ he := 0, phys := [(0, some 0)], hb := 196608, hs := 32, hd := 65536, drain := false, left := false, again := false }] }
    eng := State.reset.eng.map fun x => { x with next := 61 }
    mez := { State.reset.mez with next := 60 }
    out := { State.reset.out with next := 59, p := 1, q := 2, wclkOk := true }
    dac := { State.reset.dac with wclkOk := true, vrefOk := true, nr := 96, edge := 20 }
    tdm := { State.reset.tdm with running := true, edge := 20, inEdge := 20 }
    foyer := { State.reset.foyer with
      sup := some 0
      port := State.reset.foyer.port.map fun q => { q with st := .uhp3, rdy := true, version := 0x0302, width := 4 } }
    mem := { State.reset.mem with ready := true } }

/-- The bytes of a ring command. -/
def entry (op flags : Nat) (pay : List Byte) : List Byte :=
  leBytes 2 op ++ leBytes 2 pay.length ++ leBytes 2 7 ++ leBytes 2 flags ++ pay

/-- The entries it takes. -/
def entriesOf (pay : List Byte) : Nat := if pay.length ≤ 56 then 1 else 1 + (pay.length - 56 + 63) / 64

/-- A memory that holds bytes from an address on. -/
def cells (base : Nat) (bs : List Byte) : Memory := (bs.zipIdx.filter fun x => x.1 != 0#8).map fun x => (base + x.2, x.1)

/-- `s` with one command at the head of hall `h`'s ring. -/
def posted (s : State) (h : Fin 8) (op flags : Nat) (pay : List Byte) : State :=
  { s with foyer := { s.foyer with sram := cells (cmdBase h) (entry op flags pay) } }.updRing h fun r =>
    { r with cmdTail := BitVec.ofNat 16 (entriesOf pay) }

/-- The command that CP0 then finds. -/
def cmdOf (op flags : Nat) (pay : List Byte) : Cmd := { op := op, tag := 7, flags := flags, len := pay.length, pay := pay, via := .ring }

/-- Hall `h` finds a command to take. -/
abbrev Found (s : State) (o : Opcode) (flags : Nat) (pay : List Byte) : Prop :=
  (posted s 0 o.op flags pay).Takes o 0 (cmdOf o.op flags pay) (entriesOf pay)

/-! ### Well-formed commands -/

theorem test_ill_formed_commands_are_refused :
    (Instr.engineRenderFrame 0 [(4194304, 0, 1)]).wf = false ∧ (Instr.specBlock [(0, 72, 1)]).wf = false ∧
    (Instr.scrubPatrolRead 0 [(0, 0, 256)]).wf = false ∧ (Instr.scrubWriteBack 0 [(4194304, 0, 1)]).wf = false ∧
    (Instr.pageScrubEnd 0 [(4194304, 0, 1)]).wf = false ∧ (Instr.tdmInputFrame []).wf = false ∧
    (Instr.tdmInputFrame [List.replicate 16 0, List.replicate 17 0]).wf = false ∧
    (Instr.wr 0 0 (List.replicate 256 0)).wf = false ∧ (Instr.reservedTransactionCode 0 0x37 0 0 [] .none).wf = false ∧
    (Instr.reservedTransactionCode 0 0x3E 0 0 [] .none).wf = false ∧ (Instr.tempSample []).wf = false ∧
    (Instr.tempSample (List.replicate 10 32768)).wf = false ∧ (Instr.voltageSample (List.replicate 16 65536)).wf = false ∧
    (Instr.voltageSample []).wf = false ∧ (Instr.paceReading 0 65536).wf = false := by decide +kernel

theorem test_long_payloads_are_refused :
    (∀ bs : List Byte, 65536 ≤ bs.length → payloadWf bs = false) ∧ (∀ bs p a b ad ph, (Instr.write p a ad bs ph).wf = payloadWf bs ∧
      (Instr.doorbell p a ad bs ph).wf = payloadWf bs ∧ (Instr.cplAck p a ad bs ph).wf = payloadWf bs ∧
      (Instr.regWrite p a ad bs ph).wf = payloadWf bs ∧ (Instr.bulk p a ad bs ph).wf = payloadWf bs ∧
      (Instr.byeTransaction p a ad bs ph).wf = payloadWf bs ∧ (Instr.hello p a ad bs ph).wf = payloadWf bs ∧
      (payloadWf bs = false → (Instr.reservedTransactionCode p b a ad bs ph).wf = false)) := by
  refine ⟨fun bs h => by simp [payloadWf]; omega, fun bs p a b ad ph => ⟨rfl, rfl, rfl, rfl, rfl, rfl, rfl, fun h => by simp [Instr.wf, h]⟩⟩

theorem test_an_ill_formed_command_is_refused : exec (.paceReading 0 65536) dev = .refused .illFormed := by rfl

/-! ### The queue and the whole machine: what the statements suppose -/

/-- A command waits; none waits, away from bring-up; a step answers; the invariants hold at reset. -/
theorem test_hyps_whole_machine :
    ({ dev with pending := [.nop 0] } : State).pending = [.nop 0] ∧ ({ dev with pending := [.nop 0] } : State).queueWf = true ∧
    dev.pending = [] ∧ dev.time.armed = false ∧ dev.time.refclk = true ∧ dev.time.counting = true ∧
    State.reset.time.counting = false ∧ State.reset.memoriesWf = true ∧ dev.nv.fuses ≤ 64 ∧
    (Instr.paceReading 0 65536).wf = false ∧ (Instr.paceReading 0 65535).wf = true := by decide +kernel
theorem test_reset_steps : step State.reset = .next State.reset := by rfl
theorem test_dev_steps : ∃ t : State, step { dev with pending := [.nop 0] } = .next t := ⟨_, rfl⟩

/-! ### The register bus -/

/-- Half-word, unmapped, denied and off-domain addresses; a plain register; both words of a pair, with and without a held word. -/
theorem test_hyps_register_bus :
    regSpace (0x40000002#32 : Word).toNat = true ∧ regSpace (0x40000000#32 : Word).toNat = true ∧
    dev.reach .cp0 (0x40001000#32 : Word).toNat = .unmapped ∧ dev.reach .window (0x00000000#32 : Word).toNat = .unmapped ∧
    dev.reach .cp1 (0x4F000000#32 : Word).toNat = .denied ∧ dev.mgmt.withheld = 0 ∧ dev.mgmt.tokens > 0 ∧
    State.reset.reach .cp0 (0x40300000#32 : Word).toNat = .off .spec ∧ State.reset.sys.err = 0#32 ∧ ({ dev with sys := { dev.sys with err := 1#32 } } : State).sys.err ≠ 0#32 ∧
    dev.reach .cp0 (0x4000003C#32 : Word).toNat = .ok .sys 0x3C ∧ dev.writeEffect .cp0 .sys 0x3C 5#32 = none ∧
    isPairLo .sys 0x3C = false ∧ isPairHi .sys 0x3C = false ∧
    dev.reach .cp0 (0x40200008#32 : Word).toNat = .ok .sched 8 ∧ isPairLo .sched 8 = true ∧ dev.readEffect .cp0 .sched 8 = none ∧
    dev.reach .cp0 (0x4020000C#32 : Word).toNat = .ok .sched 12 ∧ isPairHi .sched 12 = true ∧ 4 ≤ (0x4020000C#32 : Word).toNat ∧
    ({ dev with bus := { dev.bus with wrHold := [(0x40200008, 7#32)] } } : State).bus.wrHold.find? (fun x => x.1 == (0x40200008#32 : Word).toNat) = some (0x40200008, 7#32) ∧
    dev.bus.wrHold.find? (fun x => x.1 == (0x40200008#32 : Word).toNat) = none := by decide +kernel

/-! ### SCHED -/

def armed : State := { dev with time := { dev.time with armed := true, running := false, rclk := 3000000 } }

theorem test_hyps_render_bringup :
    dev.pwr.answers pdCtrl = true ∧ dev.sched.cfgSet = true ∧
    State.reset.sched.cfgSet = false ∧ bit 0x00000001#32 31 = false ∧ bit 0x80000001#32 31 = true ∧
    ({ dev with sched := State.reset.sched } : State).sched.cfgSet = false ∧ ({ dev with sched := State.reset.sched } : State).pwr.answers pdCtrl = true ∧
    (bringupStep - 1 < bringupStep ∧ bringupStep ≤ dev.time.rclk) ∧
    armed.time.armed = true ∧ armed.time.counting = true ∧ armed.time.refclk = true := by decide +kernel

theorem test_hyps_measured_budgets :
    dev.pwr.answers pdCtrl = true ∧ bit 0x8000E600#32 31 = true ∧ dev.nv.calValid = true ∧ bit 0x0000E600#32 31 = false ∧
    ({ dev with nv := { dev.nv with cal := Vector.replicate 2 { CalCopy.initial with intact := false } } } : State).nv.calValid = false ∧
    62 = dev.sched.nextBound ∧ dev.reaches (dev.start 62) = true ∧ bit dev.sched.meas 31 = false ∧ dev.time.armed = false ∧
    Initiator.cp0 ≠ .window ∧ dev.reach .cp0 0x40200020 = .ok .sched 0x20 := by decide +kernel

/-- The 64 frames before frame 61 have been; gallery 0 gave two readings in them, gallery 1 none. -/
def paced : State :=
  { dev with sched := { dev.sched with nextMb := 61 },
             gal := dev.gal.upd 0 fun x => { x with paces := [(dev.start 61 - 1, 1000), (0, 990)] } }
theorem test_hyps_recomputed_budgets :
    dev.reaches (dev.start dev.sched.nextMb) = true ∧
    ({ dev with time := { dev.time with refclk := false, et := 0 }, sched := paced.sched } : State).reaches (dev.start 61) = false ∧
    paced.reaches (paced.start paced.sched.nextMb) = true ∧
    (paced.advanceTo (paced.start 61)).paceMin 0 61 = some 990 ∧ (paced.advanceTo (paced.start 61)).paceMin 1 61 = none := by decide +kernel

/-- A hall with an event outside the flight in its queue, due at `t`. -/
def queued (t : Nat) : State :=
  dev.updHall 0 fun h => { h with queue := [{ hall := 0, time := t, req := t, late := false, src := 0, seq := 0, tag := 0, kind := .sync 1 }] }

theorem test_hyps_frames_follow :
    dev.reaches (dev.start (63 - 1)) = true ∧ (dev.runTo (dev.start (63 - 1))).rendered (63 - 4) = true ∧ 63 = dev.sched.nextClose ∧
    ({ dev with eng := dev.eng.upd 0 fun x => { x with next := 59 } } : State).reaches (dev.start (63 - 1)) = true ∧
    (({ dev with eng := dev.eng.upd 0 fun x => { x with next := 59 } } : State).runTo (dev.start (63 - 1))).rendered (63 - 4) = false ∧
    (queued 1000000).nextOther = some 1000000 ∧ (queued 1000000).reaches 1000000 = true ∧ (queued 1000000).time.armed = false ∧
    (queued 1000512).nextOther = some 1000512 ∧ (queued 1000512).reaches 1000512 = true ∧
    62 = dev.sched.nextBound ∧ dev.reaches (dev.start 62) = true := by decide +kernel

theorem test_hyps_engines :
    Upsets.wf [(4194303, 71, 255)] = true ∧
    ({ dev with mem := dev.mem.upset [(4194303, 71, 255)] } : State).engFrame 0 = some 61 ∧
    ({ dev with mem := dev.mem.upset [(4194303, 71, 255)] } : State).mayRender 0 61 = true ∧
    dev.pwr.on (pdGal (galOf 63)) = true ∧ (dev.eng.get 63).fenced = false ∧ (dev.engFrame 0).isSome = true ∧ (dev.eng.get 0).fenced = false ∧
    ({ dev with mgmt := { dev.mgmt with vmonBad := dev.mgmt.vmonBad.put (pdGal 7) true } } : State).mgmt.vmonBad.get (pdGal 7) = true ∧
    (dev.gal.get 7).fenced = false := by decide +kernel

/-- A hall with a keepalive of 1 ms, silent, or lapsed 10 s ago. -/
def silentHall : State := dev.updHall 0 fun h => { h with kaMs := 1, kaLast := 0 }
def lapsedHall : State :=
  { dev with time := { dev.time with rclk := 245760000 } }.updHall 0 fun h => { h with kaLapsed := true, lapses := [(0, 512), (245759999, 1024)] }

theorem test_hyps_hall_faults :
    (dev.halls.get 0).alive = true ∧ Stepped.now false (dev.halls.get 0).fenced = false ∧ dev.pwr.on pdFoyer = true ∧
    dev.pwr.on pdCtrl = true ∧ silentHall.silent 0 = true ∧ (lapsedHall.halls.get 0).lapses = (0, 512) :: [(245759999, 1024)] ∧
    0 + lapsedHall.edgesUs 10000000 ≤ lapsedHall.time.rclk ∧
    ({ lapsedHall with time := { dev.time with rclk := 245759999 } }.halls.get 0).lapses = (0, 512) :: [(245759999, 1024)] ∧
    ({ lapsedHall with time := { dev.time with rclk := 245759999 } } : State).time.rclk < 0 + dev.edgesUs 10000000 := by decide +kernel

/-- An engine under self-test for a lift. -/
def testing : State :=
  { dev with eng := dev.eng.upd 5 fun x => { x with selftest := true, fenced := true },
             fence := { dev.fence with busy := some (.selftest 5) } }

theorem test_hyps_fence_requests :
    bit 0x81000005#32 31 = true ∧ dev.fence.busy = none ∧ unitCount 1 ≤ 64 ∧ 63 < unitCount 1 ∧ dev.fence.standing? 1 63 = none ∧
    (testing.eng.get 5).selftest = true ∧ testing.fence.busy = some (.selftest (5 : Fin 64).val) := by decide +kernel

/-! ### Commands of the halls -/

def le (n v : Nat) : List Byte := leBytes n v

/-- A program without oscillators, with one slot that the host may set. -/
def prog0 : Prog :=
  { cost := 22, prio := 0, delayMax := 0, progId := 0, compiler := 0, fromPf3 := false, osc := [], shpKind := 0, shpDrive := none,
    shpMix := none, shpTable := none, parallel := false, flt0 := [], flt1 := [], ampLevel := none, ampPan := none, dlyEn := false,
    dlyTime := none, dlyFb := none, dlyMix := none, slots := [{ dflt := 0, fmt := .bipolar, hostSet := true, bind := .none }],
    routes := [], envs := [], lfos := [], sends := [], tables := [] }

/-- The device with that program loaded as handle 0, a second hall, pages 0 to 3 of hall 0, and the firmware's facts. -/
def rig : State :=
  { dev with
    sys := { dev.sys with rvAvail := 1#32 }
    halls := (dev.halls.upd 0 fun h => { h with progs := [{ idx := 0, gen := 0, prog := prog0, pages := [8], draining := false }] }).upd 1 fun h =>
      { h with alive := true, rv := 1, nHe := 0, hb := 1, hs := 1, quota := 4, mask := [(0, 0)] }
    mem := (List.range 4).foldl (fun (m : WaveMem) p => m.setPage p { state := .owned, hall := 0, poisoned := false }) dev.mem }

/-- `rig` with a command posted, and after CP0 has taken its entries. -/
def at0 (o : Opcode) (fl : Nat) (pay : List Byte) : State := posted rig 0 o.op fl pay
def taken (o : Opcode) (fl : Nat) (pay : List Byte) : State := (at0 o fl pay).takeEntries 0 (entriesOf pay)
abbrev Finds (o : Opcode) (fl : Nat) (pay : List Byte) : Prop := (at0 o fl pay).Takes o 0 (cmdOf o.op fl pay) (entriesOf pay)

theorem test_hyps_common_checks :
    (at0 opKeepalive 4 []).cp0Runs = true ∧ ((at0 opKeepalive 4 []).halls.get 0).port?.isSome = true ∧
    (at0 opKeepalive 4 []).turn 0 = true ∧ (at0 opKeepalive 4 []).nextCmd 0 = .cmd (cmdOf opKeepalive.op 4 []) 1 ∧
    (at0 opKeepalive 4 []).room 0 (opKeepalive.need (at0 opKeepalive 4 []) 0 (cmdOf opKeepalive.op 4 [])) = true ∧
    (at0 (opBus cmdSync) 0 (List.replicate 32 0)).queueRoom 0 = true ∧
    opKeepalive.check (taken opKeepalive 4 []) 0 (cmdOf opKeepalive.op 4 []) = some 0x22 ∧
    opKeepalive.check (taken opKeepalive 3 []) 0 (cmdOf opKeepalive.op 3 []) = none ∧
    opKeepalive.check (taken opKeepalive 0 [0#8]) 0 (cmdOf opKeepalive.op 0 [0#8]) = some 0x11 ∧
    opHallBind.check rig 1 (cmdOf opHallBind.op 0 (le 8 0)) = some 0x21 ∧
    (posted rig 0 0xFFFF 0 []).nextCmd 0 = .cmd (cmdOf 0xFFFF 0 []) 1 ∧ (cmdOf 0xFFFF 0 []).op ∉ opcodes ∧
    (at0 opKeepalive 4 []).defers (cmdOf opKeepalive.op 4 []) = false ∧
    (posted rig 0 0xFFFF 0 []).turn 0 = true ∧ (posted rig 0 0xFFFF 0 []).room 0 1 = true := by decide +kernel

/-- Hall 0, next in the turn, has a command ready when hall 3's is looked for. -/
theorem test_hyps_turns :
    ((0 : Fin 8).val + 7 - (at0 opKeepalive 0 []).foyer.last.val) % 8 < ((3 : Fin 8).val + 7 - (at0 opKeepalive 0 []).foyer.last.val) % 8 ∧
    (at0 opKeepalive 0 []).ready 0 = true := by decide +kernel

theorem test_hyps_reading :
    Finds opHelloEcho 0 [] ∧ ((taken opHelloEcho 0 []).halls.get 0).port? = some 0 ∧ Finds opGetInfo 0 [] ∧ Finds opKeepalive 0 [] ∧
    Finds opTimeGet 0 [] ∧ Finds opStats 0 [] := by decide +kernel

theorem test_hyps_session :
    Finds opBye 0 [0#8, 0#8, 0#8, 0#8] ∧ Finds opBye 0 [1#8, 0#8, 0#8, 0#8] ∧
    Finds opModSet 0 [64#8, 0#8, 0xFF#8, 0xFF#8] ∧ Finds opModSet 0 [1#8, 0#8, 0#8, 0#8] ∧ f8 [64#8, 0#8, 0xFF#8, 0xFF#8] 0 ≤ 64 ∧
    zero [64#8, 0#8, 0xFF#8, 0xFF#8] 1 1 = true ∧ Finds opPortSleep 0 [] ∧
    (rig.halls.get 0).port? = some 0 ∧ ({ bytes := [], keep := 1, free := none, sleep := true, box := none } : Held).sleep = true ∧
    isLost { bytes := [], keep := 1, free := none, sleep := true, box := none } = false := by decide +kernel

/-- Hall 2 without hall engines, hall 0's quota, hall 1 unbound and closed. -/
def createPay : List Byte := [2, 1, 64, 1, 0, 0, 0, 0, 0, 1, 0, 0, 1, 0, 0, 0, 4, 0, 0, 0, 0, 0, 0, 0] ++ List.replicate 16 0#8
def resizePay : List Byte := [1, 2] ++ List.replicate 14 0#8 ++ [8#8, 0#8] ++ List.replicate 22 0#8

theorem test_hyps_hall_commands :
    Finds opHallCreate 0 createPay ∧ (at0 opHallCreate 0 createPay).ghosts (cmdOf opHallCreate.op 0 createPay) = false ∧
    firstFail ((taken opHallCreate 0 createPay).createChecks createPay) = none ∧
    (addEngs (taken opHallCreate 0 createPay).cb (taken opHallCreate 0 createPay).usable (hallIx (f8 createPay 0))
      (taken opHallCreate 0 createPay).openFrame (List.range (f8 createPay 8))
      ((taken opHallCreate 0 createPay).halls.put (hallIx (f8 createPay 0)) (newHall rig.time.rclk createPay))).isSome = true ∧
    Finds opHallResize 0 resizePay ∧ firstFail ((taken opHallResize 0 resizePay).resizeChecks resizePay) = none ∧ f8 resizePay 1 % 2 = 0 ∧
    Finds opHallBind 0 [1, 0, 0, 0, 1, 0, 0, 64] ∧ bindOk (w32 [1, 0, 0, 0, 1, 0, 0, 64] 4) = true ∧ zero [1, 0, 0, 0, 1, 0, 0, 64] 1 3 = true ∧
    ((taken opHallBind 0 [1, 0, 0, 0, 1, 0, 0, 64]).halls.get (hallIx (f8 [1, 0, 0, 0, 1, 0, 0, 64] 0))).alive = true ∧
    (taken opHallBind 0 [1, 0, 0, 0, 1, 0, 0, 64]).bindTaken 1 (w32 [1, 0, 0, 0, 1, 0, 0, 64] 4) = false ∧
    Finds opHallClose 0 [1, 0, 0, 0] ∧ ((taken opHallClose 0 [1, 0, 0, 0]).hall 1).alive = true := by decide +kernel

/-- A PF4 image without oscillators: header, three directory entries, TOPO; its CRC and its cost given. -/
def pf4 (crc cost : Nat) : List Byte :=
  let dir (ty off len : Nat) : List Byte := le 2 ty ++ le 2 0 ++ le 4 off ++ le 4 len ++ le 4 0
  let off : List Byte := [0, 0, 0xFF, 0xFF, 0xFF, 0xFF, 0xFF, 0]
  [0x50, 0x46, 0x34, 0] ++ le 2 0 ++ le 2 64 ++ le 4 256 ++ le 4 crc ++ [1, 0] ++ le 2 3 ++ le 2 cost ++ [0, 0] ++ le 4 0 ++ le 4 0 ++
    le 4 0 ++ List.replicate 28 0 ++ dir 1 112 144 ++ dir 2 256 0 ++ dir 3 256 0 ++ off ++ off ++ off ++ off ++
    [0, 0xFF, 0xFF, 0, 0xFF, 0xFF, 0, 0] ++ List.replicate 88 0 ++ [0xFF, 0xFF, 0, 0, 0, 0, 0, 0] ++ [0, 0xFF, 0xFF, 0xFF, 0, 0, 0, 0]
def image0 : List Byte := pf4 0x1C6B0324 22

/-- `rig` with the image staged in page 0. -/
def staged : State := { rig with mem := { rig.mem with data := cells 0 image0 } }
def loadPay : List Byte := le 2 0 ++ le 2 0 ++ le 4 256
def loaded : State := (posted staged 0 0x0301 0 loadPay).takeEntries 0 1
def loadedRead : State := loaded.memDo (loaded.mem.readCws (runCws 0 256))

/-- The CRC with each step carried out before the next. -/
def crcStep : List Byte → Nat → Nat
  | [], c => c
  | b :: bs, c => if c = 0 then crcStep bs (crcByteR 0xEDB88320 0 b) else crcStep bs (crcByteR 0xEDB88320 c b)

theorem crcStep_eq (bs : List Byte) : ∀ c, crcStep bs c = bs.foldl (crcByteR 0xEDB88320) c := by
  induction bs with
  | nil => intro c; rfl
  | cons b bs ih => intro c; unfold crcStep; split <;> simp [*]

theorem crc32_step (bs : List Byte) : crc32 bs = crcStep bs 0xFFFFFFFF ^^^ 0xFFFFFFFF := by rw [crcStep_eq]; rfl

/-- The image passes the checks of R102, one by one, and loads. -/
def im0 : Image := image0.toArray
theorem test_image_header : firstFault (chkHeader im0 256) = none := by decide +kernel
theorem test_image_directory : firstFault (chkDirectory im0 256) = none := by decide +kernel
theorem test_image_sections : firstFault (chkSections im0) = none := by decide +kernel
theorem test_image_lengths : firstFault (chkLengths im0) = none := by decide +kernel
theorem test_image_fields : firstFault (chkFields im0) = none := by decide +kernel
theorem test_image_refs : firstFault (chkRefs im0 (readProg im0 false)) = none := by decide +kernel
theorem test_image_cost : stepCost (readProg im0 false) = 22 := by decide +kernel
theorem test_image_size : im0.size = 256 := by decide +kernel
theorem test_image_crc : crcStep (im0.toList.set 12 0#8 |>.set 13 0#8 |>.set 14 0#8 |>.set 15 0#8) 0xFFFFFFFF ^^^ 0xFFFFFFFF = im0.u32 12 := by decide +kernel
theorem test_image_revision : im0.u8 0x10 = 1 ∧ (readProg im0 false).cost = 22 := by decide +kernel
theorem test_image_is_pf4 : parsePf4 0x15 0x30 1 im0 false = .ok (readProg im0 false) := by
  unfold parsePf4
  simp [test_image_size, test_image_header, test_image_directory, test_image_sections, test_image_lengths, test_image_fields, test_image_refs, test_image_cost, crc32_step, test_image_crc, test_image_revision]
theorem test_image_is_accepted : parseImage 0x15 0x30 1 im0 = .ok (readProg im0 false) := by
  have h : im0.slice 0 4 = [0x50#8, 0x46#8, 0x34#8, 0x00#8] := by decide +kernel
  unfold parseImage
  simp only [test_image_size, h]
  simpa using test_image_is_pf4

theorem test_hyps_program_commands :
    (posted staged 0 0x0301 0 loadPay).Takes opProgLoad 0 (cmdOf 0x0301 0 loadPay) 1 ∧
    zero loadPay 2 2 = true ∧ f16 loadPay 0 ≤ 4095 ∧ f32 loadPay 4 ≠ 0 ∧ f32 loadPay 4 ≤ 8388608 ∧
    f16 loadPay 0 + (f32 loadPay 4 + 65535) / 65536 ≤ 4096 ∧
    (spanOf (f16 loadPay 0) (f32 loadPay 4)).all (loaded.mayRead 0) = true ∧
    ((runCws (f16 loadPay 0) (f32 loadPay 4)).all fun w => !loadedRead.mem.flagged w) = true ∧
    (loadedRead.halls.get 0).rv = 1 ∧ loadedRead.progChecks 0 prog0 = none ∧
    (loadedRead.halls.get 0).freeIdx.isSome = true ∧
    Finds opProgFree 0 (le 4 0) ∧ (((taken opProgFree 0 (le 4 0)).halls.get 0).prog? (f16 (le 4 0) 0)).isSome = true ∧
    Finds opProgInfo 0 (le 4 0) ∧
    (((taken opProgInfo 0 (le 4 0)).halls.get 0).progs.find? fun p => handleOf p.idx p.gen == f16 (le 4 0) 0).isSome = true := by decide +kernel

theorem test_hyps_program_staged : loadedRead.mem.rdList 0 256 = image0 := by decide +kernel

theorem test_hyps_program_pages : loadedRead.pagesFor 0 1 false = .take [4] := by decide +kernel

/-- A load that waits. -/
def waiting (w : WaitFor) : State :=
  rig.updHall 0 fun h => { h with wait := some { op := 0x0301, tag := 7, quiet := false, via := .ring, reserve := 1, what := w } }

theorem test_hyps_loads_that_wait :
    ((waiting (.progLoad image0 false [4])).halls.get 0).wait.isSome = true ∧ ((waiting (.progLoad image0 false [4])).halls.get 0).rv = 1 ∧
    ((waiting (.sealed 0 [1] 16)).halls.get 0).wait.isSome = true := by decide +kernel

theorem test_hyps_page_alloc :
    Finds opPageAlloc 0 [3, 0, 0, 0] ∧ f8 [3, 0, 0, 0] 2 < 2 ∧ zero [3, 0, 0, 0] 3 1 = true ∧ f16 [3, 0, 0, 0] 0 ≠ 0 ∧ f16 [3, 0, 0, 0] 0 ≤ 4096 ∧
    1 + pageExt [4, 5, 6] ≤ ((taken opPageAlloc 0 [3, 0, 0, 0]).halls.get 0).ring.len := by decide +kernel
theorem test_hyps_page_alloc_pages : (taken opPageAlloc 0 [3, 0, 0, 0]).pagesFor 0 3 false = .take [4, 5, 6] := by decide +kernel

def freePay : List Byte := [2, 0, 0, 0, 1, 0, 2, 0]
theorem test_hyps_page_free :
    Finds opPageFree 0 freePay ∧ zero freePay 2 2 = true ∧ ((pagesOfPay freePay).all fun p => decide (p < 4096)) = true ∧
    noDup (pagesOfPay freePay) = true ∧ ((pagesOfPay freePay).all fun p => ((taken opPageFree 0 freePay).freeFault 0 p).isNone) = true := by decide +kernel

/-- Four bytes to the last of page 1 and the first of page 2. -/
def wavePay : List Byte := [1, 0, 0, 0, 0xFE, 0xFF, 0, 0, 4, 0, 0, 0, 1, 2, 3, 4]
theorem test_hyps_wave_write :
    Finds opWaveWrite 0 wavePay ∧ zero wavePay 2 2 = true ∧ f16 wavePay 0 ≤ 4095 ∧ f32 wavePay 4 ≤ 65535 ∧ wavePay.drop 12 ≠ [] ∧
    f16 wavePay 0 * 65536 + f32 wavePay 4 + (wavePay.drop 12).length ≤ 4096 * 65536 ∧
    ((runOf (f16 wavePay 0) ((f32 wavePay 4 + (wavePay.drop 12).length + 65535) / 65536)).all fun p =>
      ((taken opWaveWrite 0 wavePay).pageFault 0 p).isNone) = true := by decide +kernel

/-- A BULK of two bytes waits. -/
def bulkJob : BulkJob := { port := 0, buf := 1, tag := 9, addr := 65536, len := 2, after := 0 }
def bulked : State := rig.updHall 0 fun h => { h with bulks := [bulkJob] }
theorem test_hyps_bulk :
    bulked.nextCmd 0 = .bulk bulkJob ∧ bulked.cp0Runs = true ∧ bulked.room 0 1 = true ∧ bulked.turn 0 = true ∧ bulked.hallFenced 0 = false ∧
    bulked.sramRead (stageBase 0 1) 2 ≠ [] ∧ bulkJob.addr / 65536 ≤ 4095 ∧
    ((runOf 1 ((0 + 2 + 65535) / 65536)).all fun p => (bulked.pageFault 0 p).isNone) = true := by decide +kernel

/-- A package header for 16 bytes of payload, staged in page 0, to be opened into page 1. -/
def sealedPay : List Byte := [0, 0, 1, 0, 1, 0, 1, 0, 0, 0, 0, 0]
def sealedRig : State :=
  { rig with mem := { rig.mem with data := cells 0 [0x54, 0x42, 0x53, 0x50, 1, 0, 0, 0, 0, 0, 0, 0, 0, 0, 0, 0, 16, 0, 0, 0] } }
def sealedTaken : State := (posted sealedRig 0 0x0404 0 sealedPay).takeEntries 0 1
def sealedAfter : State := sealedTaken.memDo (sealedTaken.mem.readCws (runCws 0 (0x60 + 16)))
theorem test_hyps_wave_load_sealed :
    (posted sealedRig 0 0x0404 0 sealedPay).Takes opWaveLoadSealed 0 (cmdOf 0x0404 0 sealedPay) 1 ∧ zero sealedPay 8 4 = true ∧
    f16 sealedPay 0 + f16 sealedPay 2 ≤ 4096 ∧ f16 sealedPay 4 + f16 sealedPay 6 ≤ 4096 ∧ f16 sealedPay 2 ≠ 0 ∧ f16 sealedPay 6 ≠ 0 ∧
    f16 sealedPay 0 ≤ 4095 ∧ f16 sealedPay 4 ≤ 4095 ∧ leNat (sealedTaken.mem.rdList 0x10 4) = 16 ∧
    0x60 + 16 ≤ f16 sealedPay 2 * 65536 ∧ 16 ≤ f16 sealedPay 6 * 65536 := by decide +kernel
theorem test_hyps_wave_load_sealed_pages :
    ((runOf 0 1 ++ runOf 1 1).all fun p => (sealedTaken.mem.page p).hall == 0 && (sealedTaken.mem.page p).state == .owned) = true ∧
    ((runCws 0 (0x60 + 16)).all fun w => !sealedAfter.mem.flagged w) = true ∧
    sealedBad (fun o k => sealedTaken.mem.rdList o k) = false ∧ leNat (sealedTaken.mem.rdList 4 2) = 1 ∧
    ((runOf 1 1).all fun p => (sealedAfter.pageFault 0 p).isNone && !sealedAfter.referenced 0 p) = true := by decide +kernel

/-! ### Events -/

def startPay : List Byte := le 8 1100000 ++ [5, 0, 0, 0, 0xFF, 0xFF, 1, 0] ++ List.replicate 32 0
def relPay : List Byte := le 8 1100000 ++ [5, 0, 0, 0, 0, 0, 1, 0]
def killPay : List Byte := le 8 1100000 ++ [5, 0, 0, 0]
def paramPay : List Byte := le 8 1100000 ++ [0xFF, 0xFF, 0, 0, 0, 0, 0, 0, 0, 0, 0, 1]
def rampPay : List Byte := le 8 1100000 ++ [5, 0, 0xFF, 0xFF, 63, 0, 0, 0, 0, 0, 0, 1] ++ le 8 (2 ^ 40 - 1)
def ctrlPay : List Byte := le 8 0 ++ [0x80, 0, 0, 0] ++ le 4 15000 ++ le 8 0

theorem test_hyps_voice_events :
    Finds opVoiceStart 0 startPay ∧ firstFail ((taken opVoiceStart 0 startPay).startChecks 0 startPay) = none ∧
    (taken opVoiceStart 0 startPay).timeOk (f64 startPay 0) = true ∧ (taken opVoiceStart 0 startPay).timeOk (dev.time.et + 2 ^ 41) = true ∧
    Finds opVoiceRelease 0 relPay ∧ zero relPay 10 2 = true ∧ Finds opVoiceKill 0 killPay ∧ zero killPay 10 2 = true ∧
    Finds opParamSet 0 paramPay ∧ firstFail ((taken opParamSet 0 paramPay).paramChecks 0 paramPay false) = none ∧
    Finds opParamRamp 0 rampPay ∧ firstFail ((taken opParamRamp 0 rampPay).paramChecks 0 rampPay true) = none := by decide +kernel
theorem test_hyps_hall_ctrl :
    Finds opHallCtrl 1 ctrlPay ∧ ctrlOk ctrlPay = true ∧ (cmdOf opHallCtrl.op 1 ctrlPay).immediate = true ∧
    (taken opHallCtrl 1 ctrlPay).timeOk ((taken opHallCtrl 1 ctrlPay).time.et + (taken opHallCtrl 1 ctrlPay).lead) = true := by decide +kernel

/-- Just in time, and one unit late. -/
theorem test_hyps_arrival :
    dev.time.et + dev.lead ≤ dev.time.et + dev.lead ∧ dev.openAt ≤ dev.time.et + dev.lead ∧
    dev.time.et + dev.lead - 1 < dev.time.et + dev.lead ∧ dev.openAt - 1 < dev.openAt := by decide +kernel

/-! ### Buses and outputs -/

def busPay (op a b c d : Byte) : List Byte := le 8 1100000 ++ [op, a, b, c, d, 0, 0, 0] ++ le 4 0x3FFFFF ++ List.replicate 12 0

theorem test_hyps_bus_routes :
    Finds (opBus cmdInRoute) 0 (busPay 0 0xFF 1 15 63) ∧ busZero (busPay 0 0xFF 1 15 63) = true ∧
    isS24 (s32 (busPay 0 0xFF 1 15 63) 16) = true ∧ (taken (opBus cmdInRoute) 0 (busPay 0 0xFF 1 15 63)).inMask 0 63 = true ∧
    (taken (opBus cmdInRoute) 0 (busPay 0 0xFF 1 15 63)).routeFor 0xFF = some 0 ∧ dev.routeOwner 0 = none ∧
    (taken (opBus cmdInRoute) 0 (busPay 0 31 1 15 63)).routeFor 31 = some 31 ∧
    Finds (opBus cmdInFree) 0 (busPay 1 31 0 0 0) ∧ (taken (opBus cmdInFree) 0 (busPay 1 31 0 0 0)).routeOwner 31 = none ∧
    Finds (opBus cmdTdmDest) 0 (busPay 2 63 1 0 63) := by decide +kernel
theorem test_hyps_bus_destinations :
    Finds (opBus cmdDacDest) 0 (busPay 3 15 1 2 63) ∧ rig.nv.a16 = true ∧ busZero (busPay 3 15 1 2 63) = true ∧
    Finds (opBus cmdSync) 0 (busPay 4 0 0 0 0) ∧
    BitVec.ofNat 64 (f64 (busPay 4 0 0 0 0) 24) &&& ~~~ (Stepped.now 0 ((taken (opBus cmdSync) 0 (busPay 4 0 0 0 0)).halls.get 0).mask) = 0 ∧
    busZero (busPay 4 0 0 0 0) = true ∧ rig.timeOk (f64 (busPay 4 0 0 0 0) 0) = true := by decide +kernel

def eqPay : List Byte := [63, 1, 0, 0] ++ List.replicate 80 0
def swapPay : List Byte := le 8 1100000 ++ [63, 0, 0, 0x10]
def delayPay : List Byte := le 8 1100000 ++ [63, 63, 0xFF, 0x0F]
def detPay : List Byte := [63, 7, 3, 1] ++ le 4 0xFFFFFF ++ le 4 1 ++ le 4 0 ++ le 4 5

theorem test_hyps_output_commands :
    Finds opEqLoad 0 eqPay ∧ zero eqPay 2 2 = true ∧ (eqVals eqPay).all isS24 = true ∧ (taken opEqLoad 0 eqPay).inMask 0 63 = true ∧
    Finds opEqSwap 0 swapPay ∧ zero swapPay 9 1 = true ∧ f16 swapPay 10 ≤ 4096 ∧ (taken opEqSwap 0 swapPay).timeOk (f64 swapPay 0) = true ∧
    (taken opEqSwap 0 swapPay).inMask 0 (f8 swapPay 8) = true := by decide +kernel
theorem test_hyps_delay_and_detectors :
    Finds opDelaySet 0 delayPay ∧ f8 delayPay 8 < 64 ∧ f16 delayPay 10 ≤ 4095 ∧ f8 delayPay 9 ≤ 63 ∧
    (taken opDelaySet 0 delayPay).timeOk (f64 delayPay 0) = true ∧ (taken opDelaySet 0 delayPay).inMask 0 63 = true ∧
    Finds opDetectorCfg 0 detPay ∧ ([4, 8, 12, 16].all fun o => decide (f32 detPay o < 2 ^ 24)) = true ∧
    (taken opDetectorCfg 0 detPay).inMask 0 63 = true := by decide +kernel

/-! ### SPEC's commands -/

/-- Channel 2 and analyser 1 are hall 0's. -/
def specRig : State :=
  { rig with spec := { rig.spec with ch := rig.spec.ch.upd 2 fun c => { c with owner := some 0 },
                                     an := rig.spec.an.upd 1 fun a => { a with cfg := 0x80000000#32 } } }
def atS (o : Opcode) (pay : List Byte) : State := posted specRig 0 o.op 0 pay
def takenS (o : Opcode) (pay : List Byte) : State := (atS o pay).takeEntries 0 (entriesOf pay)
def convPay : List Byte := [7, 0, 0xF0, 0, 0, 0, 0, 0] ++ le 4 100
def convRead : State := (takenS opConvLoad convPay).memDo ((takenS opConvLoad convPay).mem.readCws (runCws 0 (tapBytes 0 * 100)))
def routePay (fl : Byte) : List Byte := [2, fl, 1, 63, 63, 63] ++ List.replicate 18 0
def resynPay (fl : Byte) : List Byte := [1, fl, 1, 63, 3, 8, 16, 0] ++ le 4 (2 ^ 23 - 1) ++ le 4 0

theorem test_hyps_conv_load :
    (atS opConvLoad convPay).Takes opConvLoad 0 (cmdOf opConvLoad.op 0 convPay) 1 ∧ rig.spec.halted = false ∧
    (atS opConvLoad convPay).fadingCh (cmdOf opConvLoad.op 0 convPay) = false ∧ zero convPay 3 1 = true ∧ zero convPay 6 2 = true ∧
    -16 ≤ signed 8 (f8 convPay 2) ∧ signed 8 (f8 convPay 2) ≤ 16 ∧ f16 convPay 4 + (tapBytes (f8 convPay 1) * f32 convPay 8 + 65535) / 65536 ≤ 4096 ∧
    ((takenS opConvLoad convPay).spec.ch.get 7).owner = none ∧
    (spanOf 0 (tapBytes 0 * 100)).all ((takenS opConvLoad convPay).mayRead 0) = true ∧
    ((runCws 0 (tapBytes 0 * 100)).any fun w => convRead.mem.flagged w) = false ∧ convRead.convFits 7 (buildOf convPay) = true := by decide +kernel
theorem test_hyps_conv_load_pages : convRead.pagesFor 0 (convPages (buildOf convPay).parts) false = .take [4] := by decide +kernel

theorem test_hyps_conv_route :
    (atS opConvRoute (routePay 7)).Takes opConvRoute 0 (cmdOf opConvRoute.op 0 (routePay 7)) 1 ∧
    (atS opConvRoute (routePay 6)).Takes opConvRoute 0 (cmdOf opConvRoute.op 0 (routePay 6)) 1 ∧
    ((takenS opConvRoute (routePay 7)).spec.ch.get 2).owner = some (0 : Fin 8).val ∧ ((takenS opConvRoute (routePay 7)).spec.ch.get 2).leaving = false ∧
    f8 (routePay 7) 1 % 2 = 1 ∧ f8 (routePay 6) 1 % 2 = 0 ∧ convRouteOk (routePay 6) = true ∧
    (takenS opConvRoute (routePay 6)).inMask 0 63 = true := by decide +kernel
theorem test_hyps_resyn_cfg :
    (atS opResynCfg (resynPay 0)).Takes opResynCfg 0 (cmdOf opResynCfg.op 0 (resynPay 0)) 1 ∧ resynOk (resynPay 0) = true ∧
    anOwner ((takenS opResynCfg (resynPay 0)).spec.an.get 1) = some (0 : Fin 8).val ∧
    (atS opResynCfg (resynPay 1)).Takes opResynCfg 0 (cmdOf opResynCfg.op 0 (resynPay 1)) 1 ∧
    (takenS opResynCfg (resynPay 1)).anMine 0 (resynPay 1) = true ∧ (takenS opResynCfg (resynPay 1)).anFits 1 0 (resynPay 1) = true ∧
    (takenS opResynCfg (resynPay 1)).pwr.on pdSpec = true ∧
    (posted { specRig with pwr := State.reset.pwr } 0 opResynCfg.op 0 (resynPay 1)).Takes opResynCfg 0 (cmdOf opResynCfg.op 0 (resynPay 1)) 1 ∧
    State.reset.pwr.on pdSpec = false := by decide +kernel

/-! ### Status, update, power, serial commands -/

def mapPay : List Byte := [7, 7, 1, 0, 0x03, 0x05, 0, 0] ++ le 8 (2 ^ 41 - 1) ++ [5, 0, 0, 0]
theorem test_hyps_trigger_map :
    Finds opTriggerMap 0 mapPay ∧ f8 mapPay 0 < 8 ∧ f8 mapPay 1 < 8 ∧ (templateLen (f16 mapPay 4)).isSome = true ∧ zero mapPay 6 2 = true ∧
    f64 mapPay 8 < 2 ^ 41 ∧ ((taken opTriggerMap 0 mapPay).time.trg.get 7).map = none := by decide +kernel
theorem test_hyps_status_commands :
    Finds opFenceStatus 0 [0, 0, 0, 0] ∧ Finds opFenceLift 0 [1, 1, 5, 0] ∧ rig.fence.busy = none ∧
    ((taken opFenceLift 0 [1, 1, 5, 0]).liftUnit 1 5).fence.busy = none ∧
    ({ taken opFenceLift 0 [1, 1, 5, 0] with fence := rig.fence.add 1 0 5 0 }.liftUnit 1 5).fence.busy.isSome = true ∧
    Finds opLogRead 0 [0, 0, 0, 0, 17, 1, 0, 0] ∧ 17 ≤ (taken opLogRead 0 [0, 0, 0, 0, 17, 1, 0, 0]).logMax 0 := by decide +kernel

/-- An update of 8 bytes of which 4 are written; or all, of an image that is acceptable. -/
def updating (n : Nat) (slots : Tab FwSlot 2) : State :=
  { rig with nv := { rig.nv with slots := slots }, mgmt := { rig.mgmt with upd := some { len := 8, slot := 1, done := n } } }
def chunkPay : List Byte := le 4 4 ++ [0, 0, 0, 0] ++ le 4 4
theorem test_hyps_update_begin :
    rig.mgmt.flash = none ∧ Finds opUpdBegin 0 (le 4 1 ++ le 4 0) ∧ rig.mgmt.onTrial = false ∧ 1 ≤ fwMax := by decide +kernel
theorem test_hyps_update_chunk :
    (posted (updating 4 rig.nv.slots) 0 opUpdChunk.op 0 chunkPay).Takes opUpdChunk 0 (cmdOf opUpdChunk.op 0 chunkPay) 1 ∧
    (updating 4 rig.nv.slots).updRefuse 4 4 = none ∧ (updating 4 rig.nv.slots).chunkFault 0 (spanOf 0 4) = none := by decide +kernel
theorem test_hyps_update_commit :
    (posted (updating 8 #v[FwSlot.shipped, FwSlot.shipped]) 0 opUpdCommit.op 0 [1, 0, 0, 0]).Takes opUpdCommit 0 (cmdOf opUpdCommit.op 0 [1, 0, 0, 0]) 1 ∧
    ((updating 8 #v[FwSlot.shipped, FwSlot.shipped]).nv.slots.get 1).info.signed = true ∧
    (updating 8 #v[FwSlot.shipped, FwSlot.shipped]).fwFits ((updating 8 #v[FwSlot.shipped, FwSlot.shipped]).nv.slots.get 1).info = true := by decide +kernel
theorem test_hyps_rollback_and_life :
    Finds opUpdRollback 0 [] ∧ (updating 8 #v[FwSlot.shipped, FwSlot.shipped]).acceptable (otherSlot 0) = true ∧
    (posted (updating 8 #v[FwSlot.shipped, FwSlot.shipped]) 0 opUpdRollback.op 0 []).Takes opUpdRollback 0 (cmdOf opUpdRollback.op 0 []) 1 ∧
    Finds opLifecycle 0 [2, 3, 0, 0] ∧ LifeCycle.ofCode 3 = some .service ∧ lifeAllowed false rig.nv.life .service = true ∧
    2 = rig.nv.life.code := by decide +kernel

theorem test_hyps_power_commands :
    Finds opPowerPolicy 0 [7, 0xFF, 0, 0, 0, 0, 0, 0] ∧ zero [7, 0xFF, 0, 0, 0, 0, 0, 0] 2 6 = true ∧ rig.nv.calValid = true ∧
    Finds opGalleryPark 0 [7, 0, 0, 0] ∧ ((taken opGalleryPark 0 [7, 0, 0, 0]).gal.get 7).parked = false ∧
    ((taken opGalleryPark 0 [7, 0, 0, 0]).parkGal 7).isSome = true ∧ ((taken opGalleryPark 0 [0, 0, 0, 0]).parkGal 0).isSome = true ∧
    (posted { rig with gal := rig.gal.upd 7 fun x => { x with parked := true } } 0 opGalleryUnpark.op 0 [7, 1, 0, 0]).Takes opGalleryUnpark 0
      (cmdOf opGalleryUnpark.op 0 [7, 1, 0, 0]) 1 := by decide +kernel

def rolePay (r : Byte) : List Byte := [3, r, 0, 0] ++ le 4 0 ++ [0xFF, 0x0F, 0, 0]
/-- SER3 is a DMX port. -/
def dmxRig : State := rig.updSer 3 fun p => { p with cfg := 0x40000000#32 }
def patchPay : List Byte := [3, 0, 1, 0, 0, 0, 0, 0, 0xFF, 1, 2, 31, 0, 0, 0, 0]
def identPay : List Byte := [3, 0, 0, 2, 1, 0, 0, 0, 65, 66] ++ List.replicate 30 0
theorem test_hyps_serial_commands :
    Finds opSerRole 0 (rolePay 2) ∧ roleRateOk 2 0 = true ∧ roleAddrOk 2 4095 = true ∧ (taken opSerRole 0 (rolePay 2)).serHall 3 = none ∧
    rig.pwr.on pdSerial = true ∧
    (posted { rig with pwr := State.reset.pwr } 0 opSerRole.op 0 (rolePay 2)).Takes opSerRole 0 (cmdOf opSerRole.op 0 (rolePay 2)) 1 := by
  decide +kernel
theorem test_hyps_dmx_commands :
    (posted dmxRig 0 opDmxPatch.op 0 patchPay).Takes opDmxPatch 0 (cmdOf opDmxPatch.op 0 patchPay) 1 ∧ patchOk patchPay = true ∧
    (dmxRig.ser.get 3).role = 2 ∧ slotsFit (dmxRig.ser.get 3).dmx.start (patchOf patchPay) = true ∧
    noDup ((patchOf patchPay).map (·.ctl)) = true ∧
    (posted dmxRig 0 opRdmIdent.op 0 identPay).Takes opRdmIdent 0 (cmdOf opRdmIdent.op 0 identPay) 1 ∧ labelOk (identPay.drop 8) = true ∧
    f16 identPay 2 = 512 ∧ f16 patchPay 2 = 1 ∧ patchOk (le 8 3) = true ∧ f16 (le 8 3) 2 = 0 ∧
    (posted dmxRig 0 opDmxPatch.op 0 (le 8 3)).Takes opDmxPatch 0 (cmdOf opDmxPatch.op 0 (le 8 3)) 1 ∧ f16 identPay 2 + f16 identPay 4 ≤ 513 ∧ slotsFit 512 (dmxRig.ser.get 3).dmx.patch = true := by decide +kernel

/-! ### The Mezzanine, OUT, the DAC, TDM -/

/-- Every engine has rendered frame 60; a fade of channel 63 is over, without and with a swap behind it. -/
def faded (q : Option Nat) : State := dev.updOut 63 fun c => { c with fade := some (1000, 888), queued := q }
theorem test_hyps_frames_reach_outputs :
    60 = dev.mez.next ∧ dev.time.running = true ∧ dev.rendered 60 = true ∧ 60 < dev.sched.nextBound ∧ dev.returnsReady 60 = true ∧
    60 < dev.out.next + 3 ∧ 59 = dev.out.next ∧ dev.reaches (dev.start (59 + 3)) = true ∧
    (∀ x ∈ (dev.runTo (dev.start (59 + 3))).mez.landing, x.frame ≠ 59) ∧
    ((faded none).out.ch.get 63).fade = some (1000, 888) ∧ 1000 + 888 ≤ (faded none).out.next * (faded none).fl ∧
    ((faded none).out.ch.get 63).queued = none ∧ ((faded (some 2000)).out.ch.get 63).queued.isSome = true := by decide +kernel

/-- A channel that ramps, one in the middle of a range sequence, one that is muted without a word clock. -/
def ramping (q : Seq) (k : Nat) : DacCh := { DacCh.reset with ctrl := 0x80000000#32, seq := q, k := k }
theorem test_hyps_dac_latch :
    dev.dac.wclkOk = true ∧ dev.reaches (dev.edgeEt dev.dac.edge) = true ∧ dev.hasDac 15 = true ∧
    (∀ q ∈ (dev.dac.ch.get 15).queue, q.1 ≠ 0) ∧ bit (dev.dac.ch.get 15).ctrl 30 = false ∧ (dev.dac.ch.get 15).dests = [] ∧
    (ramping .up 95).k < 96 ∧ 0 < (ramping .down 1).k ∧ (ramping .settle 0).seq = .settle := by decide +kernel

/-- The word clock comes from outside: locked or not, there or not. -/
def slaved (locked wclk : Bool) : State :=
  { dev with out := { dev.out with master := false, locked := locked, wclkOk := wclk }, dac := { dev.dac with wclkOk := wclk } }
/-- WCLK_IN is there before OUT has measured an edge of it; bank TDM has no supply. -/
def unpacedDev : State := { slaved false false with dac := dev.dac }
def deaf (s : State) : State := { s with pins := { s.pins with absent := [.tdm] } }
theorem test_hyps_dac_clocks :
    dev.wclkSeen = true ∧ dev.unpaced = false ∧ unpacedDev.wclkSeen = true ∧ unpacedDev.unpaced = true ∧ unpacedDev.dac.wclkOk = true ∧
    (deaf unpacedDev).out.master = false ∧ (deaf unpacedDev).bankOn .tdm = false ∧ (deaf unpacedDev).wclkSeen = false := by decide +kernel

def unmuted : State := { dev with dac := { dev.dac with mute := false, fwStop := false, thermal := true, ch := dev.dac.ch.put 15 (ramping .idle 96) } }
def clockless : State := { dev with dac := { dev.dac with wclkOk := false, ch := dev.dac.ch.map fun c => { c with hold := true } } }
def quietDev : State := { dev with dac := { dev.dac with fwStop := false, ch := dev.dac.ch.put 15 (ramping .zero 0) } }
theorem test_hyps_mute :
    unmuted.muteCausePresent .thermal = true ∧ unmuted.muteCausePresent .vref = true ∧ unmuted.dac.vrefOk = true ∧ unmuted.dac.mute = false ∧
    unmuted.dac.wclkOk = true ∧ (unmuted.dac.ch.get 15).ranging = false ∧ clockless.muteCausePresent .wclk = true ∧ clockless.dac.wclkOk = false ∧
    clockless.dac.mute = true ∧ (clockless.dac.ch.get 0).hold = true ∧ (dev.dac.ch.get 0).hold = false ∧
    clockless.leadPast (clockless.dac.ch.get 0).heldAt = true ∧ clockless.leadPast 7372800 = false ∧
    dev.dac.cause dev.anaOn = true ∧ quietDev.dac.cause quietDev.anaOn = false ∧ quietDev.dac.mute = true ∧
    (quietDev.dac.ch.get 15).ranging = false ∧ (quietDev.dac.ch.get 15).en = true := by decide +kernel
def quietSlave : State := { quietDev with out := unpacedDev.out }
theorem test_hyps_mute_release :
    quietDev.wclkSeen = true ∧ quietDev.unpaced = false ∧ quietSlave.dac.mute = true ∧ quietSlave.dac.cause quietSlave.anaOn = false ∧
    quietSlave.wclkSeen = true ∧ quietSlave.unpaced = true ∧
    quietDev.reaches (quietDev.edgeEt quietDev.dac.edge) = true ∧ (quietDev.runTo (quietDev.edgeEt quietDev.dac.edge)).dac.mute = true ∧
    (quietDev.runTo (quietDev.edgeEt quietDev.dac.edge)).dac.cause (quietDev.runTo (quietDev.edgeEt quietDev.dac.edge)).anaOn = false := by
  decide +kernel

def settled (m : Bool) (s : Seq) : State := { unmuted with dac := { unmuted.dac with mute := m, ch := dev.dac.ch.put 15 { ramping s 0 with ranging := true } } }
theorem test_hyps_mute_holds :
    ((settled false .lead).dac.ch.get 15).seq = .lead ∧ ((settled false .lead).dac.ch.get 15).lead = 0 ∧ ((settled false .lead).dac.ch.get 15).en = true ∧
    (settled false .lead).dac.mute = false ∧ ((settled true .settle).dac.ch.get 15).seq = .settle ∧ ((settled true .settle).dac.ch.get 15).switch = false ∧
    ((settled true .settle).dac.ch.get 15).left = 0 := by decide +kernel

/-- Enable, range 2 of a 16-channel unit, range 3; the channel disabled and enabled. -/
theorem test_hyps_dac_control :
    dev.pwr.answers pdAna = true ∧ dev.hasDac 15 = true ∧ dev.badRange (bits 0xA0000000#32 29 28) = false ∧ dev.badRange (bits 0xB0000000#32 29 28) = true ∧
    (dev.dac.ch.get 15).ranging = false ∧ bits 0x80000000#32 29 28 = (dev.dac.ch.get 15).target ∧ (dev.dac.ch.get 15).en = false ∧
    bit 0x80000000#32 31 = true ∧ (unmuted.dac.ch.get 15).en = true ∧ bit 0x00000000#32 31 = false ∧
    bits 0xA0000000#32 29 28 ≠ (unmuted.dac.ch.get 15).target ∧ bits 0xA0000000#32 29 28 ≠ (unmuted.dac.ch.get 15).stage ∧
    unmuted.dac.mute = false ∧ Initiator.cp0 ≠ .window ∧ bits 0x80000000#32 23 23 = bits (unmuted.dac.ch.get 15).ctrl 23 23 ∧
    bits 0x80000000#32 21 16 = bits (unmuted.dac.ch.get 15).ctrl 21 16 ∧ bits 0x80810000#32 23 23 ≠ bits (unmuted.dac.ch.get 15).ctrl 23 23 ∧
    bits 0x80010000#32 21 16 ≠ bits (unmuted.dac.ch.get 15).ctrl 21 16 ∧ (unmuted.dac.ch.get 15).dests = [] ∧
    (({ unmuted.dac.ch.get 15 with
        dests := [{ time := 5, sel := 3, selEn := true, range := some 0, en := some true }] } : DacCh).selWrite 1 2 0#32).dests.length = 2 ∧
    dev.anaPowered = true ∧ State.reset.anaPowered = false := by decide +kernel

theorem test_hyps_tdm :
    dev.tdm.running = true ∧ dev.wclkSeen = true ∧ (deaf dev).wclkSeen = true ∧ dev.reaches (dev.edgeEt dev.tdm.edge) = true ∧
    (dev.runTo (dev.edgeEt dev.tdm.edge)).mgmt.stopped = false ∧
    (∀ x ∈ (dev.runTo (dev.edgeEt dev.tdm.edge)).tdm.lanes.get 3, x.1 ≠ (dev.runTo (dev.edgeEt dev.tdm.edge)).tdm.edge) ∧
    0 ≤ (dev.runTo (dev.edgeEt dev.tdm.edge)).tdm.edge ∧
    lanesWf [List.replicate 16 0x7FFFFF00#32, List.replicate 16 0x800000FF#32] = true ∧ dev.reaches (dev.edgeEt (dev.tdm.inEdge + 1)) = true := by
  decide +kernel
/-- Lane 2 holds the frame of edge 20; the firmware has been declared stopped; the TDM bank has no supply. -/
def lane2 (stopped : Bool) : State :=
  { dev with tdm := { dev.tdm with lanes := dev.tdm.lanes.put 2 [(20, List.replicate 16 8388607)] }, mgmt := { dev.mgmt with stopped := stopped } }
theorem test_hyps_tdm_frames :
    (((lane2 false).runTo (dev.edgeEt 20)).tdm.lanes.get 2).find? (fun y => y.1 == ((lane2 false).runTo (dev.edgeEt 20)).tdm.edge) =
      some (20, List.replicate 16 8388607) ∧ ((lane2 false).runTo (dev.edgeEt 20)).mgmt.stopped = false ∧
    ((lane2 true).runTo (dev.edgeEt 20)).mgmt.stopped = true ∧
    (deaf (slaved true true)).bankOn .tdm = false ∧ (slaved true true).out.master = false ∧ (slaved true true).wclkSeen = true ∧
    ((-8388608 : Int) ≤ -8388608 ∧ (8388607 : Int) ≤ 8388607) := by decide +kernel
/-- A sample keeps its 24 bits in a slot word (R298). -/
theorem test_slot_words : slotWord (-8388608) = 0x80000000#32 ∧ slotSample 0x7FFFFFAB#32 = 8388607 := by decide +kernel
theorem test_hyps_word_clock :
    dev.time.running = true ∧ (slaved true true).out.master = false ∧ (slaved true true).out.locked = true ∧ (slaved true true).out.wclkOk = true ∧
    (slaved false true).out.locked = false ∧ (slaved false true).out.track = false ∧ (slaved false true).phiOk 1023 = true ∧
    (slaved false false).out.wclkOk = false ∧ (slaved false false).bankOn .tdm = true ∧ (slaved false false).phiOk 0 = true ∧ (slaved true true).bankOn .tdm = true ∧
    { (slaved false false).time with running := false }.running = false ∧ dev.pwr.on pdCtrl = true ∧ unpacedDev.dac.wclkOk = true ∧
    ({ (slaved false true) with out := { (slaved false true).out with phi := 1023 } } : State).firstGrid =
      ({ (slaved false true) with out := { (slaved false true).out with phi := 1023 } } : State).firstGrid ∧
    ({ (slaved false false).out with track := true }).track = true := by decide +kernel

/-! ### SPEC and wave memory -/

/-- Analyser 1 runs with a result to be written; channel 7 has built an impulse and channel 2 is in use. -/
def working : State :=
  { specRig with
    spec := { specRig.spec with
      next := 7
      an := specRig.spec.an.upd 1 fun a => { a with next := 6, out := [(5, [(0, 0)])] }
      ch := specRig.spec.ch.upd 7 fun c => { c with owner := some 0, build := some { taps := 256, gain := 0, fmt := 0, staged := [0], pages := [4] } } } }
theorem test_hyps_spec :
    working.pwr.on pdSpec = true ∧ Upsets.wf [] = true ∧ working.time.running = true ∧ working.spec.halted = false ∧ 7 = working.spec.next ∧
    256 * (6 + 1) ≤ working.mez.next * working.fl ∧ (working.spec.ch.get 2).owner.isSome = true ∧ 6 = (working.spec.an.get 1).next ∧
    bit (working.spec.an.get 1).cfg 31 = true ∧ WmUnit.an 1 ∉ working.spec.struck ∧ (working.spec.an.get 1).out = (5, [(0, 0)]) :: [] ∧
    (working.spec.ch.get 7).build.isSome = true ∧ (working.spec.ch.get 7).owner = some 0 ∧ (working.spec.ch.get 7).leaving = false ∧
    working.wmHall (.ch 2) = some 0 ∧ working.wmHall (.an 1) = some 0 ∧ working.pwr.answers pdSpec = true ∧ bit 1#32 0 = true ∧ bit 0#32 0 = false ∧
    ({ working with spec := { working.spec with halted := true } } : State).spec.halted = true ∧
    256 * (6 + 1) ≤ ({ working with spec := { working.spec with next := 6 } } : State).mez.next * working.fl := by decide +kernel

/-- Channel 7's build ends while channel 2 works; a switch due at block 6, one due at block 7. -/
def beside : State := { working with spec := { working.spec with ch := working.spec.ch.upd 2 fun c => { c with p := 1, pages := [5] } } }
def builtBy : Build := { taps := 256, gain := 0, fmt := 0, staged := [0], pages := [4] }
def swapping (b : Nat) : State :=
  { working with spec := { working.spec with next := 6, ch := working.spec.ch.upd 7 fun c => { c with build := none, swap := some (b, builtBy) } } }
theorem test_hyps_spec_switch :
    working.switchBlock = 8 ∧ working.reaches (8 * 131072) = true ∧ (working.spec.ch.get 7).swap = none ∧
    (working.runTo (8 * 131072)).spec.first = true ∧ (beside.runTo (8 * 131072)).spec.first = false ∧ beside.switchBlock = 8 ∧
    (beside.spec.ch.get 7).swap = none ∧ beside.reaches (8 * 131072) = true ∧
    (swapping 6).time.running = true ∧ (swapping 6).spec.halted = false ∧ 256 * (6 + 1) ≤ (swapping 6).mez.next * (swapping 6).fl ∧
    ((swapping 6).spec.ch.get 7).owner.isSome = true ∧ ((swapping 7).spec.ch.get 7).swap = some (7, builtBy) := by decide +kernel
/-- Gallery 3 is parked: its request is none. -/
def parked3 : State := rig.updDom (pdGal 3) fun d => { d with st := .off }
theorem test_hyps_arbiter_requests :
    parked3.mem.ready = true ∧ ([3, 8, 9] : List (Fin 12)).filter parked3.asks = [8, 9] := by decide +kernel

theorem test_hyps_arbiters :
    dev.mem.ready = true ∧ (dev.mem.ch.get 3).slot < 64 ∧ dev.pwr.answers pdMem = true ∧ bit 0x80000000#32 31 = true ∧ bit 0x7FFFFFFF#32 31 = false ∧
    slotReq (dev.mem.ch.get 3).act 0 = none ∧
    slotReq (Vector.replicate 8 0x33333333#32) 63 = some 3 := by decide +kernel

/-- Channel 1: a patrol read due, a correction to be rewritten, a page under its wipe or scrub. -/
def patrolled (jobs : List (Nat × Bool)) : State :=
  { rig with mem := rig.mem.updCh 1 fun c => { c with due := some 1000000, wb := some 1024, jobs := jobs } }
theorem test_hyps_scrubbers :
    ((patrolled []).mem.ch.get 1).due = some 1000000 ∧ (patrolled []).reaches 1000000 = true ∧ (((patrolled []).runTo 1000000).mem.ch.get 1).jobs = [] ∧
    (((patrolled []).runTo 1000000).mem.ch.get 1).scrubNext < 1048576 ∧
    (((patrolled [(1, true)]).runTo 1000000).mem.ch.get 1).jobs ≠ [] ∧ ((patrolled []).mem.ch.get 1).wb = some 1024 ∧
    (patrolled []).mem.isPoison 1024 = false ∧ (patrolled []).mem.decode 1024 ≠ .uncorrectable ∧ (patrolled []).mem.wf = true ∧
    ((patrolled [(1, false)]).mem.ch.get 1).jobs = (1, false) :: [] ∧ (patrolled [(1, true)]).mem.late.contains 1 = false := by decide +kernel
/-- A wipe of page 1 that waits for the last frames of a closed hall, 3; and the same once they are over. -/
def closing (n : Nat) : State :=
  { patrolled [(1, true)] with
    mem := { (patrolled [(1, true)]).mem with late := [1] }
    voices := List.replicate n (voiceOf 0 { hall := 3, time := 0, req := 0, late := false, src := 0, seq := 0, tag := 0, kind := .tempo 1 }
      { key := 5, handle := 0, prio := none, notify := false, attrs := [] } { idx := 0, gen := 0, prog := prog0, pages := [], draining := false } 0 0 0) }
theorem test_hyps_late_wipes :
    ((closing 1).mem.ch.get 1).jobs = (1, true) :: [] ∧ (closing 1).mem.late.contains 1 = true ∧ (closing 1).lastFrames = true ∧
    (closing 0).mem.late.contains 1 = true ∧ (closing 0).lastFrames = false := by decide +kernel

/-! ### Host ports -/

/-- Hall 0 is attached to port A; one command is posted; completions 0 to 2 wait. -/
def att : State :=
  { rig with halls := rig.halls.upd 0 fun h => { h with
      ring := { h.ring with cmdTail := 1#16, cplTail := 3#16, posted := [5, 6, 7] } } }
def attV : State := att.validTxn 0
theorem test_hyps_port_read :
    att.portOn 0 = true ∧ (att.port 0).rdy = true ∧ (att.port 0).st = .uhp3 ∧ (att.port 0).version = 0x0302 ∧ attV.attached 0 = some 0 ∧
    areaOf 0 0x20000000 1 = some .cmd ∧ areaOf 0 0x20000000 4096 = some .cmd ∧ areaOf 0 0x20010000 32 = some .index ∧
    areaOf 0 0x20001FFF 1 = some .cpl ∧ attV.foyer.sup = some 0 := by decide +kernel
theorem test_hyps_port_write :
    (attV.halls.get 0).ring.touchesPosted 64 4032 = false ∧ (attV.halls.get 0).ring.touchesPosted 63 1 = true ∧
    areaOf 0 0x2000003F 1 = some .cmd ∧ (0x2000003F - 0x20000000 - cmdBase 0 = 63) ∧ attV.attached 0 = some 0 ∧
    0x38 ≤ (0x38#8).toNat ∧ (0x3D#8).toNat ≤ 0x3D ∧
    areaOf 0 0x20000040 4032 = some .cmd ∧ (attV.port 0).freeBuf = some 0 ∧ payloadWf [1, 2, 3, 4] = true ∧
    payloadWf (List.replicate 256 0) = true ∧ att.foyer.sram.wf = true := by decide +kernel
def port0 (f : Port → Port) : State := att.updPort 0 f
def helloPay (a b : Nat) : List Byte := le 2 a ++ le 2 b ++ [4, 0, 0, 0] ++ le 8 0x1122334455667788
theorem test_hyps_hello :
    ((port0 fun q => { q with st := .fenced }).port 0).rdy = true ∧ (port0 fun q => { q with st := .fenced }).portOn 0 = true ∧
    (helloPay 0x0300 0x0300).length = 16 ∧ f16 (helloPay 0x0300 0x0300) 2 = 0x0300 ∧ f16 (helloPay 0 0xFFFF) 2 = 0xFFFF ∧
    f16 (helloPay 0x0303 0xFFFF) 0 = 0x0303 ∧ f16 (helloPay 0 0x02FF) 2 = 0x02FF ∧
    f16 (helloPay 0x0302 0x0301) 2 < f16 (helloPay 0x0302 0x0301) 0 := by decide +kernel
theorem test_hyps_command_tails :
    (64#16 - (att.halls.get 0).ring.cmdTail).toNat + ((att.halls.get 0).ring.cmdTail - (att.halls.get 0).ring.cmdHead).toNat ≤
      (att.halls.get 0).ring.len ∧
    (att.halls.get 0).ring.len < (65#16 - (att.halls.get 0).ring.cmdTail).toNat +
      ((att.halls.get 0).ring.cmdTail - (att.halls.get 0).ring.cmdHead).toNat ∧
    (att.halls.get 0).ring.len < (0#16 - (att.halls.get 0).ring.cmdTail).toNat +
      ((att.halls.get 0).ring.cmdTail - (att.halls.get 0).ring.cmdHead).toNat ∧
    att.pwr.answers pdCtrl = true ∧ (att.halls.get 0).alive = true ∧ Initiator.cp0 ≠ .window ∧
    (7 : Fin 8) ≠ 0 ∧ att.reach .window 0x2000E000 = .ok .sram 0xE000 ∧ att.inOtherHall 0xE000 = true ∧
    att.inOtherHall 0x1FFF = false := by decide +kernel
theorem test_hyps_completion_heads :
    (3#16 - (attV.halls.get 0).ring.cplHead).toNat ≤ ((attV.halls.get 0).ring.cplTail - (attV.halls.get 0).ring.cplHead).toNat ∧
    (0#16 - (attV.halls.get 0).ring.cplHead).toNat ≤ ((attV.halls.get 0).ring.cplTail - (attV.halls.get 0).ring.cplHead).toNat ∧
    ((attV.halls.get 0).ring.cplTail - (attV.halls.get 0).ring.cplHead).toNat < (4#16 - (attV.halls.get 0).ring.cplHead).toNat := by
  decide +kernel
theorem test_hyps_port_noise :
    (att.port 0).crcRun + 1 < 16 ∧ 16 ≤ ((port0 fun q => { q with crcRun := 15 }).port 0).crcRun + 1 ∧
    ((port0 fun q => { q with rdy := false }).port 0).rdy = false ∧ ((port0 fun q => { q with st := .opened }).port 0).st = .opened := by
  decide +kernel
theorem test_hyps_port_lift_and_interrupt :
    att.pwr.answers pdFoyer = true ∧ bit 1#32 0 = true ∧ bit 1#32 1 = false ∧ bit 2#32 1 = true ∧
    (att.halls.get 0).port? = some 0 ∧ att.attached 0 = some 0 ∧ (att.irqTime (att.halls.get 0).ring).isSome = true ∧
    att.time.counting = true ∧ att.time.refclk = true ∧ att.time.armed = false := by decide +kernel
def uhp2Rig : State := port0 fun q => { q with st := .opened }
theorem test_hyps_mailbox :
    uhp2Rig.portOn 0 = true ∧ (uhp2Rig.port 0).rdy = true ∧ (uhp2Rig.port 0).mbxBusy = false ∧ uhp2Rig.cp0Runs = true ∧
    mbxOpcode ((uhp2Rig.port 0).mbxArg.get 0).toNat = none ∧
    { uhp2Rig with mgmt := { uhp2Rig.mgmt with stopped := true } }.cp0Runs = false ∧ (0xFFFF#16).toNat + 1 ≤ 0x10000 ∧
    0x10000 < (0xFFFF#16).toNat + 2 := by decide +kernel
/-- Port B is bound to no hall: INFO, PING and another code; port A's hall finds a code outside the table. -/
def loneRig (code : BitVec 16) : State := att.updPort 1 fun q => { q with st := .opened, mbxArg := q.mbxArg.put 0 code }
theorem test_hyps_lone_mailbox :
    (loneRig 1).portOn 1 = true ∧ ((loneRig 1).port 1).rdy = true ∧ ((loneRig 1).port 1).mbxBusy = false ∧ (loneRig 1).cp0Runs = true ∧
    (((loneRig 1).validTxn 1).updPort 1 fun q => { q with st := .uhp2 }).attached 1 = none ∧ (((loneRig 1).port 1).mbxArg.get 0).toNat = 0x01 ∧
    (((loneRig 10).port 1).mbxArg.get 0).toNat = 0x0A ∧ (((loneRig 7).port 1).mbxArg.get 0).toNat = 7 ∧
    ((uhp2Rig.validTxn 0).updPort 0 fun q => { q with st := .uhp2 }).attached 0 = some 0 := by decide +kernel
/-- HELLO with all three versions in common chooses the highest; four data lines are granted. -/
theorem test_hello_chooses_the_highest :
    chooseVersion 0x0300 0x0310 = some 0x0302 ∧ grantWidth 0x0302 4 = 4 ∧ chooseVersion 0x0303 0x0310 = none := by decide +kernel
/-- An accepted CPL_ACK frees the entries before it, and a doorbell beyond the ring is refused and counted. -/
theorem test_indices :
    (match exec (.cplAck 0 1 0 [2, 0] .none) att, exec (.doorbell 0 1 0 [65, 0] .none) att with
      | .next t, .next u => decide ((t.halls.get 0).ring.cplHead = 2#16 ∧ (u.halls.get 0).ring.refused = 1 ∧ (u.port 0).lastRes = 8)
      | _, _ => false) = true := by decide +kernel

/-! ### Serial show ports -/

/-- A start bit, data bits, and the stop bit as far as its sample at phase 8: sixteen samples a bit, each as the bit is. -/
def samplesOf (bs : List Bool) (stop : Bool) : List Bool := (false :: bs).flatMap (List.replicate 16) ++ List.replicate 9 stop
def bitsOf (b : Byte) : List Bool := (List.range 8).map fun k => b.getLsbD k
def charIn (b : Byte) : SerChar := { samples := samplesOf (bitsOf b) true, edges := [], half := true }
/-- A character whose samples are all low. -/
def allLow : SerChar := { samples := samplesOf (bitsOf 0) false, edges := [], half := false }
/-- 0x55 at 31,250 baud: an edge at every bit, in periods of 8 × REFCLK. -/
def char55 : SerChar := { samples := [], edges := (List.range 9).map fun k => (k + 1) * 6291, half := false }
/-- SER1 has a role and hunts, at 31,250 baud. -/
def serRig (role : Nat) (f : Ser → Ser) : State :=
  rig.updSer 1 fun p => f { p with cfg := word (role * 2 ^ 29), rx := .hunting, locked := true, baud := 0x0000C49C#32 }
def serOf (role : Nat) (f : Ser → Ser) : Ser := (serRig role f).ser.get 1
def fullHold : RxChar := { data := 7, fe := false, pe := false, ovr := false, brk := false, idle := false, ts := 9 }
/-- What SER1's receiver makes of a character. -/
def heard (p : Ser) (ch : SerChar) : RxChar :=
  p.charOf ((serRig 1 id).stamp ch.half) ((serRig 1 id).line64 ch.half) (sampled p.dataLen ch.samples) .stopHigh
theorem test_hyps_characters :
    (serRig 1 id).serOn = true ∧ (serOf 1 id).takes = true ∧ (sampled (serOf 1 id).dataLen (charIn 0x90).samples).fin = some .stopHigh ∧
    (serOf 1 id).flow (heard (serOf 1 id) (charIn 0x90)) = none ∧ (sampled (serOf 1 id).dataLen (charIn 0x90).samples).low = false ∧
    (sampled (serOf 1 id).dataLen allLow.samples).low = true ∧ (sampled (serOf 1 id).dataLen allLow.samples).fin = some .stopLow ∧
    (serOf 1 id).flow ((serOf 1 id).charOf 0 0 (sampled (serOf 1 id).dataLen allLow.samples) .stopLow) = none ∧
    (serOf 4 id).role = 4 ∧ (serOf 4 id).takes = true ∧ (sampled (serOf 4 id).dataLen (charIn 0x13).samples).fin = some .stopHigh ∧
    (heard (serOf 4 id) (charIn 0x13)).tagged = false ∧ (heard (serOf 4 id) (charIn 0x13)).data = 0x13#8 ∧
    (sampled (serOf 4 id).dataLen (charIn 0x11).samples).fin = some .stopHigh ∧ (heard (serOf 4 id) (charIn 0x11)).tagged = false ∧
    (heard (serOf 4 id) (charIn 0x11)).data = 0x11#8 := by decide +kernel
theorem test_hyps_autobaud_and_breaks :
    (serOf 1 fun p => { p with rx := .autobaud }).rx = .autobaud ∧ (serOf 1 fun p => { p with rx := .autobaud }).role ≠ 3 ∧
    ((serOf 1 fun p => { p with rx := .autobaud }).measure (serRig 1 id).nv.cfg.fe882 char55).isSome = true ∧
    (serOf 3 fun p => { p with rx := .autobaud }).role = 3 ∧
    ((serOf 3 fun p => { p with rx := .autobaud }).measure false
      { char55 with edges := (List.range 9).map fun k => (k + 1) * 197 }).isSome = true ∧
    (serOf 1 id).breakable = true ∧ (serOf 1 fun p => { p with rx := .receiving, waitHigh := true, pend := some fullHold }).breakable = true ∧
    (serOf 1 fun p => { p with rx := .receiving, waitHigh := true }).waitHigh = true ∧ (serOf 1 id).pend = none ∧
    (serOf 1 fun p => { p with rx := .receiving, waitHigh := true, pend := some fullHold }).pend = some fullHold ∧
    (serOf 4 fun p => { p with xoffRx := true, txHeld := [65] }).txHeld ≠ [] := by decide +kernel
theorem test_hyps_receiver_fences :
    (serOf 1 id).canStick = true ∧ (serOf 1 fun p => { p with rx := .autobaud }).canStick = true ∧
    bit (serOf 1 fun p => { p with rx := .fenced }).ctrl 31 = true ∧ (serRig 1 id).pwr.answers pdSerial = true ∧
    bit 1#32 0 = true ∧ bit 1#32 1 = false ∧ bit (serOf 1 fun p => { p with baud := 0x80000000#32, rx := .brk }).baud 31 = true ∧
    bit 2#32 1 = true ∧ bit 2#32 0 = false ∧ Initiator.cp1 ≠ .window ∧ (serOf 1 fun p => { p with rx := .fenced }).rx = .fenced ∧
    (serOf 1 fun p => { p with rx := .asleep }).rx = .asleep ∧
    bit { serRig 2 (fun p => { p with ctrl := 0x40000000#32 }) with
      pwr := { rig.pwr with policy := 0x80000000#32 } }.pwr.policy 31 = true ∧
    bit (serOf 2 fun p => { p with ctrl := 0x40000000#32 }).ctrl 30 = true ∧ roleSleeps (serOf 2 id).role = true ∧
    (serOf 2 id).rx = .hunting := by decide +kernel
theorem test_hyps_serial_data :
    (serOf 1 fun p => { p with hold := some fullHold }).hold = some fullHold ∧ (serOf 1 id).hold = none ∧ (serOf 1 id).role < 2 ∧
    (serOf 2 id).role = 2 ∧ (serOf 4 fun p => { p with xoffRx := true }).role = 4 ∧ (serOf 4 id).xoffRx = false ∧ (serOf 2 id).xoffRx = false ∧
    (serOf 2 id).rx ≠ .fenced ∧ (serOf 2 fun p => { p with rx := .fenced }).rx = .fenced ∧ (serRig 2 id).serDrives 1 = true ∧
    ({ serRig 2 id with pins := { rig.pins with absent := [.ser] } } : State).serDrives 1 = false ∧
    ({ serRig 2 id with mgmt := { rig.mgmt with stopped := true } } : State).serDrives 1 = false ∧ (serRig 4 id).serDrives 1 = true ∧ Initiator.cp0 = .cp0 ∧
    (serRig 2 id).pwr.answers pdSerial = true := by decide +kernel
def onMsg : MidiMsg := { status := 0x90, d1 := 60, d2 := 100, ts := 0 }
/-- Hall 1 is bound to SER1 in its role. -/
def boundRig (role : Nat) (f : Ser → Ser) : State :=
  (serRig role f).updHall 1 fun h => { h with binding := word (2 * 2 ^ 30 + 2 ^ 14 + (role - 1) * 2 ^ 12) }
def midiIn : Ser → Ser := fun p => { p with midi := { p.midi with ready := [onMsg] } }
theorem test_hyps_midi :
    (serRig 1 midiIn).cp1Runs = true ∧ (serOf 1 midiIn).midi.ready = onMsg :: [] ∧ (serRig 1 midiIn).serHall 1 = none ∧
    ((serOf 1 id).midi.event onMsg).2.isSome = true ∧
    ((serOf 1 id).midi.event { onMsg with status := 0xE0, d1 := 0, d2 := 0 }).2.isSome = true ∧
    ((serOf 1 id).midi.event { onMsg with status := 0xC0, d1 := 5, d2 := 0 }).2 = none ∧ (boundRig 1 midiIn).serHall 1 = some 1 ∧
    ((boundRig 1 midiIn).traffic 1).midiOk 1 (.release (.key 60) 0) = true ∧
    ((boundRig 1 midiIn).traffic 1).midiOk 1 (.start (noteOn 0 60 100 0)) = true ∧
    ((boundRig 1 midiIn).traffic 1).hallFenced 1 = false ∧ ((boundRig 1 midiIn).traffic 1).timeOk (1000000 + rig.lead) = true ∧
    ((boundRig 1 midiIn).traffic 1).queueRoom 1 = true ∧ onMsg.status / 16 = 9 ∧ onMsg.d2 ≠ 0 := by decide +kernel
/-- No program of hall 1 stands at index 5 when a note of SER1 takes effect. -/
theorem test_hyps_midi_without_program :
    ((boundRig 1 id).hall 1).startProg? (noteOn 0 60 100 5).handle = none ∧ ((boundRig 1 id).hall 1).ser? = some 1 ∧
    65536 ≤ (noteOn 0 60 100 5).handle := by decide +kernel
/-- A patch of one slot, and a packet that changes it. -/
def patch1 : Patch := { hall := 1, first := 1, wide := false, ctl := 31, smooth := 5 }
def dmxIn (v : Byte) : Ser → Ser := fun p => { p with dmx := { p.dmx with start := 1, patch := [patch1], ready := [(1000000, [v])] } }
theorem test_hyps_dmx :
    (boundRig 2 (dmxIn 200)).cp1Runs = true ∧ (serOf 2 id).role = 2 ∧ (serOf 2 (dmxIn 200)).dmx.ready = (1000000, [200]) :: [] ∧
    (boundRig 2 (dmxIn 200)).serHall 1 = some 1 ∧ (serOf 2 (dmxIn 200)).dmx.patch = [patch1] ∧
    (serOf 2 (dmxIn 200)).dmx.value patch1 ≠ ((serOf 2 (dmxIn 200)).dmx.take 1000000 [200]).value patch1 ∧
    ((boundRig 2 (dmxIn 200)).hall 1).alive = true ∧ (boundRig 2 (dmxIn 200)).hallFenced 1 = false ∧
    (∀ e ∈ (serOf 2 (dmxIn 0)).dmx.patch, (serOf 2 (dmxIn 0)).dmx.value e = ((serOf 2 (dmxIn 0)).dmx.take 1000000 [0]).value e) ∧
    (serRig 2 id).time.running = true ∧ (serOf 2 id).dmx.loss = false ∧
    (serOf 2 id).dmx.last + 640 * feHz { serRig 2 id with time := { rig.time with et := 640 * 96000 } }.fe882 ≤ 640 * 96000 := by
  decide +kernel

/-- An RDM request to a responder, SER1's or another, without data or with two bytes of it. -/
def rdmPacketTo (dst cc : Nat) (dat : List Byte) : List Byte :=
  let body := [0xCC#8, 1#8, byte (24 + dat.length)] ++ bigEnd 6 dst ++ bigEnd 6 77 ++
    [3#8, 1#8, 0#8, 0#8, 0#8, byte cc] ++ bigEnd 2 0x00F0 ++ [byte dat.length] ++ dat
  body ++ bigEnd 2 (rdmSum body)
def rdmPacketOf : Nat → List Byte → List Byte := rdmPacketTo ((serRig 2 id).rdmUid 1)
theorem test_hyps_rdm :
    rdmBad (rdmPacketOf 0x20 []) = false ∧ rdmBad ((rdmPacketOf 0x20 []).take 20) = true ∧
    ((serRig 2 id).rdmReq 1 (rdmPacketOf 0x20 [])).map (fun r => (r.bcast, r.cc, r.pid)) = some (false, 0x20, 0x00F0) ∧
    ((serRig 2 id).rdmReq 1 (rdmPacketOf 0x30 [2, 0])).map (fun r => (r.cc, r.pid, r.data.length, beNat r.data)) =
      some (0x30, 0x00F0, 2, 512) ∧
    rdmBad (rdmPacketOf 0x30 [2, 0]) = false ∧ 512 + (serOf 2 id).dmx.foot ≤ 513 ∧ slotsFit 512 (serOf 2 id).dmx.patch = true ∧
    rdmBad (rdmPacketTo 5 0x20 []) = false ∧ (serRig 2 id).rdmReq 1 (rdmPacketTo 5 0x20 []) = none ∧
    (serOf 2 fun p => { p with dmx := { p.dmx with rdm := [(0, rdmPacketOf 0x20 [])] } }).dmx.rdm = (0, rdmPacketOf 0x20 []) :: [] := by
  decide +kernel

/-- Frames as a show-bus port receives them: a BEACON to all; an EVENT and an ACK for address 8; an EVENT for address 4. -/
def beacon9 : List Byte := (tsbFrame 1 9 255 1 ([2#8, 0#8] ++ leBytes 2 100 ++ leBytes 8 5 ++ leBytes 4 1)).drop 3
def tsbPay : List Byte := leBytes 2 77 ++ leBytes 2 0x0503 ++ [1, 0, 0, 0] ++ leBytes 4 512 ++ [5, 0, 0, 0]
def event8 : List Byte := (tsbFrame 1 9 8 2 tsbPay).drop 3
def tsbIn (f : List Byte) : Ser → Ser := fun p => { p with addr := 8, tsb := { p.tsb with ready := [(0, f)] } }
theorem test_hyps_show_bus_frames :
    (serRig 3 (tsbIn beacon9)).cp1Runs = true ∧ (serOf 3 (tsbIn beacon9)).tsb.ready = (0, beacon9) :: [] ∧ f8 beacon9 2 = 255 ∧
    f8 beacon9 3 = 1 ∧ f8 beacon9 0 = 1 ∧ ((beacon9.drop 5).dropLast.dropLast).length = 16 ∧ (serOf 3 (tsbIn beacon9)).tsb.peers.length < 32 ∧
    f8 ((tsbFrame 1 9 4 2 []).drop 3) 2 = 4 ∧ (serOf 3 (tsbIn event8)).addr = 8 ∧ f8 event8 2 = 8 ∧ f8 event8 3 = 2 ∧
    ((event8.drop 5).dropLast.dropLast) = tsbPay ∧ f8 ((tsbFrame 1 9 8 3 [77, 0, 0]).drop 3) 3 = 3 := by decide +kernel
theorem test_hyps_show_bus_events :
    (boundRig 3 id).serHall 1 = some 1 ∧ ((boundRig 3 id).traffic 1).hallFenced 1 = false ∧ 12 ≤ tsbPay.length ∧ f8 tsbPay 4 < 2 ∧
    f8 tsbPay 4 % 2 = 1 ∧ zero tsbPay 5 3 = true ∧ f32 tsbPay 8 < 2 ^ 31 ∧ ((boundRig 3 id).tsbEvent 1 1000000 tsbPay).2 ≤ 1 ∧
    1 < ((serRig 3 id).tsbEvent 1 0 tsbPay).2 ∧ f8 (tsbPay.set 4 0) 4 % 2 = 0 := by decide +kernel
/-- A frame that waits for an idle line, one on the line, one backing off. -/
def talking (going : Bool) (coll : Nat) (back : Option Nat) (high : Option Nat) : Ser → Ser := fun p =>
  { p with txTo := if going then 2 ^ 40 else 0, high := high, tsb := { p.tsb with tx := [[1]], going := going, coll := coll, back := back } }
theorem test_hyps_show_bus :
    (serOf 3 id).mayTalk = true ∧ (serRig 3 id).bankOn .ser = true ∧ (serOf 3 id).tsb.tx = [] ∧ (serOf 3 id).tsb.going = false ∧
    (serOf 3 id).tsb.back = none ∧ 2 * (serOf 3 id).charBits * (serOf 3 id).div ≤ (serOf 3 id).quiet ((serRig 3 id).line64 false) ∧
    (serOf 3 fun p => { p with high := none }).quiet ((serRig 3 id).line64 false) < 2 * (serOf 3 id).charBits * (serOf 3 id).div ∧
    (serOf 3 id).tsb.nextBeacon ≤ (serRig 3 id).time.rclk ∧ (serRig 3 id).serOn = true ∧ (serRig 3 id).cp1Runs = true := by decide +kernel
theorem test_hyps_show_bus_collisions :
    (serOf 3 (talking true 14 none none)).mayTalk = true ∧ (serOf 3 (talking true 14 none none)).tsb.going = true ∧
    (serRig 3 (talking true 14 none none)).line64 false < (serOf 3 (talking true 14 none none)).txTo ∧
    (serOf 3 (talking true 14 none none)).tsb.coll + 1 < 16 ∧ 16 ≤ (serOf 3 (talking true 15 none none)).tsb.coll + 1 ∧
    (serOf 3 (talking false 1 (some 1) none)).tsb.back = some 1 ∧ (serOf 3 (talking false 1 (some 1) none)).tsb.tx = [1] :: [] ∧
    (serOf 3 (talking false 1 (some 1) none)).tsb.going = false ∧
    2 * (serOf 3 id).charBits * (serOf 3 id).div * (1 + 1) ≤ (serOf 3 (talking false 1 (some 1) (some 0))).quiet ((serRig 3 id).line64 false) ∧
    (serOf 3 (talking false 1 (some 1) none)).quiet ((serRig 3 id).line64 false) < 2 * (serOf 3 id).charBits * (serOf 3 id).div * (1 + 1) := by
  decide +kernel
/-- 16× oversampling, 2 of 3 samples: the character 0x90, whose bit 3 has a sample wrong at phase 9, is stored whole; its stamp is ET
and the half of the period. -/
theorem test_two_of_three_samples :
    (match exec (.serialCharacter 1 { charIn 0x90 with samples := (samplesOf (bitsOf 0x90) true).set 73 true }) (serRig 1 id) with
      | .next t => decide ((t.ser.get 1).hold.map (fun c => (c.data, c.ts)) = some (0x90#8, 1000001))
      | _ => false) = true := by decide +kernel

/-! ### The console, resets, start-up -/

/-- SER0 is a console with a line complete; its session is open. -/
def conRig (line : String) : State :=
  { (rig.updSer 0 fun p => { p with cfg := 0x80000000#32, rx := .hunting, lines := [ascii line] }) with
    mgmt := { rig.mgmt with session := some (0, 0) } }
theorem test_hyps_console :
    (conRig "VER").conRuns 0 = true ∧ conOf (ascii "VER") = some (.ver, []) ∧ conOf (ascii "STAT") = some (.stat, []) ∧
    conOf (ascii "LOG 128") = some (.log, [ascii "128"]) ∧ numOf 10 (ascii "128") = some 128 ∧ conOf (ascii "AUTH") = some (.auth, []) ∧
    (conRig "VER").mgmt.session.map (·.1) = some 0 ∧ conOf (ascii "UPD COMMIT") = some (.updCommit, []) ∧
    conOf (ascii "ROLLBACK") = some (.rollback, []) := by decide +kernel
theorem test_hyps_console_arguments :
    conOf (ascii "RESP " ++ List.replicate 128 0x61) = some (.resp, [List.replicate 128 0x61]) ∧
    (hexOf (List.replicate 128 0x61)).map (·.length) = some 64 ∧ conOf (ascii "UPD BEGIN 6291456") = some (.updBegin, [ascii "6291456"]) ∧
    numOf 10 (ascii "6291456") = some fwMax ∧ numOf 10 (ascii "1") = some 1 ∧
    conOf (ascii "LC 0 1") = some (.lc, [ascii "0", ascii "1"]) ∧
    conOf (ascii "KEY 7 " ++ List.replicate 80 0x30) = some (.key, [ascii "7", List.replicate 80 0x30]) ∧
    (hexOf (List.replicate 80 0x30)).map (·.length) = some 40 ∧ { rig.nv with life := .provisioned }.life = .provisioned := by decide +kernel
/-- A line UPD D with 2 bytes for offset 0 and its CRC. -/
def updLine : List Byte := ascii "UPD D 0 0AFF"
theorem test_hyps_console_data :
    (match conOf (updLine ++ hexText (bigEnd 2 (crc16 updLine))) with | some (.updD, _) => true | _ => false) = true ∧
    updDLine (updLine ++ hexText (bigEnd 2 (crc16 updLine))) = some (0, [0x0A, 0xFF]) ∧ (updating 0 rig.nv.slots).updRefuse 0 2 = none ∧
    0 + rig.edgesUs 600000000 ≤ { rig.time with rclk := 600000000 * 25 }.rclk := by decide +kernel

theorem test_hyps_resets :
    { rig.pins with resetLow := false }.resetLow = false ∧ rig.pins.brown = false ∧ rig.bankOn .sys = true ∧
    ({ rig with pins := { rig.pins with absent := [.sys] } } : State).bankOn .sys = false ∧ { rig.mgmt with rst := some RstCause.update }.rst = some .update ∧
    { rig.nv with life := LifeCycle.service }.life = .service ∧ { rig.mgmt with stopped := true }.stopped = true ∧
    rig.mgmt.onTrial = false ∧ { rig.pins with resetLow := true }.resetLow = true ∧ { rig.nv.cfg with autoRestart := true }.autoRestart = true ∧
    { rig.pins with brown := true }.brown = true := by
  decide +kernel
/-- After reset, with REFCLK and the pin released. -/
def fresh0 : State :=
  { State.reset with time := { State.reset.time with counting := true, refclk := true }, pins := { State.reset.pins with resetLow := false } }
def bootable : State :=
  { fresh0 with
    time := { fresh0.time with ok := true }
    fresh := fresh0.fresh + 1
    nv := if fresh0.nv.life = .blank then fresh0.nv else Nv.wrote { fresh0.nv with boots := fresh0.nv.boots + 1 } sectorBoot fresh0.poweredS
    pins := { fresh0.pins with tamper := fresh0.pins.tamper && Config.tamperHeld fresh0.fresh, memBad := Config.memBad fresh0.fresh } }
theorem test_hyps_startup :
    fresh0.pins.resetLow = false ∧ fresh0.pins.brown = false ∧ fresh0.time.counting = true ∧ fresh0.time.refclk = true ∧
    fresh0.pwr.on pdCtrl = false ∧ fresh0.mgmt.recovery = false ∧ fresh0.nv.calValid = true ∧ bootable.bootSlot.2.isSome = true ∧
    fresh0.time.armed = false ∧ fresh0.time.running = false ∧ fresh0.sched.cfgSet = false ∧ fresh0.time.rclk ≤ 120 * refHz fresh0.ref882 / 1000 ∧
    ({ bootable with nv := { bootable.nv with slots := #v[FwSlot.written [], FwSlot.written []] } }).bootSlot.2 = none := by decide +kernel

/-! ### TIME and interrupts -/

def tmr3 : State := { rig with time := { rig.time with tmr := rig.time.tmr.upd 3 fun m => { m with go := true, count := 5#32, cmpv := 5#32 } } }
theorem test_hyps_timers :
    (tmr3.time.tmr.get 3).settle.counts tmr3.time.dbgHalt = true ∧ (tmr3.time.tmr.get 3).settle.src = 0 ∧ tmr3.time.counting = true ∧
    tmr3.time.refclk = true ∧ tmr3.time.armed = false ∧ (tmr3.time.tmr.get 3).settle.toMatch = some 0x100000000 ∧
    (tmr3.time.tmr.get 3).held = none ∧ ({ (tmr3.time.tmr.get 3) with held := some 1#32 } : Timer).held = some 1#32 := by decide +kernel
/-- Timer 3 counts es ticks, the overflows of timer 2 at REFCLK, the edges of trigger 5; it is frozen. -/
def tmrOf (ctrl : Nat) : State :=
  { rig with time := { rig.time with hits := 32#32, tmr := (rig.time.tmr.upd 3 fun m => { m with go := true, count := 5#32, cmpv := 6#32, ctrl := word ctrl }).upd 2 fun m =>
      { m with go := true, count := 7#32, reload := 9#32 } } }
theorem test_hyps_timer_sources :
    ((tmrOf 0x10).time.tmr.get 3).settle.src = 1 ∧ ((tmrOf 0x10).time.tmr.get 3).settle.counts false = true ∧ (tmrOf 0x10).time.dbgHalt = false ∧
    (tmrOf 0x10).time.running = true ∧ ((tmrOf 0x10).time.tmr.get 3).settle.toMatch = some 1 ∧ (2 : Fin 16).val + 1 = (3 : Fin 16).val ∧
    ((tmrOf 0x30).time.tmr.get 3).settle.src = 3 ∧ ((tmrOf 0x30).time.tmr.get 3).settle.counts false = true ∧
    ((tmrOf 0x30).time.tmr.get 2).settle.counts false = true ∧ ((tmrOf 0x30).time.tmr.get 2).settle.src = 0 ∧
    ((tmrOf 0x30).time.tmr.get 3).settle.toMatch = some 1 ∧ ((tmrOf 0x25).time.tmr.get 3).settle.src = 2 ∧
    ((tmrOf 0x25).time.tmr.get 3).settle.counts false = true ∧ bit (tmrOf 0x25).time.hits (bits 0x25#32 2 0) = true ∧
    bit (tmrOf 0x24).time.hits (bits 0x24#32 2 0) = false ∧
    ((tmrOf 0x80000000).time.tmr.get 3).settle.counts { (tmrOf 0x80000000).time with dbg := Vector.replicate 2 true }.dbgHalt = false := by
  decide +kernel
def trg7 (f : Trig → Trig) : State := { rig with time := { rig.time with trg := rig.time.trg.upd 7 fun g => f { g with ctrl := 0x8000010A#32 } } }
theorem test_hyps_triggers :
    (trg7 id).bankOn .sys = true ∧ (trg7 id).time.counting = true ∧ (trg7 id).time.refclk = true ∧
    bit ((trg7 id).time.trg.get 7).ctrl 31 = true ∧ ((trg7 id).time.trg.get 7).crossing (2 * rig.time.rclk) true = 2 * 7372800 - 19 ∧
    ((trg7 id).time.trg.get 7).selects true = true ∧ ((trg7 id).time.trg.get 7).selects false = false ∧
    ((trg7 id).time.trg.get 7).holds false 407 = true ∧ ((trg7 id).time.trg.get 7).holds false 406 = false ∧
    (trg7 id).time.running = true ∧ 0 ≤ ((trg7 id).time.trg.get 7).crossing (trg7 id).time.et false ∧
    ((trg7 id).time.trg.get 7).crossing 18 true < 0 ∧ ((trg7 id).time.trg.get 7).dead false (2 * rig.time.rclk + 1) = false ∧
    ((trg7 fun g => { g with last := some (2 * 7372800 + 1) }).time.trg.get 7).dead false (2 * 7372800 + 50) = true ∧
    ((trg7 fun g => { g with last := some (2 * 7372800 + 1) }).time.trg.get 7).dead false (2 * 7372800 + 51) = false ∧
    ((trg7 fun g => { g with fifo := [1, 2, 3] }).time.trg.get 7).fifo.length < 4 ∧
    4 ≤ ((trg7 fun g => { g with fifo := [1, 2, 3, 4] }).time.trg.get 7).fifo.length ∧ rig.nv.life ≠ .service ∧ rig.pwr.on pdCtrl = true ∧
    { rig.time with refclk := false }.refclk = false ∧ { rig.time with ok := false }.ok = false ∧ rig.time.armed = false ∧
    { rig.time with ok := true }.ok = true ∧ rig.out.wclkOk = true ∧ { rig.out with master := true }.master = true ∧
    { rig.nv with life := LifeCycle.service }.life = .service ∧ rig.time.counting = true := by
  decide +kernel
/-- Trigger 7 is mapped, at both edges, to a kill of every voice of hall 0, 20,000 after the stamp. -/
def killMap : TrigMap := { hall := 0, edges := 3, tag := 5, opcode := 0x0503, offset := 60000, template := [0xFF#8, 0xFF#8, 0#8, 0#8] }
def mapped7 (m : TrigMap) (f : Hall → Hall) : State := (trg7 fun g => { g with map := some m }).updHall 0 f
theorem test_hyps_trigger_maps :
    templateLen 0x0503 = some killMap.template.length ∧ (mapped7 killMap id).hallFenced 0 = false ∧ (mapped7 killMap id).queueRoom 0 = true ∧
    killMap.edges.testBit 0 = true ∧ { killMap with edges := 2 }.edges.testBit 0 = false ∧ ((mapped7 killMap id).halls.get 0).alive = true ∧
    firstFail ((mapped7 killMap id).evChecks 0 0x0503 (leBytes 8 1060000 ++ killMap.template)) = none ∧
    firstFail ((mapped7 killMap id).evChecks 0 0x0503 (leBytes 8 1060000 ++ [0xFF#8, 0xFF#8, 1#8, 0#8])) ≠ none ∧
    (mapped7 killMap id).timeOk 1060000 = true ∧ 1000000 + (mapped7 killMap id).lead ≤ 1060000 ∧ (mapped7 killMap id).openAt ≤ 1060000 ∧
    1000000 < 1000000 + (mapped7 killMap id).lead ∧
    (mapped7 killMap fun h => { h with fenced := [(0, true)] }).hallFenced 0 = true ∧
    templateLen 0x0503 ≠ some ({ killMap with template := [] } : TrigMap).template.length := by decide +kernel
/-- The queue of the mapped trigger's hall is full of commands' events. -/
def fullHall : Hall → Hall := fun h =>
  { h with queue := List.replicate 1024 { hall := 0, time := 2000000, req := 2000000, late := false, src := 0, seq := 0, tag := 0, kind := .kill .all } }
/-- An event of trigger 7 on its way, of an edge stamped at the present, and one of trigger 3 stamped a REFCLK period earlier. -/
def onWay7 : Mapped := { trig := 7, hall := 0, tag := 5, stamp := rig.time.et, time := rig.time.et + 60000, kind := .kill .all }
def onWay3 : Mapped := { onWay7 with trig := 3, stamp := rig.time.et - 514 }
theorem test_hyps_mapped_events :
    (mapped7 killMap fullHall).queueRoom 0 = false ∧ (rig.halls.get 0).alive = true ∧ rig.hallFenced 0 = false ∧
    rig.timeOk onWay7.time = true ∧ rig.queueRoom 0 = true ∧ onWay7.stamp + rig.lead ≤ onWay7.time ∧ rig.openAt ≤ onWay7.time ∧
    rig.timeOk (2 ^ 57) = false ∧ { onWay7 with time := onWay7.stamp }.time < onWay7.stamp + rig.lead ∧ rig.time.et ≤ onWay7.stamp + mappedDelay ∧
    onWay3.stamp + mappedDelay < rig.time.et ∧ [onWay3, onWay7].Pairwise (fun a b => b.before a = false) := by decide +kernel
/-- Stamps decide which mapped event arrives first, and of equal ones the trigger (R431). -/
theorem test_mapped_order :
    mappedInsert onWay3 [onWay7] = [onWay3, onWay7] ∧
    mappedInsert { onWay7 with trig := 2 } [onWay3, onWay7] = [onWay3, { onWay7 with trig := 2 }, onWay7] := by decide +kernel
/-- Two entries of CP0: 16 pending at priority 3, 17 active at priority 9 below it. -/
def irqRig : State :=
  { rig with irqf := { rig.irqf with
      ent := (rig.irqf.ent.upd 16 fun _ => { en := true, pending := true, active := false, owner := 0, target := 0, prio := 9 }).upd 17
        fun _ => { en := true, pending := false, active := true, owner := 0, target := 0, prio := 3 }
      stack := rig.irqf.stack.put 0 [17] } }
theorem test_hyps_interrupts :
    irqUsed 16 = true ∧ (rig.irqf.ent.get 16).pending = false ∧ (irqRig.irqf.ent.get 16).pending = true ∧ rig.irqf.coal ≠ 0xFFFFFFFF#32 ∧
    rig.mgmt.stopped = false ∧ irqRig.irqf.stack.get 0 = [17] ∧ bits 17#32 7 0 = 17 ∧ (irqRig.irqf.stack.get 0).head? ≠ some 16 ∧
    irqRig.irqf.offer 0 = some 16 ∧ (irqRig.irqf.stack.get 0).length < 16 ∧ rig.irqf.offer 0 = none ∧
    irqRig.irqf.stack.get 0 ≠ [] ∧ rig.canWake 0 = true ∧ rig.irqf.stack.get 0 = [] ∧
    ({ rig with mgmt := { rig.mgmt with stopped := true } } : State).canWake 0 = false := by decide +kernel
theorem test_hyps_interrupt_registers :
    rig.pwr.answers pdCtrl = true ∧ bits 223#32 7 0 < 224 ∧ 224 ≤ bits 224#32 7 0 ∧ bits 254#32 7 0 < 255 ∧
    (∀ j : Fin 3, rig.irqf.stack.get j = []) ∧ (∃ j : Fin 3, irqRig.irqf.stack.get j ≠ []) ∧ bit 0x80000000#32 31 ≠ irqRig.irqf.compat ∧
    irqRig.irqf.compat = false ∧ { irqRig.irqf with compat := true, stack := rig.irqf.stack }.offer 0 = some 16 := by decide +kernel

/-! ### Management and power -/

theorem test_hyps_sensors :
    (Instr.tempSample (List.replicate 10 2000)).wf = true ∧ rig.mgmt.therm = .normal ∧ { rig.mgmt with therm := .shed }.therm = .shed ∧
    (125 * 16 : Int) ≤ { rig.mgmt with temps := rig.mgmt.temps.put 9 2000 }.tj ∧ { rig.mgmt with therm := .halt }.tj ≤ (107 * 16 : Int) ∧
    (rig.gal.get 7).fenced = false ∧ (Instr.tempSample (2001 :: List.replicate 9 0)).wf = true ∧
    (Instr.voltageSample (List.replicate 16 900)).wf = true ∧ (Instr.paceReading 9 900).wf = true ∧ rig.mgmt.fwOk = true ∧
    rig.pwr.on pdFoyer = true ∧ rig.foyer.sram.wf = true ∧ (3 : Fin 8).val = (3 : Fin 10).val ∧ rig.time.running = true ∧
    { rig.mgmt with therm := .warn }.tj ≤ (107 * 16 : Int) ∧ rig.mgmt.stopped = false := by decide +kernel
/-- Every step at the temperature of the next, and at its own exit; a health report that is none. -/
def atTherm (t : Therm) (x : Int) : State :=
  { rig with mgmt := { rig.mgmt with therm := t, shed := true, temps := rig.mgmt.temps.map fun _ => x }, sched := { rig.sched with meas := 0x80000000#32 } }
theorem test_hyps_thermal_steps :
    (atTherm .warn 0).mgmt.therm = .warn ∧ (atTherm .halt 0).mgmt.therm = .halt ∧ (atTherm .shed 1760).mgmt.tj ≤ (110 * 16 : Int) ∧
    (atTherm .warn 1713).mgmt.tj > (107 * 16 : Int) ∧ (atTherm .halt 1761).mgmt.tj > (110 * 16 : Int) ∧ (atTherm .shed 0).mgmt.shed = true ∧
    bit (atTherm .shed 0).sched.meas 31 = true ∧ rig.mgmt.recovery = false ∧ rig.pwr.on pdCtrl = true ∧
    ({ rig.mgmt with recovery := true }).recovery = true := by decide +kernel
theorem test_hyps_temperature_wipes : ∃ x : Int, (Instr.tempSample (x :: List.replicate 9 0)).wf = true ∧ tempWipes x = true :=
  ⟨-1600, by decide +kernel⟩
theorem test_hyps_trials :
    { rig.mgmt with onTrial := true }.onTrial = true ∧ rig.mgmt.fwOk = true ∧ rig.time.running = true ∧
    60 * feHz rig.fe882 * 512 ≤ { rig.time with et := 60 * 96000 * 512 }.et ∧
    (updating 4 #v[FwSlot.shipped, FwSlot.written [1, 2, 3, 4]]).nv.slots.get 1 = .written [1, 2, 3, 4] ∧
    bit 0x80000000#32 31 = true ∧ bit 1#32 31 = false := by decide +kernel
/-- A sector five years old, one a second younger; two corrected bits in one unit; no spare left. -/
theorem test_hyps_flash :
    { rig.mgmt with flash := some (.erase 8 1 none) }.flash = some (.erase 8 1 none) ∧
    { rig.mgmt with flash := some (.erase 8 1 (some 0)) }.flash = some (.erase 8 1 (some 0)) ∧
    { rig.mgmt with flash := some (.program [1] none) }.flash = some (.program [1] none) ∧
    ({ place := 0, written := 0, read := 0 } : Sector).old [1, 1] 157787999 = false ∧
    ({ place := 0, written := 0, read := 0 } : Sector).old [] 157788000 = true ∧ (rig.nv.sectors.get 223).old [0, 2] rig.poweredS = true ∧
    rig.nv.spares = 224 :: (List.range 31).map (· + 225) ∧ { rig.nv with spares := [] }.spares = [] ∧
    { rig.mgmt with onTrial := true, stopped := true }.stopped = true ∧ { rig.mgmt with onTrial := true, fwOk := false }.fwOk = false ∧
    rig.edgesUs 10000000 ≤ { rig.time with rclk := 245760000 }.rclk ∧ rig.time.rclk < rig.edgesUs 10000000 ∧ rig.mgmt.onTrial = false := by
  decide +kernel
/-- The session of SER0 while SER1 is a console too. -/
def twoConsoles : State :=
  (conRig "VER").updSer 1 fun p => { p with cfg := 0x80000000#32, rx := .hunting, lines := [ascii "ROLLBACK"] }
theorem test_hyps_other_console :
    twoConsoles.mgmt.session = some (0, 0) ∧ twoConsoles.conRuns 1 = true ∧ (0 : Fin 4) ≠ 1 ∧
    (twoConsoles.ser.get 1).lines = ascii "ROLLBACK" :: [] ∧ twoConsoles.mgmt.flash = none := by decide +kernel
/-- Gallery 7's domain has been waking for 110,000 edges. -/
def slowWake : State :=
  let s := (rig.switch 11 false).switch 11 true
  { s with time := { s.time with rclk := s.time.rclk + 110000 } }
theorem test_hyps_domains :
    (deaf unpacedDev).bankOn .tdm = false ∧ (deaf unpacedDev).out.master = false ∧
    (rig.pwr.dom.get 4).onBit = true ∧ rig.mayBeOff 11 = true ∧ rig.mayBeOff 0 = false ∧ bit 0#32 31 ≠ (rig.pwr.dom.get 11).onBit ∧
    ((rig.switch 11 false).pwr.dom.get 11).st = .goingOff ∧ ((rig.switch pdAna false).pwr.dom.get pdAna).st = .goingOff ∧
    (rig.pwr.dom.get 11).st = .on ∧ bit 0x80000000#32 31 = (rig.pwr.dom.get 11).onBit ∧ rig.idleLong 6 = false ∧ (State.reset.pwr.dom.get pdAna).st = .off ∧
    (((rig.switch 11 false).switch 11 true).pwr.dom.get 11).st = .waking ∧
    (slowWake.pwr.dom.get 11).st = .waking ∧
    (slowWake.pwr.dom.get 11).since + slowWake.edgesUs (4 * wakeMax 11 (slowWake.pwr.dom.get 11).fromRet) ≤ slowWake.time.rclk ∧
    rig.nv.cfg.anaUnused = false ∧ 0 + rig.edgesUs 1000000 ≤ { rig.time with rclk := 24576000 }.rclk ∧
    ({ rig with pwr := { rig.pwr with policy := 0x80000001#32 }, gal := rig.gal.upd 6 fun g => { g with idle := some 0 } } : State).idleLong 6 = true := by
  decide +kernel

/-! ### Worked examples of the spec -/

/-- R53's worked example: one event that arrives at four instants (spec/02). The fourth row's arrival lies in the next open list. -/
def arrivesAt (es : Nat) : Nat × Bool :=
  let s : State := { dev with time := { dev.time with et := es * 512 } }
  (s.arrive 0 0 7 7 (es * 512) 1024005220 (.tempo 1)).2
theorem test_arrival_times :
    arrivesAt 1999900 = (1024005220, false) ∧ arrivesAt 1999950 = (1024005220, true) ∧
    arrivesAt 1999975 = (2000032 * 512, true) ∧ arrivesAt 2000020 = (2000064 * 512, true) := by decide +kernel
/-- The check values of R125 and R112's increment, mip level and start phase of spec/04's wavetable voice. -/
theorem test_sine_table : qs 0 = 0 ∧ qs 2048 = 5931641 ∧ qs 4096 = 8388607 ∧ sine 0x40000000 = 8388607 := by decide +kernel
theorem test_wavetable_voice :
    expInc (pitchBase false) 38 0x7FFFFFFF (-12288) = 4921317 ∧ mipLevel 4921317 = 2 ∧ rnd (195 * 4921317) 8 = 3748659 ∧
    rnd (120000 * 29286) 16 = 53624 := by decide +kernel
/-- The interpolation of spec/04's piano zone: row 512 of R118's table, and the sum of its taps. -/
theorem test_piano_zone :
    sampleBase false 48000 = 1073741824 ∧ (kernelRow 512).drop 4 = [39130, -7710, 1435, -87] ∧ rnd 10823300000 16 = 165150 := by
  decide +kernel
/-- Steps 2 and 5 of spec/05's bus sum: the accumulator wraps up, and down again. -/
theorem test_wrapping_sum :
    (Acc.add { acc := 511 * p2 46, exc := 0, pin := false } (p2 46)) = { acc := -512 * p2 46, exc := 1, pin := false } ∧
    (Acc.add { acc := -512 * p2 46 + 88 * p2 23, exc := 1, pin := false } (p2 23 - p2 46)) =
      { acc := 511 * p2 46 + 89 * p2 23, exc := 0, pin := false } := by decide +kernel
/-- The check values of R151's low-pass, from its rounded quotients. -/
theorem test_low_pass_quotients :
    rdiv (8388607 * 2048) 2896 = 5932275 ∧ coefOf 4194304 14320883 = 614214 ∧ coefOf 8388608 14320883 = 1228429 ∧
    coefOf 2456333 14320883 = 359706 := by decide +kernel
/-- The envelope of spec/06's pad at its first two points and at the release. -/
def padEnv : EnvDef := { segs := [{ level := 8388607, curve := 64, time := 192, timeMod := none }], loop := none, release := 1, tempo := false }
def padSt : EnvSt := { mode := .run, seg := 0, l0 := 0, s0 := 1536002656, n := 589824, relPend := none, released := false, lastLoop := none }
theorem test_pad_envelope :
    rdiv (192 * feHz false * 4) 125 = 589824 ∧ padSt.level padEnv 1536004096 = 30720 ∧ padSt.level padEnv 1536006144 = 74368 ∧
    lerp8 0 30720 3 = 11520 := by decide +kernel
/-- The output position of spec/10's worked example: i = 2176, th = 5,207,214. -/
theorem test_output_position : outPos 147 320 none 1000 16 = (2176, 5207214) := by decide +kernel
/-- The scene EQ of spec/10 that is swapped twice. -/
def eqRig : OutCh :=
  { OutCh.reset with bankA := [{ Coefs.unity with b0 := 2097152 }], bankB := [{ Coefs.unity with b0 := 1048576 }], active := false }
def eqStep : OutCh := ((eqRig.swapAt 5000000 960).swapAt 5000500 480)
theorem test_eq_swaps :
    ((eqRig.swapAt 5000000 960).coefs 5000479).map (·.b0) = [1572864] ∧ eqStep.queued = some 480 ∧
    ((eqStep.fadeEnd 5000960).coefs 5000960).map (·.b0) = [1050761] ∧ ((eqStep.fadeEnd 5000960).coefs 5001199).map (·.b0) = [1572864] ∧
    (eqStep.fadeEnd 5000960).active = false := by decide +kernel
/-- The test tone of spec/11 at its peak. -/
theorem test_tone_peak : sineD 0x40000000 = 524287 ∧ rnd (524287 * 467272) 19 = 467271 := by decide +kernel
/-- The check value of R332. -/
theorem test_port_crc : crc16 [0x31, 0x32, 0x33, 0x34, 0x35, 0x36, 0x37, 0x38, 0x39] = 0x29B1 := by decide +kernel
/-- Spec/15's 64-bit count read across its carry: timer 2 overflows into timer 3, whose count was latched. -/
def chain : TimeBlk :=
  { dev.time with tmr := (dev.time.tmr.upd 2 fun m => { m with go := true, count := 0xFFFFFFFF#32 }).upd 3 fun m =>
      { m with go := true, count := 7#32, ctrl := 0x30#32, srcNow := 3 } }
theorem test_timer_chain :
    (let a := chain.readCount 2
     let b := (a.2.tickTimers { ref := 1, es := 0, trig := 0#32 }).1
     let c := b.readCount 3
     (a.1, (b.tmr.get 2).count, c.1, (c.2.readCount 3).1)) = (0xFFFFFFFF#32, 0#32, 7#32, 8#32) := by decide +kernel
/-- TCK edges with these levels of TMS. -/
def tcks (s : State) (tms : List Bool) : State := tms.foldl (fun s m => s.tck m false 0 false) s
/-- R503: the identification leaves through TDO after Capture-DR, bit 0 (which is 1) first, and TDO is released before. -/
theorem test_idcode_out :
    (let a := tcks dev [false, true, false]
     let b := tcks a [false]
     (a.tdo, b.tdo, b.pins.dr, (tcks b [false, false]).tdo)) =
    (.z, .high, (List.range 32).map fun i => bit 0x220480F3#32 i, .low) := by decide +kernel
/-- R496, R503: an output is high impedance without its bank's supply, and under HIGHZ. -/
theorem test_pins_released :
    dev.pinOut 0 false (.rdy 0) = .high ∧ { dev with pins := { dev.pins with absent := [.ha] } }.pinOut 0 false (.rdy 0) = .z ∧
    { dev with pins := { dev.pins with tap := .highz } }.pinOut 0 false (.rdy 0) = .z := by decide +kernel

end Sys2Proof.Tests
end

section
/-! PROOF. Tables, ports and rings after an update, and the transactions of R344 and R348: DOORBELL, HALLn_DB and CPL_ACK
(spec/12_host_ports_and_mailboxes.md). -/

namespace Sys2Proof.Machine

/-! ### Tables -/

@[simp] theorem Tab.get_upd_same {α : Type} {n : Nat} (t : Tab α n) (i : Fin n) (f : α → α) : (t.upd i f).get i = f (t.get i) := by
  simp [Tab.upd, Tab.put, Tab.get]

theorem Tab.get_upd_ne {α : Type} {n : Nat} (t : Tab α n) {i j : Fin n} (f : α → α) (hij : i ≠ j) : (t.upd i f).get j = t.get j := by
  have hv : i.val ≠ j.val := fun h => hij (Fin.ext h)
  simp [Tab.upd, Tab.put, Tab.get, hv]

/-- A change that leaves the entry it meets is none. -/
theorem Tab.upd_eq_self {α : Type} {n : Nat} (t : Tab α n) (i : Fin n) {f : α → α} (hf : f (t.get i) = t.get i) : t.upd i f = t := by
  rw [Tab.upd, hf]
  exact Vector.set_getElem_self i.isLt

/-! ### Flags -/

/-- A flag that is set reads as set. -/
theorem bit_setFlag_same (w : Word) {n : Nat} (hn : n < 32) : bit (setFlag w n) n = true := by
  simp [bit, setFlag, hn]

/-! ### Ports -/

@[simp] theorem State.port_updPort_same (s : State) (p : Fin 2) (f : Port → Port) : (s.updPort p f).port p = f (s.port p) :=
  Tab.get_upd_same ..

theorem State.port_updPort_ne (s : State) {p p' : Fin 2} (f : Port → Port) (hp : p' ≠ p) : (s.updPort p' f).port p = s.port p :=
  Tab.get_upd_ne _ _ hp

@[simp] theorem State.port_updHall (s : State) (h : Fin 8) (f : Hall → Hall) (p : Fin 2) : (s.updHall h f).port p = s.port p := rfl
@[simp] theorem State.port_updRing (s : State) (h : Fin 8) (f : Ring → Ring) (p : Fin 2) : (s.updRing h f).port p = s.port p := rfl

theorem State.updPort_eq_self (s : State) (p : Fin 2) {f : Port → Port} (hf : f (s.port p) = s.port p) : s.updPort p f = s := by
  rw [State.updPort, Tab.upd_eq_self _ _ hf]

/-- An error bit of a port is set, and nothing else of it changes. -/
theorem State.port_portErr (s : State) (p : Fin 2) (n : Nat) :
    (s.portErr p n).port p = { s.port p with err := setFlag (s.port p).err n } := by
  unfold State.port State.portErr
  rw [State.raiseIf_foyer]
  exact Tab.get_upd_same s.foyer.port p fun q => { q with err := setFlag (s.port p).err n }

/-! ### Halls and their ports -/

@[simp] theorem hallIx_val (h : Fin 8) : hallIx h.val = h := by simp [hallIx]

/-- The hall attached to a port is found by the halls alone (R28). -/
theorem State.attached_congr {s t : State} (p : Fin 2) (hh : t.halls = s.halls) : t.attached p = s.attached p := by
  simp only [State.attached, State.hall, hh]

/-- A change that binds no hall anew leaves the hall attached. -/
theorem State.attached_updHall (s : State) (h : Fin 8) {f : Hall → Hall} (hf : ∀ x, (f x).port? = x.port?) (p : Fin 2) :
    (s.updHall h f).attached p = s.attached p := by
  have hall_port (n : Nat) : ((s.updHall h f).hall n).port? = (s.hall n).port? := by
    unfold State.hall
    rw [State.updHall_halls]
    by_cases hn : h = hallIx n
    · rw [← hn, Tab.get_upd_same, hf]
    · rw [Tab.get_upd_ne _ _ hn]
  simp only [State.attached, hall_port]

theorem State.attached_updRing (s : State) (h : Fin 8) (f : Ring → Ring) (p : Fin 2) : (s.updRing h f).attached p = s.attached p :=
  s.attached_updHall h (f := fun x => { x with ring := f x.ring }) (fun _ => rfl) p

/-! ### The interrupt to the host (R350) -/

/-- A level that HA_IRQ_n has already need not be written. -/
theorem State.updPort_irq (s : State) (p : Fin 2) (level : Bool) :
    (if level = (s.port p).irq then s else s.updPort p fun q => { q with irq := level }) =
      s.updPort p fun q => { q with irq := level } := by
  split
  next h => exact (s.updPort_eq_self p (f := fun q => { q with irq := level }) (by rw [h])).symm
  next => rfl

/-- Evaluating HA_IRQ_n changes its level and nothing else. -/
theorem State.irqEval_shape (s : State) (p : Fin 2) : ∃ b, s.irqEval p = s.updPort p fun q => { q with irq := b } :=
  ⟨_, s.updPort_irq p _⟩

@[simp] theorem State.irqEval_halls (s : State) (p : Fin 2) : (s.irqEval p).halls = s.halls := by
  obtain ⟨b, e⟩ := s.irqEval_shape p
  rw [e, State.updPort_halls]

/-- A duration of at least a microsecond takes an edge. -/
theorem State.edgesUs_pos (s : State) {us : Nat} (hu : 0 < us) : 0 < s.edgesUs us := by
  have hz : 22579200 ≤ refHz s.ref882 := by unfold refHz; split <;> omega
  have hm : refHz s.ref882 ≤ us * refHz s.ref882 := Nat.le_mul_of_pos_left _ hu
  unfold State.edgesUs
  omega

/-- An acknowledge of this moment keeps HA_IRQ_n from being asserted. -/
theorem State.irqDue_of_acked (s : State) (asleep : Bool) {r : Ring} (ha : r.lastAck = s.time.rclk) : s.irqDue asleep r = false := by
  have hpos := s.edgesUs_pos Nat.one_pos
  have hb : ¬ s.irqBlank r ≤ s.time.rclk := by rw [State.irqBlank, ha]; omega
  simp [State.irqDue, hb]

/-! ### The end of a transaction -/

@[simp] theorem State.portRecord_halls (s : State) (p : Fin 2) (code seq : Nat) (r : PortRes) :
    (s.portRecord p code seq r).halls = s.halls := by
  unfold State.portRecord
  dsimp only
  split <;> simp

@[simp] theorem State.refuseIf_halls (s : State) (p : Fin 2) (b : Bool) : (s.refuseIf p b).halls = s.halls := by cases b <;> rfl

@[simp] theorem State.portEnd_halls (s : State) (p : Fin 2) (code seq : Nat) (resp : Bool) (ph : Phase) (r : PortRes)
    (data : List Byte) : (s.portEnd p code seq resp ph r data).halls = s.halls := by
  unfold State.portEnd State.portBusy
  simp only [State.irqEval_halls, State.updPort_halls, State.portRecord_halls]
  split <;> rfl

theorem State.portRecord_lastRes (s : State) (p : Fin 2) (code seq : Nat) (r : PortRes) :
    ((s.portRecord p code seq r).port p).lastRes = r.code := by
  unfold State.portRecord
  dsimp only
  split <;> simp [State.port_portErr]

theorem State.portRecord_errBit (s : State) (p : Fin 2) (code seq : Nat) {r : PortRes} {n : Nat} (hr : r.errBit = some n)
    (hn : n < 32) : bit ((s.portRecord p code seq r).port p).err n = true := by
  simp [State.portRecord, hr, State.port_portErr, bit_setFlag_same _ hn]

/-- Without a response phase the port records the result as it is, and HA_RDY and HA_IRQ_n alone are left to change. -/
theorem State.port_portEnd_silent (s : State) (p : Fin 2) (code seq : Nat) (ph : Phase) (r : PortRes) (data : List Byte) :
    ∃ b, (s.portEnd p code seq false ph r data).port p = { (s.portRecord p code seq r).port p with rdy := false, irq := b } := by
  obtain ⟨b, e⟩ := ((s.portRecord p code seq r).portBusy p).irqEval_shape p
  refine ⟨b, ?_⟩
  change (((s.portRecord p code seq r).portBusy p).irqEval p).port p = _
  rw [e]
  simp [State.portBusy]

theorem State.portEnd_silent_lastRes (s : State) (p : Fin 2) (code seq : Nat) (ph : Phase) (r : PortRes) (data : List Byte) :
    ((s.portEnd p code seq false ph r data).port p).lastRes = r.code := by
  obtain ⟨b, e⟩ := s.port_portEnd_silent p code seq ph r data
  rw [e]
  exact s.portRecord_lastRes ..

theorem State.portEnd_silent_errBit (s : State) (p : Fin 2) (code seq : Nat) (ph : Phase) {r : PortRes} (data : List Byte) {n : Nat}
    (hr : r.errBit = some n) (hn : n < 32) : bit ((s.portEnd p code seq false ph r data).port p).err n = true := by
  obtain ⟨b, e⟩ := s.port_portEnd_silent p code seq ph r data
  rw [e]
  exact s.portRecord_errBit p code seq hr hn

/-! ### A transaction on a negotiated port -/

/-- A port that is on, ready and in UHP3 takes a transaction. -/
structure State.Negotiated (s : State) (p : Fin 2) : Prop where
  on : s.portOn p = true
  rdy : (s.port p).rdy = true
  st : (s.port p).st = .uhp3

/-- How a transaction on port `p` ends that has come to the state, the result and the data of `x`. -/
def State.txnEnd (x : State × PortRes × List Byte) (p : Fin 2) (code seq : Nat) (resp : Bool) (ph : Phase) : State :=
  (x.1.refuseIf p (x.2.1 != .ok)).portEnd p code seq resp ph x.2.1 x.2.2

/-- A defined code that carries a payload and is no HELLO: its act runs on the state that a valid transaction leaves, and it ends in
the act's result; it has no response phase where the host clocks none (R333). -/
theorem State.Negotiated.txn_write {s : State} {p : Fin 2} (hs : s.Negotiated p) {code : Nat}
    (hdef : codeDefined (s.port p).version code = true) (hread : readType code = false) (hhello : (code == 0x3F) = false)
    (seq : Nat) (ph : Phase) (act : State → State × PortRes × List Byte) :
    ∃ resp, (ph = .none → resp = false) ∧ s.txn p code seq ph act = State.txnEnd (act (s.validTxn p)) p code seq resp ph := by
  obtain ⟨hon, hrdy, hst⟩ := hs
  refine ⟨(s.port p).version == 0x0302 && ph != .none, fun h => by simp [h], ?_⟩
  simp [State.txn, State.txnEnd, hon, hrdy, hst, hdef, hread, hhello]

@[simp] theorem State.txnEnd_halls (x : State × PortRes × List Byte) (p : Fin 2) (code seq : Nat) (resp : Bool) (ph : Phase) :
    (State.txnEnd x p code seq resp ph).halls = x.1.halls := by
  simp [State.txnEnd]

/-- A transaction that ends in OK is not counted among those refused. -/
theorem State.txnEnd_ok (s : State) (p : Fin 2) (code seq : Nat) (resp : Bool) (ph : Phase) (data : List Byte) :
    State.txnEnd (s, .ok, data) p code seq resp ph = s.portEnd p code seq resp ph .ok data := rfl

theorem State.txnEnd_silent_lastRes (x : State × PortRes × List Byte) (p : Fin 2) (code seq : Nat) (ph : Phase) :
    ((State.txnEnd x p code seq false ph).port p).lastRes = x.2.1.code :=
  State.portEnd_silent_lastRes ..

/-- The two bytes of an index, least significant first. -/
theorem leNat_pair (a b : Byte) : leNat [a, b] = a.toNat + 256 * b.toNat := by simp [leNat]

theorem State.attachedFix_of_attached {s : State} {p : Fin 2} {n : Nat} (ha : s.attached p = some n) (len : Nat)
    (f : Fin 8 → State × PortRes × List Byte) : s.attachedFix p len len f = f (hallIx n) := by
  simp [State.attachedFix, ha]

/-! ### Command tails (R344) -/

theorem State.newTail_present (s : State) (h : Fin 8) : s.newTail h (s.halls.get h).ring.cmdTail = (s, true) := if_pos rfl

theorem State.newTail_accepted (s : State) (h : Fin 8) {t : BitVec 16} (hne : t ≠ (s.halls.get h).ring.cmdTail)
    (hfit : (t - (s.halls.get h).ring.cmdTail).toNat + (s.halls.get h).ring.waiting ≤ (s.halls.get h).ring.len) :
    s.newTail h t = ((s.updRing h fun x => { x with cmdTail := t }).raise (16 + h.val), true) := by
  simp only [State.newTail, if_neg hne, if_pos hfit]

theorem State.newTail_refused (s : State) (h : Fin 8) {t : BitVec 16} (hne : t ≠ (s.halls.get h).ring.cmdTail)
    (hover : (s.halls.get h).ring.len < (t - (s.halls.get h).ring.cmdTail).toNat + (s.halls.get h).ring.waiting) :
    s.newTail h t = (s.updRing h fun x => { x with refused := min 65535 (x.refused + 1) }, false) := by
  simp only [State.newTail, if_neg hne, if_neg (Nat.not_le.2 hover)]

/-- HALLn_DB in the register map, for every initiator. -/
theorem State.reach_hallDb (s : State) (i : Initiator) (h : Fin 8) (hp : s.pwr.answers pdCtrl = true) :
    s.reach i (0x40010040 + h.val * 0x100) = .ok (.hall h) 0x40 := by
  have halign : ¬ (regSpace (0x40010040 + h.val * 0x100) = true ∧ (0x40010040 + h.val * 0x100) % 4 ≠ 0) := by omega
  have hwin : windowRange (0x40010040 + h.val * 0x100) = true := by revert h; decide
  have hblock : blockOf (0x40010040 + h.val * 0x100) = some (.hall h, 0x40) := by revert h; decide
  have hmp : (Block.hall h).mpOnly = false := rfl
  have hon : s.powered (.hall h) 0x40 = true := by simp [State.powered, Block.domain, hp]
  simp [State.reach, halign, hwin, hblock, hmp, hon]

theorem State.busWrite_hallDb (s : State) (i : Initiator) (h : Fin 8) (v : Word) (hp : s.pwr.answers pdCtrl = true) :
    s.busWrite i (0x40010040 + h.val * 0x100) v = s.hallDb i h v := by
  simp [State.busWrite, s.reach_hallDb i h hp, State.writeBlock, State.writeEffect]

theorem State.hallDb_rings {s : State} {i : Initiator} {h : Fin 8} (ha : (s.halls.get h).alive = true) (hi : i ≠ .window ∨ h = 0)
    (v : Word) : s.hallDb i h v = (s.newTail h (BitVec.ofNat 16 (bits v 15 0))).1 :=
  if_pos ⟨ha, fun hw => hi.resolve_left fun hn => hn hw⟩

/-- DOORBELL on a negotiated port offers its tail to the port's hall. -/
theorem State.Negotiated.exec_doorbell {s : State} {p : Fin 2} (hs : s.Negotiated p) (seq a b : Byte) (addr : Word) (ph : Phase) {n : Nat}
    (ha : (s.validTxn p).attached p = some n) {x : State × Bool}
    (hx : x = (s.validTxn p).newTail (hallIx n) (BitVec.ofNat 16 (a.toNat + 256 * b.toNat))) :
    ∃ resp, (ph = .none → resp = false) ∧ exec (.doorbell p seq addr [a, b] ph) s =
      .next (State.txnEnd (x.1, if x.2 then .ok else .indexRange, []) p 0x32 seq.toNat resp ph) := by
  obtain ⟨resp, hresp, htxn⟩ := hs.txn_write (code := 0x32) rfl rfl rfl seq.toNat ph fun s => s.doDoorbell p [a, b]
  have hdo : (s.validTxn p).doDoorbell p [a, b] = (x.1, if x.2 then .ok else .indexRange, []) := by
    rw [hx, ← leNat_pair]
    exact State.attachedFix_of_attached ha 2 _
  refine ⟨resp, hresp, ?_⟩
  rw [← hdo, ← htxn]
  rfl

/-- Settles O43: the three cases of a tail offered, and that HALLn_DB and DOORBELL both offer theirs. -/
theorem commandTailsAreChecked : Obligations.CommandTailsAreChecked := by
  refine ⟨?_, ?_, ?_⟩
  · rintro s h t r rfl
    exact ⟨fun e => e ▸ s.newTail_present h, s.newTail_accepted h, s.newTail_refused h⟩
  · intro s i h v hp ha hi
    rw [← State.hallDb_rings ha hi, ← s.busWrite_hallDb i h v hp]
    rfl
  · rintro s v p seq a b addr ph n x hon hrdy hst rfl hatt hx
    obtain ⟨resp, hresp, hexec⟩ := State.Negotiated.exec_doorbell ⟨hon, hrdy, hst⟩ seq a b addr ph hatt hx
    refine ⟨_, hexec, by simp, fun hph => ?_⟩
    rw [hresp hph, State.txnEnd_silent_lastRes]
    cases x.2 <;> rfl

/-! ### Completion heads (R348) -/

/-- Hall `h` of the negotiated port `p` has been acknowledged up to `k` at the edge `now`, which is the present: HA_IRQ_n is
deasserted. -/
structure State.Acked (s : State) (h : Fin 8) (p : Fin 2) (k : BitVec 16) (now : Nat) : Prop where
  head : (s.halls.get h).ring.cplHead = k
  lastAck : (s.halls.get h).ring.lastAck = now
  rclk : s.time.rclk = now
  attached : s.attached p = some h.val
  st : (s.port p).st = .uhp3
  irq : (s.port p).irq = false

namespace State.Acked

variable {s : State} {h : Fin 8} {p : Fin 2} {k : BitVec 16} {now : Nat}

/-- A change of a port that leaves the acknowledged port's state and its HA_IRQ_n. -/
theorem updPort (hs : s.Acked h p k now) (p' : Fin 2) {f : Port → Port}
    (hf : p' = p → (f (s.port p)).st = (s.port p).st ∧ (f (s.port p)).irq = (s.port p).irq) : (s.updPort p' f).Acked h p k now := by
  obtain ⟨hhead, hack, hrclk, hatt, hst, hirq⟩ := hs
  have hport : ((s.updPort p' f).port p).st = (s.port p).st ∧ ((s.updPort p' f).port p).irq = (s.port p).irq := by
    by_cases hp : p' = p
    · obtain rfl := hp
      rw [State.port_updPort_same]
      exact hf rfl
    · rw [State.port_updPort_ne _ _ hp]
      exact ⟨rfl, rfl⟩
  exact ⟨hhead, hack, hrclk, hatt, hport.1.trans hst, hport.2.trans hirq⟩

/-- A change of the hall's ring that leaves its completion head and the time of its acknowledge. -/
theorem updRing (hs : s.Acked h p k now) {f : Ring → Ring} (hf : ∀ r, (f r).cplHead = r.cplHead ∧ (f r).lastAck = r.lastAck) :
    (s.updRing h f).Acked h p k now := by
  obtain ⟨hhead, hack, hrclk, hatt, hst, hirq⟩ := hs
  obtain ⟨fhead, fack⟩ := hf (s.halls.get h).ring
  refine ⟨?_, ?_, hrclk, (s.attached_updRing h f p).trans hatt, hst, hirq⟩
  · simpa [fhead] using hhead
  · simpa [fack] using hack

theorem sramWrite (hs : s.Acked h p k now) (a : Nat) (bs : List Byte) : (s.sramWrite a bs).Acked h p k now :=
  ⟨hs.head, hs.lastAck, hs.rclk, hs.attached, hs.st, hs.irq⟩

/-- For 1 µs after the acknowledge HA_IRQ_n of the port stays as it is (R350). -/
theorem irqEval_self (hs : s.Acked h p k now) : s.irqEval p = s := by
  simp [State.irqEval, hs.st, hs.attached, hs.irq, State.hall, s.irqDue_of_acked _ (hs.lastAck.trans hs.rclk.symm)]

theorem irqEval (hs : s.Acked h p k now) (p' : Fin 2) : (s.irqEval p').Acked h p k now := by
  by_cases hp : p' = p
  · rwa [hp, hs.irqEval_self]
  · obtain ⟨b, e⟩ := s.irqEval_shape p'
    rw [e]
    exact hs.updPort p' fun h => absurd h hp

theorem postEntries (hs : s.Acked h p k now) (es : List (List Byte)) : (s.postEntries h es).Acked h p k now := by
  induction es generalizing s with
  | nil => exact hs
  | cons e es ih => exact ih ((hs.sramWrite _ e).updRing fun _ => ⟨rfl, rfl⟩)

theorem postLost (hs : s.Acked h p k now) : (s.postLost h).Acked h p k now :=
  (hs.postEntries _).updRing fun _ => ⟨rfl, rfl⟩

theorem answerBox (hs : s.Acked h p k now) (x : Held) : (s.answerBox x).Acked h p k now := by
  unfold State.answerBox
  split
  · exact (hs.updPort _ fun _ => ⟨rfl, rfl⟩).irqEval _
  · exact hs

theorem postItem (hs : s.Acked h p k now) (x : Held) : (s.postItem h x).Acked h p k now := by
  have hfreed {u : State} (hu : u.Acked h p k now) : (match x.free with
      | some (p', b) => u.updPort p' fun q => { q with bufs := q.bufs.put b false }
      | none => u).Acked h p k now := by
    split
    · exact hu.updPort _ fun _ => ⟨rfl, rfl⟩
    · exact hu
  have hposted := (hfreed (hs.postEntries (chunks64 (x.bytes.length / 64) x.bytes))).answerBox x
  unfold State.postItem
  split
  · exact hs.postLost
  · dsimp only
    split
    · split
      · exact hposted.updPort _ fun _ => ⟨rfl, rfl⟩
      · exact hposted
    · exact hposted

theorem flush (hs : s.Acked h p k now) (n : Nat) : (State.flush h n s).Acked h p k now := by
  induction n generalizing s with
  | zero => exact hs
  | succ n ih =>
    unfold State.flush
    dsimp only
    split
    · exact hs
    · split
      · refine ih (State.Acked.postItem ?_ _)
        exact hs.updRing fun _ => ⟨rfl, rfl⟩
      · exact hs

theorem irqHall (hs : s.Acked h p k now) (h' : Fin 8) : (s.irqHall h').Acked h p k now := by
  unfold State.irqHall
  split
  · exact hs.irqEval _
  · exact hs

/-- Serving the hall's rings posts what is held, but asserts no HA_IRQ_n of the port. -/
theorem pump (hs : s.Acked h p k now) : (s.pump h).Acked h p k now := by
  unfold State.pump
  refine (State.Acked.flush ?_ 600).irqHall h
  split
  · exact hs.updRing fun _ => ⟨rfl, rfl⟩
  · exact hs

theorem portErr (hs : s.Acked h p k now) (n : Nat) : (s.portErr p n).Acked h p k now where
  head := by rw [State.portErr_halls, hs.head]
  lastAck := by rw [State.portErr_halls, hs.lastAck]
  rclk := by rw [State.portErr_time, hs.rclk]
  attached := (State.attached_congr p (s.portErr_halls p n)).trans hs.attached
  st := by rw [State.port_portErr]; exact hs.st
  irq := by rw [State.port_portErr]; exact hs.irq

theorem portRecord (hs : s.Acked h p k now) (code seq : Nat) (r : PortRes) : (s.portRecord p code seq r).Acked h p k now := by
  have hu := hs.updPort p (f := fun q => { q with lastCode := code, lastSeq := seq, lastRes := r.code }) fun _ => ⟨rfl, rfl⟩
  unfold State.portRecord
  dsimp only
  split
  · exact hu.portErr _
  · exact hu

theorem portEnd (hs : s.Acked h p k now) (code seq : Nat) (resp : Bool) (ph : Phase) (r : PortRes) (data : List Byte) :
    (s.portEnd p code seq resp ph r data).Acked h p k now := by
  have hfresh : ({ s with fresh := s.fresh + 1 } : State).Acked h p k now :=
    ⟨hs.head, hs.lastAck, hs.rclk, hs.attached, hs.st, hs.irq⟩
  unfold State.portEnd State.portBusy
  refine ((State.Acked.portRecord ?_ code seq _).updPort p fun _ => ⟨rfl, rfl⟩).irqEval p
  split
  · exact hfresh.updPort p fun _ => ⟨rfl, rfl⟩
  · exact hs

end State.Acked

/-- A valid transaction takes no time of its own. -/
@[simp] theorem State.validTxn_time (s : State) (p : Fin 2) : (s.validTxn p).time = s.time := by
  have hclaim : (s.claimSup p).time = s.time := by unfold State.claimSup; split <;> rfl
  unfold State.validTxn
  dsimp only
  split <;> exact hclaim

/-- What a valid transaction changes of its port. -/
theorem State.port_validTxn (s : State) (p : Fin 2) :
    (s.validTxn p).port p = { s.port p with crcRun := 0, txnCnt := satInc (s.port p).txnCnt 1, asleep := false } := by
  have hclaim : (s.claimSup p).port p = s.port p := by unfold State.claimSup; split <;> rfl
  unfold State.validTxn
  dsimp only
  rw [← hclaim]
  split
  · exact State.port_updPort_same ..
  · exact State.port_updPort_same ..

/-- An acknowledge that is accepted, whatever its posting brings about. -/
theorem State.ackTo_acked {s : State} {h : Fin 8} {p : Fin 2} (hatt : s.attached p = some h.val) (hst : (s.port p).st = .uhp3)
    (k : BitVec 16) : (s.ackTo h p k).Acked h p k s.time.rclk := by
  unfold State.ackTo
  exact State.Acked.pump {
    head := by simp
    lastAck := by simp
    rclk := rfl
    attached := (State.attached_congr p (State.updPort_halls ..)).trans ((s.attached_updRing h _ p).trans hatt)
    st := by simp [hst]
    irq := by simp }

theorem State.doAck_accepted {s : State} {h : Fin 8} {p : Fin 2} (hatt : s.attached p = some h.val) {a b : Byte} {k : BitVec 16}
    (hk : k = BitVec.ofNat 16 (a.toNat + 256 * b.toNat))
    (hin : (k - (s.halls.get h).ring.cplHead).toNat ≤ (s.halls.get h).ring.unread) :
    s.doAck p [a, b] = (s.ackTo h p k, .ok, []) := by
  rw [← leNat_pair] at hk
  refine (State.attachedFix_of_attached hatt 2 _).trans ?_
  rw [hallIx_val, ← hk]
  exact if_pos hin

theorem State.doAck_refused {s : State} {h : Fin 8} {p : Fin 2} (hatt : s.attached p = some h.val) {a b : Byte} {k : BitVec 16}
    (hk : k = BitVec.ofNat 16 (a.toNat + 256 * b.toNat))
    (hout : (s.halls.get h).ring.unread < (k - (s.halls.get h).ring.cplHead).toNat) :
    s.doAck p [a, b] = (s, .indexRange, []) := by
  rw [← leNat_pair] at hk
  refine (State.attachedFix_of_attached hatt 2 _).trans ?_
  rw [hallIx_val, ← hk]
  exact if_neg (Nat.not_le.2 hout)

/-- CPL_ACK on a negotiated port ends in what its head comes to. -/
theorem State.Negotiated.exec_cplAck {s : State} {p : Fin 2} (hs : s.Negotiated p) (seq a b : Byte) (addr : Word) (ph : Phase) :
    ∃ resp, (ph = .none → resp = false) ∧ exec (.cplAck p seq addr [a, b] ph) s =
      .next (State.txnEnd ((s.validTxn p).doAck p [a, b]) p 0x33 seq.toNat resp ph) := by
  obtain ⟨resp, hresp, htxn⟩ := hs.txn_write (code := 0x33) rfl rfl rfl seq.toNat ph fun s => s.doAck p [a, b]
  exact ⟨resp, hresp, htxn ▸ rfl⟩

/-- Settles O44: an accepted acknowledge holds through the posting and the end of the transaction; a refused one changes no hall. -/
theorem completionHeadsAreChecked : Obligations.CompletionHeadsAreChecked := by
  rintro s v p seq a b addr ph h k r hon hrdy hst rfl hatt hk rfl
  obtain ⟨resp, hresp, hexec⟩ := State.Negotiated.exec_cplAck ⟨hon, hrdy, hst⟩ seq a b addr ph
  refine ⟨fun hin => ⟨_, hexec, ?_⟩, fun hout => ⟨_, hexec, ?_⟩⟩
  · rw [State.doAck_accepted hatt hk hin, State.txnEnd_ok]
    have hst' : ((s.validTxn p).port p).st = .uhp3 := by rw [State.port_validTxn]; exact hst
    have hend := (State.ackTo_acked hatt hst' k).portEnd 0x33 seq.toNat resp ph .ok []
    refine ⟨hend.head, hend.irq, ?_, fun hph => ?_⟩
    · exact hend.lastAck.trans (congrArg TimeBlk.rclk (s.validTxn_time p))
    · rw [hresp hph, State.portEnd_silent_lastRes]
      rfl
  · rw [State.doAck_refused hatt hk hout]
    refine ⟨State.txnEnd_halls .., fun hph => ?_⟩
    rw [hresp hph]
    exact ⟨State.txnEnd_silent_lastRes .., State.portEnd_silent_errBit _ p _ _ _ [] rfl (by decide)⟩

end Sys2Proof.Machine
end

section
/-! PROOF. The interrupt fabric's entries, what a raise, an IRQF_ERR bit and an end of interrupt change of it, and the write of
IRQF_EOIt (spec/16_interrupt_fabric.md R433, R441). -/

namespace Sys2Proof.Machine

/-! ### Entries -/

@[simp] theorem Tab.get_put_same {α : Type} {n : Nat} (t : Tab α n) (i : Fin n) (a : α) : (t.put i a).get i = a := by
  simp [Tab.put, Tab.get]

@[simp] theorem Irqf.get_val (q : Irqf) (n : Fin 256) : q.get n.val = q.ent.get n := by simp [Irqf.get]

theorem Irqf.upd_val (q : Irqf) (n : Fin 256) (f : IrqEnt → IrqEnt) : q.upd n.val f = { q with ent := q.ent.upd n f } := by
  simp [Irqf.upd]

@[simp] theorem Irqf.get_upd_same (q : Irqf) (n : Nat) (f : IrqEnt → IrqEnt) : (q.upd n f).get n = f (q.get n) :=
  Tab.get_upd_same ..

/-- A change that keeps an entry's priority keeps every entry's. -/
theorem Irqf.prio_upd (q : Irqf) (n m : Nat) {f : IrqEnt → IrqEnt} (hf : ∀ e, (f e).prio = e.prio) :
    ((q.upd n f).get m).prio = (q.get m).prio := by
  unfold Irqf.get Irqf.upd
  by_cases h : Fin.ofNat 256 n = Fin.ofNat 256 m
  · rw [← h, Tab.get_upd_same, hf]
  · rw [Tab.get_upd_ne _ _ h]

/-! ### Raises (R433) -/

theorem Irqf.raise_idle (q : Irqf) {n : Fin 256} (hu : irqUsed n.val = true) (hp : (q.ent.get n).pending = false) :
    q.raise n.val = { q with ent := q.ent.upd n fun e => { e with pending := true } } := by
  have hn : ¬ n.val > 255 := by omega
  simp [Irqf.raise, hu, hn, hp, Irqf.upd_val]

theorem Irqf.raise_pending (q : Irqf) {n : Fin 256} (hu : irqUsed n.val = true) (hp : (q.ent.get n).pending = true)
    (hc : q.coal ≠ 0xFFFFFFFF#32) : q.raise n.val = { q with coal := q.coal + 1#32 } := by
  have hn : ¬ n.val > 255 := by omega
  simp [Irqf.raise, hu, hn, hp, hc]

/-- A raise changes the entry raised and the coalesced count alone. -/
theorem Irqf.raise_shape (q : Irqf) (n : Nat) : ∃ coal f, q.raise n = { q.upd n f with coal := coal } := by
  have hid : q.upd n id = q := by rw [Irqf.upd, Tab.upd_eq_self _ _ rfl]
  unfold Irqf.raise
  split
  · exact ⟨q.coal, id, by rw [hid]⟩
  · split
    · exact ⟨_, id, by rw [hid]⟩
    · exact ⟨q.coal, fun e => { e with pending := true }, rfl⟩

/-! ### Error flags -/

/-- An IRQF_ERR bit set changes, beside the bit, at most the coalesced count and entry 6. -/
theorem Irqf.setErr_shape (q : Irqf) (n : Nat) :
    ∃ coal f, q.setErr n = { q.upd 6 f with err := setFlag q.err n, coal := coal } := by
  unfold Irqf.setErr
  dsimp only
  split
  · obtain ⟨coal, f, e⟩ := Irqf.raise_shape { q with err := setFlag q.err n } 6
    exact ⟨coal, f, e⟩
  · exact ⟨q.coal, id, by rw [Irqf.upd, Tab.upd_eq_self _ _ rfl]; rfl⟩

theorem Irqf.setErr_err (q : Irqf) (n : Nat) : (q.setErr n).err = setFlag q.err n := by
  obtain ⟨_, _, e⟩ := q.setErr_shape n
  rw [e]

theorem Irqf.setErr_stack (q : Irqf) (n : Nat) : (q.setErr n).stack = q.stack := by
  obtain ⟨_, _, e⟩ := q.setErr_shape n
  rw [e]
  rfl

theorem Irqf.setErr_ent_ne (q : Irqf) (n : Nat) {m : Fin 256} (hm : m ≠ 6) : (q.setErr n).ent.get m = q.ent.get m := by
  obtain ⟨_, f, e⟩ := q.setErr_shape n
  rw [e]
  exact Tab.get_upd_ne q.ent f hm.symm

/-! ### Ends of interrupt (R441) -/

/-- The entry at the top of the stack ends; whether the target then sleeps is left open. -/
theorem Irqf.eoi_top (q : Irqf) {t : Fin 3} {n : Nat} {ms : List Nat} (h : q.stack.get t = n :: ms) :
    ∃ asleep, q.eoi t n =
      { (q.upd n fun e => { e with active := false }) with stack := q.stack.put t ms, asleep := asleep } := by
  simp only [Irqf.eoi, h, if_true]
  split
  · exact ⟨_, rfl⟩
  · exact ⟨q.asleep, rfl⟩

theorem Irqf.eoi_top_stack (q : Irqf) {t : Fin 3} {n : Nat} {ms : List Nat} (h : q.stack.get t = n :: ms) :
    (q.eoi t n).stack = q.stack.put t ms := by
  obtain ⟨_, e⟩ := q.eoi_top h
  rw [e]

theorem Irqf.eoi_top_get (q : Irqf) {t : Fin 3} {n : Nat} {ms : List Nat} (h : q.stack.get t = n :: ms) :
    (q.eoi t n).get n = { q.get n with active := false } := by
  obtain ⟨_, e⟩ := q.eoi_top h
  rw [e]
  exact q.get_upd_same n _

/-- The entry below the one ended sets the running group: priorities are kept, the ended entry's among them. -/
theorem Irqf.eoi_top_running (q : Irqf) {t : Fin 3} {n : Nat} {ms : List Nat} (h : q.stack.get t = n :: ms) :
    (q.eoi t n).running t = ms.head?.map fun m => q.group (q.get m).prio := by
  obtain ⟨_, e⟩ := q.eoi_top h
  simp only [e, Irqf.running, Tab.get_put_same]
  exact congrArg (ms.head?.map ·) (funext fun m => congrArg q.group (q.prio_upd n m fun _ => rfl))

theorem Irqf.eoi_ignored (q : Irqf) {t : Fin 3} {n : Nat} (h : (q.stack.get t).head? ≠ some n) : q.eoi t n = q.setErr 1 := by
  unfold Irqf.eoi
  split
  next m ms hm =>
    rw [hm] at h
    exact if_neg fun e => h (congrArg some e)
  next => rfl

/-! ### IRQF_EOIt -/

/-- A whole word of the fabric's registers, for every initiator. -/
theorem State.reach_irqf (s : State) (i : Initiator) {off : Nat} (hoff : off ≤ 0xFFF) (halign : off % 4 = 0)
    (hp : s.pwr.answers pdCtrl = true) : s.reach i (0x40900000 + off) = .ok .irqf off := by
  have haligned : ¬ (regSpace (0x40900000 + off) = true ∧ (0x40900000 + off) % 4 ≠ 0) := by omega
  have hwin : windowRange (0x40900000 + off) = true := by simp [windowRange]; omega
  have hblock : blockOf (0x40900000 + off) = some (.irqf, off) := by
    simp (disch := omega) [blockOf, if_neg, if_pos]
  have hmp : Block.irqf.mpOnly = false := rfl
  have hon : s.powered .irqf off = true := by simp [State.powered, Block.domain, hp]
  simp [State.reach, haligned, hwin, hblock, hmp, hon]

theorem State.writeEffect_irqEoi (s : State) {i : Initiator} (k : Fin 3) (v : Word) (hi : i ≠ .window) :
    s.writeEffect i .irqf (0x108 + k.val * 0x40) v = some (s.irqEoiBy k v) := by
  have hoff : 0x100 ≤ 0x108 + k.val * 0x40 ∧ 0x108 + k.val * 0x40 < 0x1C0 := by omega
  have hreg : (0x108 + k.val * 0x40) % 0x40 = 0x08 := by omega
  have htgt : Fin.ofNat 3 ((0x108 + k.val * 0x40 - 0x100) / 0x40) = k := by revert k; decide
  simpa [State.writeEffect, hoff, hreg, hi] using congrArg (s.irqEoiBy · v) htgt

theorem State.busWrite_irqEoi (s : State) {i : Initiator} (k : Fin 3) (v : Word) (hi : i ≠ .window)
    (hp : s.pwr.answers pdCtrl = true) : s.busWrite i (0x40900108 + k.val * 0x40) v = s.irqEoiBy k v := by
  have haddr : 0x40900108 + k.val * 0x40 = 0x40900000 + (0x108 + k.val * 0x40) := by omega
  have hreach := s.reach_irqf i (off := 0x108 + k.val * 0x40) (by omega) (by omega) hp
  simp [State.busWrite, haddr, hreach, State.writeBlock, s.writeEffect_irqEoi k v hi]

/-! ### The commands -/

theorem exec_irqRaise (s : State) {n : Fin 256} (hn : n.val ≠ 255) : exec (.irqRaise n) s = .next (s.raise n.val) :=
  congrArg Host.Outcome.next (if_neg hn)

theorem exec_irqEoi (s : State) {i : Initiator} (k : Fin 3) (v : Word) (hi : i ≠ .window) (hp : s.pwr.answers pdCtrl = true) :
    exec (.irqEoi i k v) s = .next { s with irqf := s.irqf.eoi k (bits v 7 0) } :=
  congrArg Host.Outcome.next (s.busWrite_irqEoi k v hi hp)

/-- Settles O55: a raise by the pending flag it finds, an end of interrupt by the top of the stack. -/
theorem interruptsAreRaisedAndEnded : Obligations.InterruptsAreRaisedAndEnded := by
  refine ⟨fun s n hu hn => ⟨fun hp => ?_, fun hp hc => ?_⟩, ?_⟩
  · rw [exec_irqRaise s hn, State.raise, s.irqf.raise_idle hu hp]
  · rw [exec_irqRaise s hn, State.raise, s.irqf.raise_pending hu hp hc]
  · rintro s i k v n hi hon rfl
    have hproc : i ≠ .window := by rintro rfl; simp at hi
    refine ⟨fun ms htop => ⟨_, exec_irqEoi s k v hproc hon, ?_⟩, fun hother => ⟨_, exec_irqEoi s k v hproc hon, ?_⟩⟩
    · have hend := s.irqf.eoi_top_get htop
      exact ⟨s.irqf.eoi_top_stack htop, by rw [hend], by rw [hend], s.irqf.eoi_top_running htop, rfl⟩
    · rw [s.irqf.eoi_ignored hother]
      refine ⟨?_, s.irqf.setErr_stack 1, rfl, fun m hm => s.irqf.setErr_ent_ne 1 hm⟩
      rw [s.irqf.setErr_err]
      exact bit_setFlag_same _ (by decide)

end Sys2Proof.Machine
end

section
/-! PROOF. What every command of the block keeps (Laws/Keeps.lean), and what every step keeps of it: the memories stay canonical, one
command leaves the queue, and what flash and fuses keep is kept. -/

namespace Sys2Proof.Machine

/-- Whatever next state an outcome answers, what `s` keeps is kept in it. -/
def KeepsNext (s : State) (o : Out') : Prop := ∀ t, o = .next t → Keeps s t

theorem KeepsNext.next {s t : State} (h : Keeps s t) : KeepsNext s (.next t) := by
  rintro _ ⟨⟩
  exact h

theorem KeepsNext.orRefused {s : State} {o : Out'} {c : Prop} [Decidable c] {r : Refusal} (h : KeepsNext s o) :
    KeepsNext s (if c then .refused r else o) := by
  split
  · rintro _ ⟨⟩
  · exact h

/-- A change of none of what is kept. -/
theorem Keeps.same {s0 s t : State} (h : Keeps s0 s) (hq : t.pending = s.pending) (hn : t.nv = s.nv)
    (hf : t.foyer.sram = s.foyer.sram) (hm : t.mem = s.mem) (hr : t.fresh = s.fresh) : Keeps s0 t :=
  h.trans ⟨hq, fun w => hf ▸ w, fun w => hm ▸ w, hn ▸ NvKeeps.refl _, Nat.le_of_eq hr.symm⟩

/-- A change of wave memory that keeps it canonical. -/
theorem Keeps.setMem {s0 s : State} (h : Keeps s0 s) {m : WaveMem} (hm : s.mem.wf = true → m.wf = true) :
    Keeps s0 { s with mem := m } :=
  h.trans ⟨rfl, fun w => w, hm, NvKeeps.refl _, Nat.le_refl _⟩

/-- What a command row does where its condition holds, seen from the state it starts from. -/
theorem KeepsNext.when {s0 s : State} {b : Bool} {f : State → State} (h : Keeps s0 s) (hf : ∀ t, Keeps s0 t → Keeps s0 (f t)) :
    KeepsNext s0 (.next (s.when b f)) :=
  .next (State.when_keeps b f hf h)

/-- A host command keeps what its body keeps. -/
theorem KeepsNext.row {s : State} {h : Fin 8} (o : Opcode) (hb : ∀ t i c, Keeps s t → Keeps s (o.body t i c).st) :
    KeepsNext s (o.row h s) :=
  .next (o.take_keeps hb o.is h (Keeps.refl s))

/-- A console command keeps what its action keeps. -/
theorem KeepsNext.console {s : State} {n : Fin 4} {k : Con} {f : List (List Byte) → List Byte → State → State}
    (hf : ∀ as l t, Keeps s t → Keeps s (f as l t)) : KeepsNext s (.next (s.conRow n k f)) :=
  .next (State.conRow_keeps n k f hf (Keeps.refl s))

/-- A transaction keeps what its act keeps. -/
theorem KeepsNext.txn {s : State} {p : Fin 2} {code seq : Nat} {ph : Phase} {act : State → State × PortRes × List Byte}
    (ha : ∀ t, Keeps s t → Keeps s (act t).1) : KeepsNext s (.next (s.txn p code seq ph act)) :=
  .next (State.txn_keeps p code seq ph act ha (Keeps.refl s))

theorem KeepsNext.busWrite (s : State) (i : Initiator) (a : Nat) (v : Word) : KeepsNext s (.next (s.busWrite i a v)) :=
  .next (State.busWrite_keeps i a v (Keeps.refl s))

theorem KeepsNext.busRead (s : State) (i : Initiator) (a : Nat) : KeepsNext s (.next (s.busRead i a)) :=
  .next (State.busRead_keeps i a (Keeps.refl s))

/-- Symbol errors that appear in wave memory keep it canonical. -/
theorem Keeps.upset {s0 s : State} (us : Upsets) (h : Keeps s0 s) : Keeps s0 { s with mem := s.mem.upset us } :=
  h.setMem (s.mem.wf_upset us)

/-! ### The rows of the register bus -/

theorem execWrongWidthAccess_keeps (i : Initiator) (a : Word) (w : Bool) (s : State) : KeepsNext s (execWrongWidthAccess i a w s) :=
  .when (Keeps.refl s) fun _ h => State.zeroRead_keeps _ (State.sizeErr_keeps _ h)

theorem execUnmappedAccess_keeps (i : Initiator) (a : Word) (w : Bool) (s : State) : KeepsNext s (execUnmappedAccess i a w s) :=
  .when (Keeps.refl s) fun _ h => State.zeroRead_keeps _ (State.unmappedErr_keeps _ h)

theorem execDeniedAccess_keeps (i : Initiator) (a : Word) (w : Bool) (s : State) : KeepsNext s (execDeniedAccess i a w s) :=
  .when (Keeps.refl s) fun _ h => State.zeroRead_keeps _ (State.deniedErr_keeps _ h)

theorem execOffDomainAccess_keeps (i : Initiator) (a : Word) (w : Bool) (s : State) : KeepsNext s (execOffDomainAccess i a w s) := by
  unfold execOffDomainAccess
  split
  · exact .next (State.zeroRead_keeps _ (State.offErr_keeps _ (Keeps.refl s)))
  · exact .next (Keeps.refl s)

theorem execPairLoRead_keeps (i : Initiator) (a : Word) (s : State) : KeepsNext s (execPairLoRead i a s) := by
  unfold execPairLoRead
  split
  · exact .when (Keeps.refl s) fun _ h => State.busRead_keeps _ _ h
  · exact .next (Keeps.refl s)

theorem execPairHiWrite_keeps (i : Initiator) (a v : Word) (s : State) : KeepsNext s (execPairHiWrite i a v s) := by
  unfold execPairHiWrite
  split
  · exact .when (Keeps.refl s) fun _ h => State.pairHold_keeps _ _ h
  · exact .next (Keeps.refl s)

theorem execPairLoWrite_keeps (i : Initiator) (a v : Word) (s : State) : KeepsNext s (execPairLoWrite i a v s) := by
  unfold execPairLoWrite
  split
  · exact .when (Keeps.refl s) fun _ h => State.pairCommit_keeps _ _ _ _ h
  · exact .next (Keeps.refl s)

/-! ### The rows of SCHED and rendering -/

theorem execEventListClose_keeps (s : State) : KeepsNext s (execEventListClose s) :=
  .when (Keeps.refl s) fun _ h => Keeps.ite (fun _ => State.closeList_keeps _ (State.runTo_keeps _ h))
    fun _ => (State.runTo_keeps _ h).same rfl rfl rfl rfl rfl

theorem execEventApply_keeps (s : State) : KeepsNext s (execEventApply s) := by
  unfold execEventApply
  split
  · exact .when (Keeps.refl s) fun _ h => State.runTo_keeps _ h
  · exact .next (Keeps.refl s)

theorem execEngineRenderFrame_keeps (e : Fin 64) (us : Upsets) (s : State) : KeepsNext s (execEngineRenderFrame e us s) := by
  unfold execEngineRenderFrame
  refine .orRefused ?_
  dsimp only
  split
  · exact .when (Keeps.upset us (Keeps.refl s)) fun _ h => State.render_keeps _ _ h
  · exact .next (Keeps.upset us (Keeps.refl s))

theorem execKeepaliveKill_keeps (h : Fin 8) (s : State) : KeepsNext s (execKeepaliveKill h s) := by
  unfold execKeepaliveKill
  split
  · exact .when (Keeps.refl s) fun _ k => State.updHall_keeps _ _ (State.lapseKill_keeps _ _ k)
  · exact .next (Keeps.refl s)

/-! ### The rows of the output chain -/

theorem execMuteCause_keeps (c : MuteSrc) (s : State) : KeepsNext s (execMuteCause c s) :=
  .when (Keeps.refl s) fun _ h => Keeps.ite (fun _ => State.vrefOut_keeps h) fun _ => State.muteNow_keeps h

theorem execTdmOutputFrame_keeps (s : State) : KeepsNext s (execTdmOutputFrame s) := by
  refine .when (Keeps.refl s) fun t h => State.fillOut_keeps ?_
  have hsent := (State.runTo_keeps (s.edgeEt s.tdm.edge) h).same (t := { t.runTo (s.edgeEt s.tdm.edge) with
    tdm := ((t.runTo (s.edgeEt s.tdm.edge)).tdm.send (t.runTo (s.edgeEt s.tdm.edge)).slots8
      ((t.runTo (s.edgeEt s.tdm.edge)).edgeAt (t.runTo (s.edgeEt s.tdm.edge)).tdm.edge)).1 }) rfl rfl rfl rfl rfl
  have hflag := Keeps.foldl (l := ((t.runTo (s.edgeEt s.tdm.edge)).tdm.send (t.runTo (s.edgeEt s.tdm.edge)).slots8
    ((t.runTo (s.edgeEt s.tdm.edge)).edgeAt (t.runTo (s.edgeEt s.tdm.edge)).tdm.edge)).2)
    (f := fun (s : State) l => s.tdmErr (2 + l)) (fun _ _ k => State.tdmErr_keeps _ k) hsent
  exact Keeps.ite (fun _ => hflag.same rfl rfl rfl rfl rfl) fun _ => hflag

theorem execTdmInputFrame_keeps (ls : List (List Word)) (s : State) : KeepsNext s (execTdmInputFrame ls s) := by
  unfold execTdmInputFrame
  refine .orRefused (.when (Keeps.refl s) fun t h => Keeps.foldl (fun _ _ k => State.tdmErr_keeps _ k) ?_)
  exact Keeps.ite (fun _ => State.outErr_keeps _ ((State.runTo_keeps _ h).same rfl rfl rfl rfl rfl))
    fun _ => (State.runTo_keeps _ h).same rfl rfl rfl rfl rfl

theorem execLockLost_keeps (s : State) : KeepsNext s (execLockLost s) :=
  .when (Keeps.refl s) fun _ h =>
    State.outErr_keeps _ (State.guar_keeps _ (State.trackOn_keeps (h.same rfl rfl rfl rfl rfl)))

theorem execWclkRelock_keeps (phi : Nat) (edge : Int) (s : State) : KeepsNext s (execWclkRelock phi edge s) :=
  .when (Keeps.refl s) fun _ _ => State.outErr_keeps _ (State.fillOut_keeps (State.formOuts_keeps
    ((State.regrid_keeps phi (State.trackOff_keeps (Keeps.refl s))).same rfl rfl rfl rfl rfl)))

theorem execWclkLost_keeps (s : State) : KeepsNext s (execWclkLost s) :=
  .when (Keeps.refl s) fun _ h => Keeps.ite (fun _ => State.wclkGone_keeps h)
    fun _ => State.muteNow_keeps (State.dacErr_keeps _ (h.same rfl rfl rfl rfl rfl))

theorem execWclkReturn_keeps (phi : Nat) (s : State) : KeepsNext s (execWclkReturn phi s) := by
  unfold execWclkReturn
  split
  · exact .when (Keeps.refl s) fun _ h => h.same rfl rfl rfl rfl rfl
  · refine .when (Keeps.refl s) fun _ h => State.fillOut_keeps (State.formOuts_keeps ?_)
    have hr := State.regrid_keeps phi (State.trackOff_keeps h)
    exact Keeps.ite (fun _ => State.guar_keeps _ (State.trackOn_keeps (hr.same rfl rfl rfl rfl rfl)))
      fun _ => hr.same rfl rfl rfl rfl rfl

/-! ### The rows of SPEC -/

theorem execConvSwitch_keeps (k : Fin 8) (s : State) : KeepsNext s (execConvSwitch k s) := by
  unfold execConvSwitch
  extract_lets c
  split
  · refine .when (Keeps.refl s) fun t h => ?_
    extract_lets b u
    have hu : Keeps s u := State.convSwitchAt_keeps _ _ _ (State.runTo_keeps _ h)
    clear_value u
    split
    · exact Keeps.ite (fun _ => State.endWait_keeps _ _ _ hu) fun _ => hu
    · exact hu
  · exact .next (Keeps.refl s)

theorem execSpecBlock_keeps (us : Upsets) (s : State) : KeepsNext s (execSpecBlock us s) := by
  unfold execSpecBlock
  refine .orRefused (.when (Keeps.upset us (Keeps.refl s)) fun t h => ?_)
  dsimp only
  have hb : Keeps s ((List.finRange 8).foldl (fun t k => t.convOne s.spec.next k) t) :=
    Keeps.foldl (fun _ _ => State.convOne_keeps _ _) h
  generalize (List.finRange 8).foldl (fun t k => t.convOne s.spec.next k) t = u at hb ⊢
  split
  · exact State.specErr_keeps _ (hb.same rfl rfl rfl rfl rfl)
  · exact hb.same rfl rfl rfl rfl rfl

theorem execResynBlock_keeps (i : Fin 2) (s : State) : KeepsNext s (execResynBlock i s) :=
  .when (Keeps.refl s) fun _ h => State.updAn_keeps _ _ (h.same rfl rfl rfl rfl rfl)

theorem execResynCtrlWrite_keeps (i : Fin 2) (s : State) : KeepsNext s (execResynCtrlWrite i s) := by
  unfold execResynCtrlWrite
  dsimp only
  split
  · exact .next (Keeps.refl s)
  · exact .next (State.updHall_keeps _ _ (State.updAn_keeps _ _ (Keeps.refl s)))

theorem execSpecWmError_keeps (u : WmUnit) (s : State) : KeepsNext s (execSpecWmError u s) := by
  unfold execSpecWmError
  split
  · exact .next (Keeps.refl s)
  · refine .when (Keeps.refl s) fun _ h => ?_
    refine Keeps.ite (fun _ => State.specHalt_keeps ?_) fun _ => ?_
    all_goals
      apply State.unitNotice_keeps
      apply State.log_keeps
      apply State.guar_keeps
      apply State.specErr_keeps
      exact h.same rfl rfl rfl rfl rfl

/-! ### The rows of wave memory and of the loads -/

theorem execArbiterDecision_keeps (c : Fin 4) (ps : List (Fin 12)) (w : Bool) (s : State) : KeepsNext s (execArbiterDecision c ps w s) :=
  .when (Keeps.refl s) fun t h => h.setMem (t.mem.wf_updCh _ _)

theorem execScrubPatrolRead_keeps (c : Fin 4) (us : Upsets) (s : State) : KeepsNext s (execScrubPatrolRead c us s) := by
  unfold execScrubPatrolRead
  refine .orRefused ?_
  extract_lets s'
  split
  · refine .when (Keeps.upset us (Keeps.refl s)) fun t h => ?_
    extract_lets u v
    have hv : Keeps s v := (State.runTo_keeps _ h).setMem (WaveMem.wf_updCh _ _ _)
    exact Keeps.ite (fun _ => State.patrolRead_keeps c hv) fun _ => hv
  · exact .next (Keeps.upset us (Keeps.refl s))

theorem execScrubWriteBack_keeps (c : Fin 4) (us : Upsets) (s : State) : KeepsNext s (execScrubWriteBack c us s) := by
  unfold execScrubWriteBack
  refine .orRefused (.next ?_)
  have hu := Keeps.upset us (Keeps.refl s)
  dsimp only
  split
  · have hw := hu.setMem (WaveMem.wf_updCh (s.mem.upset us) c MemCh.nextWb)
    refine Keeps.ite (fun _ => hw) fun _ => Keeps.ite (fun _ => ?_) fun _ => ?_
    · exact State.memDo_keeps _ (WaveMem.wf_poisonCw _ _ _) hw
    · exact hw.setMem (WaveMem.wf_rewrite _ _)
  · exact hu

theorem execPageScrubEnd_keeps (c : Fin 4) (us : Upsets) (s : State) : KeepsNext s (execPageScrubEnd c us s) := by
  unfold execPageScrubEnd
  refine .orRefused (.next ?_)
  have hu := Keeps.upset us (Keeps.refl s)
  dsimp only
  split
  · exact hu
  · refine Keeps.ite (fun _ => hu) fun _ => State.servePages_keeps (State.scrubEnded_keeps _ _ _ _ (hu.setMem fun w => ?_))
    refine WaveMem.wf_scrub _ _ _ _ _ ?_
    split
    · exact WaveMem.wf_zeroPage _ _ (WaveMem.wf_updCh _ _ _ w)
    · exact WaveMem.wf_updCh _ _ _ w

theorem execSealedLoadDone_keeps (h : Fin 8) (s : State) : KeepsNext s (execSealedLoadDone h s) := by
  unfold execSealedLoadDone
  refine .next ?_
  split
  · split
    · extract_lets u
      have hu : Keeps s u := by
        apply State.memDo_keeps
        · exact s.mem.wf_readCws _
        · exact Keeps.refl s
      clear_value u
      split
      · refine State.endWait_keeps _ _ _ (State.erasePkg_keeps _ (Keeps.foldl (fun _ _ k => ?_) hu))
        exact State.fillPage_keeps _ _ _ k
      · refine State.endWait_keeps _ _ _ (State.erasePkg_keeps _ (Keeps.foldl (fun _ _ k => ?_) hu))
        exact State.fillPage_keeps _ _ _ k
    · exact Keeps.refl s
  · exact Keeps.refl s

theorem execProgLoadDone_keeps (h : Fin 8) (s : State) : KeepsNext s (execProgLoadDone h s) := by
  unfold execProgLoadDone
  refine .next ?_
  split
  · split
    · split
      · exact State.storeProg_keeps _ _ _ _ (Keeps.refl s)
      · exact State.endWait_keeps _ _ _ (State.wipePages_keeps _ (Keeps.refl s))
    · exact Keeps.refl s
  · exact Keeps.refl s

theorem execWaveWrite_keeps (h : Fin 8) (s : State) : KeepsNext s (execWaveWrite h s) := by
  unfold execWaveWrite
  refine .next ?_
  split
  · exact Keeps.ite (fun _ => State.takeBulk_keeps _ _ (Keeps.refl s)) fun _ => Keeps.refl s
  · exact opWaveWrite.take_keeps (fun _ i c => cmdWaveWrite_keeps i c) _ h (Keeps.refl s)

/-! ### The rows of flash, resets and management -/

theorem execFlashEraseDone_keeps (s : State) : KeepsNext s (execFlashEraseDone s) := by
  unfold execFlashEraseDone
  refine .next ?_
  split
  · dsimp only
    split
    · exact State.say_keeps _ _ (State.flashWrote_keeps _ _ (State.updMgmt_keeps _ (Keeps.refl s)))
    · exact State.flashAnswer_keeps _ _ (State.flashWrote_keeps _ _ (State.updMgmt_keeps _ (Keeps.refl s)))
  · exact Keeps.refl s

theorem execFlashProgramDone_keeps (s : State) : KeepsNext s (execFlashProgramDone s) := by
  unfold execFlashProgramDone
  refine .next ?_
  split
  · dsimp only
    split
    · exact State.say_keeps _ _ (State.updMgmt_keeps _ (State.flashWrote_keeps _ _
        (State.updNv_keeps _ (NvKeeps.of rfl rfl rfl rfl rfl) (Keeps.refl s))))
    · exact State.flashAnswer_keeps _ _ (State.updMgmt_keeps _ (State.flashWrote_keeps _ _
        (State.updNv_keeps _ (NvKeeps.of rfl rfl rfl rfl rfl) (Keeps.refl s))))
  · exact Keeps.refl s

theorem execInternalReset_keeps (s : State) : KeepsNext s (execInternalReset s) := by
  unfold execInternalReset
  refine .next ?_
  split
  · exact State.internalReset_keeps _ (Keeps.refl s)
  · exact Keeps.refl s

theorem execJtagReset_keeps (s : State) : KeepsNext s (execJtagReset s) :=
  .when (Keeps.refl s) fun _ h => State.when_keeps _ _ (fun _ k => State.internalReset_keeps _ k) (State.tapInstr_keeps _ h)

theorem execStartup_keeps (s : State) : KeepsNext s (execStartup s) := by
  unfold execStartup
  refine .when (Keeps.refl s) fun t h => ?_
  extract_lets bad time pins u1 u2 u3 r
  have h1 : Keeps s u1 := h.trans ⟨rfl, fun w => w, fun w => w, NvKeeps.refl _, Nat.le_succ _⟩
  have h2 : Keeps s u2 := Keeps.ite (fun _ => h1) fun _ => State.updRec_keeps _ _ (NvKeeps.of rfl rfl rfl rfl rfl) h1
  have h3 : Keeps s u3 := Keeps.ite (fun _ => h2) fun _ => State.log_keeps _ _ _ h2
  have h4 : Keeps s r.1 := State.bootSlot_keeps h3
  split
  · exact State.startFirmware_keeps _ _ _ _ h4
  · exact State.recovery_keeps h4

theorem execIrqRaise_keeps (n : Fin 256) (s : State) : KeepsNext s (execIrqRaise n s) :=
  .next (Keeps.ite (fun _ => State.healthy_keeps (State.raise_keeps _ (Keeps.refl s))) fun _ => State.raise_keeps _ (Keeps.refl s))

theorem execTempSample_keeps (ts : List Int) (s : State) : KeepsNext s (execTempSample ts s) := by
  unfold execTempSample
  refine .orRefused (.next (State.thermEnter_keeps ?_))
  exact Keeps.ite (fun _ => State.alcoveWipe_keeps _ (State.updMgmt_keeps _ (Keeps.refl s)))
    fun _ => State.updMgmt_keeps _ (Keeps.refl s)

theorem execThermalStepExit_keeps (s : State) : KeepsNext s (execThermalStepExit s) := by
  unfold execThermalStepExit
  dsimp only
  split
  · exact .next (Keeps.refl s)
  · exact .when (Keeps.refl s) fun _ h => State.updMgmt_keeps _ h
  · exact .when (Keeps.refl s) fun _ h => State.updMgmt_keeps _ h
  · exact .when (Keeps.refl s) fun _ h => h.same rfl rfl rfl rfl rfl

theorem execVoltageSample_keeps (mv : List Nat) (s : State) : KeepsNext s (execVoltageSample mv s) := by
  unfold execVoltageSample
  refine .orRefused (.next ?_)
  have h : Keeps s ((List.finRange 16).foldl (fun s d => s.voltOne d (mv.getD d.val 0)) s) :=
    Keeps.foldl (fun _ _ k => State.voltOne_keeps _ _ k) (Keeps.refl s)
  exact Keeps.ite (fun _ => State.guar_keeps _ h) fun _ => h

theorem execPaceReading_keeps (k : Fin 10) (r : Nat) (s : State) : KeepsNext s (execPaceReading k r s) := by
  unfold execPaceReading
  refine .orRefused (.next (State.raise_keeps _ ?_))
  exact Keeps.ite (fun _ => State.notePace_keeps _ _ (State.updMgmt_keeps _ (Keeps.refl s)))
    fun _ => State.updMgmt_keeps _ (Keeps.refl s)

theorem execFirmwareStop_keeps (s : State) : KeepsNext s (execFirmwareStop s) :=
  .when (Keeps.refl s) fun _ h => State.log_keeps _ _ _ (State.raise_keeps _ (State.muteNow_keeps
    ((State.updMgmt_keeps _ h).same rfl rfl rfl rfl rfl)))

/-- A trial that is confirmed blows fuses up to the slot's index, never back. -/
theorem execTrialConfirm_keeps (s : State) : KeepsNext s (execTrialConfirm s) := by
  refine .when (Keeps.refl s) fun t h => State.logUpd_keeps _ _ (State.updMgmt_keeps _ (State.updRec_keeps _ _ ?_ h))
  refine ⟨rfl, rfl, fun hf => ?_, Nat.le_refl _, fun _ hp => hp⟩
  dsimp only
  omega

theorem execTrialFail_keeps (s : State) : KeepsNext s (execTrialFail s) := by
  refine .when (Keeps.refl s) fun t h => ?_
  extract_lets n void u v
  have hu : Keeps s u := State.updRec_keeps _ _ (NvKeeps.of rfl rfl rfl rfl rfl) h
  have hv : Keeps s v := State.internalReset_keeps _ (State.logUpd_keeps _ _ hu)
  exact Keeps.ite (fun _ => State.logUpd_keeps _ _ hv) fun _ => hv

theorem execSummaryWrite_keeps (s : State) : KeepsNext s (execSummaryWrite s) :=
  .when (Keeps.refl s) fun _ h => State.updMgmt_keeps _ (State.sramWrite_keeps _ _ h)

/-! ### The rows of the serial ports -/

theorem execSerialCharacter_keeps (n : Fin 4) (ch : SerChar) (s : State) : KeepsNext s (execSerialCharacter n ch s) := by
  unfold execSerialCharacter
  refine .when (Keeps.refl s) fun t h => Keeps.ite (fun _ => State.autobaud_keeps _ _ h) fun _ => Keeps.ite (fun _ => ?_) fun _ =>
    Keeps.ite (fun _ => ?_) fun _ => h
  · split
    · exact State.serChar_keeps _ _ _ _ h
    · exact h
  · split
    · exact State.updSer_keeps _ _ h
    · exact h

theorem execSerialBreak_keeps (e : LineBreak) (s : State) : KeepsNext s (execSerialBreak e s) :=
  .when (Keeps.refl s) fun _ h => Keeps.ite (fun _ => State.updSer_keeps _ _ h)
    fun _ => State.updSer_keeps _ _ (State.serStore_keeps _ _ h)

theorem execBreakLineHigh_keeps (n : Fin 4) (s : State) : KeepsNext s (execBreakLineHigh n s) := by
  refine .when (Keeps.refl s) fun t h => ?_
  dsimp only
  split
  · exact State.serKeep_keeps _ _ (State.updSer_keeps _ _ h)
  · exact State.updSer_keeps _ _ h

theorem execMidiMessage_keeps (n : Fin 4) (s : State) : KeepsNext s (execMidiMessage n s) := by
  unfold execMidiMessage
  split
  · exact .next (Keeps.refl s)
  · refine .when (Keeps.refl s) fun t h => ?_
    have hs := fun f => State.serTraffic_keeps n (State.updSer_keeps n f h)
    dsimp only
    split
    · exact State.midiMake_keeps _ _ _ (hs _)
    · exact hs _

theorem execDmxPacket_keeps (n : Fin 4) (s : State) : KeepsNext s (execDmxPacket n s) := by
  unfold execDmxPacket
  split
  · exact .next (Keeps.refl s)
  · exact .when (Keeps.refl s) fun t h => Keeps.foldl (fun _ _ k => State.dmxApply_keeps _ _ _ _ _ k)
      (State.serTraffic_keeps n (State.updSer_keeps n _ h))

theorem execDmxLoss_keeps (n : Fin 4) (s : State) : KeepsNext s (execDmxLoss n s) :=
  .when (Keeps.refl s) fun _ h => State.log_keeps _ _ _ (State.serErr_keeps _ _ (State.updSer_keeps _ _ h))

theorem execRdmRequest_keeps (n : Fin 4) (s : State) : KeepsNext s (execRdmRequest n s) := by
  unfold execRdmRequest
  split
  · exact .next (Keeps.refl s)
  · refine .when (Keeps.refl s) fun t h => ?_
    refine Keeps.ite (fun _ => State.serDrop_keeps _ (State.updSer_keeps _ _ h)) fun _ => ?_
    split
    · exact State.rdmServe_keeps _ _ (State.updSer_keeps _ _ h)
    · exact State.updSer_keeps _ _ h

theorem execTsbFrame_keeps (n : Fin 4) (s : State) : KeepsNext s (execTsbFrame n s) := by
  unfold execTsbFrame
  split
  · exact .next (Keeps.refl s)
  · refine .when (Keeps.refl s) fun t h => ?_
    refine Keeps.ite (fun _ => State.updSer_keeps _ _ h) fun _ => ?_
    split
    · exact Keeps.ite (fun _ => State.tsbHear_keeps _ _ _ (State.updSer_keeps _ _ h)) fun _ => State.updSer_keeps _ _ h
    · exact State.tsbTake_keeps _ _ _ _ _ _ (State.updSer_keeps _ _ h)
    · exact State.updSer_keeps _ _ h

theorem execTsbCollision_keeps (n : Fin 4) (s : State) : KeepsNext s (execTsbCollision n s) :=
  .when (Keeps.refl s) fun _ h => Keeps.ite (fun _ => State.serErr_keeps _ _ (State.updSer_keeps _ _ h))
    fun _ => State.updSer_keeps _ _ h

theorem execConsoleSessionTimeout_keeps (s : State) : KeepsNext s (execConsoleSessionTimeout s) := by
  unfold execConsoleSessionTimeout
  split
  · exact .when (Keeps.refl s) fun _ h => State.endSession_keeps h
  · exact .next (Keeps.refl s)

/-! ### The rows of power, fences, time and pins -/

theorem execWakeTimeout_keeps (d : Fin 16) (s : State) : KeepsNext s (execWakeTimeout d s) :=
  .when (Keeps.refl s) fun _ h =>
    State.wakeLost_keeps _ (State.domOff_keeps _ _ (State.logAs_keeps _ _ _ _ (State.pwrErr_keeps _ h)))

theorem execDomainSwitchedOff_keeps (d : Fin 16) (s : State) : KeepsNext s (execDomainSwitchedOff d s) :=
  .when (Keeps.refl s) fun _ h => Keeps.ite (fun _ => State.parkDone_keeps _ (State.domOff_keeps _ _ h))
    fun _ => State.domOff_keeps _ _ h

theorem execAutoPark_keeps (s : State) : KeepsNext s (execAutoPark s) :=
  .when (Keeps.refl s) fun _ h => Keeps.foldl (fun _ _ k => Keeps.ite (fun _ => State.switch_keeps _ _ k) fun _ => k) h

theorem execSelftestDone_keeps (e : Fin 64) (pass : Bool) (s : State) : KeepsNext s (execSelftestDone e pass s) := by
  refine .when (Keeps.refl s) fun t h => ?_
  have hl := fun f => State.fenceLift_keeps 1 e.val (State.updEng_keeps e f h)
  exact Keeps.ite (fun _ => State.fenceDone_keeps _ (hl _)) fun _ => State.fenceDone_keeps _ (State.noteFenced_keeps _
    (State.raise_keeps _ (State.fenceAdd_keeps _ _ _ _ (hl _))))

theorem State.edgesGone_keeps {s0 s : State} (h : Keeps s0 s) : Keeps s0 s.edgesGone :=
  Keeps.ite (fun _ => State.wclkGone_keeps (h.same rfl rfl rfl rfl rfl)) fun _ => h.same rfl rfl rfl rfl rfl

theorem State.refclkGone_keeps {s0 s : State} (h : Keeps s0 s) : Keeps s0 s.refclkGone :=
  Keeps.ite (fun _ => h) fun _ => State.edgesGone_keeps (State.refBad_keeps _ h)

theorem execRefclkLost_keeps (s : State) : KeepsNext s (execRefclkLost s) := by
  refine .when (Keeps.refl s) fun t h => ?_
  have h1 : Keeps s { t with fresh := t.fresh + 1 } := h.trans ⟨rfl, fun w => w, fun w => w, NvKeeps.refl _, Nat.le_succ _⟩
  refine Keeps.ite (fun _ => h1) fun _ => Keeps.ite (fun _ => State.refBad_keeps _ h1) fun _ => ?_
  exact State.edgesGone_keeps (State.refBad_keeps _ h1)

theorem execRefclkRestored_keeps (s : State) : KeepsNext s (execRefclkRestored s) := by
  refine .when (Keeps.refl s) fun t h => ?_
  have h1 : Keeps s { t with time := { t.time with refclk := true } } := h.same rfl rfl rfl rfl rfl
  have h2 : Keeps s (if t.time.refclk then { t with time := { t.time with refclk := true } }
      else ({ t with time := { t.time with refclk := true } } : State).wclkBack) :=
    Keeps.ite (fun _ => h1) fun _ => State.wclkBack_keeps h1
  exact (State.pass_keeps _ h2).same rfl rfl rfl rfl rfl

theorem execTimerCompareMatch_keeps (n : Fin 16) (s : State) : KeepsNext s (execTimerCompareMatch n s) := by
  unfold execTimerCompareMatch
  refine .next ?_
  split
  · exact State.toTick_keeps _ _ (Keeps.refl s)
  · exact Keeps.refl s

theorem execDebugHalt_keeps (cp : Fin 2) (s : State) : KeepsNext s (execDebugHalt cp s) :=
  .when (Keeps.refl s) fun _ h => State.when_keeps _ _ (fun _ k => k.same rfl rfl rfl rfl rfl) (State.tapInstr_keeps _ h)

theorem execTriggerEdge_keeps (t : Fin 8) (rising : Bool) (ns : Nat) (half : Bool) (s : State) :
    KeepsNext s (execTriggerEdge t rising ns half s) := by
  refine .when (Keeps.refl s) fun u h => ?_
  have hl := fun f => State.updTrg_keeps t f h
  refine Keeps.ite (fun _ => hl _) fun _ => Keeps.ite (fun _ => State.updTrg_keeps _ _ (hl _)) fun _ =>
    Keeps.ite (fun _ => hl _) fun _ => ?_
  have ht := fun f g => State.trigTick_keeps t (State.updTrg_keeps t g (hl f))
  exact Keeps.ite (fun _ => State.trigStamp_keeps _ _ _ (ht _ _)) fun _ => ht _ _

theorem State.edgesSeen_keeps {s0 s : State} (h : Keeps s0 s) : Keeps s0 s.edgesSeen :=
  Keeps.ite (fun _ => h) fun _ => h.same rfl rfl rfl rfl rfl

theorem State.sysGone_keeps {s0 s : State} (h : Keeps s0 s) : Keeps s0 s.sysGone :=
  State.refclkGone_keeps (h.same rfl rfl rfl rfl rfl)

theorem execBankVddioLost_keeps (b : Bank) (s : State) : KeepsNext s (execBankVddioLost b s) := by
  unfold execBankVddioLost
  extract_lets pins u
  have hu : Keeps s u := (Keeps.refl s).same rfl rfl rfl rfl rfl
  exact .next (Keeps.ite (fun _ => hu.same rfl rfl rfl rfl rfl) fun _ => Keeps.ite (fun _ => State.sysGone_keeps hu) fun _ => hu)

theorem execBankVddioRestored_keeps (b : Bank) (s : State) : KeepsNext s (execBankVddioRestored b s) := by
  unfold execBankVddioRestored
  extract_lets pins u
  have hu : Keeps s u := (Keeps.refl s).same rfl rfl rfl rfl rfl
  exact .next (Keeps.ite (fun _ => State.edgesSeen_keeps hu) fun _ => hu)

/-! ### The rows of the host ports -/

theorem execIrqModTimeout_keeps (h : Fin 8) (s : State) : KeepsNext s (execIrqModTimeout h s) := by
  unfold execIrqModTimeout
  dsimp only
  split
  · exact .when (Keeps.refl s) fun _ k => State.irqEval_keeps _ (State.pass_keeps _ k)
  · exact .next (Keeps.refl s)

theorem execIncompleteTransaction_keeps (p : Fin 2) (code seq : Byte) (s : State) :
    KeepsNext s (execIncompleteTransaction p code seq s) :=
  .next (Keeps.ite (fun _ => State.noise_keeps _ _ _ _ _ (Keeps.refl s)) fun _ => State.unframed_keeps _ _ (Keeps.refl s))

theorem execMbxGo_keeps (p : Fin 2) (s : State) : KeepsNext s (execMbxGo p s) :=
  .next (Keeps.ite (fun _ => State.mbxRun_keeps _ (State.mbxStart_keeps _ (Keeps.refl s)))
    fun _ => State.mbxStart_keeps _ (Keeps.refl s))

/-- Every command keeps what every operation keeps: the split is along the rows of the opcode table. -/
theorem exec_keeps (c : Instr) (s : State) : KeepsNext s (exec c s) := by
  cases c with
  | wrongWidthAccess ini addr write => exact execWrongWidthAccess_keeps ini addr write s
  | unmappedAccess ini addr write => exact execUnmappedAccess_keeps ini addr write s
  | deniedAccess ini addr write => exact execDeniedAccess_keeps ini addr write s
  | offDomainAccess ini addr write => exact execOffDomainAccess_keeps ini addr write s
  | registerWrite _ _ _ => exact .busWrite s _ _ _
  | pairLoRead ini addr => exact execPairLoRead_keeps ini addr s
  | pairHiWrite ini addr v => exact execPairHiWrite_keeps ini addr v s
  | pairLoWrite ini addr v => exact execPairLoWrite_keeps ini addr v s
  | schedCfgWrite _ _ => exact .busWrite s _ _ _
  | renderBringup => exact .when (Keeps.refl s) fun _ h => State.advance_keeps _ h
  | measCtrlWrite _ _ => exact .busWrite s _ _ _
  | mbRecompute => exact .when (Keeps.refl s) fun _ h => State.recompute_keeps _ (State.passTo_keeps _ h)
  | eventListClose => exact execEventListClose_keeps s
  | eventApply => exact execEventApply_keeps s
  | frameBoundary => exact .when (Keeps.refl s) fun _ h => State.boundary_keeps _ (State.runTo_keeps _ h)
  | engineRenderFrame e upsets => exact execEngineRenderFrame_keeps e upsets s
  | engineStall _ => exact .when (Keeps.refl s) fun _ h => State.fenceEngine_keeps _ _ h
  | engineSramError _ => exact .when (Keeps.refl s) fun _ h => State.fenceEngine_keeps _ _ (State.guar_keeps _ h)
  | galleryVmonFence _ => exact .when (Keeps.refl s) fun _ h => State.fenceGallery_keeps _ _ h
  | mezzanineFrameComplete => exact .when (Keeps.refl s) fun _ h => State.mezzanine_keeps _ (State.settle_keeps h)
  | outTakeFrame => exact .when (Keeps.refl s) fun _ h => State.takeFrame_keeps _ (State.runTo_keeps _ h)
  | eqFadeEnd _ => exact .next (State.updOut_keeps _ _ (Keeps.refl s))
  | dacLatch => exact .when (Keeps.refl s) fun _ h => State.anyEdge_keeps h
  | rangeSettleEnd _ => exact .next (State.updDac_keeps _ _ (Keeps.refl s))
  | muteCause c => exact execMuteCause_keeps c s
  | muteLeadElapsed => exact .when (Keeps.refl s) fun _ h => h.same rfl rfl rfl rfl rfl
  | muteRelease => exact .when (Keeps.refl s) fun _ h => State.anyEdge_keeps h
  | muteLeadHoldEnd _ => exact .next (State.updDac_keeps _ _ (Keeps.refl s))
  | dacMuteReqWrite _ _ => exact .busWrite s _ _ _
  | dacEnWrite _ _ _ => exact .busWrite s _ _ _
  | dacSineWrite _ _ _ => exact .busWrite s _ _ _
  | dacRangeWrite _ _ _ => exact .busWrite s _ _ _
  | dacSelWrite _ _ _ => exact .busWrite s _ _ _
  | tdmOutputFrame => exact execTdmOutputFrame_keeps s
  | tdmInputFrame lanes => exact execTdmInputFrame_keeps lanes s
  | lockLost => exact execLockLost_keeps s
  | wclkRelock phi edge => exact execWclkRelock_keeps phi edge s
  | wclkLost => exact execWclkLost_keeps s
  | wclkReturn phi => exact execWclkReturn_keeps phi s
  | specBlock upsets => exact execSpecBlock_keeps upsets s
  | resynBlock a => exact execResynBlock_keeps a s
  | resynCtrlWrite a => exact execResynCtrlWrite_keeps a s
  | convSwitch k => exact execConvSwitch_keeps k s
  | specWmError u => exact execSpecWmError_keeps u s
  | specRestart _ _ => exact .busWrite s _ _ _
  | arbiterDecision c present withdrew => exact execArbiterDecision_keeps c present withdrew s
  | resSwap _ _ _ => exact .busWrite s _ _ _
  | prioWrite _ _ _ _ => exact .busWrite s _ _ _
  | scrubPatrolRead c upsets => exact execScrubPatrolRead_keeps c upsets s
  | scrubWriteBack c upsets => exact execScrubWriteBack_keeps c upsets s
  | pageScrubEnd c upsets => exact execPageScrubEnd_keeps c upsets s
  | sealedLoadDone h => exact execSealedLoadDone_keeps h s
  | progLoadDone h => exact execProgLoadDone_keeps h s
  | read _ _ _ _ _ => exact .txn fun _ h => State.doRead_keeps _ _ _ h
  | write _ _ _ _ _ => exact .orRefused (.txn fun _ h => State.doWrite_keeps _ _ _ h)
  | doorbell _ _ _ _ _ => exact .orRefused (.txn fun _ h => State.doDoorbell_keeps _ _ h)
  | cplAck _ _ _ _ _ => exact .orRefused (.txn fun _ h => State.doAck_keeps _ _ h)
  | regRead _ _ _ _ _ => exact .txn fun _ h => State.doRegRead_keeps _ _ _ h
  | regWrite _ _ _ _ _ => exact .orRefused (.txn fun _ h => State.doRegWrite_keeps _ _ _ h)
  | bulk _ _ _ _ _ => exact .orRefused (.txn fun _ h => State.doBulk_keeps _ _ _ h)
  | status _ _ _ _ _ => exact .txn fun _ h => Keeps.iteFst (fun _ => h) fun _ => State.res_keeps _ h
  | byeTransaction _ _ _ _ _ => exact .orRefused (.txn fun _ h => State.doBye_keeps _ _ h)
  | hello _ _ _ _ _ => exact .orRefused (.txn fun _ h => State.doHello_keeps _ _ h)
  | portCrcError _ _ _ _ => exact .when (Keeps.refl s) fun _ h => State.noise_keeps _ _ _ _ _ h
  | incompleteTransaction p code seq => exact execIncompleteTransaction_keeps p code seq s
  | shortSelection _ => exact .next (State.selectionIgnored_keeps _ (Keeps.refl s))
  | unframeableFirstByte _ _ => exact .when (Keeps.refl s) fun _ h => State.unframed_keeps _ _ h
  | notReadyTransaction _ _ _ => exact .when (Keeps.refl s) fun _ h => State.notReady_keeps _ _ _ h
  | portReady _ => exact .when (Keeps.refl s) fun _ h => State.updPort_keeps _ _ h
  | nop _ => exact .next (State.uhp2_keeps _ _ _ (fun _ h => h) (Keeps.refl s))
  | wr _ _ _ => exact .orRefused (.next (State.uhp2_keeps _ _ _ (fun _ h => State.windowWr_keeps _ _ _ h) (Keeps.refl s)))
  | rd _ _ _ => exact .next (State.uhp2_keeps _ _ _ (fun _ h => State.windowRd_keeps _ _ _ h) (Keeps.refl s))
  | uhp2Bye _ => exact .next (State.uhp2_keeps _ _ _ (fun _ h => State.updPort_keeps _ _ h) (Keeps.refl s))
  | mbxGo p => exact execMbxGo_keeps p s
  | hallDbWrite _ _ _ => exact .busWrite s _ _ _
  | hppLift _ _ _ => exact .busWrite s _ _ _
  | hppClose _ _ _ => exact .busWrite s _ _ _
  | irqModTimeout h => exact execIrqModTimeout_keeps h s
  | keepaliveLapse _ => exact .when (Keeps.refl s) fun _ h => State.lapse_keeps _ h
  | keepaliveKill h => exact execKeepaliveKill_keeps h s
  | helloEcho _ => exact .row _ fun _ i c => cmdHelloEcho_keeps i c
  | getInfo _ => exact .row _ fun _ i c => cmdGetInfo_keeps i c
  | bye _ => exact .row _ fun _ i c => cmdBye_keeps i c
  | keepalive _ => exact .row _ fun _ i c => cmdKeepalive_keeps i c
  | portSleep _ => exact .row _ fun _ i c => cmdPortSleep_keeps i c
  | modSet _ => exact .row _ fun _ i c => cmdModSet_keeps i c
  | hallCreate _ => exact .row _ fun _ i c => cmdHallCreate_keeps i c
  | hallResize _ => exact .row _ fun _ i c => cmdHallResize_keeps i c
  | hallBind _ => exact .row _ fun _ i c => cmdHallBind_keeps i c
  | hallClose _ => exact .row _ fun _ i c => cmdHallClose_keeps i c
  | progLoad _ => exact .next (State.servePages_keeps (Opcode.take_keeps _ (fun _ i c => cmdProgLoad_keeps i c) _ _ (Keeps.refl s)))
  | progFree _ => exact .row _ fun _ i c => cmdProgFree_keeps i c
  | progInfo _ => exact .row _ fun _ i c => cmdProgInfo_keeps i c
  | pageAlloc _ => exact .next (State.servePages_keeps (Opcode.take_keeps _ (fun _ i c => cmdPageAlloc_keeps i c) _ _ (Keeps.refl s)))
  | pageFree _ => exact .row _ fun _ i c => cmdPageFree_keeps i c
  | waveWrite h => exact execWaveWrite_keeps h s
  | waveLoadSealed _ => exact .row _ fun _ i c => cmdWaveLoadSealed_keeps i c
  | voiceStart _ => exact .row _ fun _ i c => cmdVoiceStart_keeps i c
  | voiceRelease _ => exact .row _ fun _ i c => cmdVoiceRelease_keeps i c
  | voiceKill _ => exact .row _ fun _ i c => cmdVoiceKill_keeps i c
  | paramSet _ => exact .row _ fun _ i c => cmdParamSet_keeps i c
  | paramRamp _ => exact .row _ fun _ i c => cmdParamRamp_keeps i c
  | hallCtrl _ => exact .row _ fun _ i c => cmdHallCtrl_keeps i c
  | inRoute _ => exact .next (Opcode.take_keeps _ (fun _ i c => cmdInRoute_keeps i c) _ _ (Keeps.refl s))
  | inFree _ => exact .next (Opcode.take_keeps _ (fun _ i c => cmdInFree_keeps i c) _ _ (Keeps.refl s))
  | tdmDest _ => exact .next (Opcode.take_keeps _ (fun _ i c => cmdTdmDest_keeps i c) _ _ (Keeps.refl s))
  | dacDest _ => exact .next (Opcode.take_keeps _ (fun _ i c => cmdDacDest_keeps i c) _ _ (Keeps.refl s))
  | sync _ => exact .next (Opcode.take_keeps _ (fun _ i c => cmdSync_keeps i c) _ _ (Keeps.refl s))
  | eqLoad _ => exact .row _ fun _ i c => cmdEqLoad_keeps i c
  | eqSwap _ => exact .row _ fun _ i c => cmdEqSwap_keeps i c
  | delaySet _ => exact .row _ fun _ i c => cmdDelaySet_keeps i c
  | detectorCfg _ => exact .row _ fun _ i c => cmdDetectorCfg_keeps i c
  | convLoad _ => exact .next (State.servePages_keeps (Opcode.take_keeps _ (fun _ i c => cmdConvLoad_keeps i c) _ _ (Keeps.refl s)))
  | convRoute _ => exact .row _ fun _ i c => cmdConvRoute_keeps i c
  | resynCfg _ => exact .row _ fun _ i c => cmdResynCfg_keeps i c
  | timeGet _ => exact .row _ fun _ i c => cmdTimeGet_keeps i c
  | triggerMap _ => exact .row _ fun _ i c => cmdTriggerMap_keeps i c
  | stats _ => exact .row _ fun _ i c => cmdStats_keeps i c
  | fenceStatus _ => exact .next (Opcode.take_keeps _ (fun _ i c => cmdFenceStatus_keeps i c) _ _ (Keeps.refl s))
  | fenceStatusLift _ => exact .next (Opcode.take_keeps _ (fun _ i c => cmdFenceLift_keeps i c) _ _ (Keeps.refl s))
  | logRead _ => exact .row _ fun _ i c => cmdLogRead_keeps i c
  | updBegin _ => exact .row _ fun _ i c => cmdUpdBegin_keeps i c
  | updChunk _ => exact .row _ fun _ i c => cmdUpdChunk_keeps i c
  | updCommit _ => exact .row _ fun _ i c => cmdUpdCommit_keeps i c
  | updRollback _ => exact .row _ fun _ i c => cmdUpdRollback_keeps i c
  | lifecycle _ => exact .row _ fun _ i c => cmdLifecycle_keeps i c
  | powerPolicy _ => exact .row _ fun _ i c => cmdPowerPolicy_keeps i c
  | galleryPark _ => exact .next (Opcode.take_keeps _ (fun _ i c => cmdGalleryPark_keeps i c) _ _ (Keeps.refl s))
  | galleryUnpark _ => exact .next (Opcode.take_keeps _ (fun _ i c => cmdGalleryUnpark_keeps i c) _ _ (Keeps.refl s))
  | serRole _ => exact .row _ fun _ i c => cmdSerRole_keeps i c
  | dmxPatch _ => exact .row _ fun _ i c => cmdDmxPatch_keeps i c
  | rdmIdent _ => exact .row _ fun _ i c => cmdRdmIdent_keeps i c
  | flashEraseDone => exact execFlashEraseDone_keeps s
  | flashProgramDone => exact execFlashProgramDone_keeps s
  | serialCharacter n ch => exact execSerialCharacter_keeps n ch s
  | serialBreak e => exact execSerialBreak_keeps e s
  | serialStuck _ => exact .when (Keeps.refl s) fun _ h => State.fenceSer_keeps _ _ (State.updSer_keeps _ _ h)
  | serialAutoLift _ => exact .when (Keeps.refl s) fun _ h => State.liftSer_keeps _ (State.updSer_keeps _ _ h)
  | serLift _ _ _ => exact .busWrite s _ _ _
  | serRearm _ _ _ => exact .busWrite s _ _ _
  | serialSleep _ => exact .when (Keeps.refl s) fun _ h => State.updSer_keeps _ _ h
  | serialWake _ => exact .when (Keeps.refl s) fun _ h => State.serErr_keeps _ _ (State.updSer_keeps _ _ h)
  | serRxRead _ _ => exact .busRead s _ _
  | serTxWrite _ _ _ => exact .busWrite s _ _ _
  | midiMessage n => exact execMidiMessage_keeps n s
  | dmxPacket n => exact execDmxPacket_keeps n s
  | dmxLoss n => exact execDmxLoss_keeps n s
  | rdmRequest n => exact execRdmRequest_keeps n s
  | tsbFrame n => exact execTsbFrame_keeps n s
  | tsbBeacon _ => exact .when (Keeps.refl s) fun _ h => State.tsbSend_keeps _ _ (State.updSer_keeps _ _ h)
  | tsbPeerTimeout _ => exact .next (State.updSer_keeps _ _ (Keeps.refl s))
  | tsbCollision n => exact execTsbCollision_keeps n s
  | tsbBackoffEnd _ => exact .when (Keeps.refl s) fun _ h => State.updSer_keeps _ _ h
  | consoleVer _ => exact .console fun _ _ _ => conVer_keeps _ _ _
  | consoleStat _ => exact .console fun _ _ _ => conStat_keeps _ _ _
  | consoleLog _ => exact .console fun _ _ _ => conLog_keeps _ _ _
  | consoleAuth _ => exact .console fun _ _ _ => conAuth_keeps _ _ _
  | consoleResp _ => exact .console fun _ _ _ => conResp_keeps _ _ _
  | consoleUpdBegin _ => exact .console fun _ _ _ => conUpdBegin_keeps _ _ _
  | consoleUpdD _ => exact .console fun _ _ _ => conUpdD_keeps _ _ _
  | consoleUpdCommit _ => exact .console fun _ _ _ => conUpdCommit_keeps _ _ _
  | consoleRollback _ => exact .console fun _ _ _ => conRollback_keeps _ _ _
  | consoleLc _ => exact .console fun _ _ _ => conLc_keeps _ _ _
  | consoleKey _ => exact .console fun _ _ _ => conKey_keeps _ _ _
  | consoleSessionTimeout => exact execConsoleSessionTimeout_keeps s
  | resetRelease => exact .when (Keeps.refl s) fun _ h => State.release_keeps (h.same rfl rfl rfl rfl rfl)
  | startup => exact execStartup_keeps s
  | resetAssert => exact .when (Keeps.refl s) fun _ h => State.restart_keeps _ _ h
  | internalReset => exact execInternalReset_keeps s
  | jtagReset => exact execJtagReset_keeps s
  | powerOnReset => exact .next (State.restart_keeps _ _ (Keeps.refl s))
  | brownout => exact .when (Keeps.refl s) fun _ h => State.restart_keeps _ _ h
  | refclkLost => exact execRefclkLost_keeps s
  | refclkRestored => exact execRefclkRestored_keeps s
  | timeGo _ _ => exact .busWrite s _ _ _
  | timerOverflow _ => exact .next (State.toTick_keeps _ _ (Keeps.refl s))
  | timerCompareMatch n => exact execTimerCompareMatch_keeps n s
  | timerCountRead _ _ => exact .busRead s _ _
  | debugHalt cp => exact execDebugHalt_keeps cp s
  | triggerEdge t rising ns half => exact execTriggerEdge_keeps t rising ns half s
  | triggerTsRead _ _ => exact .busRead s _ _
  | irqRaise n => exact execIrqRaise_keeps n s
  | irqfDbWrite _ _ _ => exact .busWrite s _ _ _
  | irqAck _ _ => exact .busRead s _ _
  | irqEoi _ _ _ => exact .busWrite s _ _ _
  | irqfCfgWrite _ _ => exact .busWrite s _ _ _
  | routeChange _ _ _ => exact .busWrite s _ _ _
  | tempSample temps => exact execTempSample_keeps temps s
  | thermalStepExit => exact execThermalStepExit_keeps s
  | voltageSample mv => exact execVoltageSample_keeps mv s
  | paceReading k reading => exact execPaceReading_keeps k reading s
  | healthReport => exact .when (Keeps.refl s) fun _ h => State.healthy_keeps (State.raise_keeps _ h)
  | firmwareStop => exact execFirmwareStop_keeps s
  | autoRestart => exact .when (Keeps.refl s) fun _ h => State.internalReset_keeps _ h
  | logTokenRefill => exact .next (State.updMgmt_keeps _ (Keeps.refl s))
  | flashRefresh _ _ => exact .next (State.refreshed_keeps _ _ (Keeps.refl s))
  | trialConfirm => exact execTrialConfirm_keeps s
  | trialFail => exact execTrialFail_keeps s
  | tamper => exact .when (Keeps.refl s) fun _ h => State.alcoveWipe_keeps _ (h.same rfl rfl rfl rfl rfl)
  | glitchDetect => exact .next (State.alcoveWipe_keeps _ (Keeps.refl s))
  | alcoveWipe _ _ => exact .busWrite s _ _ _
  | alcoveRetention _ _ => exact .busWrite s _ _ _
  | summaryWrite => exact execSummaryWrite_keeps s
  | pwrOnWrite _ _ _ => exact .busWrite s _ _ _
  | pwrRetWrite _ _ _ => exact .busWrite s _ _ _
  | domainReady _ => exact .when (Keeps.refl s) fun _ h => State.awake_keeps _ (State.raise_keeps _ (State.updDom_keeps _ _ h))
  | wakeTimeout d => exact execWakeTimeout_keeps d s
  | wakeRetry => exact .when (Keeps.refl s) fun _ h => State.switchOn_keeps _ h
  | autoPark => exact execAutoPark_keeps s
  | fenceCtrlLift _ _ => exact .busWrite s _ _ _
  | fenceCtrlFence _ _ => exact .busWrite s _ _ _
  | selftestDone e pass => exact execSelftestDone_keeps e pass s
  | foyerParityError _ => exact .when (Keeps.refl s) fun _ h => State.fenceHall_keeps _ _ h
  | queueParityError _ => exact .when (Keeps.refl s) fun _ h => State.fenceHall_keeps _ _ (State.guar_keeps _ h)
  | reservedTransactionCode _ _ _ _ _ _ => exact .orRefused (.txn fun _ h => State.res_keeps _ h)
  | undefinedOpcode _ => exact .next (Opcode.runUndefined_keeps _ (Keeps.refl s))
  | falseStart _ => exact .when (Keeps.refl s) fun _ h => State.updSer_keeps _ _ h
  | breakLineHigh n => exact execBreakLineHigh_keeps n s
  | domainSwitchedOff d => exact execDomainSwitchedOff_keeps d s
  | brownoutSupplyRestored => exact .when (Keeps.refl s) fun _ h => State.release_keeps (h.same rfl rfl rfl rfl rfl)
  | debugHaltReleased _ => exact .when (Keeps.refl s) fun _ h => h.same rfl rfl rfl rfl rfl
  | vrefInRange => exact .when (Keeps.refl s) fun _ h => h.same rfl rfl rfl rfl rfl
  | bankVddioLost b => exact execBankVddioLost_keeps b s
  | bankVddioRestored b => exact execBankVddioRestored_keeps b s

/-- A REFCLK edge or a command: either way a step keeps what every operation keeps, but for the one command it takes. -/
theorem step_keeps {s t : State} (h : step s = .next t) : Keeps { s with pending := s.pending.tail } t := by
  unfold step at h
  split at h
  next hp =>
    cases h
    have hs : ({ s with pending := s.pending.tail } : State) = s := by cases s; cases hp; rfl
    rw [hs]
    exact State.idle_keeps (Keeps.refl s)
  next c cs hp =>
    rw [hp]
    exact exec_keeps c _ t h

/-- Settles O4: both memories stay canonical under every operation, so under every step. -/
theorem everyStepKeepsTheMemoriesCanonical : Obligations.EveryStepKeepsTheMemoriesCanonical := by
  intro s t hs ht
  have hk := step_keeps ht
  rw [State.memoriesWf, Bool.and_eq_true] at hs ⊢
  exact ⟨hk.sram hs.1, hk.mem hs.2⟩

/-- Settles O5: no operation touches the queue, so a step leaves what follows its command. -/
theorem everyStepTakesOneCommand : Obligations.EveryStepTakesOneCommand := fun _ _ ht => (step_keeps ht).queue

/-- Settles O8: what flash and fuses keep, and the counter of free values, over one step. -/
theorem whatEveryStepKeeps : Obligations.WhatEveryStepKeeps := by
  intro s t ht
  obtain ⟨-, -, -, ⟨huid, hgrade, hfuses, hlife, hretired⟩, hfresh⟩ := step_keeps ht
  exact ⟨huid, hgrade, hfuses, hlife, hretired, hfresh⟩

/-! ### Which commands are refused -/

/-- A row that has a condition on its operands refuses those that fail it; every other row admits all operands. -/
theorem exec_illFormed (c : Instr) (s : State) (hc : c.wf = false) : exec c s = .refused .illFormed := by
  cases c with
  | engineRenderFrame | specBlock | scrubPatrolRead | scrubWriteBack | pageScrubEnd | tdmInputFrame | write | doorbell | cplAck
  | regWrite | bulk | byeTransaction | hello | tempSample | voltageSample | paceReading => exact if_pos hc
  | reservedTransactionCode => exact if_pos (by simpa [Instr.wf, Decidable.imp_iff_not_or] using hc)
  | wr => exact if_pos (by simpa [Instr.wf] using hc)
  | _ => exact absurd hc (by simp [Instr.wf])

/-- With operands that its row admits every command completes. -/
theorem exec_wellFormed (c : Instr) (s : State) (hc : c.wf = true) : ∃ t, exec c s = .next t := by
  have hne : ¬ c.wf = false := by simp [hc]
  cases c with
  | engineRenderFrame | specBlock | scrubPatrolRead | scrubWriteBack | pageScrubEnd | tdmInputFrame | write | doorbell | cplAck
  | regWrite | bulk | byeTransaction | hello | tempSample | voltageSample | paceReading => exact ⟨_, if_neg hne⟩
  | reservedTransactionCode => exact ⟨_, if_neg (by simpa [Instr.wf] using hc)⟩
  | wr => exact ⟨_, if_neg (by simpa [Instr.wf] using hc)⟩
  | wclkReturn phi =>
    by_cases hr : s.time.running = false
    · exact ⟨_, if_pos hr⟩
    · exact ⟨_, if_neg hr⟩
  | _ => exact ⟨_, rfl⟩

/-- Settles O7: the two cases of a command's operands. -/
theorem onlyIllFormedCommandsAreRefused : Obligations.OnlyIllFormedCommandsAreRefused := fun c s =>
  ⟨exec_illFormed c s, exec_wellFormed c s⟩

/-! ### Queues of well-formed commands -/

/-- A step whose command is well-formed answers a next state. -/
theorem step_answers {s : State} (hs : s.queueWf = true) : ∃ t, step s = .next t := by
  unfold step
  split
  next => exact ⟨_, rfl⟩
  next c cs hp =>
    refine exec_wellFormed c _ ?_
    simp only [State.queueWf, hp, List.all_cons, Bool.and_eq_true] at hs
    exact hs.1

/-- The queue that a step leaves is well-formed where the one before it was. -/
theorem step_queueWf {s t : State} (hs : s.queueWf = true) (ht : step s = .next t) : t.queueWf = true := by
  have hq : t.pending = s.pending.tail := (step_keeps ht).queue
  rw [State.queueWf, hq]
  exact List.all_eq_true.2 fun c hc => List.all_eq_true.1 hs c (List.mem_of_mem_tail hc)

/-- A run goes on from the state that its first step answers. -/
theorem core_run_succ {s u : State} (k : Nat) (hu : step s = .next u) : core.run (k + 1) s = core.run k u := by
  have hstep : core.step s = .next u := hu
  simp only [Host.Core.run, hstep]

/-- Settles O6, by induction on the number of steps. -/
theorem wellFormedQueuesNeverStop : Obligations.WellFormedQueuesNeverStop := by
  intro s k hs
  induction k generalizing s with
  | zero => exact ⟨s, rfl, rfl⟩
  | succ k ih =>
    obtain ⟨u, hu⟩ := step_answers hs
    obtain ⟨t, ht, hp⟩ := ih u (step_queueWf hs hu)
    refine ⟨t, ?_, ?_⟩
    · rw [core_run_succ k hu, ht]
    · rw [hp, (step_keeps hu).queue, List.drop_tail]

end Sys2Proof.Machine
end

section
/-! PROOF. Resets (spec/18_power_reset_faults.md R477 to R480): what every one of them ends and what it keeps, and the release. -/

namespace Sys2Proof.Machine

/-- `t` is what a reset of cause `c` leaves of `s`, but for the pins and the start of time. -/
structure State.RestartedBy (s : State) (c : RstCause) (t : State) : Prop where
  nv : t.nv = { s.nv with powered := s.poweredS }
  pending : t.pending = s.pending
  halls : t.halls = State.reset.halls
  voices : t.voices = []
  mem : t.mem = State.reset.mem
  mez : t.mez = State.reset.mez
  fence : t.fence = State.reset.fence
  dac : t.dac = State.reset.dac
  ser : t.ser = State.reset.ser
  irqf : t.irqf = State.reset.irqf
  alcove : t.mgmt.alcove = []
  dom : t.pwr.dom = State.reset.pwr.dom
  por : c = .por → t.pwr.cause = 1#32 ∧ t.pwr.rstCnt = 0#32 ∧ t.mgmt.volLog = []
  warm : c ≠ .por → t.pwr.cause = setFlag s.pwr.cause c.code ∧ t.pwr.rstCnt = satInc s.pwr.rstCnt 1 ∧ t.mgmt.volLog = s.mgmt.volLog

/-- Only the cause, the count and the volatile log ask whether the reset is the power-on reset. -/
theorem State.restart_restartedBy (s : State) (c : RstCause) (pins : Pins) : s.RestartedBy c (s.restart c pins) where
  nv := rfl
  pending := rfl
  halls := rfl
  voices := rfl
  mem := rfl
  mez := rfl
  fence := rfl
  dac := rfl
  ser := rfl
  irqf := rfl
  alcove := rfl
  dom := rfl
  por := by rintro rfl; exact ⟨rfl, rfl, rfl⟩
  warm hc := by
    have hf : (c == .por) = false := by simp [hc]
    simp only [State.restart, hf]
    exact ⟨rfl, rfl, rfl⟩

/-- Only time starts where a reset is released. -/
theorem State.release_shape (s : State) : ∃ time, s.release = { s with time := time } := by
  unfold State.release
  split
  · exact ⟨_, rfl⟩
  · exact ⟨s.time, rfl⟩

theorem State.release_free {s : State} (hs : s.pins.free = true) :
    s.release = { s with time := { s.time with counting := true, rclk := at_ s.time.refclk 0 } } := if_pos hs

/-- An internal reset is a reset that is released at once where the pins hold none. -/
theorem State.internalReset_restartedBy (s : State) (c : RstCause) : s.RestartedBy c (s.internalReset c) := by
  obtain ⟨time, e⟩ := (s.restart c s.pins).release_shape
  have hr := s.restart_restartedBy c s.pins
  rw [State.internalReset, e]
  exact ⟨hr.nv, hr.pending, hr.halls, hr.voices, hr.mem, hr.mez, hr.fence, hr.dac, hr.ser, hr.irqf, hr.alcove, hr.dom, hr.por, hr.warm⟩

/-- An instruction at the JTAG port changes nothing that a reset looks at. -/
theorem State.RestartedBy.of_tapInstr {s t : State} {c : RstCause} {i : TapInstr} (h : (s.tapInstr i).RestartedBy c t) :
    s.RestartedBy c t :=
  ⟨h.nv, h.pending, h.halls, h.voices, h.mem, h.mez, h.fence, h.dac, h.ser, h.irqf, h.alcove, h.dom, h.por, h.warm⟩

/-- Where a row's condition holds it happens. -/
theorem next_when {s : State} {b : Bool} {f : State → State} (hb : b = true) : (.next (s.when b f) : Out') = .next (f s) := by
  rw [State.when, if_pos hb]

/-- Where a row's condition fails the state stays (assumption log 9). -/
theorem next_stay {s : State} {b : Bool} {f : State → State} (hb : b = false) : (.next (s.when b f) : Out') = .next s := by
  rw [State.when, hb, if_neg Bool.false_ne_true]

theorem Pins.free_iff (p : Pins) : p.free = true ↔ p.resetLow = false ∧ p.brown = false := by simp [Pins.free]

/-- Each of the rows that reset the device, with its condition, is a reset of its cause. -/
theorem exec_reset {s : State} {c : RstCause} {x : Instr}
    (hx : (x = .resetAssert ∧ c = .pin ∧ s.pins.resetLow = false ∧ s.bankOn .sys = true) ∨ (x = .internalReset ∧ s.mgmt.rst = some c) ∨
      (x = .jtagReset ∧ c = .jtag ∧ s.pins.resetLow = false ∧ s.pins.brown = false ∧ s.nv.life = .service ∧ s.bankOn .sys = true) ∨
      (x = .powerOnReset ∧ c = .por) ∨ (x = .brownout ∧ c = .brownout ∧ s.pins.resetLow = false ∧ s.pins.brown = false) ∨
      (x = .autoRestart ∧ c = .fwStop ∧ s.mgmt.stopped = true ∧ s.nv.cfg.autoRestart = true ∧ s.mgmt.onTrial = false)) :
    ∃ t : State, exec x s = .next t ∧ s.RestartedBy c t ∧ (x = .powerOnReset ∨ x = .resetAssert → t.pins.resetLow = true) := by
  rcases hx with ⟨rfl, rfl, hlow, hon⟩ | ⟨rfl, hrst⟩ | ⟨rfl, rfl, hlow, hbrown, hlife, hon⟩ | ⟨rfl, rfl⟩ | ⟨rfl, rfl, hlow, hbrown⟩ |
    ⟨rfl, rfl, hstop, hauto, htrial⟩
  · exact ⟨_, next_when (by simp [hlow, hon]), s.restart_restartedBy .pin _, fun _ => rfl⟩
  · refine ⟨s.internalReset c, ?_, s.internalReset_restartedBy c, nofun⟩
    simp only [exec, execInternalReset, hrst]
  · have hfree : s.pins.free = true := s.pins.free_iff.2 ⟨hlow, hbrown⟩
    have hwhen : ((s.tapInstr .reset).pins.free && (s.tapInstr .reset).nv.life == .service) = true := by
      rw [Bool.and_eq_true]
      exact ⟨hfree, by simp [State.tapInstr, hlife]⟩
    exact ⟨_, (next_when hon).trans (next_when hwhen),
      ((s.tapInstr .reset).internalReset_restartedBy .jtag).of_tapInstr, nofun⟩
  · exact ⟨_, rfl, s.restart_restartedBy .por _, fun _ => rfl⟩
  · exact ⟨_, next_when (s.pins.free_iff.2 ⟨hlow, hbrown⟩), s.restart_restartedBy .brownout _, nofun⟩
  · exact ⟨_, next_when (by simp [hstop, hauto, htrial]), s.internalReset_restartedBy .fwStop, nofun⟩

/-- Settles O51: every reset by `exec_reset`, RESET_n and JTAG without their bank, and the two releases. -/
theorem resetsKeepFlashAndFuses : Obligations.ResetsKeepFlashAndFuses := by
  refine ⟨fun s c x hx => ?_, fun s x hx hoff => ?_, fun s hlow hbrown => ?_, fun s hbrown => ?_⟩
  · obtain ⟨t, ht, hr, hlow⟩ := exec_reset hx
    exact ⟨t, ht, hr.nv, hr.pending, hr.halls, hr.voices, hr.mem, hr.mez, hr.fence, hr.dac, hr.ser, hr.irqf, hr.alcove, hr.dom, hr.por,
      hlow, hr.warm⟩
  · rcases hx with rfl | rfl
    · exact next_stay (by simp [hoff])
    · exact next_stay hoff
  · have hfree : ({ s with pins := { s.pins with resetLow := false } } : State).pins.free = true := (Pins.free_iff _).2 ⟨rfl, hbrown⟩
    exact ⟨_, (next_when hlow).trans (congrArg _ (State.release_free hfree)), rfl, rfl, rfl, rfl⟩
  · obtain ⟨time, e⟩ := ({ s with pins := { s.pins with brown := false } } : State).release_shape
    refine ⟨_, (next_when hbrown).trans (congrArg _ e), rfl, fun hlow => ?_, rfl⟩
    have hfree : ({ s with pins := { s.pins with brown := false } } : State).pins.free = true := (Pins.free_iff _).2 ⟨hlow, rfl⟩
    rw [State.release_free hfree] at e
    exact congrArg (fun u : State => u.time.counting) e.symm

end Sys2Proof.Machine
end

section
/-! PROOF. Writes that reach a register with an effect of its own (spec/00_scope.md R8), and the arbiters of wave memory
(spec/09_wave_memory.md R271 to R274). -/

namespace Sys2Proof.Machine

/-! ### Registers -/

/-- An aligned address of a block that is powered and not the MP's alone reaches its offset, whoever asks. -/
theorem State.reach_ok {s : State} (i : Initiator) {a : Nat} {b : Block} {off : Nat} (halign : a % 4 = 0)
    (hwin : windowRange a = true) (hblock : blockOf a = some (b, off)) (hmp : b.mpOnly = false) (hon : s.powered b off = true) :
    s.reach i a = .ok b off := by
  simp [State.reach, halign, hwin, hblock, hmp, hon]

theorem State.powered_of_answers {s : State} {b : Block} {off : Nat} {d : Fin 16} (hd : b.domain off = some d)
    (hp : s.pwr.answers d = true) : s.powered b off = true := by
  simp [State.powered, hd, hp]

/-- A write that reaches a register with an effect is the effect. -/
theorem State.busWrite_effect {s t : State} {i : Initiator} {a : Nat} {b : Block} {off : Nat} {v : Word}
    (hr : s.reach i a = .ok b off) (he : s.writeEffect i b off v = some t) : s.busWrite i a v = t := by
  simp only [State.busWrite, hr]
  cases b <;> simp_all [State.writeBlock, State.writeEffect]

/-- A register of the arbiter of channel `c`. -/
theorem State.reach_memCh {s : State} (i : Initiator) (c : Fin 4) {off : Nat} (hoff : off = 0x20 ∨ off = 0x24 ∨ off = 0x28)
    (hp : s.pwr.answers pdMem = true) : s.reach i (0x40400000 + off + c.val * 0x1000) = .ok (.memCh c) off := by
  have hd : (Block.memCh c).domain off = some pdMem := rfl
  refine State.reach_ok i ?_ ?_ ?_ rfl (State.powered_of_answers hd hp)
  · rcases hoff with rfl | rfl | rfl <;> omega
  · rcases hoff with rfl | rfl | rfl <;> (revert c; decide)
  · rcases hoff with rfl | rfl | rfl <;> (revert c; decide)

theorem State.busWrite_resCtrl {s : State} (i : Initiator) (c : Fin 4) (v : Word) (hp : s.pwr.answers pdMem = true) :
    s.busWrite i (0x40400020 + c.val * 0x1000) v = s.resCtrl c v :=
  State.busWrite_effect (State.reach_memCh i c (.inl rfl) hp) rfl

theorem State.busWrite_prio {s : State} (i : Initiator) (c : Fin 4) (second : Bool) (v : Word) (hp : s.pwr.answers pdMem = true) :
    s.busWrite i ((if second then 0x40400028 else 0x40400024) + c.val * 0x1000) v = s.prioSet c second v := by
  cases second
  · exact State.busWrite_effect (State.reach_memCh i c (.inr (.inl rfl)) hp) rfl
  · exact State.busWrite_effect (State.reach_memCh i c (.inr (.inr rfl)) hp) rfl

/-! ### The contest for a slot -/

/-- The least of a list, as `contest` folds it. -/
def leastFold (l : List Nat) : Option Nat := l.foldl (fun b r => match b with | some x => some (min x r) | none => some r) none

theorem leastFold_eq_min? (l : List Nat) : leastFold l = l.min? := by
  have hsome (x : Nat) (l : List Nat) :
      l.foldl (fun b r => match b with | some x => some (min x r) | none => some r) (some x) = some (l.foldl min x) := by
    induction l generalizing x with
    | nil => rfl
    | cons y l ih => exact ih (min x y)
  cases l with
  | nil => rfl
  | cons x l => exact hsome x l

/-- The highest priority of a list of requesters. -/
def MemCh.top (c : MemCh) (l : List Nat) : Nat := l.foldl (fun t r => max t (c.prio r)) 0

theorem MemCh.prio_le_top (c : MemCh) {l : List Nat} {r : Nat} (hr : r ∈ l) : c.prio r ≤ c.top l := by
  have hmono (l : List Nat) (t : Nat) : t ≤ l.foldl (fun t r => max t (c.prio r)) t ∧
      ∀ r ∈ l, c.prio r ≤ l.foldl (fun t r => max t (c.prio r)) t := by
    induction l generalizing t with
    | nil => simp
    | cons x l ih =>
      obtain ⟨h1, h2⟩ := ih (max t (c.prio x))
      simp only [List.foldl_cons, List.mem_cons, forall_eq_or_imp]
      exact ⟨by omega, by omega, h2⟩
  exact (hmono l 0).2 r hr

theorem MemCh.top_reached (c : MemCh) {l : List Nat} (hl : l ≠ []) : ∃ r ∈ l, c.prio r = c.top l := by
  have hfold (l : List Nat) (t : Nat) : l.foldl (fun t r => max t (c.prio r)) t = t ∨
      ∃ r ∈ l, c.prio r = l.foldl (fun t r => max t (c.prio r)) t := by
    induction l generalizing t with
    | nil => exact .inl rfl
    | cons x l ih =>
      rcases ih (max t (c.prio x)) with h | ⟨r, hr, h⟩
      · rcases Nat.le_total (c.prio x) t with hx | hx
        · exact .inl (by rw [List.foldl_cons, h, Nat.max_eq_left hx])
        · exact .inr ⟨x, List.mem_cons_self, by rw [List.foldl_cons, h, Nat.max_eq_right hx]⟩
      · exact .inr ⟨r, List.mem_cons_of_mem _ hr, h⟩
  rcases hfold l 0 with h | h
  · obtain ⟨r, hr⟩ := List.exists_mem_of_ne_nil l hl
    exact ⟨r, hr, Nat.le_antisymm (c.prio_le_top hr) (by rw [MemCh.top, h]; exact Nat.zero_le _)⟩
  · exact h

/-- The requesters of the highest priority. -/
def MemCh.ties (c : MemCh) (l : List Nat) : List Nat := l.filter fun r => c.prio r == c.top l

theorem MemCh.mem_ties {c : MemCh} {l : List Nat} {r : Nat} : r ∈ c.ties l ↔ r ∈ l ∧ c.prio r = c.top l := by simp [MemCh.ties]

/-- The contest without its folds: the least of the ties above the last winner, or else of all ties. -/
theorem MemCh.contest_eq (c : MemCh) (l : List Nat) :
    c.contest l = match ((match c.lastWin with | some w => (c.ties l).filter fun r => r > w | none => c.ties l) : List Nat).min? with
      | some r => some r
      | none => (c.ties l).min? := by
  rw [← leastFold_eq_min?, ← leastFold_eq_min?]
  rfl

/-- Who wins a contest: it is among those that tie; where nothing has been won yet it is the least of them, else the least above the
last winner, or the least where none is above. -/
theorem MemCh.contest_some {c : MemCh} {l : List Nat} (hl : l ≠ []) : ∃ w, c.contest l = some w ∧ w ∈ c.ties l ∧
    (c.lastWin = none → ∀ r ∈ c.ties l, w ≤ r) ∧ (∀ v, c.lastWin = some v → v < w → ∀ r ∈ c.ties l, v < r → w ≤ r) ∧
    (∀ v, c.lastWin = some v → w ≤ v → ∀ r ∈ c.ties l, r ≤ v ∧ w ≤ r) := by
  obtain ⟨r0, hr0, htop⟩ := c.top_reached hl
  have hne : c.ties l ≠ [] := List.ne_nil_of_mem (MemCh.mem_ties.2 ⟨hr0, htop⟩)
  have hmin (m : List Nat) (hm : m ≠ []) : ∃ w, m.min? = some w ∧ w ∈ m ∧ ∀ r ∈ m, w ≤ r := by
    cases hw : m.min? with
    | none => exact absurd (List.min?_eq_none_iff.1 hw) hm
    | some w => exact ⟨w, rfl, List.min?_eq_some_iff.1 hw⟩
  rw [c.contest_eq]
  cases hv : c.lastWin with
  | none =>
    obtain ⟨w, hw, hmem, hle⟩ := hmin _ hne
    exact ⟨w, by simp [hw], hmem, fun _ => hle, nofun, nofun⟩
  | some v =>
    by_cases hafter : (c.ties l).filter (fun r => r > v) = []
    · obtain ⟨w, hw, hmem, hle⟩ := hmin _ hne
      have hbelow : ∀ r ∈ c.ties l, r ≤ v := by simpa [List.filter_eq_nil_iff] using hafter
      refine ⟨w, by simp only [hafter, hw]; rfl, hmem, nofun, ?_, ?_⟩
      · rintro _ ⟨⟩ - r hr -
        exact hle r hr
      · rintro _ ⟨⟩ - r hr
        exact ⟨hbelow r hr, hle r hr⟩
    · obtain ⟨w, hw, hmem, hle⟩ := hmin _ hafter
      rw [List.mem_filter, decide_eq_true_eq] at hmem
      refine ⟨w, by simp only [hw], hmem.1, nofun, ?_, ?_⟩
      · rintro _ ⟨⟩ - r hr hvr
        exact hle r (List.mem_filter.2 ⟨hr, decide_eq_true hvr⟩)
      · rintro _ ⟨⟩ hwv
        exact absurd hmem.2 (Nat.not_lt.2 hwv)

theorem MemCh.contest_nil (c : MemCh) : c.contest [] = none := by
  rw [c.contest_eq]
  cases c.lastWin <;> rfl

/-- A contest looks at the priorities and the last winner only. -/
theorem MemCh.contest_congr {c d : MemCh} (h0 : d.prio0 = c.prio0) (h1 : d.prio1 = c.prio1) (hw : d.lastWin = c.lastWin) (l : List Nat) :
    d.contest l = c.contest l := by
  have hp : d.prio = c.prio := by funext r; simp only [MemCh.prio, h0, h1]
  simp only [MemCh.contest, hp, hw]

/-! ### One decision -/

/-- The accounting of the decision before: a grant that was withdrawn is counted as dead. -/
def MemCh.account (c : MemCh) (withdrew : Bool) : MemCh :=
  match c.granted with
  | none => c
  | some (r, reserved) =>
    if withdrew then { c with dead := satInc c.dead 1 } else
    let i := Fin.ofNat 12 r
    { c with grant := c.grant.upd i (fun w => satInc w 1), extra := if reserved then c.extra else c.extra.upd i (fun w => satInc w 1) }

/-- The swap of the reservation tables that is pending is made at slot 0 (R274). -/
def MemCh.swapped (c : MemCh) : MemCh := if c.slot = 0 ∧ c.swapPend = true then { c with act := c.shd, swapPend := false } else c

/-- The decision itself: the slot's requester, or the contest's winner (R271). -/
def MemCh.award (c : MemCh) (present : List Nat) : MemCh :=
  match slotReq c.act c.slot with
  | some r =>
    if present.contains r then { c with granted := some (r, true) }
    else { c with granted := (c.contest present).map (·, false), lastWin := (c.contest present).orElse fun _ => c.lastWin }
  | none => { c with granted := (c.contest present).map (·, false), lastWin := (c.contest present).orElse fun _ => c.lastWin }

/-- A decision accounts for the one before, swaps, awards the slot and moves on to the next. -/
theorem MemCh.decide_eq (c : MemCh) (present : List Nat) (withdrew : Bool) : c.decide present withdrew =
    { (c.account withdrew).swapped.award present with
      ptr := ((c.account withdrew).swapped.award present).slot
      slot := (((c.account withdrew).swapped.award present).slot + 1) % 64 } := rfl

theorem MemCh.account_shape (c : MemCh) (withdrew : Bool) :
    ∃ dead grant extra, c.account withdrew = { c with dead := dead, grant := grant, extra := extra } := by
  unfold MemCh.account
  split
  · exact ⟨c.dead, c.grant, c.extra, rfl⟩
  · split
    · exact ⟨_, c.grant, c.extra, rfl⟩
    · exact ⟨c.dead, _, _, rfl⟩

theorem MemCh.account_withdrawn {c : MemCh} (hg : c.granted.isSome = true) : c.account true = { c with dead := satInc c.dead 1 } := by
  obtain ⟨g, hg⟩ := Option.isSome_iff_exists.1 hg
  simp [MemCh.account, hg]

theorem MemCh.swapped_eq (c : MemCh) : c.swapped = { c with
    act := if c.slot = 0 ∧ c.swapPend = true then c.shd else c.act
    swapPend := if c.slot = 0 ∧ c.swapPend = true then false else c.swapPend } := by
  by_cases h : c.slot = 0 ∧ c.swapPend = true
  · simp only [MemCh.swapped, if_pos h]
  · simp only [MemCh.swapped, if_neg h]

theorem MemCh.award_shape (c : MemCh) (l : List Nat) :
    ∃ granted lastWin, c.award l = { c with granted := granted, lastWin := lastWin } := by
  unfold MemCh.award
  split
  · split
    · exact ⟨_, c.lastWin, rfl⟩
    · exact ⟨_, _, rfl⟩
  · exact ⟨_, _, rfl⟩

/-- The slot's own requester wins where it asks. -/
theorem MemCh.award_reserved {c : MemCh} {l : List Nat} {r : Nat} (hs : slotReq c.act c.slot = some r) (hr : r ∈ l) :
    c.award l = { c with granted := some (r, true) } := by
  simp [MemCh.award, hs, hr]

/-- Where the slot's requester does not ask there is a contest. -/
theorem MemCh.award_contest {c : MemCh} {l : List Nat} (hs : ∀ r, slotReq c.act c.slot = some r → r ∉ l) :
    c.award l = { c with granted := (c.contest l).map (·, false), lastWin := (c.contest l).orElse fun _ => c.lastWin } := by
  unfold MemCh.award
  split
  next r h => rw [if_neg (by simpa using hs r h)]
  next => rfl

/-- A decision changes the accounting, the tables in use, what is granted and the slot; the priorities stay. -/
theorem MemCh.decide_spec (x : MemCh) (l : List Nat) (withdrew : Bool) (hslot : x.slot < 64) :
    (x.decide l withdrew).ptr = x.slot ∧ (x.decide l withdrew).slot = (if x.slot = 63 then 0 else x.slot + 1) ∧
    (x.decide l withdrew).act = (if x.slot = 0 ∧ x.swapPend = true then x.shd else x.act) ∧
    (x.slot = 0 → (x.decide l withdrew).swapPend = false) ∧ (x.slot ≠ 0 → (x.decide l withdrew).swapPend = x.swapPend) ∧
    (∀ r, slotReq (x.decide l withdrew).act x.slot = some r → r ∈ l →
      (x.decide l withdrew).granted = some (r, true) ∧ (x.decide l withdrew).lastWin = x.lastWin) ∧
    ((∀ r, slotReq (x.decide l withdrew).act x.slot = some r → r ∉ l) →
      (x.decide l withdrew).granted = (x.contest l).map (·, false) ∧
      (x.decide l withdrew).lastWin = (x.contest l).orElse fun _ => x.lastWin) ∧
    (withdrew = true → x.granted.isSome = true → (x.decide l withdrew).dead = satInc x.dead 1 ∧
      (x.decide l withdrew).grant = x.grant) := by
  have hnext : (x.slot + 1) % 64 = if x.slot = 63 then 0 else x.slot + 1 := by split <;> omega
  have hdead : withdrew = true → x.granted.isSome = true →
      (x.account withdrew).dead = satInc x.dead 1 ∧ (x.account withdrew).grant = x.grant := by
    rintro rfl hg
    rw [MemCh.account_withdrawn hg]
    exact ⟨rfl, rfl⟩
  rw [x.decide_eq]
  obtain ⟨dead, grant, extra, hacc⟩ := x.account_shape withdrew
  obtain ⟨act, pend, hsw, hact, hpend⟩ : ∃ act pend, (x.account withdrew).swapped = { x.account withdrew with act := act, swapPend := pend } ∧
      act = (if x.slot = 0 ∧ x.swapPend = true then x.shd else x.act) ∧
      pend = (if x.slot = 0 ∧ x.swapPend = true then false else x.swapPend) := by
    rw [hacc, MemCh.swapped_eq]
    exact ⟨_, _, rfl, rfl, rfl⟩
  have hcontest : (x.account withdrew).swapped.contest l = x.contest l :=
    MemCh.contest_congr (by rw [hsw, hacc]) (by rw [hsw, hacc]) (by rw [hsw, hacc]) l
  have hlast : (x.account withdrew).swapped.lastWin = x.lastWin := by rw [hsw, hacc]
  have hslot' : (x.account withdrew).swapped.slot = x.slot := by rw [hsw, hacc]
  obtain ⟨granted, last, hshape⟩ := (x.account withdrew).swapped.award_shape l
  have haward_slot : ((x.account withdrew).swapped.award l).slot = x.slot := by rw [hshape]; exact hslot'
  have haward_act : ((x.account withdrew).swapped.award l).act = (x.account withdrew).swapped.act := by rw [hshape]
  have haward_pend : ((x.account withdrew).swapped.award l).swapPend = pend := by rw [hshape, hsw]
  refine ⟨haward_slot, ?_, ?_, ?_, ?_, fun r hr hl => ?_, fun hno => ?_, fun hw hg => ?_⟩
  · rw [haward_slot, hnext]
  · rw [haward_act, hsw, hact]
  · intro h0
    rw [haward_pend, hpend]
    split
    · rfl
    · simp_all
  · intro h0
    rw [haward_pend, hpend, if_neg (fun h => h0 h.1)]
  · rw [haward_act, ← hslot'] at hr
    rw [MemCh.award_reserved hr hl]
    exact ⟨rfl, hlast⟩
  · rw [haward_act, ← hslot'] at hno
    rw [MemCh.award_contest hno, hcontest, hlast]
    exact ⟨rfl, rfl⟩
  · rw [hshape, hsw]
    exact hdead hw hg

/-! ### The rows -/

/-- Settles O38: a decision by `MemCh.decide_spec` and the contest's winner by `MemCh.contest_some`; then the two writes. -/
theorem arbitersDecideByTheirRegisters : Obligations.ArbitersDecideByTheirRegisters := by
  refine ⟨fun s c asked present withdrew x hready hx hslot hpresent => ?_, fun s i c v hp => ⟨fun hv => ?_, fun hv => ?_, ?_, ?_⟩⟩
  · have hasks : asked.filter s.asks = present := by
      rw [hpresent]
      refine List.filter_congr fun r _ => ?_
      by_cases hspec : r = 8
      · subst hspec
        rfl
      · have hv : (r.val != 8) = true := bne_iff_ne.mpr fun h => hspec (Fin.ext h)
        simp [State.asks, hspec, hv]
    refine ⟨_, next_when hready, rfl, fun d hd => Tab.get_upd_ne s.mem.ch _ hd.symm, ?_⟩
    have hget : ({ s with mem := s.mem.updCh c fun x => x.decide ((asked.filter s.asks).map (·.val)) withdrew } : State).mem.ch.get c =
        x.decide (present.map (·.val)) withdrew := by
      rw [hasks, hx]
      exact Tab.get_upd_same ..
    rw [hget]
    obtain ⟨hptr, hnext, hact, hpend0, hpend1, hres, hcon, hdead⟩ := x.decide_spec (present.map (·.val)) withdrew hslot
    refine ⟨hptr, hnext, hact, hpend0, hpend1, fun r hr hin => hres r hr (List.mem_map.2 hin), fun hnone => ?_, fun hno hsome => ?_, hdead⟩
    · subst hnone
      rw [(hcon fun _ _ => List.not_mem_nil).1, List.map_nil, x.contest_nil]
      rfl
    · have hne : present.map (·.val) ≠ [] := by simpa using hsome
      have hmiss : ∀ r, slotReq (x.decide (present.map (·.val)) withdrew).act x.slot = some r → r ∉ present.map (·.val) := by
        intro r hr hin
        obtain ⟨p, hp, hpr⟩ := List.mem_map.1 hin
        exact hno r hr p hp hpr
      obtain ⟨w, hw, htie, hfirst, habove, hwrap⟩ := x.contest_some hne
      obtain ⟨hmem, htop⟩ := MemCh.mem_ties.1 htie
      obtain ⟨w, hwp, rfl⟩ := List.mem_map.1 hmem
      have hties : ∀ p ∈ present, x.prio p.val = x.prio w.val → p.val ∈ x.ties (present.map (·.val)) := fun p hp hpw =>
        MemCh.mem_ties.2 ⟨List.mem_map.2 ⟨p, hp, rfl⟩, hpw.trans htop⟩
      obtain ⟨hgranted, hlast⟩ := hcon hmiss
      refine ⟨w, hwp, by rw [hgranted, hw]; rfl, by rw [hlast, hw]; rfl, fun p hp => ?_, fun hv p hp hpw => hfirst hv _ (hties p hp hpw),
        fun l hv hl p hp hpw => habove l hv hl _ (hties p hp hpw), fun l hv hl p hp hpw => hwrap l hv hl _ (hties p hp hpw)⟩
      rw [htop]
      exact x.prio_le_top (List.mem_map.2 ⟨p, hp, rfl⟩)
  · exact congrArg _ ((State.busWrite_resCtrl i c v hp).trans (if_pos hv))
  · exact congrArg _ ((State.busWrite_resCtrl i c v hp).trans (if_neg (by simp [hv])))
  · exact congrArg _ (State.busWrite_prio i c false v hp)
  · exact congrArg _ (State.busWrite_prio i c true v hp)

end Sys2Proof.Machine
end

section
/-! PROOF. How a transaction ends on its port (spec/12_host_ports_and_mailboxes.md R325, R326, R333), and HELLO (R329, R337). -/

namespace Sys2Proof.Machine

/-! ### The end of a transaction -/

/-- The result that a port records: ABORTED where the host cut the response short. -/
def PortRes.recorded (r : PortRes) (resp : Bool) (ph : Phase) : PortRes := if resp && !(ph == .whole) then .aborted else r

@[simp] theorem PortRes.recorded_silent (r : PortRes) (ph : Phase) : r.recorded false ph = r := rfl

theorem PortRes.recorded_whole (r : PortRes) (resp : Bool) {ph : Phase} (h : resp = false ∨ ph = .whole) : r.recorded resp ph = r := by
  rcases h with rfl | rfl
  · rfl
  · cases resp <;> rfl

/-- The error register of a port after a result. -/
def PortRes.errAfter (r : PortRes) (err : Word) : Word := match r.errBit with | some b => setFlag err b | none => err

/-- What the port holds after the end of a transaction, but for HA_IRQ_n and the answer. -/
def Port.ended (q : Port) (code seq : Nat) (r : PortRes) (answer : List Byte) (irq : Bool) : Port :=
  { q with answer := answer, lastCode := code, lastSeq := seq, lastRes := r.code, err := r.errAfter q.err, rdy := false, irq := irq }

@[simp] theorem State.updPort_updPort (s : State) (p : Fin 2) (f g : Port → Port) :
    (s.updPort p f).updPort p g = s.updPort p fun q => g (f q) := by
  simp [State.updPort, Tab.upd, Tab.put, Tab.get]

/-- A flag's source changes the interrupts alone. -/
theorem State.raiseIf_shape (s : State) (b : Bool) (n : Nat) : ∃ irqf, s.raiseIf b n = { s with irqf := irqf } := by
  cases b
  · exact ⟨s.irqf, rfl⟩
  · exact ⟨_, rfl⟩

theorem State.portErr_shape (s : State) (p : Fin 2) (n : Nat) :
    ∃ irqf, s.portErr p n = { s.updPort p fun q => { q with err := setFlag q.err n } with irqf := irqf } :=
  State.raiseIf_shape (s.updPort p fun q => { q with err := setFlag q.err n }) _ _

/-- Recording a result changes its port and the interrupts alone. -/
theorem State.portRecord_shape (s : State) (p : Fin 2) (code seq : Nat) (r : PortRes) :
    ∃ irqf, s.portRecord p code seq r = { s.updPort p fun q => { q with lastCode := code, lastSeq := seq, lastRes := r.code,
                                                                         err := r.errAfter q.err } with irqf := irqf } := by
  unfold State.portRecord
  cases hr : r.errBit with
  | none => exact ⟨s.irqf, by simp only [PortRes.errAfter, hr]; rfl⟩
  | some b =>
    obtain ⟨irqf, e⟩ := (s.updPort p fun q => { q with lastCode := code, lastSeq := seq, lastRes := r.code }).portErr_shape p b
    refine ⟨irqf, ?_⟩
    simp only [e, State.updPort_updPort, PortRes.errAfter, hr]

/-- The end of a transaction: the port is busy and has recorded the result; where the response phase is clocked whole, the answer has
been driven. Nothing else of the state changes but the interrupts and the counter of free values. -/
theorem State.portEnd_shape (s : State) (p : Fin 2) (code seq : Nat) (resp : Bool) (ph : Phase) (r : PortRes) (data : List Byte) :
    ∃ irqf fresh answer irq, s.portEnd p code seq resp ph r data =
      { s.updPort p fun q => q.ended code seq (r.recorded resp ph) (answer q) irq with irqf := irqf, fresh := fresh } ∧
      (resp = true → ph = .whole → answer = fun _ => driven (Config.busyBytes s.fresh) (answerBytes r seq data)) := by
  unfold State.portEnd
  extract_lets whole u r'
  obtain ⟨fresh, answer, hu, hans⟩ : ∃ fresh answer, u = { s.updPort p fun q => { q with answer := answer q } with fresh := fresh } ∧
      (resp = true → ph = .whole → answer = fun _ => driven (Config.busyBytes s.fresh) (answerBytes r seq data)) := by
    by_cases h : (resp && whole) = true
    · exact ⟨s.fresh + 1, fun _ => _, if_pos h, fun _ _ => rfl⟩
    · refine ⟨s.fresh, fun q => q.answer, (if_neg h).trans ?_, fun hr hp => absurd ?_ h⟩
      · rw [s.updPort_eq_self p rfl]
      · simp [whole, hr, hp]
  obtain ⟨irqf, hrec⟩ := u.portRecord_shape p code seq r'
  obtain ⟨irq, heval⟩ := ((u.portRecord p code seq r').portBusy p).irqEval_shape p
  refine ⟨irqf, fresh, answer, irq, ?_, hans⟩
  have hbusy : ∀ v : State, v.portBusy p = v.updPort p fun q => { q with rdy := false } := fun _ => rfl
  have hirqf : ∀ (v : State) (f : Port → Port), ({ v with irqf := irqf } : State).updPort p f = { v.updPort p f with irqf := irqf } :=
    fun _ _ => rfl
  have hfresh : ∀ (v : State) (f : Port → Port), ({ v with fresh := fresh } : State).updPort p f = { v.updPort p f with fresh := fresh } :=
    fun _ _ => rfl
  rw [heval, hbusy, hrec, hirqf, hirqf, hu, hfresh, hfresh, hfresh, State.updPort_updPort, State.updPort_updPort, State.updPort_updPort]
  rfl

theorem State.port_portEnd (s : State) (p : Fin 2) (code seq : Nat) (resp : Bool) (ph : Phase) (r : PortRes) (data : List Byte) :
    ∃ answer irq, (s.portEnd p code seq resp ph r data).port p = (s.port p).ended code seq (r.recorded resp ph) answer irq ∧
      (resp = true → ph = .whole → answer = driven (Config.busyBytes s.fresh) (answerBytes r seq data)) := by
  obtain ⟨irqf, fresh, answer, irq, e, hans⟩ := s.portEnd_shape p code seq resp ph r data
  refine ⟨answer (s.port p), irq, ?_, fun hr hp => by rw [hans hr hp]⟩
  rw [e]
  exact s.port_updPort_same p _

@[simp] theorem State.portEnd_voices (s : State) (p : Fin 2) (code seq : Nat) (resp : Bool) (ph : Phase) (r : PortRes)
    (data : List Byte) : (s.portEnd p code seq resp ph r data).voices = s.voices := by
  obtain ⟨irqf, fresh, answer, irq, e, -⟩ := s.portEnd_shape p code seq resp ph r data
  rw [e]
  rfl

@[simp] theorem State.validTxn_voices (s : State) (p : Fin 2) : (s.validTxn p).voices = s.voices := by
  have hclaim : (s.claimSup p).voices = s.voices := by unfold State.claimSup; split <;> rfl
  unfold State.validTxn
  dsimp only
  split <;> exact hclaim

theorem State.port_refuseIf (s : State) (p : Fin 2) (b : Bool) :
    (s.refuseIf p b).port p = { s.port p with refuse := if b then satInc (s.port p).refuse 1 else (s.port p).refuse } := by
  cases b
  · rfl
  · exact s.port_updPort_same p _

@[simp] theorem State.refuseIf_voices (s : State) (p : Fin 2) (b : Bool) : (s.refuseIf p b).voices = s.voices := by cases b <;> rfl

@[simp] theorem State.txnEnd_voices (x : State × PortRes × List Byte) (p : Fin 2) (code seq : Nat) (resp : Bool) (ph : Phase) :
    (State.txnEnd x p code seq resp ph).voices = x.1.voices := by simp [State.txnEnd]

/-! ### HELLO (R337) -/

/-- HELLO is taken by a port that is ready and OPEN, UHP3 or FENCED, and has a response phase always (R329, R333). -/
theorem State.txn_hello {s : State} {p : Fin 2} (hon : s.portOn p = true) (hrdy : (s.port p).rdy = true)
    (hst : (s.port p).st = .uhp3 ∨ (s.port p).st = .opened ∨ (s.port p).st = .fenced) (seq : Nat) (ph : Phase)
    (act : State → State × PortRes × List Byte) :
    s.txn p 0x3F seq ph act = State.txnEnd (act (s.validTxn p)) p 0x3F seq true ph := by
  have hdef : codeDefined (s.port p).version 0x3F = true := rfl
  rcases hst with hst | hst | hst <;> simp [State.txn, State.txnEnd, hon, hrdy, hst, hdef]

theorem helloData_length (s : State) (p : Fin 2) (version width flags : Nat) : (s.helloData p version width flags).length = 32 := by
  simp [State.helloData, leBytes]

/-- What HELLO makes of its port. -/
theorem State.port_helloTo (s : State) (p : Fin 2) (v : Nat) (bs : List Byte) : ∃ flags,
    (s.helloTo p v bs).1.port p = { s.port p with
      st := .uhp3, version := v, width := grantWidth v (f8 bs 4), hostLo := w32 bs 8, hostHi := w32 bs 12, helloed := true,
      helloFlags := flags } := by
  unfold State.helloTo
  extract_lets q fenced flags w u v'
  have hu : u.foyer = s.foyer := by
    by_cases h : fenced = true <;> simp [u, h]
  refine ⟨flags / 2 * 2, ?_⟩
  change (v'.log _ _ _).foyer.port.get p = _
  rw [State.log_foyer]
  change v'.port p = _
  rw [State.port_updPort_same]
  simp only [State.port, hu]
  rfl

@[simp] theorem State.helloTo_voices (s : State) (p : Fin 2) (v : Nat) (bs : List Byte) : (s.helloTo p v bs).1.voices = s.voices := by
  unfold State.helloTo
  extract_lets q fenced flags w u v'
  change (v'.log _ _ _).voices = _
  rw [State.log_voices]
  by_cases h : fenced = true <;> simp [v', u, h]

/-- The versions of R337, highest first: the highest that both sides have is chosen. -/
theorem chooseVersion_eq {lo hi w : Nat} (h0 : 0x0300 ≤ w) (h1 : w ≤ 0x0302) (hlo : lo ≤ w) (hhi : w ≤ hi)
    (hmax : w < 0x0302 → hi < w + 1) : chooseVersion lo hi = some w := by
  obtain rfl | rfl | rfl : w = 0x0300 ∨ w = 0x0301 ∨ w = 0x0302 := by omega
  all_goals
    simp only [chooseVersion, List.find?]
    grind

theorem chooseVersion_none {lo hi : Nat} (h : hi < 0x0300 ∨ 0x0302 < lo ∨ hi < lo) : chooseVersion lo hi = none := by
  simp only [chooseVersion, List.find?_eq_none, List.mem_cons, List.not_mem_nil, decide_eq_true_eq, or_false]
  intro v hv
  omega

/-- Settles O42: with a common version HELLO takes effect on the state a valid transaction leaves; without one it changes nothing of
the port's state. -/
theorem helloNegotiates : Obligations.HelloNegotiates := by
  intro s p seq addr pay ph hon hrdy hst hlen
  have hwf : ¬ payloadWf pay = false := by simp [payloadWf, hlen]
  have hexec : exec (.hello p seq addr pay ph) s =
      .next (State.txnEnd ((s.validTxn p).doHello p pay) p 0x3F seq.toNat true ph) :=
    (if_neg hwf).trans (congrArg _ (State.txn_hello hon hrdy hst seq.toNat ph _))
  refine ⟨fun w h0 h1 hlo hhi hmax => ⟨_, hexec, ?_⟩, fun hnone => ⟨_, hexec, ?_⟩⟩
  · have hdo : (s.validTxn p).doHello p pay = (s.validTxn p).helloTo p w pay := by
      simp [State.doHello, hlen, chooseVersion_eq h0 h1 hlo hhi hmax]
    have hok : ((s.validTxn p).helloTo p w pay).2.1 = .ok := rfl
    obtain ⟨flags, hport⟩ := (s.validTxn p).port_helloTo p w pay
    obtain ⟨answer, irq, hend, hans⟩ := State.port_portEnd ((s.validTxn p).helloTo p w pay).1 p 0x3F seq.toNat true ph .ok
      ((s.validTxn p).helloTo p w pay).2.2
    have htxn : State.txnEnd ((s.validTxn p).helloTo p w pay) p 0x3F seq.toNat true ph =
        ((s.validTxn p).helloTo p w pay).1.portEnd p 0x3F seq.toNat true ph .ok ((s.validTxn p).helloTo p w pay).2.2 := rfl
    rw [hdo, htxn, hend, hport, s.port_validTxn p]
    refine ⟨rfl, rfl, rfl, rfl, rfl, by simp, fun hw => ⟨_, _, hans rfl hw, ?_⟩⟩
    exact helloData_length ..
  · have hdo : (s.validTxn p).doHello p pay = (s.validTxn p, .version, []) := by
      simp [State.doHello, hlen, chooseVersion_none hnone, State.res]
    obtain ⟨answer, irq, hend, -⟩ := State.port_portEnd ((s.validTxn p).refuseIf p true) p 0x3F seq.toNat true ph .version []
    have htxn : State.txnEnd (s.validTxn p, .version, []) p 0x3F seq.toNat true ph =
        ((s.validTxn p).refuseIf p true).portEnd p 0x3F seq.toNat true ph .version [] := rfl
    rw [hdo, htxn, hend, State.port_refuseIf, s.port_validTxn p]
    refine ⟨rfl, rfl, rfl, ?_⟩
    rintro rfl
    rfl

end Sys2Proof.Machine
end

section
/-! PROOF. The transactions that carry a payload, on a negotiated port: WRITE, REG_WRITE, BULK, BYE and the reserved codes
(spec/12_host_ports_and_mailboxes.md R329, R334, R336, R338). -/

namespace Sys2Proof.Machine

/-! ### Bytes written -/

/-- Bytes written are read back where they were written. -/
theorem Memory.readList_writeList (m : Memory) (a : Nat) (bs : List Byte) (h : m.wf = true) :
    (m.writeList a bs).readList a bs.length = bs := by
  refine List.ext_getElem (by simp [Memory.readList]) fun i _ hi => ?_
  simp only [Memory.readList, List.getElem_map, List.getElem_range]
  exact m.read_writeList_in a i bs h hi

/-- A valid transaction writes no byte of the Foyer SRAM. -/
@[simp] theorem State.validTxn_sram (s : State) (p : Fin 2) : (s.validTxn p).foyer.sram = s.foyer.sram := by
  have hclaim : (s.claimSup p).foyer.sram = s.foyer.sram := by unfold State.claimSup; split <;> rfl
  unfold State.validTxn
  dsimp only
  split <;> exact hclaim

@[simp] theorem State.refuseIf_sram (s : State) (p : Fin 2) (b : Bool) : (s.refuseIf p b).foyer.sram = s.foyer.sram := by cases b <;> rfl

@[simp] theorem State.portEnd_sram (s : State) (p : Fin 2) (code seq : Nat) (resp : Bool) (ph : Phase) (r : PortRes) (data : List Byte) :
    (s.portEnd p code seq resp ph r data).foyer.sram = s.foyer.sram := by
  obtain ⟨irqf, fresh, answer, irq, e, -⟩ := s.portEnd_shape p code seq resp ph r data
  rw [e]
  rfl

/-! ### Transactions on a port in UHP3 -/

/-- Whether code `code` has a response phase on a port in UHP3: a read and HELLO always, a write where 3.2 lets the host clock it (R333). -/
def Port.responds (q : Port) (code : Nat) (ph : Phase) : Bool := readType code || code == 0x3F || (q.version == 0x0302 && ph != .none)

/-- A code that the port's version defines acts on the state that a valid transaction leaves (R329). -/
theorem State.Negotiated.txn_defined {s : State} {p : Fin 2} (hs : s.Negotiated p) {code : Nat}
    (hdef : codeDefined (s.port p).version code = true) (seq : Nat) (ph : Phase) (act : State → State × PortRes × List Byte) :
    s.txn p code seq ph act = State.txnEnd (act (s.validTxn p)) p code seq ((s.port p).responds code ph) ph := by
  obtain ⟨hon, hrdy, hst⟩ := hs
  simp [State.txn, State.txnEnd, Port.responds, hon, hrdy, hst, hdef]

/-- A code that the port's version does not define ends in UNKNOWN_CODE, with no act. -/
theorem State.Negotiated.txn_undefined {s : State} {p : Fin 2} (hs : s.Negotiated p) {code : Nat}
    (hdef : codeDefined (s.port p).version code = false) (seq : Nat) (ph : Phase) (act : State → State × PortRes × List Byte) :
    s.txn p code seq ph act = s.portEnd p code seq ((s.port p).responds code ph) ph .unknownCode [] := by
  obtain ⟨hon, hrdy, hst⟩ := hs
  simp [State.txn, Port.responds, hon, hrdy, hst, hdef]

/-- An act that ends in OK. -/
theorem State.Negotiated.txn_ok {s t : State} {p : Fin 2} (hs : s.Negotiated p) {code : Nat}
    (hdef : codeDefined (s.port p).version code = true) (seq : Nat) (ph : Phase) {act : State → State × PortRes × List Byte}
    {data : List Byte} (hact : act (s.validTxn p) = (t, .ok, data)) :
    s.txn p code seq ph act = t.portEnd p code seq ((s.port p).responds code ph) ph .ok data := by
  rw [hs.txn_defined hdef, hact]
  rfl

/-- An act that only answers a result other than OK. -/
theorem State.Negotiated.txn_refused {s : State} {p : Fin 2} (hs : s.Negotiated p) {code : Nat}
    (hdef : codeDefined (s.port p).version code = true) (seq : Nat) (ph : Phase) {act : State → State × PortRes × List Byte}
    {r : PortRes} (hr : r ≠ .ok) (hact : act (s.validTxn p) = (s.validTxn p, r, [])) :
    s.txn p code seq ph act = ((s.validTxn p).refuseIf p true).portEnd p code seq ((s.port p).responds code ph) ph r [] := by
  have hrefused : (r != .ok) = true := by simpa using hr
  rw [hs.txn_defined hdef, hact]
  simp only [State.txnEnd, hrefused]

/-! ### The acts -/

theorem State.attachedOp_of_attached {s : State} {p : Fin 2} {n : Nat} (ha : s.attached p = some n) {len max : Nat} (h0 : 1 ≤ len)
    (h1 : len ≤ max) (f : Fin 8 → State × PortRes × List Byte) : s.attachedOp p len max f = f (hallIx n) := by
  simp [State.attachedOp, ha, Nat.one_le_iff_ne_zero.1 h0, Nat.not_lt.2 h1]

theorem State.doWrite_cmd {s : State} {p : Fin 2} {n : Nat} (ha : s.attached p = some n) {addr : Nat} {bs : List Byte}
    (h0 : 1 ≤ bs.length) (h1 : bs.length ≤ 4096) (harea : areaOf (hallIx n) addr bs.length = some .cmd) :
    s.doWrite p addr bs = if (s.halls.get (hallIx n)).ring.touchesPosted (addr - 0x20000000 - cmdBase (hallIx n)) bs.length
      then (s, .slotPosted, []) else (s.sramWrite (addr - 0x20000000) bs, .ok, []) := by
  rw [State.doWrite, State.attachedOp_of_attached ha h0 h1]
  simp only [harea]
  rfl

theorem State.doRegWrite_sup {s : State} {p : Fin 2} (hsup : s.foyer.sup = some p) {addr : Nat} {bs : List Byte} (h0 : 4 ≤ bs.length)
    (h1 : bs.length ≤ 256) (h4 : bs.length % 4 = 0) (ha : addr % 4 = 0) :
    s.doRegWrite p addr bs = (s.regPutWords (regPairs addr bs), .ok, []) := by
  have hne : bs.length ≠ 0 := by omega
  simp [State.doRegWrite, State.regOp, hsup, hne, h4, ha, Nat.not_lt.2 h1]

theorem State.doBulk_free {s : State} {p : Fin 2} {n : Nat} (ha : s.attached p = some n) {b : Fin 2}
    (hb : (s.port p).freeBuf = some b) (addr : Nat) {bs : List Byte} (h0 : 4 ≤ bs.length) (h1 : bs.length ≤ 32772) :
    s.doBulk p addr bs = (s.stage (hallIx n) p b addr bs, .ok, []) := by
  have hlong : ¬ (0 < bs.length ∧ bs.length < 4) := by omega
  rw [State.doBulk, if_neg hlong, State.attachedOp_of_attached ha (by omega) h1]
  simp only [hb]

/-- A reserved code is defined in no version (R334). -/
theorem codeDefined_reserved (version : Nat) {code : Nat} (h0 : 0x38 ≤ code) (h1 : code ≤ 0x3D) : codeDefined version code = false := by
  have hbulk : code ≠ 0x36 := by omega
  simp only [codeDefined, if_neg hbulk, Bool.or_eq_false_iff, decide_eq_false_iff_not, beq_eq_false_iff_ne]
  omega

/-- Settles O41: each transaction by its act and the way it ends. -/
theorem portWritesAct : Obligations.PortWritesAct := by
  rintro s v p seq addr pay ph ver resp hon hrdy hst rfl rfl hwf rfl
  have hs : s.Negotiated p := ⟨hon, hrdy, hst⟩
  have hok : ¬ payloadWf pay = false := by simp [hwf]
  refine ⟨fun h ha h0 h1 harea hfree => ?_, fun h ha h0 h1 harea hposted => ?_, fun hsup h0 h1 h4 halign => ?_,
    fun h b ha hver h0 h1 hb => ?_, fun hnil => ?_, fun code h0 h1 => ?_⟩
  · have hdo := State.doWrite_cmd ha h0 h1 harea
    rw [hfree, if_neg Bool.false_ne_true] at hdo
    exact (if_neg hok).trans (congrArg _ (hs.txn_ok rfl seq.toNat ph hdo))
  · have hdo := State.doWrite_cmd ha h0 h1 harea
    rw [hposted, if_pos rfl] at hdo
    refine ⟨_, (if_neg hok).trans (congrArg _ (hs.txn_refused rfl seq.toNat ph (by decide) hdo)), rfl, by simp, by simp, fun hwhole => ?_⟩
    obtain ⟨answer, irq, hport, -⟩ := ((s.validTxn p).refuseIf p true).port_portEnd p 0x31 seq.toNat ((s.port p).responds 0x31 ph) ph
      .slotPosted []
    have hrec : PortRes.slotPosted.recorded ((s.port p).responds 0x31 ph) ph = .slotPosted := PortRes.recorded_whole _ _ hwhole
    rw [hport, hrec]
    exact ⟨rfl, bit_setFlag_same _ (by decide)⟩
  · exact (if_neg hok).trans (congrArg _ (hs.txn_ok rfl seq.toNat ph (State.doRegWrite_sup hsup h0 h1 h4 halign)))
  · have hdef : codeDefined (s.port p).version 0x36 = true := by simpa [codeDefined] using hver
    refine ⟨_, (if_neg hok).trans (congrArg _ (hs.txn_ok hdef seq.toNat ph (State.doBulk_free ha hb addr.toNat h0 h1))), rfl, ?_, fun hsram => ?_, ?_⟩
    · obtain ⟨answer, irq, hport, -⟩ := ((s.validTxn p).stage (hallIx h) p b addr.toNat pay).port_portEnd p 0x36 seq.toNat
        ((s.port p).responds 0x36 ph) ph .ok []
      rw [hport]
      simp [State.stage, Port.ended]
    · rw [State.portEnd_sram, ← List.length_drop]
      have hwfv : (s.validTxn p).foyer.sram.wf = true := by rw [State.validTxn_sram]; exact hsram
      exact Memory.readList_writeList _ _ _ hwfv
    · rw [State.portEnd_halls]
      simp [State.stage, State.sramWrite]
  · subst hnil
    have hbye := hs.txn_ok rfl seq.toNat ph (code := 0x3E) (act := fun u => u.doBye p 0) (t := (s.validTxn p).updPort p Port.toOpen) rfl
    refine ⟨_, congrArg Host.Outcome.next hbye, ?_⟩
    obtain ⟨answer, irq, hport, -⟩ := ((s.validTxn p).updPort p Port.toOpen).port_portEnd p 0x3E seq.toNat
      ((s.port p).responds 0x3E ph) ph .ok []
    rw [hport, State.portEnd_halls, State.portEnd_voices, State.port_updPort_same]
    exact ⟨rfl, rfl, rfl, rfl, s.validTxn_voices p⟩
  · have hcode : ¬ (payloadWf pay = false ∨ ¬ (0x38 ≤ code.toNat ∧ code.toNat ≤ 0x3D)) := by simp [hwf, h0, h1]
    have hresp : (s.port p).responds code.toNat ph = ((s.port p).version == 0x0302 && ph != .none) := by
      have hread : readType code.toNat = false := by simp only [readType, Bool.or_eq_false_iff, beq_eq_false_iff_ne]; omega
      have hhello : (code.toNat == 0x3F) = false := by rw [beq_eq_false_iff_ne]; omega
      simp [Port.responds, hread, hhello]
    refine ⟨_, (if_neg hcode).trans (congrArg _ (hs.txn_undefined (codeDefined_reserved _ h0 h1) seq.toNat ph _)), ?_⟩
    rw [hresp]
    obtain ⟨irqf, fresh, answer, irq, hshape, -⟩ := s.portEnd_shape p code.toNat seq.toNat ((s.port p).version == 0x0302 && ph != .none) ph
      .unknownCode []
    have hport := congrArg (State.port · p) hshape
    have hsame : ∀ u : State, ({ u with irqf := irqf, fresh := fresh } : State).port p = u.port p := fun _ => rfl
    rw [hsame, State.port_updPort_same] at hport
    refine ⟨by rw [hport]; rfl, fun hr => ?_, by rw [hport]; rfl, by rw [hshape]; rfl⟩
    rw [hport, hr]
    exact ⟨rfl, bit_setFlag_same _ (by decide)⟩

end Sys2Proof.Machine
end

section
/-! PROOF. What passing time and the arrival of events leave (spec/15_timebase_timers_triggers.md R416, R431; spec/02_time_and_determinism.md
R52–R55). -/

namespace Sys2Proof.Machine

/-! ### Shapes -/

/-- A log entry changes the log alone; the configuration stays. -/
theorem State.log_shape (s : State) (code : Nat) (hall : Option Nat) (data : List Byte) :
    ∃ n m, s.log code hall data = { s with nv := n, mgmt := m } ∧ n.cfg = s.nv.cfg := by
  obtain ⟨n, m, e⟩ := s.logAs_shape (logClassOf (Config.logClass code)) code hall data
  refine ⟨n, m, e, ?_⟩
  have hn : n = (s.logAs (logClassOf (Config.logClass code)) code hall data).nv := by rw [e]
  rw [hn]
  unfold State.logAs
  dsimp only [State.logVolatile, State.logFlash]
  split
  · rfl
  · split <;> rfl

theorem State.guar_shape (s : State) (n : Nat) :
    ∃ irqf, s.guar n = { s with sched := { s.sched with guar := setFlag s.sched.guar n }, irqf := irqf } :=
  State.raiseIf_shape { s with sched := { s.sched with guar := setFlag s.sched.guar n } } _ _

/-! ### REFCLK edges -/

/-- The timers take their ticks; nothing else of the time base changes. -/
theorem TimeBlk.tickTimers_shape (t : TimeBlk) (k : Ticks) : ∃ tmr, (t.tickTimers k).1 = { t with tmr := tmr } := ⟨_, rfl⟩

theorem TimeBlk.start_shape (t : TimeBlk) : ∃ tmr going, t.start = { t with tmr := tmr, going := going } := by
  unfold TimeBlk.start
  split
  · exact ⟨t.tmr, t.going, rfl⟩
  · exact ⟨_, _, rfl⟩

/-- Edges of a REFCLK that runs and is counted: the count, engine time and the timers move. -/
theorem TimeBlk.edges_shape {t : TimeBlk} (hr : t.refclk = true) (hc : t.counting = true) (k : Nat) : ∃ tmr going hits,
    (t.edges k).1 = { t with rclk := t.rclk + k, et := if t.running then t.et + 2 * k else t.et, tmr := tmr, going := going, hits := hits } := by
  rcases Nat.eq_zero_or_pos k with rfl | hk
  · exact ⟨t.tmr, t.going, t.hits, by simp [TimeBlk.edges]⟩
  unfold TimeBlk.edges
  rw [if_neg (by simp [hr, hc]; omega)]
  extract_lets _ a _ t1 b
  obtain ⟨tmrA, ha⟩ : ∃ tmr, a.1 = { t with hits := 0#32, tmr := tmr } := ⟨_, rfl⟩
  obtain ⟨tmr1, going, h1⟩ :=
    ({ a.1 with rclk := t.rclk + 1, et := if t.running then t.et + 2 else t.et } : TimeBlk).start_shape
  obtain ⟨tmrB, hb⟩ := t1.tickTimers_shape { ref := k - 1, es := t1.esTicks (k - 1), trig := 0#32 }
  have h1' : t1 = { t with rclk := t.rclk + 1, et := if t.running then t.et + 2 else t.et, hits := 0#32, tmr := tmr1, going := going } := by
    change TimeBlk.start _ = _
    rw [h1, ha]
  refine ⟨tmrB, going, 0#32, ?_⟩
  change ({ b.1 with rclk := t1.rclk + (k - 1), et := if t1.running then t1.et + 2 * (k - 1) else t1.et } : TimeBlk) = _
  have hbk : b.1 = { t1 with tmr := tmrB } := hb
  rw [hbk, h1']
  have hcount : t.rclk + 1 + (k - 1) = t.rclk + k := by omega
  by_cases hrun : t.running = true
  · have het : t.et + 2 + 2 * (k - 1) = t.et + 2 * k := by omega
    simp [hrun, hcount, het]
  · simp [hrun, hcount]

/-- The time that the interrupts and the halls see moves; nothing else of the state but the interrupts changes. -/
theorem State.edges_shape {s : State} (hr : s.time.refclk = true) (hc : s.time.counting = true) (k : Nat) :
    ∃ irqf tmr going hits, s.edges k = { s with irqf := irqf, time := { s.time with
      rclk := s.time.rclk + k, et := if s.time.running then s.time.et + 2 * k else s.time.et, tmr := tmr, going := going, hits := hits } } := by
  obtain ⟨tmr, going, hits, e⟩ := TimeBlk.edges_shape hr hc k
  refine ⟨(s.edges k).irqf, tmr, going, hits, ?_⟩
  rw [← e]
  rfl

/-- Away from the bring-up edge the edges are all that advances. -/
theorem State.advance_eq_edges {s : State} {k : Nat} (h : s.time.armed = false ∨ s.time.rclk + k < s.time.bringupEdge) :
    s.advance k = s.edges k := by
  refine if_neg fun hb => ?_
  obtain ⟨harm, -, -, hle⟩ := hb
  rcases h with h | h
  · simp [h] at harm
  · omega

/-! ### Events that arrive -/

/-- A hall of which only the event queue and the counts of late events may differ. -/
def Hall.Received (x y : Hall) : Prop :=
  ∃ queue qHigh lateCnt lateLog, y = { x with queue := queue, qHigh := qHigh, lateCnt := lateCnt, lateLog := lateLog }

theorem Hall.Received.refl (x : Hall) : x.Received x := ⟨_, _, _, _, rfl⟩

theorem Hall.Received.trans {x y z : Hall} (h1 : x.Received y) (h2 : y.Received z) : x.Received z := by
  obtain ⟨_, _, _, _, rfl⟩ := h1
  obtain ⟨q, m, c, l, rfl⟩ := h2
  exact ⟨q, m, c, l, rfl⟩

/-- What the arrival of events may change: SCHED's counts, the queues of halls, triggers, interrupts and the log. -/
structure State.Received (s t : State) : Prop where
  shape : ∃ sched halls trg irqf nv mgmt, t = { s with
    sched := sched, halls := halls, time := { s.time with trg := trg }, irqf := irqf, nv := nv, mgmt := mgmt }
  cfg : t.nv.cfg = s.nv.cfg
  halls : ∀ h, (s.halls.get h).Received (t.halls.get h)

theorem State.Received.refl (s : State) : s.Received s := ⟨⟨_, _, _, _, _, _, rfl⟩, rfl, fun _ => .refl _⟩

theorem State.Received.trans {s t u : State} (h1 : s.Received t) (h2 : t.Received u) : s.Received u where
  shape := by
    obtain ⟨_, _, _, _, _, _, rfl⟩ := h1.shape
    obtain ⟨sched, halls, trg, irqf, nv, mgmt, rfl⟩ := h2.shape
    exact ⟨sched, halls, trg, irqf, nv, mgmt, rfl⟩
  cfg := h2.cfg.trans h1.cfg
  halls h := (h1.halls h).trans (h2.halls h)

/-- A step that leaves the halls. -/
theorem State.Received.of_shape {s t : State} (h : ∃ sched trg irqf nv mgmt, t = { s with
    sched := sched, time := { s.time with trg := trg }, irqf := irqf, nv := nv, mgmt := mgmt } ∧ nv.cfg = s.nv.cfg) : s.Received t := by
  obtain ⟨sched, trg, irqf, nv, mgmt, rfl, hcfg⟩ := h
  exact ⟨⟨_, _, _, _, _, _, rfl⟩, hcfg, fun _ => .refl _⟩

theorem State.Received.updHall (s : State) (h : Fin 8) {f : Hall → Hall} (hf : (s.halls.get h).Received (f (s.halls.get h))) :
    s.Received (s.updHall h f) := by
  refine ⟨⟨_, _, _, _, _, _, rfl⟩, rfl, fun h' => ?_⟩
  rw [State.updHall_halls]
  by_cases hh : h = h'
  · subst hh
    rw [Tab.get_upd_same]
    exact hf
  · rw [Tab.get_upd_ne _ _ hh]
    exact .refl _

theorem State.Received.log (s : State) (code : Nat) (hall : Option Nat) (data : List Byte) : s.Received (s.log code hall data) := by
  obtain ⟨n, m, e, hcfg⟩ := s.log_shape code hall data
  exact .of_shape ⟨s.sched, s.time.trg, s.irqf, n, m, e, hcfg⟩

theorem State.Received.noteLate (s : State) (h : Fin 8) (src org : Nat) : s.Received (s.noteLate h src org) := by
  unfold State.noteLate
  extract_lets f now _ a logged b
  have ha : s.Received a := by
    obtain ⟨irqf, e⟩ := State.guar_shape ({ s with sched := { s.sched with lateCnt := satInc s.sched.lateCnt 1, lateLast := now } }) 2
    exact .of_shape ⟨_, s.time.trg, irqf, s.nv, s.mgmt, e, rfl⟩
  have hb : s.Received b := ha.trans (.updHall a h ⟨_, _, _, _, rfl⟩)
  split
  · exact hb
  · exact hb.trans (.log ..)

theorem State.Received.arrive (s : State) (h : Fin 8) (src tag org a t : Nat) (kind : EvKind) :
    s.Received (s.arrive h src tag org a t kind).1 := by
  unfold State.arrive
  extract_lets late at' e _ u v
  have hu : s.Received u := .of_shape ⟨_, _, _, _, _, rfl, rfl⟩
  have hv : s.Received v := hu.trans (.updHall u h ⟨_, _, _, _, rfl⟩)
  split
  · exact hv.trans (.noteLate ..)
  · exact hv

theorem State.Received.deliver (s : State) (h : Fin 8) (src tag org a t : Nat) (kind : EvKind) :
    s.Received (s.deliver h src tag org a t kind).1 := by
  unfold State.deliver
  split
  · exact .refl s
  split
  · exact .refl s
  split
  · exact .refl s
  · exact .arrive ..

theorem State.Received.forwardOne (s : State) (m : Mapped) : s.Received (s.forwardOne m) := by
  have hd := State.Received.deliver s (hallIx m.hall) 1 m.tag m.trig m.stamp m.time m.kind
  unfold State.forwardOne
  extract_lets r
  split
  · exact hd
  · exact hd.trans (.of_shape ⟨_, _, _, _, _, rfl, rfl⟩)

theorem State.Received.forwardAll (l : List Mapped) (s : State) : s.Received (l.foldl State.forwardOne s) := by
  induction l generalizing s with
  | nil => exact .refl s
  | cons m l ih => exact (State.Received.forwardOne s m).trans (ih _)

theorem State.Received.forward (s : State) : s.Received s.forward := by
  have hq (sched : Sched) : s.Received { s with sched := sched } := .of_shape ⟨_, s.time.trg, _, _, _, rfl, rfl⟩
  exact (hq _).trans (.forwardAll _ _)

/-- With no mapped event on its way nothing arrives. -/
theorem State.forward_of_mapped_nil {s : State} (h : s.sched.mapped = []) : s.forward = s := by
  have hq : ({ s with sched := { s.sched with mapped := [] } } : State) = s := by rw [← h]
  unfold State.forward
  rw [h]
  exact hq

end Sys2Proof.Machine
end

section
/-! PROOF. Ports fenced, lifted and closed, and the instant of HA_IRQ_n (spec/12_host_ports_and_mailboxes.md R325–R339, R350). -/

namespace Sys2Proof.Machine

/-! ### Flags and counts -/

/-- A flag that is set stays set when another is. -/
theorem bit_setFlag_of_bit {w : Word} {n m : Nat} (h : bit w n = true) : bit (setFlag w m) n = true := by
  simp only [bit, setFlag, BitVec.getLsbD_or, Bool.or_eq_true]
  exact .inl h

theorem PortRes.bit_errAfter (r : PortRes) {w : Word} {n : Nat} (h : bit w n = true) : bit (r.errAfter w) n = true := by
  unfold PortRes.errAfter
  split
  · exact bit_setFlag_of_bit h
  · exact h

/-- The count of R490 stops at all ones, as every count does. -/
theorem satInc_one (w : Word) : (if w = 0xFFFFFFFF#32 then w else w + 1#32) = satInc w 1 := by
  have hw := w.isLt
  have hmax : w = 0xFFFFFFFF#32 ↔ w.toNat = 4294967295 := by rw [← BitVec.toNat_inj]; rfl
  apply BitVec.eq_of_toNat_eq
  unfold satInc
  split
  next h =>
    have := hmax.mp h
    rw [if_pos (by omega)]
    exact this
  next h =>
    have := mt hmax.mpr h
    split
    · simp only [BitVec.toNat_add, BitVec.toNat_ofNat]
      omega
    · rfl

/-- The count of the kind of fence that is added (R490). -/
theorem FenceBlk.cnt_add (b : FenceBlk) (kind : Fin 8) (cause index halls : Nat) :
    (b.add kind.val cause index halls).cnt.get kind = satInc (b.cnt.get kind) 1 := by
  have hcnt : ∀ c : FenceBlk, c.cnt = b.cnt → (c.cnt.upd kind fun w => if w = 0xFFFFFFFF#32 then w else w + 1#32).get kind =
      satInc (b.cnt.get kind) 1 := by
    intro c hc
    rw [Tab.get_upd_same, hc, satInc_one]
  have hk : (Fin.ofNat 8 kind.val : Fin 8) = kind := by simp
  unfold FenceBlk.add
  rw [hk]
  apply hcnt
  split <;> rfl

/-- A new fence: its record, its log entry, and source 4 (R482). -/
theorem State.fenceAdd_shape (s : State) (kind cause index halls : Nat) : ∃ nv irqf mgmt,
    s.fenceAdd kind cause index halls = { s with
      fence := s.fence.add kind cause index halls, nv := nv, irqf := irqf, mgmt := mgmt } ∧ nv.cfg = s.nv.cfg := by
  obtain ⟨n, m, e, hcfg⟩ := ({ s with fence := s.fence.add kind cause index halls }.raise 4).log_shape 0x0501
    (fenceHallOf kind index halls) ([byte kind] ++ leBytes 2 index ++ [byte cause])
  exact ⟨n, _, m, e, hcfg⟩

@[simp] theorem State.fenceAdd_fence (s : State) (kind cause index halls : Nat) :
    (s.fenceAdd kind cause index halls).fence = s.fence.add kind cause index halls := by
  obtain ⟨_, _, _, e, -⟩ := s.fenceAdd_shape kind cause index halls
  rw [e]

/-! ### Errors on the wire -/

theorem State.irqEval_eq (s : State) (p : Fin 2) (h : (s.port p).st = .fenced) : ((s.irqEval p).port p).irq = false := by
  unfold State.irqEval
  simp only [h]
  split
  next hq => exact hq.symm
  next => rw [State.port_updPort_same]

/-- A port that ends a transaction FENCED has no HA_IRQ_n asserted. -/
theorem State.portEnd_irq_of_fenced {s : State} {p : Fin 2} (h : (s.port p).st = .fenced) (code seq : Nat) (resp : Bool) (ph : Phase)
    (r : PortRes) (data : List Byte) : ((s.portEnd p code seq resp ph r data).port p).irq = false := by
  obtain ⟨u, hu⟩ : ∃ u : State, s.portEnd p code seq resp ph r data = u.irqEval p := ⟨_, rfl⟩
  obtain ⟨answer, irq, hport, -⟩ := s.port_portEnd p code seq resp ph r data
  obtain ⟨b, heval⟩ := u.irqEval_shape p
  have hst : (u.port p).st = .fenced := by
    have he : ((u.irqEval p).port p).st = (s.port p).st := by rw [← hu, hport]; rfl
    rw [heval, State.port_updPort_same] at he
    exact he.trans h
  rw [hu]
  exact u.irqEval_eq p hst

/-- A port after a CRC error: counted, flagged (R335). -/
def Port.crcFailed (q : Port) : Port :=
  { q with crcCnt := satInc q.crcCnt 1, crcRun := min 16 (q.crcRun + 1), err := setFlag q.err 0 }

/-- A port after the sixteenth error in a row (R335). -/
def Port.cut (q : Port) : Port :=
  { q with st := .fenced, width := 1, asleep := false, fenceCnt := satInc q.fenceCnt 1, err := setFlag q.err 6 }

/-- An error before the sixteenth in a row is counted, and that is all. -/
theorem State.crcFail_few {s : State} {p : Fin 2} (hst : (s.port p).st ≠ .fenced) (hrun : (s.port p).crcRun + 1 < 16) :
    ∃ irqf, s.crcFail p = ({ s.updPort p Port.crcFailed with irqf := irqf }, .crc) := by
  obtain ⟨irqf, e⟩ := (s.updPort p fun q => { q with crcCnt := satInc q.crcCnt 1, crcRun := min 16 (q.crcRun + 1) }).portErr_shape p 0
  refine ⟨irqf, ?_⟩
  unfold State.crcFail
  rw [if_neg hst, if_neg (by omega), e, State.updPort_updPort]
  rfl

/-- The fence of a port: its registers, its record, the log and the interrupts (R335, R482). -/
theorem State.fencePort_shape (s : State) (p : Fin 2) : ∃ nv irqf mgmt halls, s.fencePort p =
    { s.updPort p Port.cut with nv := nv, irqf := irqf, mgmt := mgmt, fence := s.fence.add 4 9 p.val halls } := by
  unfold State.fencePort
  extract_lets halls u
  obtain ⟨irqf, he⟩ := u.portErr_shape p 6
  obtain ⟨n, m, hl, -⟩ := (u.portErr p 6).log_shape 0x0601 none [byte p.val]
  obtain ⟨nv, irqf', mgmt, hf, -⟩ := ((u.portErr p 6).log 0x0601 none [byte p.val]).fenceAdd_shape 4 9 p.val halls
  refine ⟨nv, irqf', mgmt, halls, ?_⟩
  rw [hf, hl, he, State.updPort_updPort]
  rfl

/-- The sixteenth error in a row fences the port. -/
theorem State.crcFail_many {s : State} {p : Fin 2} (hst : (s.port p).st ≠ .fenced) (hrun : 16 ≤ (s.port p).crcRun + 1) :
    ∃ nv irqf mgmt halls, s.crcFail p = ({ s.updPort p fun q => q.crcFailed.cut with
      nv := nv, irqf := irqf, mgmt := mgmt, fence := s.fence.add 4 9 p.val halls }, .crc) := by
  obtain ⟨irqf, e⟩ := (s.updPort p fun q => { q with crcCnt := satInc q.crcCnt 1, crcRun := min 16 (q.crcRun + 1) }).portErr_shape p 0
  have e' : (s.updPort p fun q => { q with crcCnt := satInc q.crcCnt 1, crcRun := min 16 (q.crcRun + 1) }).portErr p 0 =
      { s.updPort p Port.crcFailed with irqf := irqf } := by
    rw [e, State.updPort_updPort]
    rfl
  obtain ⟨nv, irqf', mgmt, halls, hcut⟩ := ({ s.updPort p Port.crcFailed with irqf := irqf } : State).fencePort_shape p
  refine ⟨nv, irqf', mgmt, halls, ?_⟩
  unfold State.crcFail
  rw [if_neg hst, if_pos hrun, e', hcut]
  congr 1
  have hirqf : ∀ (v : State) (f : Port → Port), ({ v with irqf := irqf } : State).updPort p f = { v.updPort p f with irqf := irqf } :=
    fun _ _ => rfl
  rw [hirqf, State.updPort_updPort]
  rfl

/-- A CRC error on a port that is not fenced: it is counted and flagged, restarts nothing, and at the sixteenth in a row fences
the port. -/
structure State.CrcCounted (s t : State) (p : Fin 2) : Prop where
  crcCnt : (t.port p).crcCnt = satInc (s.port p).crcCnt 1
  crcRun : (t.port p).crcRun = min 16 ((s.port p).crcRun + 1)
  err : bit (t.port p).err 0 = true
  txnCnt : (t.port p).txnCnt = (s.port p).txnCnt
  halls : t.halls = s.halls
  voices : t.voices = s.voices
  few : (s.port p).crcRun + 1 < 16 → (t.port p).st = (s.port p).st
  many : 16 ≤ (s.port p).crcRun + 1 → (t.port p).st = .fenced ∧ (t.port p).width = 1 ∧
    (t.port p).fenceCnt = satInc (s.port p).fenceCnt 1 ∧ t.fence.cnt.get 4 = satInc (s.fence.cnt.get 4) 1

theorem State.crcFail_counted {s : State} {p : Fin 2} (hst : (s.port p).st ≠ .fenced) :
    (s.crcFail p).2 = .crc ∧ s.CrcCounted (s.crcFail p).1 p := by
  rcases Nat.lt_or_ge ((s.port p).crcRun + 1) 16 with hrun | hrun
  · obtain ⟨irqf, e⟩ := State.crcFail_few hst hrun
    have hport : ((s.crcFail p).1.port p) = (s.port p).crcFailed := by
      rw [e]
      exact s.port_updPort_same p _
    refine ⟨by rw [e], ?_⟩
    constructor
    case halls => rw [e]; rfl
    case voices => rw [e]; rfl
    case many => omega
    all_goals rw [hport]
    case err => exact bit_setFlag_same _ (by decide)
    all_goals intros; rfl
  · obtain ⟨nv, irqf, mgmt, halls, e⟩ := State.crcFail_many hst hrun
    have hport : ((s.crcFail p).1.port p) = (s.port p).crcFailed.cut := by
      rw [e]
      exact s.port_updPort_same p _
    have hcnt : (s.crcFail p).1.fence.cnt.get 4 = satInc (s.fence.cnt.get 4) 1 := by
      rw [e]
      exact s.fence.cnt_add 4 9 p.val halls
    refine ⟨by rw [e], ?_⟩
    constructor
    case halls => rw [e]; rfl
    case voices => rw [e]; rfl
    case few => omega
    case many => exact fun _ => ⟨by rw [hport]; rfl, by rw [hport]; rfl, by rw [hport]; rfl, hcnt⟩
    all_goals rw [hport]
    case err => exact bit_setFlag_of_bit (bit_setFlag_same _ (by decide))
    all_goals rfl

/-- The end of the transaction that the error has cut keeps the count. -/
theorem State.CrcCounted.portEnd {s t : State} {p : Fin 2} (h : s.CrcCounted t p) (code seq : Nat) (resp : Bool) (ph : Phase)
    (r : PortRes) (data : List Byte) : s.CrcCounted (t.portEnd p code seq resp ph r data) p := by
  obtain ⟨answer, irq, hport, -⟩ := t.port_portEnd p code seq resp ph r data
  obtain ⟨_, _, _, _, hshape, -⟩ := t.portEnd_shape p code seq resp ph r data
  constructor
  case halls => rw [State.portEnd_halls]; exact h.halls
  case voices => rw [State.portEnd_voices]; exact h.voices
  all_goals rw [hport]
  case err => exact PortRes.bit_errAfter _ h.err
  case many =>
    intro hrun
    obtain ⟨hst, hwidth, hcnt, hfence⟩ := h.many hrun
    exact ⟨hst, hwidth, hcnt, by rw [hshape]; exact hfence⟩
  case few => exact h.few
  case crcCnt => exact h.crcCnt
  case crcRun => exact h.crcRun
  case txnCnt => exact h.txnCnt

/-! ### Bytes that frame nothing -/

theorem State.noise_negotiated {s : State} {p : Fin 2} (hon : s.portOn p = true) (hrdy : (s.port p).rdy = true)
    (hst : (s.port p).st = .uhp3 ∨ (s.port p).st = .opened) (code seq : Nat) (resp : Bool) (ph : Phase) :
    s.noise p code seq resp ph = (s.crcFail p).1.portEnd p code seq resp ph (s.crcFail p).2 [] := by
  rcases hst with hst | hst <;> simp [State.noise, hon, hrdy, hst]

/-- A first byte that opens no frame, on a port that a CRC error counts on (R335). -/
theorem State.unframed_counted {s : State} {p : Fin 2} (hon : s.portOn p = true) (hrdy : (s.port p).rdy = true)
    (hst : (s.port p).st = .uhp3 ∨ (s.port p).st = .opened) {code : Nat} (hc : 0x20 ≤ code) : ∃ (u : State) (seq : Nat),
    u.port p = s.port p ∧ u.halls = s.halls ∧ s.unframed p code = (u.crcFail p).1.portEnd p code seq false .none (u.crcFail p).2 [] := by
  refine ⟨{ s with fresh := s.fresh + 1 }, Config.unframedSeq s.fresh % 256, rfl, rfl, ?_⟩
  have hon' : ({ s with fresh := s.fresh + 1 } : State).portOn p = true := hon
  have hrdy' : (({ s with fresh := s.fresh + 1 } : State).port p).rdy = true := hrdy
  have hc' : ¬ code < 0x20 := by omega
  unfold State.unframed
  dsimp only
  rw [hon', hrdy']
  rcases hst with hst | hst
  · have hst' : (({ s with fresh := s.fresh + 1 } : State).port p).st = .uhp3 := hst
    rw [hst']
    simp only [hc', Bool.true_eq_false, if_false]
  · have hst' : (({ s with fresh := s.fresh + 1 } : State).port p).st = .opened := hst
    rw [hst']
    simp only [hc', Bool.true_eq_false, if_false]

/-! ### The supervisor's control of a port (R329) -/

theorem State.reach_portCtrl {s : State} (i : Initiator) (p : Fin 2) (hp : s.pwr.answers pdFoyer = true) :
    s.reach i (portCtrlAddr p) = .ok (.port p) 8 := by
  refine State.reach_ok i ?_ ?_ ?_ rfl (State.powered_of_answers rfl hp)
  all_goals (revert p; decide)

theorem State.busWrite_portCtrl {s : State} (i : Initiator) (p : Fin 2) (v : Word) (hp : s.pwr.answers pdFoyer = true) :
    s.busWrite i (portCtrlAddr p) v = s.portCtrl i p v :=
  State.busWrite_effect (State.reach_portCtrl i p hp) rfl

/-- Evaluating HA_IRQ_n leaves the voices and what else a port holds. -/
@[simp] theorem State.irqEval_voices (s : State) (p : Fin 2) : (s.irqEval p).voices = s.voices := by
  obtain ⟨b, e⟩ := s.irqEval_shape p
  rw [e]
  rfl

theorem State.port_irqEval (s : State) (p : Fin 2) : ∃ b, (s.irqEval p).port p = { s.port p with irq := b } := by
  obtain ⟨b, e⟩ := s.irqEval_shape p
  exact ⟨b, by rw [e, State.port_updPort_same]⟩

theorem State.port_fenceLift (s : State) (kind index : Nat) (p : Fin 2) : (s.fenceLift kind index).port p = s.port p := by
  simp [State.port]

/-- A lift opens a fenced port and leaves halls and voices. -/
theorem State.liftPort_opens {s : State} {p : Fin 2} (hst : (s.port p).st = .fenced) :
    ((s.liftPort p).port p).st = .opened ∧ ((s.liftPort p).port p).width = 1 ∧ ((s.liftPort p).port p).crcRun = 0 ∧
      (s.liftPort p).halls = s.halls ∧ (s.liftPort p).voices = s.voices := by
  unfold State.liftPort
  rw [if_pos hst]
  obtain ⟨b, e⟩ := ((s.updPort p fun q => { q with st := .opened, width := 1, crcRun := 0 }).fenceLift 4 p.val).port_irqEval p
  rw [e, State.port_fenceLift, State.port_updPort_same]
  exact ⟨rfl, rfl, rfl, by simp, by simp⟩

/-- A close opens a port that is not DOWN and leaves halls and voices. -/
theorem State.closePort_opens {s : State} {p : Fin 2} (hst : (s.port p).st ≠ .down) :
    ((s.closePort p).port p).st = .opened ∧ ((s.closePort p).port p).width = 1 ∧ ((s.closePort p).port p).crcRun = 0 ∧
      ((s.closePort p).port p).asleep = false ∧ (s.closePort p).halls = s.halls ∧ (s.closePort p).voices = s.voices := by
  unfold State.closePort
  rw [if_neg hst]
  extract_lets u
  have hu : u.halls = s.halls ∧ u.voices = s.voices := by
    by_cases h : (s.port p).st = .fenced <;> simp [u, h]
  obtain ⟨b, e⟩ := (u.updPort p fun q =>
    { q.irqLeft with st := .opened, width := 1, asleep := false, crcRun := 0 }).port_irqEval p
  rw [e, State.port_updPort_same]
  exact ⟨rfl, rfl, rfl, rfl, by simp [hu.1], by simp [hu.2]⟩

/-- A lift leaves a port that is not DOWN so, with halls and voices. -/
theorem State.liftPort_keeps_open {s : State} {p : Fin 2} (hst : (s.port p).st ≠ .down) :
    ((s.liftPort p).port p).st ≠ .down ∧ (s.liftPort p).halls = s.halls ∧ (s.liftPort p).voices = s.voices := by
  by_cases hf : (s.port p).st = .fenced
  · obtain ⟨h1, -, -, hh, hv⟩ := State.liftPort_opens hf
    exact ⟨by rw [h1]; decide, hh, hv⟩
  · rw [State.liftPort, if_neg hf]
    exact ⟨hst, rfl, rfl⟩

/-! ### The instant of HA_IRQ_n (R350) -/

/-- Where the instant has come, evaluating the level of an attached UHP3 port asserts it. -/
theorem State.irq_irqEval_due {s : State} {p : Fin 2} {h : Fin 8} (hst : (s.port p).st = .uhp3) (hatt : s.attached p = some h.val)
    (hdue : s.irqDue (s.port p).asleep (s.halls.get h).ring = true) : ((s.irqEval p).port p).irq = true := by
  have hh : (s.hall h.val).ring = (s.halls.get h).ring := by rw [State.hall, hallIx_val]
  unfold State.irqEval
  simp only [hst, hatt, hh, hdue, Bool.or_true]
  split
  next hq => exact hq.symm
  next => rw [State.port_updPort_same]

theorem State.irqDue_of_time {s : State} {asleep : Bool} {r : Ring} {T : Nat} (hT : s.irqTime r = some T)
    (hle : (if r.countDue asleep then s.irqBlank r else max T (s.irqBlank r)) ≤ s.time.rclk) : s.irqDue asleep r = true := by
  unfold State.irqDue
  simp only [hT]
  split at hle
  · simp_all
  · have h1 : s.irqBlank r ≤ s.time.rclk := Nat.le_trans (Nat.le_max_right ..) hle
    have h2 : T ≤ s.time.rclk := Nat.le_trans (Nat.le_max_left ..) hle
    simp [h1, h2]

theorem State.Received.ring {s t : State} (h : s.Received t) (k : Fin 8) : (t.halls.get k).ring = (s.halls.get k).ring := by
  obtain ⟨_, _, _, _, e⟩ := h.halls k
  rw [e]

theorem State.Received.port? {s t : State} (h : s.Received t) (k : Fin 8) : (t.halls.get k).port? = (s.halls.get k).port? := by
  obtain ⟨_, _, _, _, e⟩ := h.halls k
  rw [e]
  rfl

theorem State.Received.attached {s t : State} (h : s.Received t) (p : Fin 2) : t.attached p = s.attached p := by
  simp only [State.attached, State.hall, h.port?]

theorem State.Received.edgesUs {s t : State} (h : s.Received t) (us : Nat) : t.edgesUs us = s.edgesUs us := by
  simp only [State.edgesUs, State.ref882, h.cfg]

/-- Time passes up to `at'`, with no bring-up armed: HA_IRQ_n's instant finds ports, rings and voices as they were. -/
theorem State.pass_unarmed {s : State} (hc : s.time.counting = true) (hr : s.time.refclk = true) (ha : s.time.armed = false) (k : Nat) :
    (s.pass k).foyer = s.foyer ∧ (s.pass k).voices = s.voices ∧ (s.pass k).time.rclk = s.time.rclk + k ∧
      (∀ us, (s.pass k).edgesUs us = s.edgesUs us) ∧ (∀ h, ((s.pass k).halls.get h).ring = (s.halls.get h).ring) ∧
      (∀ p, (s.pass k).attached p = s.attached p) ∧ (s.sched.mapped = [] → (s.pass k).halls = s.halls) := by
  obtain ⟨irqf, tmr, going, hits, e⟩ := State.edges_shape hr hc k
  have hpass : s.pass k = (s.edges k).forward := by rw [State.pass, State.advance_eq_edges (.inl ha)]
  have hrec := State.Received.forward (s.edges k)
  obtain ⟨_, _, _, _, _, _, hshape⟩ := hrec.shape
  rw [hpass]
  refine ⟨?_, ?_, ?_, fun us => ?_, fun h => ?_, fun p => ?_, fun hm => ?_⟩
  · rw [hshape]; rfl
  · rw [hshape]; rfl
  · rw [hshape, e]
  · rw [hrec.edgesUs]; rfl
  · rw [hrec.ring]; rfl
  · rw [hrec.attached]; rfl
  · rw [State.forward_of_mapped_nil (s := s.edges k) hm]; rfl

/-- The instant of R350, once it has passed. -/
theorem exec_irqModTimeout_asserts {s : State} {p : Fin 2} {h : Fin 8} {T : Nat} (hport : (s.halls.get h).port? = some p)
    (hatt : s.attached p = some h.val) (hst : (s.port p).st = .uhp3) (hT : s.irqTime (s.halls.get h).ring = some T)
    (hc : s.time.counting = true) (hr : s.time.refclk = true) (ha : s.time.armed = false) :
    ∃ t : State, exec (.irqModTimeout h) s = .next t ∧ (t.port p).irq = true ∧ (s.sched.mapped = [] → t.halls = s.halls) ∧
      t.voices = s.voices ∧ s.irqBlank (s.halls.get h).ring ≤ t.time.rclk := by
  obtain ⟨at', hat⟩ : ∃ n, n = if (s.halls.get h).ring.countDue (s.port p).asleep then s.irqBlank (s.halls.get h).ring
      else max T (s.irqBlank (s.halls.get h).ring) := ⟨_, rfl⟩
  have hexec : exec (.irqModTimeout h) s = .next ((s.pass (at' - s.time.rclk)).irqEval p) := by
    change execIrqModTimeout h s = _
    unfold execIrqModTimeout
    rw [hat]
    simp only [hport, hT, State.when, hc, hr]
    rfl
  obtain ⟨hfoyer, hvoices, hrclk, hus, hring, hattP, hhalls⟩ := State.pass_unarmed hc hr ha (at' - s.time.rclk)
  have hq : (s.pass (at' - s.time.rclk)).port p = s.port p := by rw [State.port, hfoyer]; rfl
  have htime : (s.pass (at' - s.time.rclk)).irqTime (s.halls.get h).ring = some T := by
    rw [← hT, State.irqTime, State.irqTime]
    simp only [hus]
  have hblank : (s.pass (at' - s.time.rclk)).irqBlank (s.halls.get h).ring = s.irqBlank (s.halls.get h).ring := by
    rw [State.irqBlank, State.irqBlank, hus]
  have hle : at' ≤ (s.pass (at' - s.time.rclk)).time.rclk := by rw [hrclk]; omega
  have hdue : (s.pass (at' - s.time.rclk)).irqDue ((s.pass (at' - s.time.rclk)).port p).asleep
      ((s.pass (at' - s.time.rclk)).halls.get h).ring = true := by
    rw [hq, hring]
    exact State.irqDue_of_time htime (by rw [hblank, ← hat]; exact hle)
  obtain ⟨b, heval⟩ := (s.pass (at' - s.time.rclk)).irqEval_shape p
  refine ⟨_, hexec, ?_, fun hm => ?_, ?_, ?_⟩
  · exact State.irq_irqEval_due (by rw [hq]; exact hst) (by rw [hattP]; exact hatt) hdue
  · rw [State.irqEval_halls]; exact hhalls hm
  · rw [State.irqEval_voices]; exact hvoices
  · have hblank_le : s.irqBlank (s.halls.get h).ring ≤ at' := by
      rw [hat]
      split
      · exact Nat.le_refl _
      · exact Nat.le_max_right ..
    rw [heval]
    exact Nat.le_trans hblank_le hle

/-! ### The statement -/

/-- Noise on a negotiated or open port. -/
theorem exec_noise_counts {s : State} {p : Fin 2} (code seq : Byte) (ph : Phase) (hon : s.portOn p = true) :
    (∀ x : Instr, (x = .portCrcError p code seq ph ∨ x = .incompleteTransaction p code seq) → (s.port p).rdy = true →
      (s.port p).st = .uhp3 ∨ (s.port p).st = .opened → 0x30 ≤ code.toNat → code.toNat ≤ 0x3F →
      ∃ t : State, exec x s = .next t ∧ s.CrcCounted t p ∧ ((t.port p).st = .fenced → (t.port p).irq = false)) := by
  intro x hx hrdy hst hc0 hc1
  have hcode : uhp3Code code.toNat = true := by simp [uhp3Code, hc0, hc1]
  have hnf : (s.port p).st ≠ .fenced := by rcases hst with h | h <;> rw [h] <;> decide
  obtain ⟨resp, ph', hexec⟩ : ∃ resp ph', exec x s = .next (s.noise p code.toNat seq.toNat resp ph') := by
    rcases hx with rfl | rfl
    · exact ⟨_, _, next_when hcode⟩
    · refine ⟨false, .none, ?_⟩
      change execIncompleteTransaction p code seq s = _
      rw [execIncompleteTransaction, if_pos hcode]
  obtain ⟨-, hcounted⟩ := State.crcFail_counted hnf
  refine ⟨_, hexec, ?_, fun hf => ?_⟩ <;> rw [State.noise_negotiated hon hrdy hst] at *
  · exact hcounted.portEnd ..
  · obtain ⟨answer, irq, hport, -⟩ := (s.crcFail p).1.port_portEnd p code.toNat seq.toNat resp ph' (s.crcFail p).2 []
    rw [hport] at hf
    exact State.portEnd_irq_of_fenced hf ..

/-- A first byte below 0x20 on a UHP3 port is a code that is not known, and no CRC error (R335). -/
theorem exec_unframeable_low {s : State} {p : Fin 2} {code : Byte} (hon : s.portOn p = true) (hrdy : (s.port p).rdy = true)
    (hst : (s.port p).st = .uhp3) (hc : code.toNat < 0x20) : ∃ t : State, exec (.unframeableFirstByte p code) s = .next t ∧
      (t.port p).lastRes = 2 ∧ (t.port p).crcCnt = (s.port p).crcCnt ∧ (t.port p).crcRun = (s.port p).crcRun ∧
      (t.port p).st = .uhp3 ∧ t.halls = s.halls := by
  have hcode : (!uhp3Code code.toNat) = true := by simp [uhp3Code]; omega
  have hun : ∃ seq, s.unframed p code.toNat =
      ({ s with fresh := s.fresh + 1 } : State).portEnd p code.toNat seq false .none .unknownCode [] := by
    refine ⟨Config.unframedSeq s.fresh % 256, ?_⟩
    have hon' : ({ s with fresh := s.fresh + 1 } : State).portOn p = true := hon
    have hrdy' : (({ s with fresh := s.fresh + 1 } : State).port p).rdy = true := hrdy
    have hst' : (({ s with fresh := s.fresh + 1 } : State).port p).st = .uhp3 := hst
    unfold State.unframed
    dsimp only
    rw [hon', hrdy', hst']
    simp only [hc, Bool.true_eq_false, if_false, if_true]
  obtain ⟨seq, hun⟩ := hun
  obtain ⟨answer, irq, hport, -⟩ :=
    ({ s with fresh := s.fresh + 1 } : State).port_portEnd p code.toNat seq false .none .unknownCode []
  refine ⟨_, next_when hcode, ?_⟩
  rw [hun, hport]
  exact ⟨rfl, rfl, rfl, hst, State.portEnd_halls ..⟩

/-- Any other first byte that opens no frame is a CRC error (R335). -/
theorem exec_unframeable_high {s : State} {p : Fin 2} {code : Byte} (hon : s.portOn p = true) (hrdy : (s.port p).rdy = true)
    (hst : (s.port p).st = .uhp3 ∨ (s.port p).st = .opened) (hc : 0x20 ≤ code.toNat) (hn : code.toNat < 0x30 ∨ 0x3F < code.toNat) :
    ∃ t : State, exec (.unframeableFirstByte p code) s = .next t ∧ (t.port p).lastRes = 1 ∧
      (t.port p).crcCnt = satInc (s.port p).crcCnt 1 ∧ t.halls = s.halls := by
  have hcode : (!uhp3Code code.toNat) = true := by simp [uhp3Code]; omega
  obtain ⟨u, seq, huport, huhalls, hun⟩ := State.unframed_counted hon hrdy hst hc
  have hnf : (u.port p).st ≠ .fenced := by rw [huport]; rcases hst with h | h <;> rw [h] <;> decide
  obtain ⟨hres, hcounted⟩ := State.crcFail_counted hnf
  obtain ⟨answer, irq, hport, -⟩ := (u.crcFail p).1.port_portEnd p code.toNat seq false .none (u.crcFail p).2 []
  refine ⟨_, next_when hcode, ?_⟩
  rw [hun, hport]
  refine ⟨by rw [hres]; rfl, ?_, ?_⟩
  · rw [← huport]; exact hcounted.crcCnt
  · rw [State.portEnd_halls, hcounted.halls, huhalls]

/-- A selection begun while HA_RDY is low is recorded only (R325). -/
theorem exec_notReady_records {s : State} {p : Fin 2} (code seq : Byte) (hon : s.portOn p = true) (hrdy : (s.port p).rdy = false) :
    ∃ t : State, exec (.notReadyTransaction p code seq) s = .next t ∧ (t.port p).lastRes = 6 ∧
        bit (t.port p).err 4 = true ∧ (t.port p).rdy = false ∧ (t.port p).crcCnt = (s.port p).crcCnt ∧
        t = { s with foyer := t.foyer, irqf := t.irqf } := by
  obtain ⟨irqf, e⟩ := s.portRecord_shape p code.toNat seq.toNat .notReady
  refine ⟨s.portRecord p code.toNat seq.toNat .notReady, next_when (by simp [hon, hrdy]), ?_⟩
  have hport : (s.portRecord p code.toNat seq.toNat .notReady).port p =
      { s.port p with lastCode := code.toNat, lastSeq := seq.toNat, lastRes := PortRes.notReady.code,
                      err := PortRes.notReady.errAfter (s.port p).err } := by
    rw [e]
    exact s.port_updPort_same p _
  refine ⟨by rw [hport]; rfl, by rw [hport]; exact bit_setFlag_same _ (by decide), by rw [hport]; exact hrdy, by rw [hport], ?_⟩
  rw [e]
  rfl

/-- The supervisor's writes of HPp_CTRL, and any other initiator's. -/
theorem portCtrl_writes {s : State} (p : Fin 2) (v : Word) (hp : s.pwr.answers pdFoyer = true) :
    (bit v 0 = true → bit v 1 = false → (s.port p).st = .fenced → ∃ t : State, exec (.hppLift .window p v) s = .next t ∧
      (t.port p).st = .opened ∧ (t.port p).width = 1 ∧ (t.port p).crcRun = 0 ∧ t.halls = s.halls ∧ t.voices = s.voices) ∧
    (bit v 1 = true → (s.port p).st ≠ .down → ∃ t : State, exec (.hppClose .window p v) s = .next t ∧
      (t.port p).st = .opened ∧ (t.port p).width = 1 ∧ (t.port p).crcRun = 0 ∧ (t.port p).asleep = false ∧ t.halls = s.halls ∧
      t.voices = s.voices) ∧
    (∀ i, i ≠ .window → exec (.hppClose i p v) s = .next s ∧ exec (.hppLift i p v) s = .next s) := by
  have hwrite (i : Initiator) : (.next (s.busWrite i (portCtrlAddr p) v) : Out') = .next (s.portCtrl i p v) :=
    congrArg _ (State.busWrite_portCtrl i p v hp)
  refine ⟨fun h0 h1 hst => ⟨_, hwrite .window, ?_⟩, fun h1 hst => ⟨_, hwrite .window, ?_⟩, fun i hi => ?_⟩
  · have hctrl : s.portCtrl .window p v = s.liftPort p := by simp [State.portCtrl, h0, h1]
    rw [hctrl]
    exact State.liftPort_opens hst
  · have hctrl : s.portCtrl .window p v = (if bit v 0 then s.liftPort p else s).closePort p := by simp [State.portCtrl, h1]
    rw [hctrl]
    split
    · obtain ⟨hst', hh, hv⟩ := State.liftPort_keeps_open hst
      have := State.closePort_opens hst'
      rw [hh, hv] at this
      exact this
    · exact State.closePort_opens hst
  · have hctrl : s.portCtrl i p v = s := by simp [State.portCtrl, hi]
    have := (hwrite i).trans (congrArg _ hctrl)
    exact ⟨this, this⟩

/-- Settles O45: noise counts by `State.crcFail_counted`, the control writes are `State.portCtrl`'s, and the instant of HA_IRQ_n is the
evaluation of its level once that much time has passed. -/
theorem portsAreFencedLiftedAndClosed : Obligations.PortsAreFencedLiftedAndClosed := by
  refine ⟨?_, ?_⟩
  · rintro s p code seq ph q rfl hon
    refine ⟨fun x hx hrdy hst hc0 hc1 => ?_, fun hrdy hst hc => exec_unframeable_low hon hrdy hst hc,
      fun hrdy hst hc hn => exec_unframeable_high hon hrdy hst hc hn, rfl, fun hrdy => exec_notReady_records code seq hon hrdy,
      fun hst => ?_⟩
    · obtain ⟨t, hexec, hcounted, hirq⟩ := exec_noise_counts code seq ph hon x hx hrdy hst hc0 hc1
      refine ⟨t, hexec, hcounted.crcCnt, hcounted.crcRun, hcounted.err, hcounted.txnCnt, hcounted.halls, hcounted.voices,
        hcounted.few, fun hrun => ?_⟩
      obtain ⟨hf, hwidth, hcnt, hfence⟩ := hcounted.many hrun
      exact ⟨hf, hwidth, hirq hf, hcnt, hfence⟩
    · exact next_when (by simp [hon, hst])
  · intro s p v hp
    obtain ⟨hlift, hclose, hother⟩ := portCtrl_writes p v hp
    exact ⟨hlift, hclose, hother, fun h T hport hatt hst hT hc hr ha => exec_irqModTimeout_asserts hport hatt hst hT hc hr ha⟩

end Sys2Proof.Machine
end

section
/-! PROOF. The checks common to every command, and the turn of the halls (spec/13_command_set.md R360, R363). -/

namespace Sys2Proof.Machine

/-- CP0 serves the hall: it runs, the hall has a port, and its turn has come. -/
theorem State.serves {s : State} {h : Fin 8} (hrun : s.cp0Runs = true) (hport : (s.halls.get h).port?.isSome = true)
    (hturn : s.turn h = true) : ¬ (s.cp0Runs = false ∨ (s.halls.get h).port?.isNone = true ∨ s.turn h = false) := by
  rintro (h1 | h1 | h1)
  · simp [hrun] at h1
  · simp [Option.isSome_iff_ne_none.mp hport] at h1
  · simp [hturn] at h1

/-- A command that fails a check completes with its status, and its body is not run. -/
theorem Opcode.take_of_check_fails {s : State} {o : Opcode} {h : Fin 8} {c : Cmd} {n st : Nat} (hrun : s.cp0Runs = true)
    (hport : (s.halls.get h).port?.isSome = true) (hturn : s.turn h = true) (hcmd : s.nextCmd h = .cmd c n) (hop : c.op = o.op)
    (hroom : s.room h (o.need s h c) = true) (hqueue : o.timed = true → s.queueRoom h = true) (hcheck : o.check (s.takeEntries h n) h c = some st)
    (hdefers : s.defers c = false) :
    o.take o.is h s = (s.takeEntries h n (o.need s h c)).answered h c st [] (o.need s h c) := by
  have hsel : o.is c = true := by simp [Opcode.is, hop]
  have hfull : ¬ (o.timed = true ∧ s.queueRoom h = false) := fun ⟨ht, hq⟩ => by simp [hqueue ht] at hq
  have hbody : o.run (s.takeEntries h n (o.need s h c)) h c = .done (s.takeEntries h n (o.need s h c)) st [] := by
    simp only [Opcode.run, o.check_takeEntries, hcheck]
  simp only [Opcode.take, if_neg (State.serves hrun hport hturn), hcmd, hsel, hdefers, hroom, if_neg hfull, hbody, Bool.true_eq_false,
    Bool.false_eq_true, or_self, if_false]
  rfl

/-- A hall nearer in the turn, with a command ready, goes first (R363). -/
theorem State.turn_of_nearer {s : State} {h k : Fin 8}
    (hnear : (k.val + 7 - s.foyer.last.val) % 8 < (h.val + 7 - s.foyer.last.val) % 8) (hready : s.ready k = true) : s.turn h = false := by
  have hk : Fin.ofNat 8 (s.foyer.last.val + 1 + (k.val + 7 - s.foyer.last.val) % 8) = k := by
    have := k.isLt
    have := s.foyer.last.isLt
    apply Fin.ext
    rw [Fin.val_ofNat]
    omega
  unfold State.turn
  rw [List.all_eq_false]
  exact ⟨_, List.mem_range.mpr hnear, by rw [hk, hready]; simp⟩

/-- Settles O19: a check that fails decides the completion before the body, and the turn is looked at before either. -/
theorem checksCommonToEveryCommand : Obligations.ChecksCommonToEveryCommand := by
  refine ⟨fun s o h c n st => Opcode.take_of_check_fails, fun s h c n hrun hport hturn hcmd hop hroom => ?_,
    fun s o h k hnear hready => ?_⟩
  · have hun : opcodes.contains c.op = false := by simpa using hop
    change Host.Outcome.next (Opcode.runUndefined h s) = _
    simp only [Opcode.runUndefined, if_neg (State.serves hrun hport hturn), hcmd, hun, hroom, Bool.true_eq_false, Bool.false_eq_true,
      if_false]
    rfl
  · have hturn := State.turn_of_nearer hnear hready
    have hidle : s.cp0Runs = false ∨ (s.halls.get h).port?.isNone = true ∨ s.turn h = false := .inr (.inr hturn)
    exact ⟨if_pos hidle, congrArg _ (if_pos hidle)⟩

end Sys2Proof.Machine
end

section
/-! PROOF. Event lists, events outside the flight, and frame boundaries (spec/02_time_and_determinism.md R49, R54). -/

namespace Sys2Proof.Machine

/-! ### Events in order -/

theorem evInsert_ne_nil (e : Ev) (l : List Ev) : evInsert e l ≠ [] := by
  cases l with
  | nil => simp [evInsert]
  | cons f fs =>
    rw [evInsert]
    split <;> simp

/-- Sorting loses no event. -/
theorem evSort_eq_nil {l : List Ev} : evSort l = [] ↔ l = [] := by
  have hfold : ∀ (es acc : List Ev), acc ≠ [] → es.foldl (fun l e => evInsert e l) acc ≠ [] := by
    intro es
    induction es with
    | nil => exact fun acc h => h
    | cons e es ih => exact fun acc _ => ih _ (evInsert_ne_nil e acc)
  constructor
  · intro h
    cases l with
    | nil => rfl
    | cons e es => exact absurd h (hfold es _ (evInsert_ne_nil e []))
  · rintro rfl
    rfl

/-- An event outside the flight acts on the outputs and the input routes alone. -/
theorem State.applyOther_shape (s : State) (e : Ev) :
    ∃ mez out tdm dac, s.applyOther e = { s with mez := mez, out := out, tdm := tdm, dac := dac } := by
  unfold State.applyOther
  dsimp only
  split
  case h_2 => split <;> exact ⟨_, _, _, _, rfl⟩
  all_goals exact ⟨_, _, _, _, rfl⟩

theorem State.applyOthers_shape (l : List Ev) (s : State) :
    ∃ mez out tdm dac, l.foldl State.applyOther s = { s with mez := mez, out := out, tdm := tdm, dac := dac } := by
  induction l generalizing s with
  | nil => exact ⟨s.mez, s.out, s.tdm, s.dac, rfl⟩
  | cons e l ih =>
    obtain ⟨_, _, _, _, he⟩ := s.applyOther_shape e
    obtain ⟨mez, out, tdm, dac, hl⟩ := ih (s.applyOther e)
    refine ⟨mez, out, tdm, dac, ?_⟩
    rw [List.foldl_cons, hl, he]

/-- The events that take effect are those outside the flight whose time has come: they leave their queues, and act on the outputs and
the input routes. -/
theorem State.settleBy_shape (s : State) (t : Nat) : ∃ mez out tdm dac, s.settleBy t = { s with
    mez := mez, out := out, tdm := tdm, dac := dac, halls := s.halls.map fun (h : Hall) =>
      { h with queue := h.queue.filter fun e => !(!e.kind.inFlight && decide (e.time ≤ t)) } } := by
  unfold State.settleBy
  extract_lets due es
  split
  next hnil =>
    refine ⟨s.mez, s.out, s.tdm, s.dac, ?_⟩
    have hnone : (s.halls.toList.flatMap fun h => h.queue.filter due) = [] := evSort_eq_nil.mp hnil
    rw [List.flatMap_eq_nil_iff] at hnone
    have hkeep : ∀ h ∈ s.halls.toList, h.queue.filter (fun e => !due e) = h.queue := by
      intro h hh
      have := hnone h hh
      rw [List.filter_eq_nil_iff] at this
      rw [List.filter_eq_self]
      intro e he
      have := this e he
      simp_all
    have hmap : (s.halls.map fun (h : Hall) => { h with queue := h.queue.filter fun e => !due e }) = s.halls := by
      apply Vector.toList_inj.mp
      rw [Vector.toList_map]
      refine (List.map_congr_left fun h hh => ?_).trans (List.map_id _)
      rw [hkeep h hh]
      rfl
    change s = { s with halls := s.halls.map fun (h : Hall) => { h with queue := h.queue.filter fun e => !due e } }
    rw [hmap]
  next => exact State.applyOthers_shape es _

theorem Tab.get_map {α β : Type} {n : Nat} (t : Tab α n) (f : α → β) (i : Fin n) : Tab.get (t.map f) i = f (t.get i) := by
  simp [Tab.get]

/-- After `settle` no event outside the flight is due. -/
theorem State.settle_done (s : State) (h : Fin 8) :
    ∀ e ∈ (s.settle.halls.get h).queue, e.kind.inFlight = true ∨ s.settle.time.et < e.time := by
  obtain ⟨_, _, _, _, hs⟩ := s.settleBy_shape s.time.et
  intro e he
  rw [State.settle, hs] at he ⊢
  rw [Tab.get_map] at he
  obtain ⟨-, hdue⟩ := List.mem_filter.mp he
  simp only [Bool.not_and, Bool.not_not, Bool.or_eq_true, decide_eq_false_iff_not, Bool.not_eq_eq_eq_not, Bool.not_true, Nat.not_le] at hdue
  exact hdue

@[simp] theorem State.settle_time (s : State) : s.settle.time = s.time := by
  obtain ⟨_, _, _, _, hs⟩ := s.settleBy_shape s.time.et
  rw [State.settle, hs]

/-! ### Time runs on -/

/-- Where engine time reaches `t` and no bring-up is armed, running to `t` reaches it. -/
theorem State.le_et_runTo {s : State} {t : Nat} (hreach : s.reaches t = true) (ha : s.time.armed = false) : t ≤ (s.runTo t).time.et := by
  obtain ⟨_, _, trg, _, _, _, hfwd⟩ := (State.Received.forward (s.advanceTo t)).shape
  have het : (s.runTo t).time.et = (s.advanceTo t).time.et := by
    rw [State.runTo, State.settle_time, State.passTo, hfwd]
  rw [het, State.advanceTo]
  simp only [State.reaches, Bool.and_eq_true, Bool.or_eq_true, decide_eq_true_eq] at hreach
  obtain ⟨hrun, hle⟩ := hreach
  split
  next hlt =>
    obtain ⟨hc, hr⟩ := hle.resolve_left (by omega)
    obtain ⟨_, _, _, _, he⟩ := State.edges_shape hr hc ((t - s.time.et + 1) / 2)
    rw [State.advance_eq_edges (.inl ha), he]
    simp only [hrun, if_true]
    omega
  next hge =>
    have : ¬ s.time.et < t := fun h => hge ⟨hrun, h⟩
    omega

/-! ### Halls are reaped -/

/-- What no step of a fold changes, the fold leaves. -/
theorem foldl_keeps {σ α β : Type} (π : σ → β) {f : σ → α → σ} (hf : ∀ s a, π (f s a) = π s) (l : List α) (s : σ) :
    π (l.foldl f s) = π s := by
  induction l generalizing s with
  | nil => rfl
  | cons a l ih => exact (ih _).trans (hf s a)

@[simp] theorem State.wipePages_sched (s : State) (ps : List Nat) : (s.wipePages ps).sched = s.sched :=
  foldl_keeps State.sched (fun u p => by simp [State.wipePage]) ps s

@[simp] theorem State.reap_sched (s : State) (h : Fin 8) : (s.reap h).sched = s.sched := by
  unfold State.reap
  dsimp only
  split
  · rfl
  · exact State.wipePages_sched ..

@[simp] theorem State.reapAll_sched (s : State) : s.reapAll.sched = s.sched := foldl_keeps State.sched State.reap_sched _ s

theorem State.closeList_sched (s : State) (F : Nat) :
    (s.closeList F).sched.nextClose = F + 1 ∧ (s.closeList F).sched.wait = false := by
  unfold State.closeList
  extract_lets
  rw [State.reapAll_sched]
  exact ⟨rfl, rfl⟩

/-- Settles O15: each clause is the step itself; what events outside the flight leave is `State.settle_done`. -/
theorem framesFollowEachOther : Obligations.FramesFollowEachOther := by
  intro s
  refine ⟨?_, ?_, ?_, ?_⟩
  · rintro F rfl hreach hrend
    refine ⟨_, next_when hreach, if_pos hrend, ?_⟩
    rw [if_pos hrend]
    exact State.closeList_sched ..
  · rintro F rfl hreach hF hrend
    have hno : ¬ (s.sched.nextClose < 4 ∨ (s.runTo (s.start (s.sched.nextClose - 1))).rendered (s.sched.nextClose - 4) = true) := by
      rintro (h | h)
      · omega
      · simp [hrend] at h
    refine ⟨_, next_when hreach, ?_⟩
    rw [if_neg hno]
    exact ⟨rfl, rfl⟩
  · intro u hu hreach ha
    refine ⟨s.runTo u, ?_, State.le_et_runTo hreach ha, fun h => State.settle_done _ h⟩
    change execEventApply s = _
    simp only [execEventApply, hu, State.when, hreach, if_true]
  · rintro F rfl hreach
    exact ⟨_, next_when hreach, rfl, rfl⟩

end Sys2Proof.Machine
end

section
/-! PROOF. What serving a ring changes (spec/12_host_ports_and_mailboxes.md R346, R347): rings and the Foyer. -/

namespace Sys2Proof.Machine

/-- `t` is `s` but for the rings of halls and the Foyer. -/
structure State.RingsServed (s t : State) : Prop where
  shape : ∃ foyer halls, t = { s with foyer := foyer, halls := halls }
  hall : ∀ h, ∃ ring, t.halls.get h = { s.halls.get h with ring := ring }

namespace State.RingsServed

theorem refl (s : State) : s.RingsServed s := ⟨⟨_, _, rfl⟩, fun _ => ⟨_, rfl⟩⟩

theorem trans {s t u : State} (h1 : s.RingsServed t) (h2 : t.RingsServed u) : s.RingsServed u where
  shape := by
    obtain ⟨_, _, rfl⟩ := h1.shape
    obtain ⟨foyer, halls, rfl⟩ := h2.shape
    exact ⟨foyer, halls, rfl⟩
  hall h := by
    obtain ⟨_, e1⟩ := h1.hall h
    obtain ⟨ring, e2⟩ := h2.hall h
    exact ⟨ring, by rw [e2, e1]⟩

theorem foyer (s : State) (f : Foyer) : s.RingsServed { s with foyer := f } := ⟨⟨_, _, rfl⟩, fun _ => ⟨_, rfl⟩⟩

theorem updPort (s : State) (p : Fin 2) (f : Port → Port) : s.RingsServed (s.updPort p f) := foyer s _

theorem updRing (s : State) (h : Fin 8) (f : Ring → Ring) : s.RingsServed (s.updRing h f) := by
  refine ⟨⟨_, _, rfl⟩, fun k => ?_⟩
  change ∃ ring, (s.halls.upd h _).get k = _
  by_cases hk : h = k
  · subst hk
    exact ⟨_, Tab.get_upd_same ..⟩
  · exact ⟨_, Tab.get_upd_ne _ _ hk⟩

theorem irqEval (s : State) (p : Fin 2) : s.RingsServed (s.irqEval p) := by
  obtain ⟨b, e⟩ := s.irqEval_shape p
  rw [e]
  exact updPort ..

theorem irqHall (s : State) (h : Fin 8) : s.RingsServed (s.irqHall h) := by
  unfold State.irqHall
  split
  · exact irqEval ..
  · exact refl s

theorem postEntries (h : Fin 8) (es : List (List Byte)) (s : State) : s.RingsServed (s.postEntries h es) := by
  induction es generalizing s with
  | nil => exact refl s
  | cons e es ih =>
    rw [State.postEntries]
    exact ((foyer s _).trans (updRing (s.sramWrite _ e) h _)).trans (ih _)

theorem postItem (s : State) (h : Fin 8) (x : Held) : s.RingsServed (s.postItem h x) := by
  unfold State.postItem
  split
  · exact (postEntries ..).trans (updRing ..)
  extract_lets u v w
  have hu : s.RingsServed u := postEntries ..
  have hv : s.RingsServed v := by
    refine hu.trans ?_
    simp only [v]
    split
    · exact updPort ..
    · exact refl _
  have hw : s.RingsServed w := by
    refine hv.trans ?_
    simp only [w, State.answerBox]
    split
    · exact (updPort ..).trans (irqEval ..)
    · exact refl _
  split
  · refine hw.trans ?_
    split
    · exact updPort ..
    · exact refl _
  · exact hw

theorem flush (h : Fin 8) (n : Nat) (s : State) : s.RingsServed (State.flush h n s) := by
  induction n generalizing s with
  | zero => exact refl s
  | succ n ih =>
    rw [State.flush]
    split
    · exact refl s
    · split
      · exact ((updRing ..).trans (postItem ..)).trans (ih _)
      · exact refl s

theorem pump (s : State) (h : Fin 8) : s.RingsServed (s.pump h) := by
  unfold State.pump
  extract_lets x u
  have hu : s.RingsServed u := by
    simp only [u]
    split
    · exact updRing ..
    · exact refl s
  exact (hu.trans (flush ..)).trans (irqHall ..)

theorem notice (s : State) (h : Fin 8) (kind : Nat) (data : List Byte) : s.RingsServed (s.notice h kind data) := by
  unfold State.notice
  extract_lets x bs
  split
  · exact refl s
  split
  · exact updRing ..
  · exact (updRing ..).trans (pump ..)

theorem readRing (h : Fin 8) (n : Nat) (s : State) : s.RingsServed (State.readRing h n s) := by
  induction n generalizing s with
  | zero => exact refl s
  | succ n ih =>
    rw [State.readRing]
    have hu : s.RingsServed (s.ackAll h) := updRing ..
    split
    · exact hu
    · exact (hu.trans (pump ..)).trans (ih _)

theorem complete (s : State) (h : Fin 8) (op tag : Nat) (quiet : Bool) (via : Via) (status : Nat) (data : List Byte) (keep : Nat) :
    s.RingsServed (s.complete h op tag quiet via status data keep) := by
  unfold State.complete
  extract_lets free box sleep bs x u
  have hu : s.RingsServed u := by
    simp only [u]
    split
    · exact postItem ..
    · exact (updRing ..).trans (pump ..)
  split
  · exact hu.trans (readRing ..)
  · exact hu

end State.RingsServed

end Sys2Proof.Machine
end

section
/-! PROOF. Engines render their frames or are fenced (spec/02_time_and_determinism.md R50, R58, spec/18_power_reset_faults.md R482). -/

namespace Sys2Proof.Machine

/-! ### What voices that sound, end or are lost leave -/

/-- What no voice that sounds, ends or is lost changes: time, the outputs, which engines and galleries are fenced, and the counts of
their fences. -/
def State.aside (s : State) : TimeBlk × Out × Dac × (Fin 64 → Bool) × (Fin 8 → Bool) × Word × Word :=
  (s.time, s.out, s.dac, fun e => (s.eng.get e).fenced, fun g => (s.gal.get g).fenced, s.fence.cnt.get 1, s.fence.cnt.get 2)

theorem State.RingsServed.aside {s t : State} (h : s.RingsServed t) : t.aside = s.aside := by
  obtain ⟨_, _, rfl⟩ := h.shape
  rfl

@[simp] theorem State.aside_notice (s : State) (h : Fin 8) (kind : Nat) (data : List Byte) : (s.notice h kind data).aside = s.aside :=
  (State.RingsServed.notice ..).aside

@[simp] theorem State.aside_voiceNotice (s : State) (h : Nat) (key : Option Nat) (reason hvn time : Nat) :
    (s.voiceNotice h key reason hvn time).aside = s.aside := State.aside_notice ..

@[simp] theorem State.aside_pageNotice (s : State) (h page cw event : Nat) : (s.pageNotice h page cw event).aside = s.aside :=
  State.aside_notice ..

@[simp] theorem State.aside_updHall (s : State) (h : Fin 8) (f : Hall → Hall) : (s.updHall h f).aside = s.aside := rfl

@[simp] theorem State.aside_log (s : State) (code : Nat) (hall : Option Nat) (data : List Byte) :
    (s.log code hall data).aside = s.aside := by
  obtain ⟨_, _, e, -⟩ := s.log_shape code hall data
  rw [e]
  rfl

@[simp] theorem State.aside_raiseIf (s : State) (b : Bool) (n : Nat) : (s.raiseIf b n).aside = s.aside := by
  obtain ⟨_, e⟩ := s.raiseIf_shape b n
  rw [e]
  rfl

@[simp] theorem State.aside_raise (s : State) (n : Nat) : (s.raise n).aside = s.aside := rfl

@[simp] theorem State.aside_guar (s : State) (n : Nat) : (s.guar n).aside = s.aside := by
  obtain ⟨_, e⟩ := s.guar_shape n
  rw [e]
  rfl

/-- A change of an engine other than of its fence. -/
theorem State.aside_updEng (s : State) (e : Fin 64) {f : Engine → Engine} (hf : ∀ x, (f x).fenced = x.fenced) :
    (s.updEng e f).aside = s.aside := by
  have he : (fun k => ((s.updEng e f).eng.get k).fenced) = fun k => (s.eng.get k).fenced := by
    funext k
    change ((s.eng.upd e f).get k).fenced = _
    by_cases hk : e = k
    · subst hk
      rw [Tab.get_upd_same, hf]
    · rw [Tab.get_upd_ne _ _ hk]
  unfold State.aside
  rw [he]
  rfl

theorem FenceBlk.cnt_add_ne (b : FenceBlk) {kind k : Fin 8} (h : kind ≠ k) (cause index halls : Nat) :
    (b.add kind.val cause index halls).cnt.get k = b.cnt.get k := by
  have hcnt : ∀ c : FenceBlk, c.cnt = b.cnt → (c.cnt.upd kind fun w => if w = 0xFFFFFFFF#32 then w else w + 1#32).get k =
      b.cnt.get k := by
    intro c hc
    rw [Tab.get_upd_ne _ _ h, hc]
  have hk : (Fin.ofNat 8 kind.val : Fin 8) = kind := by simp
  unfold FenceBlk.add
  rw [hk]
  apply hcnt
  split <;> rfl

/-- A fence of a voice or a page. -/
theorem State.aside_fenceAdd (s : State) {kind : Fin 8} (h1 : kind ≠ 1) (h2 : kind ≠ 2) (cause index halls : Nat) :
    (s.fenceAdd kind.val cause index halls).aside = s.aside := by
  obtain ⟨_, _, _, e, -⟩ := s.fenceAdd_shape kind.val cause index halls
  rw [e]
  unfold State.aside
  simp only [s.fence.cnt_add_ne h1, s.fence.cnt_add_ne h2]

@[simp] theorem State.aside_fenceLift (s : State) (kind index : Nat) : (s.fenceLift kind index).aside = s.aside := by
  unfold State.fenceLift
  split
  · rfl
  · rw [State.aside_log]
    rfl

@[simp] theorem State.aside_noteEnded (s : State) (v : Voice) : (s.noteEnded v).aside = s.aside := by
  unfold State.noteEnded
  split
  · split <;> simp
  · rfl

@[simp] theorem State.aside_notePoison (s : State) (v : Voice) : (s.notePoison v).aside = s.aside :=
  s.aside_fenceAdd (kind := 0) (by decide) (by decide) ..

@[simp] theorem State.aside_endVoice (s : State) (v : Voice) (x : Stop) : (s.endVoice v x).1.aside = s.aside := by
  unfold State.endVoice
  extract_lets h st t _ u w z
  have hu : u.aside = s.aside := by
    simp only [u]
    split <;> rfl
  have hw : w.aside = s.aside := by
    rw [← hu]
    simp only [w]
    split <;> rfl
  rw [← hw]
  change z.aside = w.aside
  simp only [z]
  split
  · exact State.aside_voiceNotice ..
  · rfl

@[simp] theorem State.aside_noteArith (s : State) (e : Fin 64) (st : Stat) : (s.noteArith e st).aside = s.aside := by
  unfold State.noteArith
  extract_lets x f
  rw [State.aside_raiseIf]
  exact State.aside_updEng s e fun _ => rfl

@[simp] theorem State.aside_afterVoice (s : State) (e : Fin 64) (f : Nat) (v : Voice) (r : RenderSt) :
    (s.afterVoice e f v r).1.aside = s.aside := by
  unfold State.afterVoice
  extract_lets rec_ _ a b c resized d
  have ha : a.aside = s.aside := by
    simp only [a]
    split <;> rfl
  have hb : b.aside = s.aside := (State.aside_updHall ..).trans ((State.aside_noteArith ..).trans ha)
  have hc : c.aside = s.aside := by
    rw [← hb]
    simp only [c]
    split
    · exact State.aside_guar ..
    · rfl
  have hd : d.aside = s.aside := by
    rw [← hc]
    simp only [d]
    split
    · exact State.aside_updEng c e fun _ => rfl
    · rfl
  split
  · exact (State.aside_noteEnded ..).trans hd
  split
  next y _ =>
    split
    · have hp : (if y.why = .poison then d.notePoison r.v else d).aside = d.aside := by
        split
        · exact State.aside_notePoison ..
        · rfl
      have hx := (State.aside_endVoice (if y.why = .poison then d.notePoison r.v else d) r.v y).trans (hp.trans hd)
      rw [← hx]
      split <;> rfl
    · exact hd
  · exact hd

theorem State.aside_foldVoices (s : State) {f : State → Voice → State × Voice} (hf : ∀ t v, (f t v).1.aside = t.aside) :
    (s.foldVoices f).aside = s.aside :=
  foldl_keeps (fun acc : State × List Voice => acc.1.aside) (fun acc v => hf acc.1 v) s.voices (s, [])

@[simp] theorem State.aside_poisoned (s : State) (x : Nat × Bool) : (s.poisoned x).aside = s.aside := by
  unfold State.poisoned
  extract_lets cw p o a b
  have hb : b.aside = s.aside := by
    have ha : a.aside = s.aside := by simp [a]
    rw [← ha]
    simp only [b]
    clear_value a o
    cases o <;> simp
  rw [← hb]
  split
  · exact b.aside_fenceAdd (kind := 6) (by decide) (by decide) ..
  · rfl

@[simp] theorem State.aside_retiredPage (s : State) (p : Nat) : (s.retiredPage p).aside = s.aside := by
  unfold State.retiredPage
  extract_lets o a b
  have hb : b.aside = s.aside := by
    have ha : a.aside = s.aside := by simp [a]
    rw [← ha]
    simp only [b]
    clear_value a o
    cases o <;> simp
  rw [← hb]
  split
  · rfl
  split <;> rfl

@[simp] theorem State.aside_memDo (s : State) (x : WaveMem × MemEvents) : (s.memDo x).aside = s.aside := by
  unfold State.memDo
  rw [foldl_keeps State.aside State.aside_retiredPage, foldl_keeps State.aside State.aside_poisoned]
  rfl

@[simp] theorem State.aside_wipePages (s : State) (ps : List Nat) : (s.wipePages ps).aside = s.aside :=
  foldl_keeps State.aside (fun u p => by rw [State.wipePage, State.aside_fenceLift]; rfl) ps s

@[simp] theorem State.aside_reap (s : State) (h : Fin 8) : (s.reap h).aside = s.aside := by
  unfold State.reap
  dsimp only
  split
  · rfl
  · rw [State.aside_updHall, State.aside_wipePages]

@[simp] theorem State.aside_reapAll (s : State) : s.reapAll.aside = s.aside := foldl_keeps State.aside State.aside_reap _ s

@[simp] theorem State.aside_loseVoice (s : State) (v : Voice) (n : Nat) : (s.loseVoice v n).1.aside = s.aside := by
  unfold State.loseVoice
  split
  · split <;> simp
  · simp

@[simp] theorem State.aside_loseTarget (s : State) (v : Voice) (x : HallEng) : (s.loseTarget v x).1.aside = s.aside := by
  unfold State.loseTarget
  dsimp only
  split
  · simp
  · rfl

@[simp] theorem State.aside_loseEngine (s : State) (e : Nat) : (s.loseEngine e).aside = s.aside := by
  unfold State.loseEngine
  extract_lets f bound u w
  have hu : u.aside = s.aside := by
    refine s.aside_foldVoices fun t v => ?_
    split
    · rfl
    split
    · rfl
    · split
      · simp
      · split
        · simp
        · rfl
  rw [State.aside_updEng, State.aside_reapAll]
  · exact hu
  · intro x
    rfl

/-! ### Rendering -/

theorem State.eng_reapAll (s : State) : s.reapAll.eng = s.eng := by
  refine foldl_keeps State.eng (fun u h => ?_) _ s
  have hw (ps : List Nat) : (u.wipePages ps).eng = u.eng :=
    foldl_keeps State.eng (fun t p => by simp [State.wipePage]) ps u
  unfold State.reap
  dsimp only
  split
  · rfl
  · exact hw _

/-- A frame that is rendered is done, the next follows, and time and the outputs stay. -/
theorem State.render_done (s : State) (e : Fin 64) (f : Nat) : ((s.render e f).eng.get e).next = f + 1 ∧
    ((s.render e f).eng.get e).done = word f ∧ (s.render e f).time = s.time ∧ (s.render e f).out = s.out ∧ (s.render e f).dac = s.dac := by
  have haside : (s.render e f).aside = s.aside := by
    unfold State.render
    extract_lets rd bad before out cws a b
    have ha : a.aside = s.aside := by
      refine s.aside_foldVoices fun t v => ?_
      split
      · simp
      · rfl
    rw [State.aside_reapAll, State.aside_updEng]
    · exact (State.aside_memDo ..).trans ha
    · intro x
      rfl
  obtain ⟨u, hu⟩ : ∃ u : State, s.render e f = (u.updEng e fun y => { y with next := f + 1, done := word f }).reapAll := ⟨_, rfl⟩
  have heng : (s.render e f).eng.get e = { u.eng.get e with next := f + 1, done := word f } := by
    rw [hu, State.eng_reapAll]
    exact Tab.get_upd_same ..
  simp only [State.aside, Prod.mk.injEq] at haside
  obtain ⟨htime, hout, hdac, -⟩ := haside
  exact ⟨by rw [heng], by rw [heng], htime, hout, hdac⟩

/-! ### Fences -/

theorem State.eng_fenced_of_aside {s t : State} (h : t.aside = s.aside) (e : Fin 64) :
    (t.eng.get e).fenced = (s.eng.get e).fenced := by
  simp only [State.aside, Prod.mk.injEq] at h
  obtain ⟨-, -, -, heng, -⟩ := h
  exact congrFun heng e

theorem State.cnt_of_aside {s t : State} (h : t.aside = s.aside) :
    t.fence.cnt.get 1 = s.fence.cnt.get 1 ∧ t.fence.cnt.get 2 = s.fence.cnt.get 2 := by
  simp only [State.aside, Prod.mk.injEq] at h
  obtain ⟨-, -, -, -, -, h1, h2⟩ := h
  exact ⟨h1, h2⟩

/-- The engines of a gallery that is fenced are lost one by one. -/
theorem State.aside_loseEngines (s : State) (es : List Nat) :
    (es.foldl (fun u e => if (u.eng.get (engIx e)).fenced then u else u.loseEngine e) s).aside = s.aside := by
  refine foldl_keeps State.aside (fun u e => ?_) es s
  split
  · rfl
  · exact State.aside_loseEngine ..

/-- A gallery that is fenced: its flag, one more fence of kind 2, and no engine's fence. -/
theorem State.fenceGallery_fences {s : State} {g : Fin 8} (hg : (s.gal.get g).fenced = false) (cause : Nat) :
    ((s.fenceGallery g cause).gal.get g).fenced = true ∧
    (s.fenceGallery g cause).fence.cnt.get 2 = satInc (s.fence.cnt.get 2) 1 ∧
    (s.fenceGallery g cause).fence.cnt.get 1 = s.fence.cnt.get 1 ∧
    ∀ e, ((s.fenceGallery g cause).eng.get e).fenced = (s.eng.get e).fenced := by
  obtain ⟨u, halls, haside, hu⟩ : ∃ (u : State) (halls : Nat), u.aside = s.aside ∧ s.fenceGallery g cause =
      ((u.updGal g fun x => { x with fenced := true, fenceReq := none }).fenceAdd 2 cause g.val halls).raise (33 + 8 * g.val) := by
    unfold State.fenceGallery
    rw [if_neg (by simp [hg])]
    exact ⟨_, _, s.aside_loseEngines _, rfl⟩
  obtain ⟨_, _, _, e, -⟩ :=
    (u.updGal g fun x => { x with fenced := true, fenceReq := none }).fenceAdd_shape 2 cause g.val halls
  obtain ⟨h1, h2⟩ := State.cnt_of_aside haside
  rw [hu, e]
  refine ⟨?_, ?_, ?_, fun k => State.eng_fenced_of_aside haside k⟩
  · change ((u.gal.upd g fun x => { x with fenced := true, fenceReq := none }).get g).fenced = true
    rw [Tab.get_upd_same]
  · rw [← h2]
    exact u.fence.cnt_add 2 cause g.val halls
  · rw [← h1]
    exact u.fence.cnt_add_ne (kind := 2) (by decide) cause g.val halls

/-- A gallery that is fenced again: no engine's fence is touched. -/
theorem State.fenceAgain_engines (s : State) (g : Fin 8) (cause : Nat) :
    (s.fenceAgain g cause).fence.cnt.get 1 = s.fence.cnt.get 1 ∧ (s.fenceAgain g cause).eng = s.eng := by
  unfold State.fenceAgain
  extract_lets u
  split
  · obtain ⟨_, _, _, e, -⟩ := u.fenceAdd_shape 2 3 g.val 0
    rw [e]
    exact ⟨u.fence.cnt_add_ne (kind := 2) (by decide) 3 g.val 0, rfl⟩
  · exact ⟨rfl, rfl⟩

theorem State.fenceGallery_engines (s : State) (g : Fin 8) (cause : Nat) :
    (s.fenceGallery g cause).fence.cnt.get 1 = s.fence.cnt.get 1 ∧
    ∀ e, ((s.fenceGallery g cause).eng.get e).fenced = (s.eng.get e).fenced := by
  cases hg : (s.gal.get g).fenced with
  | false =>
    obtain ⟨-, -, hcnt, heng⟩ := State.fenceGallery_fences hg cause
    exact ⟨hcnt, heng⟩
  | true =>
    obtain ⟨hcnt, heng⟩ := s.fenceAgain_engines g cause
    rw [State.fenceGallery, if_pos hg]
    exact ⟨hcnt, fun e => by rw [heng]⟩

/-- The third engine of a gallery within a second fences the gallery, which leaves the engines' fences as they are (R483). -/
theorem State.noteFenced_engines (s : State) (e : Fin 64) : (s.noteFenced e).fence.cnt.get 1 = s.fence.cnt.get 1 ∧
    ∀ k, ((s.noteFenced e).eng.get k).fenced = (s.eng.get k).fenced := by
  unfold State.noteFenced
  extract_lets g recent u
  split
  · exact u.fenceGallery_engines g 8
  · exact ⟨rfl, fun _ => rfl⟩

/-- An engine that is fenced: its flag, and one more fence of kind 1. -/
theorem State.fenceEngine_fences {s : State} {e : Fin 64} (he : (s.eng.get e).fenced = false) (cause : Nat) :
    ((s.fenceEngine e cause).eng.get e).fenced = true ∧ (s.fenceEngine e cause).fence.cnt.get 1 = satInc (s.fence.cnt.get 1) 1 := by
  obtain ⟨u, halls, haside, hu⟩ : ∃ (u : State) (halls : Nat), u.aside = s.aside ∧ s.fenceEngine e cause =
      (((u.updEng e fun x => { x with fenced := true, fenceReq := none }).fenceAdd 1 cause e.val halls).raise
        (33 + 8 * (galOf e.val).val)).noteFenced e := by
    unfold State.fenceEngine
    rw [if_neg (by simp [he])]
    refine ⟨_, s.engHalls e.val, ?_, rfl⟩
    split
    · rfl
    · exact State.aside_loseEngine ..
  obtain ⟨_, _, _, hadd, -⟩ :=
    (u.updEng e fun x => { x with fenced := true, fenceReq := none }).fenceAdd_shape 1 cause e.val halls
  obtain ⟨hcnt, heng⟩ := (((u.updEng e fun x => { x with fenced := true, fenceReq := none }).fenceAdd 1 cause e.val halls).raise
        (33 + 8 * (galOf e.val).val)).noteFenced_engines e
  rw [hu, hcnt, heng, hadd]
  constructor
  · change ((u.eng.upd e fun x => { x with fenced := true, fenceReq := none }).get e).fenced = true
    rw [Tab.get_upd_same]
  · rw [← (State.cnt_of_aside haside).1]
    exact u.fence.cnt_add 1 cause e.val halls

/-! ### SCHED's registers, which losses leave -/

@[simp] theorem State.notice_sched (s : State) (h : Fin 8) (kind : Nat) (data : List Byte) : (s.notice h kind data).sched = s.sched := by
  obtain ⟨_, _, e⟩ := (State.RingsServed.notice s h kind data).shape
  rw [e]

@[simp] theorem State.endVoice_sched (s : State) (v : Voice) (x : Stop) : (s.endVoice v x).1.sched = s.sched := by
  unfold State.endVoice
  extract_lets h st t _ u w z
  have hu : u.sched = s.sched := by
    simp only [u]
    split <;> rfl
  have hw : w.sched = s.sched := by
    rw [← hu]
    simp only [w]
    split <;> rfl
  rw [← hw]
  change z.sched = w.sched
  simp only [z]
  split
  · exact State.notice_sched ..
  · rfl

@[simp] theorem State.loseVoice_sched (s : State) (v : Voice) (n : Nat) : (s.loseVoice v n).1.sched = s.sched := by
  unfold State.loseVoice
  split
  · split <;> simp
  · simp

@[simp] theorem State.loseTarget_sched (s : State) (v : Voice) (x : HallEng) : (s.loseTarget v x).1.sched = s.sched := by
  unfold State.loseTarget
  dsimp only
  split
  · simp
  · rfl

theorem State.foldVoices_sched (s : State) {f : State → Voice → State × Voice} (hf : ∀ t v, (f t v).1.sched = t.sched) :
    (s.foldVoices f).sched = s.sched :=
  foldl_keeps (fun acc : State × List Voice => acc.1.sched) (fun acc v => hf acc.1 v) s.voices (s, [])

@[simp] theorem State.loseEngine_sched (s : State) (e : Nat) : (s.loseEngine e).sched = s.sched := by
  unfold State.loseEngine
  extract_lets f bound u w
  have hu : u.sched = s.sched := by
    refine s.foldVoices_sched fun t v => ?_
    split
    · rfl
    split
    · rfl
    · split
      · simp
      · split
        · simp
        · rfl
  clear_value u
  rw [State.updEng_sched, State.reapAll_sched]
  exact hu

@[simp] theorem State.fenceGallery_sched (s : State) (g : Fin 8) (cause : Nat) : (s.fenceGallery g cause).sched = s.sched := by
  unfold State.fenceGallery
  split
  · unfold State.fenceAgain
    extract_lets u
    split
    · simp [u]
    · rfl
  · extract_lets es halls u
    have hu : u.sched = s.sched := by
      refine foldl_keeps State.sched (fun t e => ?_) es s
      split
      · rfl
      · simp
    simp [hu]

@[simp] theorem State.noteFenced_sched (s : State) (e : Fin 64) : (s.noteFenced e).sched = s.sched := by
  unfold State.noteFenced
  extract_lets g recent u
  split
  · exact State.fenceGallery_sched u g 8
  · rfl

@[simp] theorem State.fenceEngine_sched (s : State) (e : Fin 64) (cause : Nat) : (s.fenceEngine e cause).sched = s.sched := by
  unfold State.fenceEngine
  split
  · rfl
  extract_lets g halls u
  have hu : u.sched = s.sched := by
    simp only [u]
    split <;> simp
  simp [hu]

@[simp] theorem State.guar_guar (s : State) (n : Nat) : (s.guar n).sched.guar = setFlag s.sched.guar n := by
  obtain ⟨_, e⟩ := s.guar_shape n
  rw [e]

/-- Settles O16: a render is `State.render`, a fence `State.fenceEngine` or `State.fenceGallery`. -/
theorem enginesRenderFramesOrAreFenced : Obligations.EnginesRenderFramesOrAreFenced := by
  refine ⟨fun s e upsets f hwf hframe hmay => ?_, fun s e g => ⟨fun hon he => ?_, fun hon hframe he => ?_, fun hbad hg => ?_⟩⟩
  · have hexec : exec (.engineRenderFrame e upsets) s = .next (({ s with mem := s.mem.upset upsets } : State).render e f) := by
      change execEngineRenderFrame e upsets s = _
      have hno : ¬ Upsets.wf upsets = false := by simp [hwf]
      simp only [execEngineRenderFrame, if_neg hno, hframe, State.when, hmay, if_true]
    exact ⟨_, hexec, rfl, State.render_done ..⟩
  · have hguar : (s.guar 4).aside = s.aside := State.aside_guar ..
    have he' : ((s.guar 4).eng.get e).fenced = false := by rw [State.guar_eng]; exact he
    obtain ⟨hf, hcnt⟩ := State.fenceEngine_fences he' 1
    refine ⟨_, next_when hon, rfl, ?_, hf, by rw [hcnt, (State.cnt_of_aside hguar).1]⟩
    rw [State.fenceEngine_sched, State.guar_guar]
    exact bit_setFlag_same _ (by decide)
  · obtain ⟨hf, hcnt⟩ := State.fenceEngine_fences he 2
    exact ⟨_, next_when (by simp [hframe, hon]), rfl, hf, hcnt⟩
  · obtain ⟨hf, hcnt, -⟩ := State.fenceGallery_fences hg 4
    exact ⟨_, next_when hbad, rfl, hf, hcnt⟩

end Sys2Proof.Machine
end

section
/-! PROOF. Frames pass the Mezzanine and OUT (spec/01_architecture.md R24, spec/10_output_chain.md R281, R287, R291). -/

namespace Sys2Proof.Machine

/-! ### Commands that wait -/

/-- A command that waited is completed: its hall waits no more, the rings are served. -/
theorem State.endWait_shape (s : State) (h : Fin 8) (status : Nat) (data : List Byte) :
    ∃ foyer halls, s.endWait h status data = { s with foyer := foyer, halls := halls } := by
  unfold State.endWait
  split
  · exact ⟨_, _, rfl⟩
  next w _ =>
    obtain ⟨foyer, halls, e⟩ := (State.RingsServed.complete (s.updHall h fun x => { x with wait := none }) h w.op w.tag w.quiet w.via
      status data w.reserve).shape
    exact ⟨foyer, halls, e⟩

/-- A fence request is answered to the hall that waits for it. -/
theorem State.fenceDone_shape (s : State) (code : Nat) : ∃ foyer halls, s.fenceDone code =
    { s with fence := { s.fence with busy := none, code := code }, foyer := foyer, halls := halls } := by
  have hfold : ∀ (l : List (Fin 8)) (u : State), ∃ foyer halls, l.foldl (fun s h =>
      match (s.halls.get h).wait with
      | some w => (match w.what with | .lift _ _ => s.endWait h (fenceStatus code) [] | _ => s)
      | none => s) u = { u with foyer := foyer, halls := halls } := by
    intro l
    induction l with
    | nil => exact fun u => ⟨_, _, rfl⟩
    | cons h l ih =>
      intro u
      rw [List.foldl_cons]
      obtain ⟨foyer, halls, e⟩ := ih (match (u.halls.get h).wait with
        | some w => (match w.what with | .lift _ _ => u.endWait h (fenceStatus code) [] | _ => u)
        | none => u)
      refine ⟨foyer, halls, e.trans ?_⟩
      split
      · split
        · obtain ⟨_, _, hw⟩ := u.endWait_shape h (fenceStatus code) []
          rw [hw]
        · rfl
      · rfl
  exact hfold _ _

/-! ### The Mezzanine -/

/-- Two flags of a register. -/
theorem bit_setFlag_ne (w : Word) {n m : Nat} (h : n ≠ m) : bit (setFlag w m) n = bit w n := by
  simp only [bit, setFlag, BitVec.getLsbD_or, BitVec.getLsbD_shiftLeft]
  rcases Nat.lt_or_ge n m with hlt | hge
  · simp [hlt]
  · have hne : n - m ≠ 0 := by omega
    simp [hne]

theorem State.outErr_shape (s : State) (n : Nat) :
    ∃ irqf, s.outErr n = { s with out := { s.out with err := setFlag s.out.err n }, irqf := irqf } :=
  State.raiseIf_shape { s with out := { s.out with err := setFlag s.out.err n } } _ _

theorem State.tdmErr_shape (s : State) (n : Nat) : ∃ irqf, s.tdmErr n = { s with tdm := (s.tdm.setErr n).1, irqf := irqf } :=
  State.raiseIf_shape { s with tdm := (s.tdm.setErr n).1 } _ _

theorem State.specErr_shape (s : State) (n : Nat) : ∃ irqf, s.specErr n = { s with spec := (s.spec.setErr n).1, irqf := irqf } :=
  State.raiseIf_shape { s with spec := (s.spec.setErr n).1 } _ _

theorem State.laneUnder_shape (s : State) (F l : Nat) : ∃ tdm irqf, s.laneUnder F l = { s with tdm := tdm, irqf := irqf } := by
  unfold State.laneUnder
  split
  · obtain ⟨irqf, e⟩ := ({ s with tdm := { s.tdm with ufCnt := satInc s.tdm.ufCnt 1 } } : State).tdmErr_shape l
    exact ⟨_, irqf, e⟩
  · exact ⟨s.tdm, s.irqf, rfl⟩

theorem State.feedSpec_shape (s : State) (F : Nat) (buses : List (List Int)) :
    ∃ spec irqf, s.feedSpec F buses = { s with spec := spec, irqf := irqf } := by
  unfold State.feedSpec
  extract_lets n0 ins ch an ovf _ u
  split
  · obtain ⟨irqf, e⟩ := u.specErr_shape 3
    exact ⟨_, irqf, e⟩
  · exact ⟨_, s.irqf, rfl⟩

/-- A frame is summed into its 64 buses. -/
theorem State.busSums_length (s : State) (ts : List Contrib) (l : List Nat) (acc : List (List Int) × Stat) :
    (l.foldl (fun (acc : List (List Int) × Stat) b => let x := sumsOf s.fl ts b acc.2; (x.1 :: acc.1, x.2)) acc).1.length =
      acc.1.length + l.length := by
  induction l generalizing acc with
  | nil => rfl
  | cons b l ih =>
    rw [List.foldl_cons, ih]
    simp only [List.length_cons]
    omega

/-- A summed frame lands where OUT has not taken it already; voices, channels, ports and time stay. -/
theorem State.mezzanine_lands (s : State) (F : Nat) : (s.mezzanine F).mez.next = F + 1 ∧
    (s.out.next ≤ F → ∃ x ∈ (s.mezzanine F).mez.landing, x.frame = F ∧ x.buses.length = 64) ∧ (s.mezzanine F).voices = s.voices ∧
    (s.mezzanine F).dac = s.dac ∧ (s.mezzanine F).foyer = s.foyer ∧ (s.mezzanine F).nv = s.nv ∧ (s.mezzanine F).time = s.time := by
  unfold State.mezzanine
  extract_lets u ts r buses ovf v w inBuf _ _
  have hbuses : buses.length = 64 := by
    simp only [buses, r, List.length_reverse]
    exact u.busSums_length ts (List.range 64) ([], Stat.none)
  obtain ⟨_, _, e0⟩ := s.laneUnder_shape F 0
  obtain ⟨_, _, e1⟩ := (s.laneUnder F 0).laneUnder_shape F 1
  have hu : ∃ tdm irqf, u = { s with tdm := tdm, irqf := irqf } := ⟨_, _, by rw [show u = _ from e1, e0]⟩
  obtain ⟨tdm, irqf, hu⟩ := hu
  obtain ⟨spec, irqf', hv⟩ := u.feedSpec_shape F buses
  have hw : ∃ err irqf'', w = { s with tdm := tdm, spec := spec, irqf := irqf'', out := { s.out with err := err } } := by
    simp only [w]
    split
    · obtain ⟨irqf'', e⟩ := v.outErr_shape 4
      exact ⟨_, irqf'', by rw [e, show v = _ from hv, hu]⟩
    · exact ⟨s.out.err, irqf', by rw [show v = _ from hv, hu]⟩
  obtain ⟨err, irqf'', hw⟩ := hw
  clear_value w buses
  subst hw
  refine ⟨rfl, fun hF => ?_, rfl, rfl, rfl, rfl, rfl⟩
  have hno : ¬ F < s.out.next := by omega
  refine ⟨{ frame := F, buses := buses }, ?_, rfl, hbuses⟩
  simp [hno]

/-! ### OUT takes a frame -/

theorem State.eqLoads_mez (s : State) (n0 : Nat) : (s.eqLoads n0).mez = s.mez := by
  refine foldl_keeps State.mez (fun u b => ?_) _ s
  refine foldl_keeps State.mez (fun t x => ?_) _ _
  dsimp only
  split
  · split
    · obtain ⟨_, _, e⟩ := (t.updOut b fun _ => ((t.out.ch.get b).load n0 x.2).1).endWait_shape (hallIx x.1)
        (if ((t.out.ch.get b).load n0 x.2).2 = true then 0 else 30) []
      rw [e]
      rfl
    · rfl
  · rfl

theorem State.outFenced_shape (s : State) (n : Fin 64) (cause : Nat) : (s.outFenced n cause).mez = s.mez ∧
    bit (s.outFenced n cause).out.err 0 = bit s.out.err 0 := by
  unfold State.outFenced
  extract_lets hs u
  have hfold {β : Type} (π : State → β) (hπ : ∀ (t : State) (h : Fin 8) (k : Nat) (d : List Byte), π (t.notice h k d) = π t) :
      π (hs.foldl (fun s h => s.unitNotice h 2 n.val 3) u) = π u := foldl_keeps π (fun t h => hπ ..) hs u
  obtain ⟨_, e1⟩ := s.outErr_shape 5
  obtain ⟨_, _, _, e2, -⟩ := (s.outErr 5).fenceAdd_shape 7 cause n.val (sumOf (fun h => 2 ^ h) hs)
  have hu : u.mez = s.mez ∧ u.out = { s.out with err := setFlag s.out.err 5 } := by
    rw [show u = _ from e2, e1]
    exact ⟨rfl, rfl⟩
  constructor
  · rw [hfold State.mez, hu.1]
    intro t h k d
    obtain ⟨_, _, e⟩ := (State.RingsServed.notice t h k d).shape
    rw [e]
  · rw [hfold fun t => bit t.out.err 0]
    · rw [hu.2]
      exact bit_setFlag_ne _ (by decide)
    · intro t h k d
      obtain ⟨_, _, e⟩ := (State.RingsServed.notice t h k d).shape
      rw [e]

/-- A channel's frame leaves the Mezzanine, and the underrun flag. -/
theorem State.outFrame_keeps_under (s : State) (F : Nat) (buses : List (List Int)) (n : Fin 64) :
    (s.outFrame F buses n).mez = s.mez ∧ bit (s.outFrame F buses n).out.err 0 = bit s.out.err 0 := by
  unfold State.outFrame
  extract_lets lost c d u v
  have hv : v.mez = s.mez ∧ bit v.out.err 0 = bit s.out.err 0 := by
    simp only [v]
    split
    · obtain ⟨_, e⟩ := (u.updOut n fun c => { c with satNew := false }).outErr_shape 4
      rw [e]
      exact ⟨rfl, bit_setFlag_ne _ (by decide)⟩
    · exact ⟨rfl, rfl⟩
  split
  · obtain ⟨hm, hb⟩ := v.outFenced_shape n 11
    exact ⟨hm.trans hv.1, hb.trans hv.2⟩
  · exact hv

theorem State.dacErr_shape (s : State) (n : Nat) : ∃ irqf, s.dacErr n = { s with dac := (s.dac.setErr n).1, irqf := irqf } :=
  State.raiseIf_shape { s with dac := (s.dac.setErr n).1 } _ _

theorem State.fillDac_shape (s : State) (n : Fin 16) : ∃ dac irqf, s.fillDac n = { s with dac := dac, irqf := irqf } := by
  unfold State.fillDac
  split
  · exact ⟨s.dac, s.irqf, rfl⟩
  extract_lets c d late u
  split
  · exact ⟨_, s.irqf, rfl⟩
  · obtain ⟨irqf, e⟩ := ({ u with dac := { u.dac with ufCnt := satInc u.dac.ufCnt late } } : State).dacErr_shape 0
    exact ⟨_, irqf.raise (144 + n.val), congrArg (fun t : State => t.raise (144 + n.val)) e⟩

/-- The queues of channels and lanes are filled: OUT's next frame and flags, and the Mezzanine, stay. -/
theorem State.fillOut_shape (s : State) : s.fillOut.mez = s.mez ∧ s.fillOut.out.next = s.out.next ∧ s.fillOut.out.err = s.out.err := by
  have hfold {β : Type} (π : State → β) (hπ : ∀ (t : State) dac irqf, π { t with dac := dac, irqf := irqf } = π t) :
      π ((List.finRange 16).foldl State.fillDac s) = π s := by
    refine foldl_keeps π (fun t n => ?_) _ s
    obtain ⟨dac, irqf, e⟩ := t.fillDac_shape n
    rw [e, hπ]
  exact ⟨hfold State.mez fun _ _ _ => rfl, hfold (fun t => t.out.next) fun _ _ _ => rfl, hfold (fun t => t.out.err) fun _ _ _ => rfl⟩

/-- A frame that has not landed is flagged (R24). -/
theorem State.landingUnder_flags (s : State) (F : Nat) : bit (s.landingUnder F).out.err 0 = true := by
  unfold State.landingUnder
  extract_lets _ u
  obtain ⟨_, e⟩ := u.outErr_shape 0
  rw [State.log_out, State.guar_out, e]
  exact bit_setFlag_same _ (by decide)

/-- OUT takes frame `F`: the next follows, what has landed by `F` is gone, and a frame that has not landed is flagged. -/
theorem State.takeFrame_takes (s : State) (F : Nat) : (s.takeFrame F).out.next = F + 1 ∧
    (∀ x ∈ (s.takeFrame F).mez.landing, F < x.frame) ∧
    ((∀ x ∈ s.mez.landing, x.frame ≠ F) → bit (s.takeFrame F).out.err 0 = true) := by
  unfold State.takeFrame
  generalize List.finRange 64 = channels
  extract_lets a got b buses c d floor _ _ e f
  have ha : a.mez = s.mez := s.eqLoads_mez _
  clear_value a
  have hb : (∀ x ∈ s.mez.landing, x.frame ≠ F) → bit b.out.err 0 = true := by
    intro hnone
    have hgot : got = none := by
      simp only [got, ha, List.find?_eq_none, beq_iff_eq]
      exact hnone
    simp only [b, hgot]
    exact a.landingUnder_flags F
  clear_value b buses
  have hc : bit c.out.err 0 = bit b.out.err 0 := by
    simp only [c]
    split <;> rfl
  clear_value c
  have hd : bit d.out.err 0 = bit c.out.err 0 :=
    foldl_keeps (fun t : State => bit t.out.err 0) (fun t n => (t.outFrame_keeps_under F buses n).2) channels c
  clear_value d floor
  have he : e.out.next = F + 1 ∧ (∀ x ∈ e.mez.landing, F < x.frame) ∧ e.out.err = d.out.err :=
    ⟨rfl, fun x hx => by simpa using (List.mem_filter.mp hx).2, rfl⟩
  clear_value e
  have hf : f.mez = e.mez ∧ f.out = e.out := by
    simp only [f]
    split
    · obtain ⟨_, _, h⟩ := e.fenceDone_shape 0
      rw [h]
      exact ⟨rfl, rfl⟩
    · exact ⟨rfl, rfl⟩
  clear_value f
  obtain ⟨hmez, hnext, herr⟩ := f.fillOut_shape
  obtain ⟨henext, heland, heerr⟩ := he
  rw [hmez, hnext, herr, hf.1, hf.2]
  exact ⟨henext, heland, fun hnone => by rw [heerr, hd, hc, hb hnone]⟩

/-! ### Fades -/

theorem State.updOut_congr {s : State} {n : Fin 64} {f g : OutCh → OutCh} (h : f (s.out.ch.get n) = g (s.out.ch.get n)) :
    s.updOut n f = s.updOut n g := by
  simp only [State.updOut, Tab.upd, h]

theorem OutCh.fadeEnd_idle {c : OutCh} {n n1 xf : Nat} (hfade : c.fade = some (n1, xf)) (hover : n1 + xf ≤ n)
    (hq : c.queued = none) : c.fadeEnd n = { c with fade := none } := by
  have hno : ¬ n < n1 + xf := by omega
  simp only [OutCh.fadeEnd, hfade, if_neg hno, hq]

theorem OutCh.fadeEnd_queued {c : OutCh} {n n1 xf x : Nat} (hfade : c.fade = some (n1, xf)) (hover : n1 + xf ≤ n)
    (hq : c.queued = some x) : c.fadeEnd n = ({ c with fade := none, queued := none } : OutCh).swapNow (n1 + xf) x := by
  have hno : ¬ n < n1 + xf := by omega
  simp only [OutCh.fadeEnd, hfade, if_neg hno, hq]

/-- Settles O31: `State.mezzanine`, `State.takeFrame` and `OutCh.fadeEnd`, each by what it leaves. -/
theorem framesReachTheOutputs : Obligations.FramesReachTheOutputs := by
  intro s
  refine ⟨?_, ?_, ?_, ?_⟩
  · rintro F rfl hrun hrend hbound hret hout
    obtain ⟨hnext, hland, hrest⟩ := s.settle.mezzanine_lands s.mez.next
    exact ⟨_, next_when (by simp [hrun, hrend, hbound, hret, hout]), rfl, hnext, hland, hrest⟩
  · rintro F rfl hreach
    exact ⟨_, next_when hreach, rfl, State.takeFrame_takes ..⟩
  · intro n n1 xf hfade hover hq
    exact congrArg _ (State.updOut_congr (OutCh.fadeEnd_idle hfade hover hq))
  · intro n n1 xf x hfade hover hq
    have hend := OutCh.fadeEnd_queued hfade hover hq
    refine ⟨s.updOut n fun c => c.fadeEnd (s.out.next * s.fl), rfl, ?_, ?_, rfl, fun m hm => ?_⟩
    · rw [State.updOut_out, Tab.get_upd_same, hend]
      rfl
    · rw [State.updOut_out, Tab.get_upd_same, hend]
      rfl
    · rw [State.updOut_out]
      exact Tab.get_upd_ne _ _ hm.symm

end Sys2Proof.Machine
end

section
/-! PROOF. DAC channels latch every word-clock edge (spec/11_analog_outputs.md R308, R310, R319). -/

namespace Sys2Proof.Machine

/-! ### What a channel's latch reads and counts -/

/-- The entries of a channel, its underrun count and the value it keeps. -/
def DacCh.entries (c : DacCh) : List (Int × Int) × Word × Int := (c.queue, c.ufCnt, c.last)

/-- What is written of DACn_CTRL is no entry. -/
theorem DacCh.entries_ctrl (c : DacCh) (w : Word) : ({ c with ctrl := w } : DacCh).entries = c.entries := rfl

@[simp] theorem DacCh.entries_startRange (c : DacCh) (r : Nat) : (c.startRange r).entries = c.entries := by
  unfold DacCh.startRange
  split
  · rfl
  extract_lets d
  have hd : d.entries = c.entries := DacCh.entries_ctrl ..
  clear_value d
  rw [← hd]
  split
  · rfl
  split
  · rfl
  split <;> rfl

@[simp] theorem DacCh.entries_enChanged (c : DacCh) (mute : Bool) : (c.enChanged mute).entries = c.entries := by
  unfold DacCh.enChanged
  split
  · split <;> rfl
  · split <;> rfl

@[simp] theorem DacCh.entries_applyRanges (c : DacCh) (mute : Bool) (t : Nat) : (c.applyRanges mute t).entries = c.entries := by
  unfold DacCh.applyRanges
  apply foldl_keeps DacCh.entries
  intro c d
  extract_lets u
  have hu : u.entries = c.entries := by
    simp only [u]
    cases d.range with
    | some r => exact DacCh.entries_startRange ..
    | none => rfl
  clear_value u
  rw [← hu]
  split
  · split
    · rfl
    · rw [DacCh.entries_enChanged, DacCh.entries_ctrl]
  · rfl

@[simp] theorem DacCh.entries_applyDests (c : DacCh) (t : Nat) : (c.applyDests t).entries = c.entries := rfl

@[simp] theorem DacCh.entries_dark (c : DacCh) : c.dark.entries = c.entries := rfl

@[simp] theorem DacCh.entries_goOn (c : DacCh) (mute : Bool) : (c.goOn mute).entries = c.entries := by
  unfold DacCh.goOn
  split <;> rfl

@[simp] theorem DacCh.entries_settleEnd (c : DacCh) (mute : Bool) : (c.settleEnd mute).entries = c.entries := by
  unfold DacCh.settleEnd
  split
  · exact DacCh.entries_goOn ..
  · rfl

@[simp] theorem DacCh.entries_leadEnd (c : DacCh) (mute : Bool) : (c.leadEnd mute).entries = c.entries := by
  unfold DacCh.leadEnd
  split
  · exact DacCh.entries_goOn ..
  · rfl

@[simp] theorem DacCh.entries_gain (c : DacCh) (nr : Nat) (mute : Bool) : (c.gain nr mute).2.entries = c.entries := by
  unfold DacCh.gain
  extract_lets d k k'
  have hd : d.entries = c.entries := rfl
  clear_value d
  rw [← hd]
  split
  · split
    · exact DacCh.entries_goOn ..
    · rfl
  · rfl
  · rfl
  · split
    · split <;> rfl
    · rfl
  · split <;> rfl
  · split <;> rfl

theorem DacCh.applyRanges_nil {c : DacCh} (h : c.dests = []) (mute : Bool) (t : Nat) : c.applyRanges mute t = c := by
  unfold DacCh.applyRanges
  rw [h]
  rfl

theorem DacCh.ctrl_applyDests_nil {c : DacCh} (h : c.dests = []) (t : Nat) : (c.applyDests t).ctrl = c.ctrl := by
  unfold DacCh.applyDests
  rw [h]
  rfl

/-- Where a channel finds no entry for an edge of engine time, it counts that. -/
theorem DacCh.latch_under {c : DacCh} {e : Int} (he : 0 ≤ e) (hno : ∀ q ∈ c.queue, q.1 ≠ e) (nr : Nat) (mute powered : Bool)
    (now : Option Nat) (t : Nat) : (c.latch nr mute powered now t e).2 = true ∧
      (c.latch nr mute powered now t e).1.ufCnt = satInc c.ufCnt 1 ∧
      (bit c.ctrl 30 = false → c.dests = [] → (c.latch nr mute powered now t e).1.last = c.last) := by
  unfold DacCh.latch
  extract_lets a a' entry under b on d x f
  have ha : a.entries = c.entries := by
    change (DacCh.applyDests t (DacCh.applyRanges mute t c)).entries = c.entries
    simp
  have hctrl : c.dests = [] → a.ctrl = c.ctrl := by
    intro hd
    change (DacCh.applyDests t (DacCh.applyRanges mute t c)).ctrl = c.ctrl
    rw [DacCh.applyRanges_nil hd, DacCh.ctrl_applyDests_nil hd]
  simp only [DacCh.entries, Prod.mk.injEq] at ha
  obtain ⟨hqueue, huf, hlast⟩ := ha
  clear_value a
  have ha' : a'.queue = c.queue ∧ a'.ufCnt = c.ufCnt ∧ a'.last = c.last ∧ a'.ctrl = a.ctrl := ⟨hqueue, huf, hlast, rfl⟩
  obtain ⟨hqueue', huf', hlast', hctrl'⟩ := ha'
  clear_value a'
  have hentry : entry = none := by
    simp only [entry, hqueue', List.find?_eq_none, beq_iff_eq]
    exact hno
  have hunder : under = true := by simp [under, hentry, he]
  have hb : b.ufCnt = satInc c.ufCnt 1 ∧ b.last = c.last ∧ b.ctrl = a.ctrl := by simp [b, hunder, huf', hlast', hctrl']
  obtain ⟨hbuf, hblast, hbctrl⟩ := hb
  clear_value b
  have hon : bit c.ctrl 30 = false → c.dests = [] → on = false := by
    intro h30 hd
    simp only [on, hbctrl, hctrl hd, h30]
  have hd : d.ufCnt = b.ufCnt ∧ d.last = b.last := by
    simp only [d]
    split <;> exact ⟨rfl, rfl⟩
  clear_value d
  have hx : on = false → x = b.last := by
    intro h
    have hneg : ¬ e < 0 := by omega
    simp only [x, h, hentry, hneg, if_false, hd.2]
    rfl
  have hf : f.ufCnt = satInc c.ufCnt 1 ∧ f.last = x := ⟨hd.1.trans hbuf, rfl⟩
  clear_value f x
  have hkeep : bit c.ctrl 30 = false → c.dests = [] → f.last = c.last :=
    fun h30 hd => hf.2.trans ((hx (hon h30 hd)).trans hblast)
  split
  · exact ⟨hunder, hbuf, fun _ _ => hblast⟩
  split
  · exact ⟨hunder, hf.1, hkeep⟩
  · have hg : (((f.settleEnd mute).leadEnd mute).gain nr mute).2.entries = f.entries := by simp
    simp only [DacCh.entries, Prod.mk.injEq] at hg
    obtain ⟨-, hguf, hglast⟩ := hg
    exact ⟨hunder, hguf.trans hf.1, fun h30 hd => hglast.trans (hkeep h30 hd)⟩

/-! ### A channel at an edge -/

/-- The latch of a channel changes the DAC, but not its edge count, its mute or another channel, and the interrupts. -/
theorem State.latchOne_shape (s : State) (t : Nat) (e : Int) (n : Fin 16) : ∃ dac irqf,
    s.latchOne t e n = { s with dac := dac, irqf := irqf } ∧ dac.edge = s.dac.edge ∧
      ∀ m, m ≠ n ∨ s.hasDac n = false → dac.ch.get m = s.dac.ch.get m := by
  unfold State.latchOne
  split
  · exact ⟨s.dac, s.irqf, rfl, rfl, fun _ _ => rfl⟩
  next hhas =>
    extract_lets r u _
    have hch : ∀ m, m ≠ n ∨ s.hasDac n = false → (s.dac.ch.upd n fun _ => r.1).get m = s.dac.ch.get m := by
      rintro m (h | h)
      · exact Tab.get_upd_ne _ _ (Ne.symm h)
      · exact absurd h hhas
    split
    · obtain ⟨irqf, h⟩ := ({ u with dac := { u.dac with ufCnt := satInc u.dac.ufCnt 1 } } : State).dacErr_shape 0
      exact ⟨_, irqf.raise (144 + n.val), congrArg (fun t : State => t.raise (144 + n.val)) h, rfl, hch⟩
    · exact ⟨_, s.irqf, rfl, rfl, hch⟩

theorem State.muteOff_edge (s : State) : s.muteOff.dac.edge = s.dac.edge := by
  unfold State.muteOff Dac.muteRelease
  dsimp only
  split <;> rfl

/-- Every channel latches: no more changes than the DAC and the interrupts, and a channel that the grade lacks stays as the release
of MUTE_n left it. -/
theorem State.latchAll_shape (s : State) (t : Nat) (e : Int) : ∃ dac irqf, s.latchAll t e = { s with dac := dac, irqf := irqf } ∧
    dac.edge = s.dac.edge ∧ ∀ n, s.hasDac n = false → dac.ch.get n = s.muteOff.dac.ch.get n := by
  have hfold : ∀ (l : List (Fin 16)) (u : State), ∃ dac irqf, l.foldl (fun s n => s.latchOne t e n) u = { u with dac := dac, irqf := irqf } ∧
      dac.edge = u.dac.edge ∧ ∀ n, u.hasDac n = false → dac.ch.get n = u.dac.ch.get n := by
    intro l
    induction l with
    | nil => exact fun u => ⟨u.dac, u.irqf, rfl, rfl, fun _ _ => rfl⟩
    | cons n l ih =>
      intro u
      obtain ⟨_, _, h1, hedge1, hch1⟩ := u.latchOne_shape t e n
      obtain ⟨dac, irqf, h2, hedge2, hch2⟩ := ih (u.latchOne t e n)
      refine ⟨dac, irqf, by rw [List.foldl_cons, h2, h1], by rw [hedge2, h1, hedge1], fun m hm => ?_⟩
      rw [hch2 m (by rw [h1]; exact hm), h1]
      refine hch1 m ?_
      rcases Decidable.em (m = n) with rfl | hne
      · exact .inr hm
      · exact .inl hne
  obtain ⟨dac, irqf, h, hedge, hch⟩ := hfold (List.finRange 16) s.muteOff
  exact ⟨dac, irqf, h, hedge.trans s.muteOff_edge, hch⟩

theorem State.clockRest_shape (s : State) : ∃ out dac tdm, s.clockRest = { s with out := out, dac := dac, tdm := tdm } ∧
    dac.edge = s.dac.edge := by
  unfold State.clockRest
  extract_lets quiet
  split
  · exact ⟨_, _, _, rfl, rfl⟩
  · exact ⟨s.out, s.dac, s.tdm, rfl, rfl⟩

theorem State.fillDac_edge (s : State) (n : Fin 16) : (s.fillDac n).dac.edge = s.dac.edge := by
  unfold State.fillDac
  split
  · rfl
  extract_lets c d late u _
  split
  · rfl
  · obtain ⟨irqf, h⟩ := ({ u with dac := { u.dac with ufCnt := satInc u.dac.ufCnt late } } : State).dacErr_shape 0
    rw [h]
    rfl

/-- Filling the queues changes neither the edge count nor what is no output. -/
theorem State.fillOut_leaves (s : State) : s.fillOut.dac.edge = s.dac.edge ∧ s.fillOut.voices = s.voices ∧ s.fillOut.mem = s.mem ∧
    s.fillOut.foyer = s.foyer := by
  have hfold {β : Type} (π : State → β) (hπ : ∀ (t : State) dac irqf, π { t with dac := dac, irqf := irqf } = π t) :
      π ((List.finRange 16).foldl State.fillDac s) = π s := by
    refine foldl_keeps π (fun t n => ?_) _ s
    obtain ⟨dac, irqf, e⟩ := t.fillDac_shape n
    rw [e, hπ]
  exact ⟨foldl_keeps (fun t : State => t.dac.edge) State.fillDac_edge (List.finRange 16) s, hfold State.voices fun _ _ _ => rfl,
    hfold State.mem fun _ _ _ => rfl, hfold State.foyer fun _ _ _ => rfl⟩

/-- A word-clock edge with a place in engine time: the next one follows, and what is no output is as running to the edge left it. -/
theorem State.wordClock_leaves (s : State) : s.wordClock.dac.edge = s.dac.edge + 1 ∧
    s.wordClock.voices = (s.runTo (s.edgeEt s.dac.edge)).voices ∧ s.wordClock.mem = (s.runTo (s.edgeEt s.dac.edge)).mem ∧
    s.wordClock.foyer = (s.runTo (s.edgeEt s.dac.edge)).foyer := by
  unfold State.wordClock
  extract_lets e t u _
  have hu : u.voices = (s.runTo (s.edgeEt e)).voices ∧ u.mem = (s.runTo (s.edgeEt e)).mem ∧ u.foyer = (s.runTo (s.edgeEt e)).foyer := by
    obtain ⟨_, _, h, -⟩ := (s.runTo (s.edgeEt e)).latchAll_shape t e
    rw [show u = _ from h]
    exact ⟨rfl, rfl, rfl⟩
  clear_value u
  obtain ⟨_, _, _, hrest, hedge⟩ := ({ u with dac := { u.dac with edge := e + 1 } } : State).clockRest_shape
  obtain ⟨he, hv, hm, hf⟩ := ({ u with dac := { u.dac with edge := e + 1 } } : State).clockRest.fillOut_leaves
  refine ⟨he.trans ?_, hv.trans ?_, hm.trans ?_, hf.trans ?_⟩ <;> rw [hrest]
  · exact hedge
  · exact hu.1
  · exact hu.2.1
  · exact hu.2.2

/-- A channel of the grade that finds no entry for an edge of engine time: the underrun is counted twice over, flagged and signalled. -/
theorem State.latchOne_under {s : State} {n : Fin 16} {e : Int} (t : Nat) (hhas : s.hasDac n = true) (he : 0 ≤ e)
    (hno : ∀ q ∈ (s.dac.ch.get n).queue, q.1 ≠ e) :
    ((s.latchOne t e n).dac.ch.get n).ufCnt = satInc (s.dac.ch.get n).ufCnt 1 ∧
    (s.latchOne t e n).dac.ufCnt = satInc s.dac.ufCnt 1 ∧ bit (s.latchOne t e n).dac.err 0 = true ∧
    (s.latchOne t e n).dac.mute = s.dac.mute ∧
    (s.latchOne t e n).irqf = (if s.dac.err = 0#32 then s.irqf.raise 130 else s.irqf).raise (144 + n.val) ∧
    (bit (s.dac.ch.get n).ctrl 30 = false → (s.dac.ch.get n).dests = [] →
      ((s.latchOne t e n).dac.ch.get n).last = (s.dac.ch.get n).last) := by
  have hlatch := DacCh.latch_under he hno s.dac.nr s.dac.mute s.anaOn (if s.time.refclk then some s.time.rclk else none) t
  unfold State.latchOne
  rw [if_neg (by simp [hhas])]
  extract_lets r u _
  obtain ⟨hunder, huf, hlast⟩ : r.2 = true ∧ r.1.ufCnt = satInc (s.dac.ch.get n).ufCnt 1 ∧
      (bit (s.dac.ch.get n).ctrl 30 = false → (s.dac.ch.get n).dests = [] → r.1.last = (s.dac.ch.get n).last) := hlatch
  clear_value r
  rw [if_pos hunder]
  have hget : (s.dac.ch.upd n fun _ => r.1).get n = r.1 := Tab.get_upd_same ..
  obtain ⟨v, hv, hdac, hirqf⟩ : ∃ v : State, ({ u with dac := { u.dac with ufCnt := satInc u.dac.ufCnt 1 } } : State).dacErr 0 = v ∧
      v.dac = { s.dac with ch := s.dac.ch.upd n fun _ => r.1, ufCnt := satInc s.dac.ufCnt 1, err := setFlag s.dac.err 0 } ∧
      v.irqf = if s.dac.err = 0#32 then s.irqf.raise 130 else s.irqf := by
    refine ⟨_, rfl, ?_, ?_⟩
    · obtain ⟨irqf, h⟩ := ({ u with dac := { u.dac with ufCnt := satInc u.dac.ufCnt 1 } } : State).dacErr_shape 0
      rw [h]
      rfl
    · by_cases h : s.dac.err = 0#32 <;> simp [u, State.dacErr, State.raiseIf, Dac.setErr, h]
  rw [hv]
  change (v.dac.ch.get n).ufCnt = _ ∧ v.dac.ufCnt = _ ∧ bit v.dac.err 0 = true ∧ v.dac.mute = _ ∧ v.irqf.raise (144 + n.val) = _ ∧
    (_ → _ → (v.dac.ch.get n).last = _)
  rw [hdac, hirqf]
  refine ⟨by rw [hget, huf], rfl, bit_setFlag_same _ (by decide), rfl, rfl, fun h30 hd => ?_⟩
  rw [hget, hlast h30 hd]

/-! ### The gain of a ramp (R310) -/

theorem DacCh.gain_steps (c : DacCh) (nr : Nat) (mute : Bool) :
    (c.seq = .up → c.k < nr → (c.gain nr mute).1 = c.k ∧ (c.gain nr mute).2.k = c.k + 1) ∧
    (c.seq = .down → 0 < c.k → (c.gain nr mute).1 = c.k - 1 ∧ (c.gain nr mute).2.k = c.k - 1) ∧
    (c.seq = .settle ∨ c.seq = .lead ∨ c.seq = .zero → (c.gain nr mute).1 = 0) := by
  unfold DacCh.gain
  refine ⟨fun hseq hk => ?_, fun hseq hk => ?_, ?_⟩
  · have hmin : min nr (c.k + 1) = c.k + 1 := by omega
    simp only [hseq, hmin]
    split
    next h => exact ⟨trivial, h.symm⟩
    next => exact ⟨trivial, rfl⟩
  · simp only [hseq]
    split
    next h =>
      rw [h]
      split <;> exact ⟨rfl, rfl⟩
    next => exact ⟨rfl, rfl⟩
  · rintro (hseq | hseq | hseq)
    · simp only [hseq]
      split <;> rfl
    · simp only [hseq]
    · simp only [hseq]

/-- Settles O32: an edge is `State.latchAll`, with or without a place in engine time; the counts are those of `DacCh.latch`. -/
theorem dacChannelsLatchEveryEdge : Obligations.DacChannelsLatchEveryEdge := by
  refine ⟨fun s hok hseen hpaced hreach => ?_, fun s hok hseen hun => ?_, fun s hm hbank => ?_,
    fun s n T e hhas he hno => State.latchOne_under T hhas he hno, DacCh.gain_steps⟩
  · have hexec : exec .dacLatch s = .next s.anyEdge := next_when (by simp [hok, hseen, hreach])
    have hany : s.anyEdge = s.wordClock := by simp [State.anyEdge, hpaced]
    rw [hexec, hany]
    exact ⟨_, rfl, s.wordClock_leaves⟩
  · have hexec : exec .dacLatch s = .next s.anyEdge := next_when (by simp [hok, hseen, hun])
    have hany : s.anyEdge = s.unpacedEdge := by simp [State.anyEdge, hun]
    rw [hexec, hany]
    obtain ⟨dac, irqf, h, hedge, hch⟩ := s.latchAll_shape s.time.et (if s.time.running then s.dac.edge - 1 else -1)
    have hun : s.unpacedEdge = { s with dac := dac, irqf := irqf } := h
    rw [hun]
    exact ⟨_, rfl, hedge, rfl, hch⟩
  · exact next_stay (by simp [State.wclkSeen, hm, hbank])

end Sys2Proof.Machine
end

section
/-! PROOF. Interrupts are offered, taken and routed (spec/16_interrupt_fabric.md R435–R446). -/

namespace Sys2Proof.Machine

/-- Commands that leave the same state. -/
theorem next_eq {s t : State} (h : s = t) : (.next s : Out') = .next t := congrArg _ h

/-! ### The offer (R439, R440) -/

/-- One look at source `n` for target `k`. -/
def Irqf.pick (q : Irqf) (k : Nat) (best : Option Nat) (n : Nat) : Option Nat :=
  if (q.get n).deliverable k = false then best else
  match best with
  | none => some n
  | some b => if q.compat then best else if (q.get n).prio > (q.get b).prio then some n else best

theorem Irqf.candidate_eq (q : Irqf) (k : Nat) : q.candidate k = (List.range 256).foldl (q.pick k) none := rfl

/-- `b` is what the sources below `N` offer to target `k`. -/
def Irqf.Best (q : Irqf) (k N : Nat) : Option Nat → Prop
  | none => ∀ m < N, (q.get m).deliverable k = false
  | some n => (q.get n).deliverable k = true ∧ n < N ∧
      (q.compat = false → ∀ m < N, (q.get m).deliverable k = true →
        (q.get m).prio ≤ (q.get n).prio ∧ ((q.get m).prio = (q.get n).prio → n ≤ m)) ∧
      (q.compat = true → ∀ m < N, (q.get m).deliverable k = true → n ≤ m)

theorem Irqf.best_pick {q : Irqf} {k N : Nat} {best : Option Nat} (h : q.Best k N best) : q.Best k (N + 1) (q.pick k best N) := by
  have hlt : ∀ m, m < N + 1 ↔ m < N ∨ m = N := fun m => by omega
  unfold Irqf.pick
  cases hd : (q.get N).deliverable k with
  | false =>
    rw [if_pos rfl]
    cases best with
    | none =>
      intro m hm
      rcases (hlt m).mp hm with hm | rfl
      · exact h m hm
      · exact hd
    | some n =>
      obtain ⟨hn, hnN, hb, hc⟩ := h
      refine ⟨hn, by omega, fun hcompat m hm hmd => ?_, fun hcompat m hm hmd => ?_⟩
      all_goals rcases (hlt m).mp hm with hm | rfl
      · exact hb hcompat m hm hmd
      · simp [hd] at hmd
      · exact hc hcompat m hm hmd
      · simp [hd] at hmd
  | true =>
    rw [if_neg (by decide)]
    cases best with
    | none =>
      refine ⟨hd, by omega, fun _ m hm hmd => ?_, fun _ m hm hmd => ?_⟩
      all_goals rcases (hlt m).mp hm with hm | rfl
      · exact absurd hmd (by simp [h m hm])
      · exact ⟨Nat.le_refl _, fun _ => Nat.le_refl _⟩
      · exact absurd hmd (by simp [h m hm])
      · exact Nat.le_refl _
    | some n =>
      obtain ⟨hn, hnN, hb, hc⟩ := h
      dsimp only
      split
      next hcompat =>
        refine ⟨hn, by omega, fun h => by simp [hcompat] at h, fun _ m hm hmd => ?_⟩
        rcases (hlt m).mp hm with hm | rfl
        · exact hc hcompat m hm hmd
        · omega
      next hcompat =>
        have hcompat' : q.compat = false := by simpa using hcompat
        split
        next hgt =>
          refine ⟨hd, by omega, fun _ m hm hmd => ?_, fun h => absurd h hcompat⟩
          rcases (hlt m).mp hm with hm | rfl
          · have := (hb hcompat' m hm hmd).1
            omega
          · exact ⟨Nat.le_refl _, fun _ => Nat.le_refl _⟩
        next hle =>
          refine ⟨hn, by omega, fun _ m hm hmd => ?_, fun h => absurd h hcompat⟩
          rcases (hlt m).mp hm with hm | rfl
          · exact hb hcompat' m hm hmd
          · omega

/-- The candidate is the most urgent of all the sources, the lowest number on a tie. -/
theorem Irqf.best_candidate (q : Irqf) (k : Nat) : q.Best k 256 (q.candidate k) := by
  rw [Irqf.candidate_eq]
  have hfold : ∀ N, q.Best k N ((List.range N).foldl (q.pick k) none) := by
    intro N
    induction N with
    | zero => exact fun m hm => absurd hm (Nat.not_lt_zero m)
    | succ N ih =>
      rw [List.range_succ, List.foldl_append]
      exact Irqf.best_pick ih
  exact hfold 256

theorem Irqf.offer_some {q : Irqf} {k : Fin 3} {n : Nat} (h : q.offer k = some n) : q.candidate k.val = some n ∧
    (q.compat = false → ∀ g, q.running k = some g → g < q.group (q.get n).prio) ∧ (q.compat = true → q.stack.get k = []) := by
  unfold Irqf.offer at h
  split at h
  · simp at h
  next c hc =>
    split at h
    next hcompat =>
      split at h
      next hempty =>
        obtain rfl := Option.some.inj h
        exact ⟨hc, fun h => by simp [hcompat] at h, fun _ => List.isEmpty_iff.mp hempty⟩
      next => simp at h
    next hcompat =>
      split at h
      next hrun =>
        obtain rfl := Option.some.inj h
        exact ⟨hc, fun _ g hg => by simp [hrun] at hg, fun h => absurd h hcompat⟩
      next g hrun =>
        split at h
        next hgt =>
          obtain rfl := Option.some.inj h
          refine ⟨hc, fun _ g' hg => ?_, fun h => absurd h hcompat⟩
          obtain rfl := Option.some.inj (hrun.symm.trans hg)
          exact hgt
        next => simp at h

/-- What a target is offered. -/
theorem Irqf.offer_best {q : Irqf} {k : Fin 3} {n : Nat} (h : q.offer k = some n) : (q.get n).deliverable k.val = true ∧ n < 256 ∧
    (q.compat = false → (∀ m, m < 256 → (q.get m).deliverable k.val = true → (q.get m).prio ≤ (q.get n).prio ∧
      ((q.get m).prio = (q.get n).prio → n ≤ m)) ∧ ∀ g, q.running k = some g → g < q.group (q.get n).prio) ∧
    (q.compat = true → q.stack.get k = [] ∧ ∀ m, m < 256 → (q.get m).deliverable k.val = true → n ≤ m) := by
  obtain ⟨hcand, hrun, hstack⟩ := Irqf.offer_some h
  have hbest := q.best_candidate k.val
  rw [hcand] at hbest
  obtain ⟨hd, hn, hb, hc⟩ := hbest
  exact ⟨hd, hn, fun hf => ⟨hb hf, hrun hf⟩, fun ht => ⟨hstack ht, hc ht⟩⟩

/-! ### The registers -/

theorem State.reach_irqTarget {s : State} (i : Initiator) (k : Fin 3) {off : Nat} (hoff : off < 0x40) (halign : off % 4 = 0)
    (hp : s.pwr.answers pdCtrl = true) : s.reach i (0x40900100 + off + k.val * 0x40) = .ok .irqf (0x100 + off + k.val * 0x40) := by
  have haddr : 0x40900100 + off + k.val * 0x40 = 0x40900000 + (0x100 + off + k.val * 0x40) := by omega
  rw [haddr]
  exact s.reach_irqf i (by omega) (by omega) hp

/-- An acknowledge by a target's own core (R443). -/
theorem State.busRead_irqAck {s : State} {i : Initiator} (k : Fin 3) (hi : i ≠ .window) (hp : s.pwr.answers pdCtrl = true) :
    s.busRead i (0x40900104 + k.val * 0x40) =
      ({ s with irqf := (s.irqf.ack (s.canWake k) k).2 } : State).answer (s.irqf.ack (s.canWake k) k).1 := by
  have hreach : s.reach i (0x40900104 + k.val * 0x40) = .ok .irqf (0x104 + k.val * 0x40) :=
    State.reach_irqTarget i k (off := 4) (by decide) (by decide) hp
  have heffect : s.readEffect i .irqf (0x104 + k.val * 0x40) = some (s.irqAckBy k) := by
    have hoff : 0x100 ≤ 0x104 + k.val * 0x40 ∧ 0x104 + k.val * 0x40 < 0x1C0 ∧ (0x104 + k.val * 0x40) % 0x40 = 0x04 := by omega
    have htgt : Fin.ofNat 3 ((0x104 + k.val * 0x40 - 0x100) / 0x40) = k := by clear hreach hoff; revert k; decide
    simpa [State.readEffect, hoff, hi] using congrArg s.irqAckBy htgt
  simp only [State.busRead, hreach, State.readBlock, heffect]
  rfl

/-- The register window reads zero and takes nothing. -/
theorem State.busRead_irqAck_window {s : State} (k : Fin 3) (hp : s.pwr.answers pdCtrl = true) :
    s.busRead .window (0x40900104 + k.val * 0x40) = s.answer 0#32 := by
  have hreach : s.reach .window (0x40900104 + k.val * 0x40) = .ok .irqf (0x104 + k.val * 0x40) :=
    State.reach_irqTarget .window k (off := 4) (by decide) (by decide) hp
  have heffect : s.readEffect .window .irqf (0x104 + k.val * 0x40) = none := by simp [State.readEffect]
  have hlo : ∀ off, isPairLo .irqf off = false := fun _ => rfl
  have hhi : ∀ off, isPairHi .irqf off = false := fun off => by rw [isPairHi, hlo, Bool.and_false]
  have hreg : s.regVal .irqf (0x104 + k.val * 0x40) = 0#32 := by
    change s.irqfReg (0x104 + k.val * 0x40) = 0#32
    match k with
    | 0 => rfl
    | 1 => rfl
    | 2 => rfl
  simp only [State.busRead, hreach, State.readBlock, heffect, hlo, hhi, Bool.false_eq_true, if_false, hreg]

theorem State.busWrite_irqDb {s : State} {i : Initiator} (k : Fin 3) (v : Word) (hi : i ≠ .window) (hp : s.pwr.answers pdCtrl = true) :
    s.busWrite i (0x40900100 + k.val * 0x40) v = s.irqDb v := by
  refine State.busWrite_effect (State.reach_irqTarget i k (off := 0) (by decide) (by decide) hp) ?_
  have hoff : 0x100 ≤ 0x100 + 0 + k.val * 0x40 ∧ 0x100 + 0 + k.val * 0x40 < 0x1C0 := by omega
  have hreg : (0x100 + 0 + k.val * 0x40) % 0x40 = 0x00 := by omega
  simp [State.writeEffect, hoff, hreg, hi]

/-- The register window rings no doorbell and ends no interrupt. -/
theorem State.busWrite_irqTarget_window {s : State} (k : Fin 3) (v : Word) {off : Nat} (hoff : off = 0 ∨ off = 8)
    (hp : s.pwr.answers pdCtrl = true) : s.busWrite .window (0x40900100 + off + k.val * 0x40) v = s := by
  refine State.busWrite_effect (State.reach_irqTarget .window k (by omega) (by omega) hp) ?_
  have hr : 0x100 ≤ 0x100 + off + k.val * 0x40 ∧ 0x100 + off + k.val * 0x40 < 0x1C0 := by omega
  have hreg : (0x100 + off + k.val * 0x40) % 0x40 = off := by omega
  rcases hoff with rfl | rfl <;> simp [State.writeEffect, hr, hreg]

theorem State.busWrite_irqCfg {s : State} (i : Initiator) (v : Word) (hp : s.pwr.answers pdCtrl = true) :
    s.busWrite i 0x40900000 v = s.irqCfg v :=
  State.busWrite_effect (s.reach_irqf i (off := 0) (by decide) (by decide) hp) rfl

theorem State.busWrite_irqRoute {s : State} (i : Initiator) (n : Fin 256) (v : Word) (hp : s.pwr.answers pdCtrl = true) :
    s.busWrite i (0x40900800 + n.val * 4) v = s.irqRoute n.val v := by
  have haddr : 0x40900800 + n.val * 4 = 0x40900000 + (0x800 + n.val * 4) := by omega
  rw [haddr]
  refine State.busWrite_effect (s.reach_irqf i (off := 0x800 + n.val * 4) (by omega) (by omega) hp) ?_
  have h0 : ¬ 0x800 + n.val * 4 = 0 := by omega
  have h1 : ¬ (0x100 ≤ 0x800 + n.val * 4 ∧ 0x800 + n.val * 4 < 0x1C0) := by omega
  have h2 : 0x800 ≤ 0x800 + n.val * 4 ∧ 0x800 + n.val * 4 < 0xC00 := by omega
  have hn : (0x800 + n.val * 4 - 0x800) / 4 = n.val := by omega
  simp only [State.writeEffect, if_neg h0, if_neg h1, if_pos h2, hn]

/-! ### The fabric -/

theorem Irqf.ack_takes {q : Irqf} {k : Fin 3} {n : Nat} {can : Bool} (h : q.offer k = some n) (hlen : (q.stack.get k).length < 16)
    (hwake : q.stack.get k ≠ [] ∨ can = true) : q.ack can k = (0x80000000#32 ||| word ((q.get n).prio * 256 + n),
      { (q.upd n fun e => { e with pending := false, active := true, owner := k.val }) with
          stack := q.stack.upd k (n :: ·), asleep := q.asleep.put k false }) := by
  have hno : ¬ ((q.stack.get k).length ≥ 16 ∨ ((q.stack.get k).isEmpty = true ∧ can = false)) := by
    rintro (h | ⟨h1, h2⟩)
    · omega
    · rcases hwake with h | h
      · exact h (List.isEmpty_iff.mp h1)
      · simp [h] at h2
  simp only [Irqf.ack, h, if_neg hno]

theorem Irqf.ack_nothing {q : Irqf} {k : Fin 3} {can : Bool} (h : q.offer k = none ∨ (q.stack.get k = [] ∧ can = false)) :
    q.ack can k = (0#32, q) := by
  unfold Irqf.ack
  split
  · rfl
  next n hn =>
    obtain ⟨h1, h2⟩ := h.resolve_left (by simp [hn])
    exact if_pos (.inr ⟨by simp [h1], h2⟩)

/-- With no entry active the configuration is taken (R436). -/
theorem Irqf.writeCfg_idle {q : Irqf} (h : ∀ j, q.stack.get j = []) (w : Word) :
    q.writeCfg w = { q with compat := bit w 31, bp := bits w 2 0 } := by
  have hany : ¬ ((List.finRange 3).any fun t => !(q.stack.get t).isEmpty) = true := by simp [h]
  unfold Irqf.writeCfg
  dsimp only
  split
  next hsame => rw [hsame.1, hsame.2]
  next => rfl

/-- While an entry is active a change is ignored and flagged. -/
theorem Irqf.writeCfg_busy {q : Irqf} {w : Word} (h : ∃ j, q.stack.get j ≠ []) (hd : bit w 31 ≠ q.compat ∨ bits w 2 0 ≠ q.bp) :
    q.writeCfg w = q.setErr 2 := by
  obtain ⟨j, hj⟩ := h
  have hany : ((List.finRange 3).any fun t => !(q.stack.get t).isEmpty) = true :=
    List.any_eq_true.mpr ⟨j, List.mem_finRange j, by simpa using hj⟩
  have hne : ¬ (bit w 31 = q.compat ∧ bits w 2 0 = q.bp) := fun ⟨h1, h2⟩ => hd.elim (fun h => h h1) (fun h => h h2)
  unfold Irqf.writeCfg
  dsimp only
  rw [if_neg hne, if_pos hany]

/-- Settles O56: the offer is the fold over the sources, the registers act on the fabric alone. -/
theorem interruptsAreOfferedAndTaken : Obligations.InterruptsAreOfferedAndTaken := by
  refine ⟨fun q k n => Irqf.offer_best, fun s i k v hp => ⟨fun n hi hoffer hlen hwake => ?_, fun hnone => ?_, fun hi => ?_,
    fun hi hlow => ?_, fun hi hlo hhi => ?_, fun hempty => ?_, fun hbusy hdiff => ?_, fun n hu => ?_⟩⟩
  · have hack := Irqf.ack_takes hoffer hlen hwake
    refine ⟨_, next_eq (State.busRead_irqAck k hi hp), ?_⟩
    rw [hack]
    have hget : ∀ q : Irqf, q.ent = (s.irqf.upd n fun e => { e with pending := false, active := true, owner := k.val }).ent →
        q.get n = { s.irqf.get n with pending := false, active := true, owner := k.val } := by
      intro q hq
      rw [Irqf.get, hq]
      exact Irqf.get_upd_same ..
    refine ⟨rfl, rfl, ?_, ?_, ?_, Tab.get_put_same .., rfl⟩
    · exact congrArg IrqEnt.pending (hget _ rfl)
    · exact congrArg IrqEnt.active (hget _ rfl)
    · exact congrArg IrqEnt.owner (hget _ rfl)
  · by_cases hi : i = .window
    · subst hi
      exact next_eq (State.busRead_irqAck_window k hp)
    · refine next_eq ((State.busRead_irqAck k hi hp).trans ?_)
      rw [Irqf.ack_nothing (hnone.resolve_left hi)]
      rfl
  · subst hi
    exact ⟨next_eq (State.busWrite_irqTarget_window k v (.inr rfl) hp), next_eq (State.busWrite_irqTarget_window k v (.inl rfl) hp)⟩
  · have hdb : s.irqDb v = { s with irqf := s.irqf.setErr 0 } := by
      have h255 : ¬ bits v 7 0 = 255 := by omega
      simp only [State.irqDb, Irqf.doorbell, if_pos hlow, if_neg h255]
    refine ⟨_, next_eq ((State.busWrite_irqDb k v hi hp).trans hdb), ?_, rfl, fun m hm => s.irqf.setErr_ent_ne 0 hm⟩
    change bit (s.irqf.setErr 0).err 0 = true
    rw [Irqf.setErr_err]
    exact bit_setFlag_same _ (by decide)
  · have hdb : s.irqDb v = { s with irqf := s.irqf.raise (bits v 7 0) } := by
      have h255 : ¬ bits v 7 0 = 255 := by omega
      have h224 : ¬ bits v 7 0 < 224 := by omega
      simp only [State.irqDb, Irqf.doorbell, if_neg h224, if_neg h255]
    exact next_eq ((State.busWrite_irqDb k v hi hp).trans hdb)
  · refine next_eq ((State.busWrite_irqCfg i v hp).trans ?_)
    rw [State.irqCfg, Irqf.writeCfg_idle hempty]
  · have hcfg : s.irqf.writeCfg v = s.irqf.setErr 2 := Irqf.writeCfg_busy hbusy hdiff
    obtain ⟨_, _, hshape⟩ := s.irqf.setErr_shape 2
    refine ⟨_, next_eq ((State.busWrite_irqCfg i v hp).trans rfl), ?_⟩
    rw [State.irqCfg, hcfg]
    refine ⟨by rw [hshape]; rfl, by rw [hshape]; rfl, ?_⟩
    rw [Irqf.setErr_err]
    exact bit_setFlag_same _ (by decide)
  · refine next_eq ((State.busWrite_irqRoute i n v hp).trans ?_)
    simp [State.irqRoute, Irqf.writeRoute, hu, Irqf.upd]

end Sys2Proof.Machine
end

section
/-! PROOF. Power domains and I/O banks are switched (spec/18_power_reset_faults.md R472–R476, spec/19_electrical_and_package.md R496). -/

namespace Sys2Proof.Machine

/-! ### PWRd_CTRL -/

theorem State.busWrite_pwrCtrl {s : State} (i : Initiator) (d : Fin 16) (v : Word) : s.busWrite i (pwrCtrlAddr d) v = s.pwrCtrl d v := by
  have hreach : s.reach i (pwrCtrlAddr d) = .ok .pwr (d.val * 0x20) := by
    have hwin : windowRange (pwrCtrlAddr d) = true := by revert d; decide
    have hblock : blockOf (pwrCtrlAddr d) = some (.pwr, d.val * 0x20) := by revert d; decide
    exact State.reach_ok i (by unfold pwrCtrlAddr; omega) hwin hblock rfl rfl
  refine State.busWrite_effect hreach ?_
  have hoff : d.val * 0x20 < 0x200 ∧ d.val * 0x20 % 0x20 = 0 := by omega
  have hd : Fin.ofNat 16 (d.val * 0x20 / 0x20) = d := by clear hreach hoff; revert d; decide
  simp only [State.writeEffect, if_pos hoff, hd]

@[simp] theorem State.dom_updDom_same (s : State) (d : Fin 16) (f : Domain → Domain) :
    (s.updDom d f).pwr.dom.get d = f (s.pwr.dom.get d) := Tab.get_upd_same ..

theorem State.dom_updDom_ne (s : State) {d e : Fin 16} (f : Domain → Domain) (h : d ≠ e) :
    (s.updDom d f).pwr.dom.get e = s.pwr.dom.get e := Tab.get_upd_ne _ _ h

/-- A supply that is off begins its wake. -/
theorem State.switchOn_off {s : State} {d : Fin 16} (h : (s.pwr.dom.get d).st = .off) :
    ((s.switchOn d).pwr.dom.get d).st = .waking ∧ ((s.switchOn d).pwr.dom.get d).since = s.time.rclk := by
  unfold State.switchOn
  rw [State.dom_updDom_same]
  simp only [h]
  exact ⟨trivial, trivial⟩

/-- Asserting MUTE_n changes the DAC alone, and no supply. -/
theorem State.muteNow_shape (s : State) : ∃ dac, s.muteNow = { s with dac := dac } ∧ dac.vrefOk = s.dac.vrefOk := by
  unfold State.muteNow
  split
  · refine ⟨_, rfl, ?_⟩
    unfold Dac.assertMute
    split <;> rfl
  · exact ⟨s.dac, rfl, rfl⟩

/-- What the switch-off of a supply makes of its domain. -/
def Domain.leaving (x : Domain) : Domain := { x with st := match x.st with
  | .on => .goingOff | .waking => .goingOff | .off => .off | .retained => .retained | .goingOff => .goingOff }

theorem State.switchOff_shape (s : State) (d : Fin 16) : ∃ dac, s.switchOff d = { s with
    pwr := { s.pwr with dom := s.pwr.dom.upd d Domain.leaving }, dac := dac } ∧ (d = pdAna → dac.vrefOk = false) ∧
    (d ≠ pdAna → dac = s.dac) := by
  obtain ⟨f, hf, hs⟩ : ∃ f : Domain → Domain, (∀ x, f x = x.leaving) ∧ s.switchOff d =
      (if d = pdAna then { s with dac := { s.dac with vrefOk := false } } else s).updDom d f := by
    refine ⟨_, fun x => ?_, rfl⟩
    obtain ⟨st, _, _, _, _, _⟩ := x
    cases st <;> rfl
  rw [hs, show f = Domain.leaving from funext hf]
  by_cases hd : d = pdAna
  · rw [if_pos hd]
    exact ⟨_, rfl, fun _ => rfl, fun h => absurd hd h⟩
  · rw [if_neg hd]
    exact ⟨s.dac, rfl, fun h => absurd h hd, fun _ => rfl⟩

/-- A switch of a supply off: the galleries' registers, its domain and the DAC. -/
theorem State.switch_off_shape (s : State) (d : Fin 16) : ∃ dac, s.switch d false = { s with
    gal := if isGal d.val then s.gal.upd (galOfDom d) fun g => { g with parked := true, parkReq := false } else s.gal,
    pwr := { s.pwr with dom := s.pwr.dom.upd d Domain.leaving }, dac := dac } ∧ (d = pdAna → dac.vrefOk = false) := by
  unfold State.switch
  rw [if_neg (by decide)]
  extract_lets u
  have hu : u = { s with gal := if isGal d.val then s.gal.upd (galOfDom d) fun g => { g with parked := true, parkReq := false } else s.gal } := by
    simp only [u]
    split <;> rfl
  obtain ⟨dac, h1, hana, -⟩ := u.switchOff_shape d
  obtain ⟨dac', h2, hvref⟩ := (u.switchOff d).muteNow_shape
  refine ⟨dac', ?_, fun hd => ?_⟩
  · rw [h2, h1, hu]
  · rw [hvref, h1]
    exact hana hd

/-! ### Wakes -/

/-- A supply that has gone: its domain, the event, and for the analog outputs their channels. -/
theorem State.domOff_shape (s : State) (d : Fin 16) (st : DomSt) : ∃ dac, s.domOff d st = { s with
    pwr := { s.pwr with dom := s.pwr.dom.upd d fun x => { x with st := st, swCnt := satInc x.swCnt 1 } },
    irqf := s.irqf.raise 5, dac := dac } ∧ (d ≠ pdAna → dac = s.dac) ∧
    (d = pdAna → dac.vrefOk = false ∧ ∀ n : Fin 16, dac.ch.get n = (s.dac.ch.get n).dark) := by
  unfold State.domOff
  by_cases hd : d = pdAna
  · rw [if_pos hd]
    exact ⟨_, rfl, fun h => absurd hd h, fun _ => ⟨rfl, fun n => Tab.get_map ..⟩⟩
  · rw [if_neg hd]
    exact ⟨s.dac, rfl, fun _ => rfl, fun h => absurd h hd⟩

/-- A critical entry is logged whatever the tokens: the number of the next entry moves on. -/
theorem State.logAs_crit_next (s : State) (code : Nat) (hall : Option Nat) (data : List Byte) :
    (s.logAs .crit code hall data).nv.logNext ≠ s.nv.logNext := by
  have hstep (n : Nat) : (n + 1) % 2 ^ 32 ≠ n ∧ ((n + 1) % 2 ^ 32 + 1) % 2 ^ 32 ≠ n := by omega
  unfold State.logAs
  dsimp only [State.logVolatile, State.logFlash]
  rw [if_neg (by simp)]
  split
  · exact (hstep _).1
  · exact (hstep _).2

theorem State.log_crit_shape (s : State) (code : Nat) (hall : Option Nat) (data : List Byte) : ∃ n m,
    s.logAs .crit code hall data = { s with nv := n, mgmt := m } ∧ n.logNext ≠ s.nv.logNext := by
  obtain ⟨n, m, e⟩ := s.logAs_shape .crit code hall data
  refine ⟨n, m, e, ?_⟩
  have := s.logAs_crit_next code hall data
  rwa [e] at this

/-! ### Automatic parking (R476) -/

theorem pdGal_inj {g k : Fin 8} (h : pdGal g = pdGal k) : g = k := by revert g k; decide
theorem pdGal_isGal (g : Fin 8) : isGal (pdGal g).val = true := by revert g; decide
theorem galOfDom_pdGal (g : Fin 8) : galOfDom (pdGal g) = g := by revert g; decide

/-- Automatic parking's look at one gallery. -/
def State.parkIdle (s : State) (g : Fin 8) : State := if s.idleLong g then s.switch (pdGal g) false else s

theorem State.idleLong_on {s : State} {g : Fin 8} (h : s.idleLong g = true) : (s.pwr.dom.get (pdGal g)).st = .on := by
  unfold State.idleLong at h
  split at h
  · simp only [Bool.and_eq_true, Pwr.on, Pwr.is, beq_iff_eq] at h
    obtain ⟨⟨⟨hon, -⟩, -⟩, -⟩ := h
    exact hon
  · simp at h

/-- Whether a gallery has been idle for long is asked of its own registers, its supply, the halls and the engines. -/
theorem State.idleLong_congr {s t : State} {g : Fin 8} (hgal : t.gal.get g = s.gal.get g)
    (hdom : t.pwr.dom.get (pdGal g) = s.pwr.dom.get (pdGal g)) (hpolicy : t.pwr.policy = s.pwr.policy) (hhalls : t.halls = s.halls)
    (heng : t.eng = s.eng) (htime : t.time = s.time) (hnv : t.nv = s.nv) : t.idleLong g = s.idleLong g := by
  have hcarries (e f : Nat) : t.carries e f = s.carries e f := by simp only [State.carries, hhalls]
  have hframe (e : Nat) : t.engFrame e = s.engFrame e := by simp only [State.engFrame, State.mapFrames, hcarries, hhalls, heng]
  simp only [State.idleLong, State.galEmpty, Pwr.on, Pwr.is, State.edgesUs, State.ref882, hgal, hdom, hpolicy, hhalls, htime, hnv, hframe]
  rfl

/-- `t` is `s` after automatic parking has looked at the galleries `l`. -/
structure State.Parked (s : State) (l : List (Fin 8)) (t : State) : Prop where
  shape : ∃ gal dom dac, t = { s with gal := gal, pwr := { s.pwr with dom := dom }, dac := dac }
  idle : ∀ g ∈ l, s.idleLong g = true → (t.pwr.dom.get (pdGal g)).st = .goingOff ∧ (t.gal.get g).parked = true
  other : ∀ g, g ∉ l ∨ s.idleLong g = false → t.pwr.dom.get (pdGal g) = s.pwr.dom.get (pdGal g) ∧ t.gal.get g = s.gal.get g

theorem State.parkIdle_parked (s : State) (g : Fin 8) : s.Parked [g] (s.parkIdle g) := by
  cases hidle : s.idleLong g with
  | false =>
    have h : s.parkIdle g = s := if_neg (by simp [hidle])
    rw [h]
    exact ⟨⟨_, _, _, rfl⟩, fun k hk hk' => by simp_all, fun _ _ => ⟨rfl, rfl⟩⟩
  | true =>
    have h : s.parkIdle g = s.switch (pdGal g) false := if_pos hidle
    obtain ⟨dac, e, -⟩ := s.switch_off_shape (pdGal g)
    rw [pdGal_isGal, if_pos rfl, galOfDom_pdGal] at e
    rw [h, e]
    refine ⟨⟨_, _, _, rfl⟩, fun k hk _ => ?_, fun k hk => ?_⟩
    · obtain rfl := List.mem_singleton.mp hk
      constructor
      · change ((s.pwr.dom.upd (pdGal k) Domain.leaving).get (pdGal k)).st = .goingOff
        rw [Tab.get_upd_same]
        simp only [Domain.leaving, State.idleLong_on hidle]
      · change ((s.gal.upd k fun g => { g with parked := true, parkReq := false }).get k).parked = true
        rw [Tab.get_upd_same]
    · have hne : g ≠ k := by
        rintro rfl
        rcases hk with hk | hk
        · exact hk (List.mem_singleton_self g)
        · simp [hidle] at hk
      exact ⟨Tab.get_upd_ne _ _ fun h => hne (pdGal_inj h), Tab.get_upd_ne _ _ hne⟩

theorem State.parked_fold (l : List (Fin 8)) (hl : l.Nodup) (s : State) : s.Parked l (l.foldl State.parkIdle s) := by
  induction l generalizing s with
  | nil => exact ⟨⟨_, _, _, rfl⟩, fun _ h => by simp at h, fun _ _ => ⟨rfl, rfl⟩⟩
  | cons g l ih =>
    obtain ⟨hg, hl⟩ := List.nodup_cons.mp hl
    have h1 := s.parkIdle_parked g
    have h2 := ih hl (s.parkIdle g)
    have hidle : ∀ k, k ≠ g → (s.parkIdle g).idleLong k = s.idleLong k := by
      intro k hk
      obtain ⟨hdom, hgal⟩ := h1.other k (.inl (by simpa using hk))
      obtain ⟨_, _, _, e⟩ := h1.shape
      exact State.idleLong_congr hgal hdom (by rw [e]) (by rw [e]) (by rw [e]) (by rw [e]) (by rw [e])
    rw [List.foldl_cons]
    refine ⟨?_, fun k hk hlong => ?_, fun k hk => ?_⟩
    · obtain ⟨_, _, _, e1⟩ := h1.shape
      obtain ⟨gal, dom, dac, e2⟩ := h2.shape
      exact ⟨gal, dom, dac, by rw [e2, e1]⟩
    · rcases Decidable.em (k = g) with rfl | hne
      · obtain ⟨hdom, hgal⟩ := h2.other k (.inl hg)
        rw [hdom, hgal]
        exact h1.idle k (List.mem_singleton_self k) hlong
      · exact h2.idle k ((List.mem_cons.mp hk).resolve_left hne) ((hidle k hne).trans hlong)
    · have hk1 : k ∉ [g] ∨ s.idleLong k = false := hk.imp_left fun h => by simp_all
      have hk2 : k ∉ l ∨ (s.parkIdle g).idleLong k = false := by
        rcases Decidable.em (k = g) with rfl | hne
        · exact .inl hg
        · exact hk.imp (fun h => by simp_all) fun h => (hidle k hne).trans h
      obtain ⟨hd1, hg1⟩ := h1.other k hk1
      obtain ⟨hd2, hg2⟩ := h2.other k hk2
      exact ⟨hd2.trans hd1, hg2.trans hg1⟩

/-! ### Banks (R496) -/

theorem State.trackOff_shape (s : State) : ∃ out, s.trackOff = { s with out := out } := by
  unfold State.trackOff
  split <;> exact ⟨_, rfl⟩

/-- What a lost word clock changes: the outputs and the interrupts. -/
theorem State.wclkGone_shape (s : State) : ∃ out dac tdm irqf, s.wclkGone = { s with out := out, dac := dac, tdm := tdm, irqf := irqf } := by
  obtain ⟨out, hv⟩ := s.trackOff_shape
  unfold State.wclkGone
  rw [hv]
  extract_lets v _ _ _ w
  have hw : ∃ out dac tdm, w = { s with out := out, dac := dac, tdm := tdm } := ⟨_, _, _, rfl⟩
  clear_value w
  obtain ⟨_, _, _, hw⟩ := hw
  obtain ⟨_, h1⟩ := w.outErr_shape 1
  obtain ⟨_, h2⟩ := (w.outErr 1).dacErr_shape 2
  obtain ⟨dac, h3, -⟩ := ((w.outErr 1).dacErr 2).muteNow_shape
  exact ⟨_, dac, _, _, by rw [h3, h2, h1, hw]⟩

/-- What a lost clock changes: the outputs and the interrupts. -/
theorem State.edgesGone_shape (s : State) : ∃ out dac tdm irqf, s.edgesGone = { s with out := out, dac := dac, tdm := tdm, irqf := irqf } := by
  unfold State.edgesGone
  extract_lets _ u
  split
  · obtain ⟨_, _, _, _, h⟩ := u.wclkGone_shape
    exact ⟨_, _, _, _, h⟩
  · exact ⟨s.out, _, s.tdm, s.irqf, rfl⟩

theorem State.timeErr_shape (s : State) (n : Nat) : ∃ irqf, s.timeErr n = { s with time := (s.time.setErr n).1, irqf := irqf } :=
  State.raiseIf_shape { s with time := (s.time.setErr n).1 } _ _

/-- REFCLK that is gone is counted, flagged and logged (R419). -/
theorem State.refclkGone_present {s : State} (h : s.time.refclk = true) : ∃ nv mgmt out dac tdm irqf, s.refclkGone = { s with
    time := { s.time with refclk := false, ok := false, lossCnt := satInc s.time.lossCnt 1, err := setFlag s.time.err 0 },
    nv := nv, mgmt := mgmt, out := out, dac := dac, tdm := tdm, irqf := irqf } := by
  unfold State.refclkGone
  rw [if_neg (by simp [h])]
  obtain ⟨_, _, _, _, h3⟩ := (s.refBad false).edgesGone_shape
  obtain ⟨_, h1⟩ := ({ s with time := { s.time with refclk := false, ok := false, lossCnt := satInc s.time.lossCnt 1 } } : State).timeErr_shape 0
  obtain ⟨_, _, h2, -⟩ := (({ s with time := { s.time with refclk := false, ok := false, lossCnt := satInc s.time.lossCnt 1 } } :
    State).timeErr 0).log_shape 0x0701 none []
  exact ⟨_, _, _, _, _, _, by rw [h3, State.refBad, h2, h1]; rfl⟩

/-- Without supply of bank SYS neither TAMPER_n nor REFCLK is seen. -/
theorem State.sysGone_leaves (s : State) : s.sysGone.pins = { s.pins with tamper := false } ∧ s.sysGone.time.refclk = false ∧
    s.sysGone.time.rclk = s.time.rclk ∧ s.sysGone.time.et = s.time.et ∧ s.sysGone.halls = s.halls ∧ s.sysGone.voices = s.voices ∧
    (s.time.refclk = true → s.sysGone.time.ok = false ∧ s.sysGone.time.lossCnt = satInc s.time.lossCnt 1 ∧ bit s.sysGone.time.err 0 = true) ∧
    s.sysGone.ser = s.ser := by
  cases h : s.time.refclk with
  | false =>
    have hgone : s.sysGone = { s with pins := { s.pins with tamper := false } } := if_pos h
    rw [hgone]
    exact ⟨rfl, h, rfl, rfl, rfl, rfl, fun h => by simp at h, rfl⟩
  | true =>
    obtain ⟨_, _, _, _, _, _, e⟩ := State.refclkGone_present (s := { s with pins := { s.pins with tamper := false } }) h
    rw [State.sysGone, e]
    exact ⟨rfl, rfl, rfl, rfl, rfl, rfl, fun _ => ⟨rfl, rfl, bit_setFlag_same _ (by decide)⟩, rfl⟩

/-- A bank whose supply is absent. -/
def Pins.lose (p : Pins) (b : Bank) : Pins := { p with absent := if p.absent.contains b then p.absent else b :: p.absent }

theorem Pins.mem_lose (p : Pins) (b : Bank) : b ∈ (p.lose b).absent := by
  unfold Pins.lose
  dsimp only
  split
  next h => simpa using h
  next => exact List.mem_cons_self

theorem exec_bankVddioLost {s : State} (b : Bank) : ∃ t : State, exec (.bankVddioLost b) s = .next t ∧ b ∈ t.pins.absent ∧
    (b ≠ .sys → t = { s with pins := t.pins, ser := t.ser }) ∧
    (b = .sys → t.pins.tamper = false ∧ t.time.refclk = false ∧ t.time.rclk = s.time.rclk ∧ t.time.et = s.time.et ∧
      t.halls = s.halls ∧ t.voices = s.voices ∧
      (s.time.refclk = true → t.time.ok = false ∧ t.time.lossCnt = satInc s.time.lossCnt 1 ∧ bit t.time.err 0 = true)) ∧
    (b = .ser → ∀ n : Fin 4, t.ser.get n = { s.ser.get n with line := true, high := some ((s.ser.get n).high.getD (s.line64 false)) }) ∧
    (b ≠ .ser → t.ser = s.ser) := by
  have hmem := s.pins.mem_lose b
  obtain ⟨u, hu⟩ : ∃ u : State, u = { s with pins := s.pins.lose b } := ⟨_, rfl⟩
  have hexec : exec (.bankVddioLost b) s = .next (if b = .ser then { u with ser := u.ser.map fun (p : Ser) =>
      { p with line := true, high := some (p.high.getD (u.line64 false)) } } else if b = .sys then u.sysGone else u) := by
    rw [hu]
    rfl
  rw [hexec]
  by_cases hser : b = .ser
  · rw [if_pos hser]
    subst hser hu
    exact ⟨_, rfl, hmem, fun _ => rfl, fun h => by simp at h, fun _ n => Tab.get_map .., fun h => absurd rfl h⟩
  rw [if_neg hser]
  by_cases hsys : b = .sys
  · rw [if_pos hsys]
    subst hsys
    obtain ⟨hpins, hclk, hr, het, hh, hv, hbad, hs⟩ := u.sysGone_leaves
    refine ⟨_, rfl, ?_⟩
    rw [hpins, hclk, hr, het, hh, hv, hs, hu]
    rw [hu] at hbad
    exact ⟨hmem, fun h => absurd rfl h, fun _ => ⟨rfl, rfl, rfl, rfl, rfl, rfl, hbad⟩, fun h => by simp at h, fun _ => rfl⟩
  · rw [if_neg hsys]
    subst hu
    exact ⟨_, rfl, hmem, fun _ => rfl, fun h => absurd h hsys, fun h => absurd h hser, fun _ => rfl⟩

/-- The edges of a word clock that is seen again are those ahead; the device's own were never away. -/
theorem State.edgesSeen_shape (s : State) : ∃ e ei eo : Int, s.edgesSeen = { s with
    dac := { s.dac with edge := e }, tdm := { s.tdm with edge := eo, inEdge := ei } } ∧
    (s.out.master = true → s.edgesSeen = s) ∧ (s.out.master = false → s.firstGrid ≤ e ∧ s.firstGrid ≤ eo ∧ s.firstGrid ≤ ei) := by
  unfold State.edgesSeen
  by_cases h : s.out.master = true
  · rw [if_pos h]
    exact ⟨_, _, _, rfl, fun _ => rfl, fun h' => by simp [h] at h'⟩
  · rw [if_neg h]
    exact ⟨_, _, _, rfl, fun h' => absurd h' h, fun _ => ⟨Int.le_max_right .., Int.le_max_right .., Int.le_max_right ..⟩⟩

theorem exec_bankVddioRestored {s : State} (b : Bank) : ∃ t : State, exec (.bankVddioRestored b) s = .next t ∧ b ∉ t.pins.absent ∧
    t = { s with pins := t.pins, dac := { s.dac with edge := t.dac.edge },
                 tdm := { s.tdm with edge := t.tdm.edge, inEdge := t.tdm.inEdge } } ∧
    (b ≠ .tdm ∨ s.out.master = true ∨ s.bankOn .tdm = true → t = { s with pins := t.pins }) ∧
    (b = .tdm → s.out.master = false → s.bankOn .tdm = false → s.firstGrid ≤ t.dac.edge ∧ s.firstGrid ≤ t.tdm.edge ∧
      s.firstGrid ≤ t.tdm.inEdge) ∧
    ∀ c, c ≠ b → (c ∈ t.pins.absent ↔ c ∈ s.pins.absent) := by
  obtain ⟨u, hu⟩ : ∃ u : State, u = { s with pins := { s.pins with absent := s.pins.absent.filter (· != b) } } := ⟨_, rfl⟩
  have hexec : exec (.bankVddioRestored b) s = .next (if b = .tdm ∧ s.bankOn .tdm = false then u.edgesSeen else u) := by
    rw [hu]
    rfl
  have hgone : b ∉ u.pins.absent := by simp [hu]
  have hother : ∀ c, c ≠ b → (c ∈ u.pins.absent ↔ c ∈ s.pins.absent) := by
    intro c hc
    simp [hu, hc]
  rw [hexec]
  by_cases hb : b = .tdm ∧ s.bankOn .tdm = false
  · rw [if_pos hb]
    obtain ⟨e, ei, eo, hseen, hmaster, hslave⟩ := u.edgesSeen_shape
    refine ⟨_, rfl, ?_, ?_, fun h => ?_, fun _ hm _ => ?_, ?_⟩
    · rw [hseen]
      exact hgone
    · rw [hseen, hu]
    · have hm : s.out.master = true := by
        rcases h with h | h | h
        · exact absurd hb.1 h
        · exact h
        · simp [hb.2] at h
      rw [hmaster (by rw [hu]; exact hm), hu]
    · obtain ⟨h1, h2, h3⟩ := hslave (by rw [hu]; exact hm)
      rw [hseen]
      rw [hu] at h1 h2 h3
      exact ⟨h1, h2, h3⟩
    · rw [hseen]
      exact hother
  · rw [if_neg hb]
    refine ⟨_, rfl, hgone, by rw [hu], fun _ => by rw [hu], fun h _ hoff => absurd ⟨h, hoff⟩ hb, hother⟩

/-! ### The statement -/

/-- A write of PWRd_CTRL: `ret` for galleries, and a change of `on` where the domain may be off. -/
theorem pwrCtrl_writes {s u : State} (i : Initiator) (d : Fin 16) (v : Word)
    (hu : u = if isGal d.val then s.updDom d fun x => { x with ret := bit v 30 } else s) :
    (bit v 31 = (u.pwr.dom.get d).onBit → s.busWrite i (pwrCtrlAddr d) v = u) ∧
    (bit v 31 ≠ (u.pwr.dom.get d).onBit → u.mayBeOff d = true → s.busWrite i (pwrCtrlAddr d) v = u.switch d (bit v 31)) ∧
    (bit v 31 ≠ (u.pwr.dom.get d).onBit → u.mayBeOff d = false → s.busWrite i (pwrCtrlAddr d) v = u.pwrErr 1) := by
  rw [State.busWrite_pwrCtrl]
  unfold State.pwrCtrl
  dsimp only
  rw [← hu]
  refine ⟨fun h => if_pos h, fun h hoff => ?_, fun h hoff => ?_⟩
  · rw [if_neg h, if_pos hoff]
  · rw [if_neg h, if_neg (by simp [hoff])]

theorem exec_domainReady_wakes {s : State} {d : Fin 16} (h : (s.pwr.dom.get d).st = .waking) : ∃ v : State,
    exec (.domainReady d) s = .next (v.awake d) ∧ (v.pwr.dom.get d).st = .on ∧ v.irqf = s.irqf.raise 5 ∧
      v = { s with pwr := v.pwr, irqf := v.irqf } := by
  refine ⟨(s.updDom d fun x => { x with st := .on, wake := s.wakeUs x }).raise 5, next_when (by simp [h]), ?_, rfl, rfl⟩
  exact congrArg Domain.st (s.dom_updDom_same d _)

theorem exec_wakeTimeout_fails {s : State} {d : Fin 16} (h : (s.pwr.dom.get d).st = .waking)
    (hlong : (s.pwr.dom.get d).since + s.edgesUs (4 * wakeMax d (s.pwr.dom.get d).fromRet) ≤ s.time.rclk) : ∃ v : State,
    exec (.wakeTimeout d) s = .next (v.wakeLost d) ∧ (v.pwr.dom.get d).st = .off ∧ bit v.pwr.err 2 = true ∧ v.halls = s.halls ∧
      v.voices = s.voices ∧ v.nv.logNext ≠ s.nv.logNext := by
  obtain ⟨_, _, e, hnext⟩ := (s.pwrErr 2).log_crit_shape (Config.wakeLogCode % 65536) none [byte d.val]
  obtain ⟨_, e', -⟩ := ((s.pwrErr 2).logAs .crit (Config.wakeLogCode % 65536) none [byte d.val]).domOff_shape d .off
  refine ⟨_, next_when (by simp [h, hlong]), ?_⟩
  rw [e', e]
  refine ⟨?_, bit_setFlag_same _ (by decide), rfl, rfl, hnext⟩
  exact congrArg Domain.st (Tab.get_upd_same ..)

theorem exec_wakeRetry_wakes {s : State} (h : (s.pwr.dom.get pdAna).st = .off) (hc : s.pwr.on pdCtrl = true)
    (hu : s.nv.cfg.anaUnused = false) (hlong : (s.pwr.dom.get pdAna).since + s.edgesUs 1000000 ≤ s.time.rclk) :
    ∃ t : State, exec .wakeRetry s = .next t ∧ (t.pwr.dom.get pdAna).st = .waking ∧ (t.pwr.dom.get pdAna).since = s.time.rclk ∧
      t = { s with pwr := t.pwr } := by
  obtain ⟨hst, hsince⟩ := State.switchOn_off h
  exact ⟨_, next_when (by simp [h, hc, hu, hlong]), hst, hsince, rfl⟩

theorem exec_domainSwitchedOff_ends {s : State} {d : Fin 16} (h : (s.pwr.dom.get d).st = .goingOff) : ∃ v : State,
    exec (.domainSwitchedOff d) s = .next (if isGal d.val then v.parkDone (galOfDom d) else v) ∧
      (v.pwr.dom.get d).st = (if isGal d.val = true ∧ (s.pwr.dom.get d).ret = true then .retained else .off) ∧
      (v.pwr.dom.get d).swCnt = satInc (s.pwr.dom.get d).swCnt 1 ∧ v = { s with pwr := v.pwr, irqf := v.irqf, dac := v.dac } ∧
      (d ≠ pdAna → v.dac = s.dac) ∧ (d = pdAna → v.dac.vrefOk = false ∧ ∀ n : Fin 16, v.dac.ch.get n = (s.dac.ch.get n).dark) := by
  obtain ⟨st, hst⟩ : ∃ st : DomSt, st = if isGal d.val = true ∧ (s.pwr.dom.get d).ret = true then .retained else .off := ⟨_, rfl⟩
  obtain ⟨dac, e, hother, hana⟩ := s.domOff_shape d st
  have hdom : (s.domOff d st).pwr.dom.get d = { s.pwr.dom.get d with st := st, swCnt := satInc (s.pwr.dom.get d).swCnt 1 } := by
    rw [e]
    exact Tab.get_upd_same ..
  refine ⟨s.domOff d st, (next_when (by simp [h])).trans (next_eq ?_), by rw [hdom, ← hst], by rw [hdom], by rw [e], ?_, ?_⟩
  · by_cases hg : isGal d.val = true
    · rw [if_pos hg, if_pos hg]
      simp only [hg, true_and] at hst
      rw [hst]
    · rw [if_neg hg, if_neg hg]
      rw [if_neg (fun h => hg h.1)] at hst
      rw [hst]
  · rw [e]
    exact hother
  · rw [e]
    exact hana

theorem exec_autoPark_parks {s : State} (h : bit s.pwr.policy 31 = true) : ∃ t : State, exec .autoPark s = .next t ∧
    t.halls = s.halls ∧ t.voices = s.voices ∧
    ∀ g : Fin 8, (s.idleLong g = true → (t.pwr.dom.get (pdGal g)).st = .goingOff ∧ (t.gal.get g).parked = true) ∧
      (s.idleLong g = false → t.pwr.dom.get (pdGal g) = s.pwr.dom.get (pdGal g) ∧ t.gal.get g = s.gal.get g) := by
  have hp := State.parked_fold (List.finRange 8) (List.nodup_finRange 8) s
  refine ⟨(List.finRange 8).foldl State.parkIdle s, next_when h, ?_, ?_, fun g => ⟨hp.idle g (List.mem_finRange g), fun hg => hp.other g (.inr hg)⟩⟩
  all_goals
    obtain ⟨_, _, _, e⟩ := hp.shape
    rw [e]

/-- Settles O59: each switch by its shape; automatic parking by the fold over the galleries. -/
theorem domainsAreSwitched : Obligations.DomainsAreSwitched := by
  refine ⟨fun s u i d v hu => ?_, fun s d => ⟨fun hon => ?_, exec_domainReady_wakes, exec_wakeTimeout_fails,
    exec_wakeRetry_wakes, exec_domainSwitchedOff_ends, ?_, exec_autoPark_parks, exec_bankVddioLost, exec_bankVddioRestored⟩⟩
  · obtain ⟨h1, h2, h3⟩ := pwrCtrl_writes i d v hu
    exact ⟨fun h => next_eq (h1 h), fun h hoff => next_eq (h2 h hoff), fun h hoff => next_eq (h3 h hoff),
      fun h => (State.switchOn_off h).1⟩
  · obtain ⟨_, e, -⟩ := s.switch_off_shape d
    rw [e]
    change ((s.pwr.dom.upd d Domain.leaving).get d).st = .goingOff
    rw [Tab.get_upd_same]
    simp only [Domain.leaving, hon]
  · obtain ⟨_, e, hvref⟩ := s.switch_off_shape pdAna
    rw [e]
    exact hvref rfl

end Sys2Proof.Machine
end

section
/-! PROOF. Sensors, thermal steps, health and the summary (spec/17_management_update_alcove.md R447–R455, R469, R471). -/

namespace Sys2Proof.Machine

/-! ### The log, the sources -/

/-- A log entry changes of the management the log's own fields alone. -/
theorem State.logAs_mgmt (s : State) (c : LogClass) (code : Nat) (hall : Option Nat) (data : List Byte) : ∃ volLog withheld tokens,
    (s.logAs c code hall data).mgmt = { s.mgmt with volLog := volLog, withheld := withheld, tokens := tokens } := by
  unfold State.logAs
  dsimp only [State.logVolatile, State.logFlash]
  split
  · exact ⟨_, _, _, rfl⟩
  · split <;> exact ⟨_, _, _, rfl⟩

theorem State.log_mgmt (s : State) (code : Nat) (hall : Option Nat) (data : List Byte) : ∃ volLog withheld tokens,
    (s.log code hall data).mgmt = { s.mgmt with volLog := volLog, withheld := withheld, tokens := tokens } := State.logAs_mgmt ..

/-- A source that is raised is pending (R433). -/
theorem Irqf.pending_raise {q : Irqf} {n : Nat} (hu : irqUsed n = true) (hn : n ≤ 255) : ((q.raise n).get n).pending = true := by
  unfold Irqf.raise
  rw [if_neg (by simp [hu, hn])]
  split
  next h => exact h
  next => rw [Irqf.get_upd_same]

/-- What is pending stays so when a source is raised. -/
theorem Irqf.pending_raise_of_pending {q : Irqf} {m : Nat} (h : (q.get m).pending = true) (n : Nat) :
    ((q.raise n).get m).pending = true := by
  unfold Irqf.raise
  split
  · exact h
  split
  · exact h
  · unfold Irqf.get Irqf.upd
    by_cases hm : Fin.ofNat 256 n = Fin.ofNat 256 m
    · rw [hm, Tab.get_upd_same]
    · rw [Tab.get_upd_ne _ _ hm]
      exact h

/-- A flag's source leaves what is pending so. -/
theorem State.pending_raiseIf {s : State} {m : Nat} (h : (s.irqf.get m).pending = true) (b : Bool) (n : Nat) :
    ((s.raiseIf b n).irqf.get m).pending = true := by
  cases b
  · exact h
  · exact Irqf.pending_raise_of_pending h n

theorem State.pending_dacErr {s : State} {m : Nat} (h : (s.irqf.get m).pending = true) (n : Nat) :
    ((s.dacErr n).irqf.get m).pending = true := State.pending_raiseIf (s := { s with dac := (s.dac.setErr n).1 }) h _ _

/-! ### Thermal steps (R451, R452) -/

/-- `t` comes of `s` by thermal steps: the readings, the Alcove, voices and time stay, and what is pending or flagged stays so. -/
structure State.Heated (s t : State) : Prop where
  mgmt : t.mgmt.temps = s.mgmt.temps ∧ t.mgmt.alcove = s.mgmt.alcove ∧ t.mgmt.keysIn = s.mgmt.keysIn ∧ t.mgmt.session = s.mgmt.session
  voices : t.voices = s.voices
  time : t.time = s.time
  pending : ∀ m, (s.irqf.get m).pending = true → (t.irqf.get m).pending = true
  range : bit s.sched.guar 6 = true → bit t.sched.guar 6 = true

namespace State.Heated

theorem refl (s : State) : s.Heated s := ⟨⟨rfl, rfl, rfl, rfl⟩, rfl, rfl, fun _ h => h, fun h => h⟩

theorem trans {s t u : State} (h1 : s.Heated t) (h2 : t.Heated u) : s.Heated u where
  mgmt := by
    obtain ⟨a1, b1, c1, d1⟩ := h1.mgmt
    obtain ⟨a2, b2, c2, d2⟩ := h2.mgmt
    exact ⟨a2.trans a1, b2.trans b1, c2.trans c1, d2.trans d1⟩
  voices := h2.voices.trans h1.voices
  time := h2.time.trans h1.time
  pending m h := h2.pending m (h1.pending m h)
  range h := h2.range (h1.range h)

theorem tj {s t : State} (h : s.Heated t) : t.mgmt.tj = s.mgmt.tj := by
  unfold Mgmt.tj
  rw [h.mgmt.1]

end State.Heated

theorem State.thermStep_shape (s : State) (x : Therm) : ∃ nv volLog withheld tokens, s.thermStep x = { s with
    nv := nv, irqf := s.irqf.raise (207 + x.code),
    mgmt := { s.mgmt with therm := x, volLog := volLog, withheld := withheld, tokens := tokens } } := by
  obtain ⟨n, m, e, -⟩ := ((s.updMgmt fun m => { m with therm := x }).raise (207 + x.code)).log_shape (0x0800 + x.code) none
    (leBytes 2 (wrapU 16 s.mgmt.tj).toNat)
  obtain ⟨volLog, withheld, tokens, hm⟩ := ((s.updMgmt fun m => { m with therm := x }).raise (207 + x.code)).log_mgmt (0x0800 + x.code) none
    (leBytes 2 (wrapU 16 s.mgmt.tj).toNat)
  rw [e] at hm
  exact ⟨n, volLog, withheld, tokens, by rw [State.thermStep, e, show m = _ from hm]; rfl⟩

theorem State.Heated.thermStep (s : State) (x : Therm) : s.Heated (s.thermStep x) := by
  obtain ⟨_, _, _, _, e⟩ := s.thermStep_shape x
  rw [e]
  exact ⟨⟨rfl, rfl, rfl, rfl⟩, rfl, rfl, fun m h => Irqf.pending_raise_of_pending h _, fun h => h⟩

theorem State.therm_thermStep (s : State) (x : Therm) : (s.thermStep x).mgmt.therm = x := by
  obtain ⟨_, _, _, _, e⟩ := s.thermStep_shape x
  rw [e]

theorem State.pending_thermStep (s : State) {x : Therm} (hx : x ≠ .normal) : ((s.thermStep x).irqf.get (207 + x.code)).pending = true := by
  obtain ⟨_, _, _, _, e⟩ := s.thermStep_shape x
  rw [e]
  cases x
  · exact absurd rfl hx
  all_goals exact Irqf.pending_raise (by decide) (by decide)

theorem State.thermStep_outputs (s : State) (x : Therm) : (s.thermStep x).dac = s.dac ∧ (s.thermStep x).gal = s.gal := by
  obtain ⟨_, _, _, _, e⟩ := s.thermStep_shape x
  rw [e]
  exact ⟨rfl, rfl⟩

theorem State.Heated.guar (s : State) (n : Nat) : s.Heated (s.guar n) where
  mgmt := by simp
  voices := by simp
  time := by simp
  pending m h := State.pending_raiseIf (s := { s with sched := { s.sched with guar := setFlag s.sched.guar n } }) h _ _
  range h := by
    rw [State.guar_guar]
    exact bit_setFlag_of_bit h

/-- HALT mutes the outputs and asks for every gallery's fence. -/
theorem State.thermHalt_halts (s : State) : s.Heated s.thermHalt ∧ s.thermHalt.mgmt.therm = s.mgmt.therm ∧
    s.thermHalt.dac.thermal = true ∧ s.thermHalt.dac.mute = true ∧ bit s.thermHalt.dac.err 3 = true ∧
    ∀ g : Fin 8, (s.thermHalt.gal.get g).fenceReq = some 3 := by
  obtain ⟨u, hu, hpend⟩ : ∃ u : State, u = ({ s with dac := { s.dac with thermal := true } } : State).dacErr 3 ∧
      ∀ m, (s.irqf.get m).pending = true → (u.irqf.get m).pending = true :=
    ⟨_, rfl, fun m h => State.pending_dacErr (s := { s with dac := { s.dac with thermal := true } }) h 3⟩
  obtain ⟨irqf, hshape⟩ := ({ s with dac := { s.dac with thermal := true } } : State).dacErr_shape 3
  rw [hshape] at hu
  have hcause : u.dac.cause u.anaOn = true := by
    rw [hu]
    simp [Dac.cause, Dac.setErr]
  have hmute : u.muteNow = { u with dac := u.dac.assertMute u.time.rclk } := if_pos hcause
  have hasserted : ∀ d : Dac, (d.assertMute u.time.rclk).mute = true ∧ (d.assertMute u.time.rclk).thermal = d.thermal ∧
      (d.assertMute u.time.rclk).err = d.err := by
    intro d
    unfold Dac.assertMute
    split
    next h => exact ⟨h.1, rfl, rfl⟩
    next => exact ⟨rfl, rfl, rfl⟩
  have hhalt : s.thermHalt = { u with dac := u.dac.assertMute u.time.rclk, gal := u.gal.map fun (g : Gallery) => { g with fenceReq := some 3 } } := by
    unfold State.thermHalt
    rw [hshape, ← hu, hmute]
  obtain ⟨hm, hth, herr⟩ := hasserted u.dac
  rw [hhalt]
  refine ⟨⟨?_, ?_, ?_, hpend, ?_⟩, ?_, hth.trans ?_, hm, ?_, fun g => ?_⟩
  case refine_8 => exact congrArg Gallery.fenceReq (Tab.get_map ..)
  case refine_7 =>
    change bit (u.dac.assertMute u.time.rclk).err 3 = true
    rw [herr, hu]
    exact bit_setFlag_same _ (by decide)
  all_goals rw [hu]
  case refine_1 => exact ⟨rfl, rfl, rfl, rfl⟩
  case refine_4 => exact fun h => h
  all_goals rfl

/-- What entering the thermal steps does, for the step and the junction temperature it begins with. -/
structure State.Entered (s t : State) : Prop where
  heated : s.Heated t
  normal : s.mgmt.therm = .normal → t.mgmt.therm = if s.mgmt.tj ≥ 125 * 16 then .halt else if s.mgmt.tj ≥ 115 * 16 then .shed
    else if s.mgmt.tj > 110 * 16 then .warn else .normal
  warn : s.mgmt.therm = .warn → t.mgmt.therm = if s.mgmt.tj ≥ 125 * 16 then .halt else if s.mgmt.tj ≥ 115 * 16 then .shed else .warn
  shed : s.mgmt.therm = .shed → t.mgmt.therm = if s.mgmt.tj ≥ 125 * 16 then .halt else .shed
  halt : s.mgmt.therm = .halt → t.mgmt.therm = .halt ∧ t.dac = s.dac ∧ t.gal = s.gal
  source208 : s.mgmt.therm = .normal → t.mgmt.therm ≠ .normal → (t.irqf.get 208).pending = true ∧ bit t.sched.guar 6 = true
  source209 : s.mgmt.therm = .normal ∨ s.mgmt.therm = .warn → t.mgmt.therm = .shed ∨ t.mgmt.therm = .halt → (t.irqf.get 209).pending = true
  source210 : s.mgmt.therm ≠ .halt → t.mgmt.therm = .halt → (t.irqf.get 210).pending = true ∧ t.dac.thermal = true ∧ t.dac.mute = true ∧
    bit t.dac.err 3 = true ∧ ∀ g : Fin 8, (t.gal.get g).fenceReq = some 3
  outputs : t.mgmt.therm ≠ .halt → t.dac = s.dac ∧ t.gal = s.gal

/-- The step to WARN. -/
def State.enterWarn (s : State) (tj : Int) : State := if s.mgmt.therm = .normal ∧ tj > 110 * 16 then (s.thermStep .warn).guar 6 else s
/-- The step to SHED. -/
def State.enterShed (s : State) (tj : Int) : State := if s.mgmt.therm = .warn ∧ tj ≥ 115 * 16 then s.thermStep .shed else s
/-- The step to HALT. -/
def State.enterHalt (s : State) (tj : Int) : State :=
  if s.mgmt.therm = .shed ∧ tj ≥ 125 * 16 then (s.thermStep .halt).thermHalt else s

theorem State.thermEnter_eq (s : State) : s.thermEnter = ((s.enterWarn s.mgmt.tj).enterShed s.mgmt.tj).enterHalt s.mgmt.tj := rfl

theorem State.enterWarn_spec (s : State) (tj : Int) : s.Heated (s.enterWarn tj) ∧
    ((s.enterWarn tj).dac = s.dac ∧ (s.enterWarn tj).gal = s.gal) ∧
    (s.enterWarn tj).mgmt.therm = (if s.mgmt.therm = .normal ∧ tj > 110 * 16 then .warn else s.mgmt.therm) ∧
    (s.mgmt.therm = .normal → tj > 110 * 16 → ((s.enterWarn tj).irqf.get 208).pending = true ∧ bit (s.enterWarn tj).sched.guar 6 = true) := by
  unfold State.enterWarn
  by_cases h : s.mgmt.therm = .normal ∧ tj > 110 * 16
  · simp only [if_pos h]
    have h1 := State.Heated.thermStep s .warn
    have h2 := State.Heated.guar (s.thermStep .warn) 6
    refine ⟨h1.trans h2, ?_, ?_, fun _ _ => ⟨h2.pending 208 (s.pending_thermStep (by decide)), ?_⟩⟩
    · rw [State.guar_dac, State.guar_gal]
      exact s.thermStep_outputs .warn
    · rw [State.guar_mgmt]
      exact s.therm_thermStep .warn
    · rw [State.guar_guar]
      exact bit_setFlag_same _ (by decide)
  · simp only [if_neg h]
    exact ⟨.refl s, ⟨trivial, trivial⟩, trivial, fun h1 h2 => absurd ⟨h1, h2⟩ h⟩

theorem State.enterShed_spec (s : State) (tj : Int) : s.Heated (s.enterShed tj) ∧
    ((s.enterShed tj).dac = s.dac ∧ (s.enterShed tj).gal = s.gal) ∧
    (s.enterShed tj).mgmt.therm = (if s.mgmt.therm = .warn ∧ tj ≥ 115 * 16 then .shed else s.mgmt.therm) ∧
    (s.mgmt.therm = .warn → tj ≥ 115 * 16 → ((s.enterShed tj).irqf.get 209).pending = true) := by
  unfold State.enterShed
  by_cases h : s.mgmt.therm = .warn ∧ tj ≥ 115 * 16
  · simp only [if_pos h]
    exact ⟨.thermStep s .shed, s.thermStep_outputs .shed, s.therm_thermStep .shed, fun _ _ => s.pending_thermStep (by decide)⟩
  · simp only [if_neg h]
    exact ⟨.refl s, ⟨trivial, trivial⟩, trivial, fun h1 h2 => absurd ⟨h1, h2⟩ h⟩

theorem State.enterHalt_spec (s : State) (tj : Int) : s.Heated (s.enterHalt tj) ∧
    (s.enterHalt tj).mgmt.therm = (if s.mgmt.therm = .shed ∧ tj ≥ 125 * 16 then .halt else s.mgmt.therm) ∧
    (s.mgmt.therm = .shed → tj ≥ 125 * 16 → ((s.enterHalt tj).irqf.get 210).pending = true ∧ (s.enterHalt tj).dac.thermal = true ∧
      (s.enterHalt tj).dac.mute = true ∧ bit (s.enterHalt tj).dac.err 3 = true ∧
      ∀ g : Fin 8, ((s.enterHalt tj).gal.get g).fenceReq = some 3) ∧
    (¬ (s.mgmt.therm = .shed ∧ tj ≥ 125 * 16) → s.enterHalt tj = s) := by
  unfold State.enterHalt
  by_cases h : s.mgmt.therm = .shed ∧ tj ≥ 125 * 16
  · simp only [if_pos h]
    obtain ⟨h2, htherm, hrest⟩ := (s.thermStep .halt).thermHalt_halts
    exact ⟨(State.Heated.thermStep s .halt).trans h2, htherm.trans (s.therm_thermStep .halt),
      fun _ _ => ⟨h2.pending 210 (s.pending_thermStep (by decide)), hrest⟩, fun hn => absurd h hn⟩
  · simp only [if_neg h]
    exact ⟨.refl s, trivial, fun h1 h2 => absurd ⟨h1, h2⟩ h, fun _ => trivial⟩

theorem State.thermEnter_entered (s : State) : s.Entered s.thermEnter := by
  rw [State.thermEnter_eq]
  generalize htj : s.mgmt.tj = tj
  obtain ⟨w1, ⟨w2d, w2g⟩, w3, w4⟩ := s.enterWarn_spec tj
  obtain ⟨s1, ⟨s2d, s2g⟩, s3, s4⟩ := (s.enterWarn tj).enterShed_spec tj
  obtain ⟨h1, h3, h4, h5⟩ := ((s.enterWarn tj).enterShed tj).enterHalt_spec tj
  rw [w3] at s3 s4
  rw [s3] at h3 h4 h5
  have h208 : s.mgmt.therm = .normal → tj > 110 * 16 → ((((s.enterWarn tj).enterShed tj).enterHalt tj).irqf.get 208).pending = true ∧
      bit (((s.enterWarn tj).enterShed tj).enterHalt tj).sched.guar 6 = true := fun hs ht =>
    ⟨h1.pending 208 (s1.pending 208 (w4 hs ht).1), h1.range (s1.range (w4 hs ht).2)⟩
  have h209 := fun hs ht => h1.pending 209 (s4 hs ht)
  have houtputs : (((s.enterWarn tj).enterShed tj).enterHalt tj).mgmt.therm ≠ .halt ∨ s.mgmt.therm = .halt →
      (((s.enterWarn tj).enterShed tj).enterHalt tj).dac = s.dac ∧ (((s.enterWarn tj).enterShed tj).enterHalt tj).gal = s.gal := by
    intro hn
    rw [h5 ?_]
    · exact ⟨s2d.trans w2d, s2g.trans w2g⟩
    · rintro ⟨hshed, hhot⟩
      rw [h3, if_pos ⟨hshed, hhot⟩] at hn
      grind
  have heated := (w1.trans s1).trans h1
  clear h5 s4 w4 s2d s2g w2d w2g w1 s1 h1 w3 s3
  generalize ((s.enterWarn tj).enterShed tj).enterHalt tj = t at *
  constructor
  case heated => exact heated
  all_goals grind

/-! ### Wipes of the Alcove (R469) -/

/-- A wipe of the Alcove: its contents, keys and session are gone, its cause is told; interrupts and the log follow. -/
theorem State.alcoveWipe_shape (s : State) (why : WipeWhy) : ∃ nv irqf mgmt, s.alcoveWipe why = { s with nv := nv, irqf := irqf, mgmt := mgmt } ∧
    mgmt.alcove = [] ∧ mgmt.wiped = true ∧ mgmt.keysIn = false ∧ mgmt.session = none ∧ mgmt.therm = s.mgmt.therm ∧ mgmt.temps = s.mgmt.temps ∧
    (∀ b, why.bit? = some b → mgmt.tamper = setFlag s.mgmt.tamper b) := by
  unfold State.alcoveWipe
  extract_lets tam u v
  obtain ⟨irqf, hv⟩ := u.raiseIf_shape why.tamper 213
  have htam : ∀ b, why.bit? = some b → tam = setFlag s.mgmt.tamper b := by
    intro b hb
    simp only [tam, hb]
  split
  · exact ⟨s.nv, irqf, _, hv, rfl, rfl, rfl, rfl, rfl, rfl, htam⟩
  · generalize ([byte _] : List Byte) = data
    obtain ⟨n, m, hl, -⟩ := v.log_shape 0x0806 none data
    obtain ⟨_, _, _, hm⟩ := v.log_mgmt 0x0806 none data
    rw [hl] at hm
    refine ⟨n, irqf, m, by rw [hl, show v = _ from hv]; rfl, ?_⟩
    rw [show m = _ from hm, show v = _ from hv]
    exact ⟨rfl, rfl, rfl, rfl, rfl, rfl, htam⟩

/-- A sample of the temperatures. -/
theorem exec_tempSample {s : State} {temps : List Int} (hwf : (Instr.tempSample temps).wf = true) : ∃ u : State,
    exec (.tempSample temps) s = .next u.thermEnter ∧ u.mgmt.therm = s.mgmt.therm ∧
    (∀ k : Fin 10, u.mgmt.temps.get k = temps.getD k.val 0) ∧ u.dac = s.dac ∧ u.gal = s.gal ∧ u.voices = s.voices ∧ u.time = s.time ∧
    ((∃ x ∈ temps, tempWipes x = true) → u.mgmt.alcove = [] ∧ u.mgmt.keysIn = false ∧ u.mgmt.session = none) := by
  have hno : ¬ (Instr.tempSample temps).wf = false := by simp [hwf]
  have hget : ∀ k : Fin 10, Tab.get (Vector.ofFn fun (k : Fin 10) => temps.getD k.val 0) k = temps.getD k.val 0 := fun k => by simp [Tab.get]
  refine ⟨_, if_neg hno, ?_⟩
  by_cases hw : temps.any tempWipes = true
  · rw [if_pos hw]
    obtain ⟨_, _, m, e, halc, -, hkeys, hsession, htherm, htemps, -⟩ :=
      (s.updMgmt fun m => { m with temps := Vector.ofFn fun (k : Fin 10) => temps.getD k.val 0 }).alcoveWipe_shape .temp
    rw [e]
    refine ⟨htherm, fun k => ?_, rfl, rfl, rfl, rfl, fun _ => ⟨halc, hkeys, hsession⟩⟩
    change m.temps.get k = _
    rw [htemps]
    exact hget k
  · rw [if_neg hw]
    exact ⟨rfl, hget, rfl, rfl, rfl, rfl, fun ⟨x, hx, hwx⟩ => absurd (List.any_eq_true.mpr ⟨x, hx, hwx⟩) hw⟩

theorem tempSample_enters {s : State} {temps : List Int} (hwf : (Instr.tempSample temps).wf = true) :
    ∃ t : State, exec (.tempSample temps) s = .next t ∧
      (∀ k : Fin 10, t.mgmt.temps.get k = temps.getD k.val 0) ∧
      (s.mgmt.therm = .normal → t.mgmt.therm = (if t.mgmt.tj ≥ 125 * 16 then .halt else if t.mgmt.tj ≥ 115 * 16 then .shed
        else if t.mgmt.tj > 110 * 16 then .warn else .normal)) ∧
      (s.mgmt.therm = .warn → t.mgmt.therm = (if t.mgmt.tj ≥ 125 * 16 then .halt else if t.mgmt.tj ≥ 115 * 16 then .shed else .warn)) ∧
      (s.mgmt.therm = .shed → t.mgmt.therm = (if t.mgmt.tj ≥ 125 * 16 then .halt else .shed)) ∧
      (s.mgmt.therm = .halt → t.mgmt.therm = .halt ∧ t.dac = s.dac ∧ t.gal = s.gal) ∧
      (s.mgmt.therm = .normal → t.mgmt.therm ≠ .normal → (t.irqf.get 208).pending = true ∧ bit t.sched.guar 6 = true) ∧
      (s.mgmt.therm = .normal ∨ s.mgmt.therm = .warn → t.mgmt.therm = .shed ∨ t.mgmt.therm = .halt → (t.irqf.get 209).pending = true) ∧
      (s.mgmt.therm ≠ .halt → t.mgmt.therm = .halt → (t.irqf.get 210).pending = true ∧ t.dac.thermal = true ∧ t.dac.mute = true ∧
        bit t.dac.err 3 = true ∧ ∀ g : Fin 8, (t.gal.get g).fenceReq = some 3) ∧
      (t.mgmt.therm ≠ .halt → t.dac = s.dac ∧ t.gal = s.gal) ∧
      ((∃ x ∈ temps, tempWipes x = true) → t.mgmt.alcove = [] ∧ t.mgmt.keysIn = false ∧ t.mgmt.session = none) ∧
      t.voices = s.voices ∧ t.time = s.time := by
  obtain ⟨u, hexec, htherm, htemps, hdac, hgal, hvoices, htime, hwipe⟩ := exec_tempSample (s := s) hwf
  obtain ⟨hheat, hnormal, hwarn, hshed, hhalt, h208, h209, h210, hout⟩ := u.thermEnter_entered
  obtain ⟨mtemps, malc, mkeys, msession⟩ := hheat.mgmt
  rw [htherm] at hnormal hwarn hshed hhalt h208 h209 h210
  rw [hdac, hgal] at hhalt hout
  refine ⟨_, hexec, fun k => by rw [mtemps]; exact htemps k, ?_, ?_, ?_, hhalt, h208, h209, h210, hout, fun h => ?_,
    hheat.voices.trans hvoices, hheat.time.trans htime⟩
  · rw [hheat.tj]
    exact hnormal
  · rw [hheat.tj]
    exact hwarn
  · rw [hheat.tj]
    exact hshed
  · rw [malc, mkeys, msession]
    exact hwipe h

/-! ### What holds while a step stands -/

/-- The flag of the range is held while a thermal step stands (R55). -/
theorem State.guarPersist_range {s : State} (h : s.mgmt.therm ≠ .normal) : bit s.guarPersist 6 = true := by
  have hlt (b : Bool) (k : Nat) : at_ b k ≤ 2 ^ k := by
    unfold at_
    split <;> simp
  have h1 := hlt s.sched.measured 1
  have h3 := hlt s.out.trk.isSome 3
  have h5 := hlt s.dmxFeeds 5
  have hhot : (s.mgmt.therm != .normal || decide (s.mgmt.tj > 110 * 16) || s.coreLow) = true := by simp [h]
  obtain ⟨n, hn, hlow⟩ : ∃ n, n = at_ s.sched.measured 1 + at_ s.out.trk.isSome 3 + at_ s.dmxFeeds 5 ∧ n < 64 := ⟨_, rfl, by omega⟩
  have hsum : s.guarPersist = word (n + 64) := by
    simp only [State.guarPersist, hhot, hn]
    rfl
  have hbit : (n + 64).testBit 6 = true := by
    rw [Nat.testBit_eq_decide_div_mod_eq]
    simp only [decide_eq_true_eq]
    omega
  rw [hsum]
  simp only [bit, word, BitVec.getLsbD_ofNat, hbit]
  rfl

/-- SHED, where the policy sheds under measured admission, limits every budget to CB (R452). -/
theorem State.mbOf_shed {s : State} (ht : s.mgmt.therm = .shed ∨ s.mgmt.therm = .halt) (hs : s.mgmt.shed = true)
    (hm : bit s.sched.meas 31 = true) (g : Fin 8) : s.mbOf g ≤ s.cb := by
  unfold State.mbOf
  rcases ht with ht | ht
  all_goals
    simp only [ht, hs, hm, Bool.and_self, if_true]
    exact Nat.min_le_right ..

/-- Each step has its exit. -/
theorem exec_thermalStepExit (s : State) : ∃ t : State, exec .thermalStepExit s = .next t ∧
    (s.mgmt.therm = .warn → s.mgmt.tj ≤ 107 * 16 → t.mgmt.therm = .normal) ∧
    (s.mgmt.therm = .shed → s.mgmt.tj ≤ 110 * 16 → t.mgmt.therm = .warn) ∧
    (s.mgmt.therm = .halt → s.mgmt.tj ≤ 110 * 16 → t.dac.thermal = false ∧ t.mgmt.therm = .warn) ∧
    (s.mgmt.therm = .normal ∨ (s.mgmt.therm = .warn ∧ 107 * 16 < s.mgmt.tj) ∨ 110 * 16 < s.mgmt.tj → t = s) ∧
    t = { s with mgmt := { s.mgmt with therm := t.mgmt.therm }, dac := { s.dac with thermal := t.dac.thermal } } := by
  have hexec : exec .thermalStepExit s = execThermalStepExit s := rfl
  rw [hexec, execThermalStepExit]
  dsimp only [State.when]
  cases ht : s.mgmt.therm with
  | normal => exact ⟨s, rfl, by simp, by simp, by simp, fun _ => rfl, rfl⟩
  | warn =>
    dsimp only
    by_cases hle : s.mgmt.tj ≤ 107 * 16
    · exact ⟨_, by rw [if_pos (by simpa using hle)], fun _ _ => rfl, by simp, by simp, fun h => by grind, rfl⟩
    · exact ⟨s, by rw [if_neg (by simpa using hle)], fun _ h => absurd h hle, by simp, by simp, fun _ => rfl, rfl⟩
  | shed =>
    dsimp only
    by_cases hle : s.mgmt.tj ≤ 110 * 16
    · exact ⟨_, by rw [if_pos (by simpa using hle)], by simp, fun _ _ => rfl, by simp, fun h => by grind, rfl⟩
    · exact ⟨s, by rw [if_neg (by simpa using hle)], by simp, fun _ h => absurd h hle, by simp, fun _ => rfl, rfl⟩
  | halt =>
    dsimp only
    by_cases hle : s.mgmt.tj ≤ 110 * 16
    · exact ⟨_, by rw [if_pos (by simpa using hle)], by simp, by simp, fun _ _ => ⟨rfl, rfl⟩, fun h => by grind, rfl⟩
    · exact ⟨s, by rw [if_neg (by simpa using hle)], by simp, by simp, fun _ h => absurd h hle, fun _ => rfl, rfl⟩

/-! ### Voltages (R449) -/

/-- `t` is `s` after the voltages of the supplies `l` have been taken. -/
structure State.Sampled (mv : List Nat) (l : List (Fin 16)) (s t : State) : Prop where
  voices : t.voices = s.voices
  pwr : t.pwr = s.pwr
  calValid : t.nv.calValid = s.nv.calValid
  taken : ∀ d ∈ l, t.mgmt.volts.get d = mv.getD d.val 0 ∧
    t.mgmt.vmonBad.get d = (s.pwr.on d && !s.vmonIn d (mv.getD d.val 0)) ∧
    t.mgmt.vmonOut.get d = (s.mgmt.vmonOut.get d || (s.pwr.on d && !s.vmonIn d (mv.getD d.val 0)))
  other : ∀ d, d ∉ l → t.mgmt.volts.get d = s.mgmt.volts.get d ∧ t.mgmt.vmonBad.get d = s.mgmt.vmonBad.get d ∧
    t.mgmt.vmonOut.get d = s.mgmt.vmonOut.get d

theorem State.log_calValid (s : State) (code : Nat) (hall : Option Nat) (data : List Byte) :
    (s.log code hall data).nv.calValid = s.nv.calValid := by
  unfold State.log State.logAs
  dsimp only [State.logVolatile, State.logFlash]
  split
  · rfl
  · split <;> rfl

theorem Tab.get_put_ne {α : Type} {n : Nat} (t : Tab α n) {i j : Fin n} (x : α) (hij : i ≠ j) : (t.put i x).get j = t.get j := by
  have hv : i.val ≠ j.val := fun h => hij (Fin.ext h)
  simp [Tab.put, Tab.get, hv]

/-- One supply's voltage (R449). -/
theorem State.voltOne_sampled (s : State) (d : Fin 16) (mv : List Nat) : s.Sampled mv [d] (s.voltOne d (mv.getD d.val 0)) := by
  unfold State.voltOne
  extract_lets was bad u v
  have hu : s.Sampled mv [d] u := by
    refine ⟨rfl, rfl, rfl, fun k hk => ?_, fun k hk => ?_⟩
    · obtain rfl := List.mem_singleton.mp hk
      exact ⟨Tab.get_put_same .., Tab.get_put_same .., Tab.get_put_same ..⟩
    · have hne : d ≠ k := fun h => hk (List.mem_singleton.mpr h.symm)
      exact ⟨Tab.get_put_ne _ _ hne, Tab.get_put_ne _ _ hne, Tab.get_put_ne _ _ hne⟩
  clear_value u
  have hv : s.Sampled mv [d] v := by
    obtain ⟨irqf, e⟩ := u.raiseIf_shape bad 211
    rw [show v = _ from e]
    exact ⟨hu.voices, hu.pwr, hu.calValid, hu.taken, hu.other⟩
  clear_value v
  split
  · obtain ⟨n, m, e, -⟩ := v.log_shape 0x0804 none (byte d.val :: leBytes 2 (mv.getD d.val 0))
    obtain ⟨_, _, _, hm⟩ := v.log_mgmt 0x0804 none (byte d.val :: leBytes 2 (mv.getD d.val 0))
    refine ⟨by rw [e]; exact hv.voices, by rw [e]; exact hv.pwr, (v.log_calValid ..).trans hv.calValid, fun k hk => ?_, fun k hk => ?_⟩
    · rw [hm]
      exact hv.taken k hk
    · rw [hm]
      exact hv.other k hk
  · exact hv

theorem State.vmonIn_congr {s t : State} (h : t.nv.calValid = s.nv.calValid) (d : Fin 16) (mv : Nat) : t.vmonIn d mv = s.vmonIn d mv := by
  have hm : t.vmonMargin = s.vmonMargin := by
    unfold State.vmonMargin
    rw [h]
  unfold State.vmonIn
  rw [hm]

theorem State.volts_sampled (mv : List Nat) (l : List (Fin 16)) (hl : l.Nodup) (s : State) :
    s.Sampled mv l (l.foldl (fun s d => s.voltOne d (mv.getD d.val 0)) s) := by
  induction l generalizing s with
  | nil => exact ⟨rfl, rfl, rfl, fun _ h => by simp at h, fun _ _ => ⟨rfl, rfl, rfl⟩⟩
  | cons d l ih =>
    obtain ⟨hd, hl⟩ := List.nodup_cons.mp hl
    have h1 := s.voltOne_sampled d mv
    have h2 := ih hl (s.voltOne d (mv.getD d.val 0))
    rw [List.foldl_cons]
    refine ⟨h2.voices.trans h1.voices, h2.pwr.trans h1.pwr, h2.calValid.trans h1.calValid, fun k hk => ?_, fun k hk => ?_⟩
    · rcases Decidable.em (k = d) with rfl | hne
      · obtain ⟨hv, hb, ho⟩ := h2.other k hd
        rw [hv, hb, ho]
        exact h1.taken k (List.mem_singleton_self k)
      · obtain ⟨hv, hb, ho⟩ := h2.taken k ((List.mem_cons.mp hk).resolve_left hne)
        obtain ⟨-, -, ho1⟩ := h1.other k (by simpa using hne)
        rw [hv, hb, ho, h1.pwr, State.vmonIn_congr h1.calValid, ho1]
        exact ⟨rfl, rfl, rfl⟩
    · obtain ⟨hne, hkl⟩ := not_or.mp (mt List.mem_cons.mpr hk)
      obtain ⟨hv, hb, ho⟩ := h2.other k hkl
      rw [hv, hb, ho]
      exact h1.other k (by simpa using hne)

theorem exec_voltageSample_takes {s : State} {mv : List Nat} (hwf : (Instr.voltageSample mv).wf = true) : ∃ t : State,
    exec (.voltageSample mv) s = .next t ∧ t.voices = s.voices ∧
      ∀ d : Fin 16, t.mgmt.volts.get d = mv.getD d.val 0 ∧
        t.mgmt.vmonBad.get d = (s.pwr.on d && !s.vmonIn d (mv.getD d.val 0)) ∧
        t.mgmt.vmonOut.get d = (s.mgmt.vmonOut.get d || (s.pwr.on d && !s.vmonIn d (mv.getD d.val 0))) := by
  have hno : ¬ (Instr.voltageSample mv).wf = false := by simp [hwf]
  have hs := State.volts_sampled mv (List.finRange 16) (List.nodup_finRange 16) s
  refine ⟨_, if_neg hno, ?_⟩
  split
  · rw [State.guar_voices, State.guar_mgmt]
    exact ⟨hs.voices, fun d => hs.taken d (List.mem_finRange d)⟩
  · exact ⟨hs.voices, fun d => hs.taken d (List.mem_finRange d)⟩

/-! ### Pace, health -/

theorem exec_paceReading_takes {s : State} {k : Fin 10} {reading : Nat} (hwf : (Instr.paceReading k reading).wf = true) : ∃ t : State,
    exec (.paceReading k reading) s = .next t ∧ t.mgmt.pace = s.mgmt.pace.put k reading ∧ t.irqf = s.irqf.raise 212 ∧
      (∀ g : Fin 8, g.val ≠ k.val ∨ s.time.running = false → t.gal.get g = s.gal.get g) ∧
      (∀ g : Fin 8, g.val = k.val → s.time.running = true → (t.gal.get g).paces = (s.time.et, reading) ::
        (s.gal.get g).paces.filter fun y => decide (s.start s.sched.nextMb ≤ y.1 + 64 * s.fl * 512)) := by
  have hno : ¬ (Instr.paceReading k reading).wf = false := by simp [hwf]
  refine ⟨_, if_neg hno, ?_⟩
  by_cases hk : k.val < 8
  · rw [if_pos hk]
    have hval : (Fin.ofNat 8 k.val).val = k.val := by simp; omega
    unfold State.notePace
    by_cases hrun : s.time.running = false
    · rw [if_pos (show (State.updMgmt s _).time.running = false from hrun)]
      exact ⟨rfl, rfl, fun _ _ => rfl, fun _ _ h => by simp [hrun] at h⟩
    · rw [if_neg (show ¬ (State.updMgmt s _).time.running = false from hrun)]
      refine ⟨rfl, rfl, fun g hg => ?_, fun g hg _ => ?_⟩
      · have hne : Fin.ofNat 8 k.val ≠ g := fun h => (hg.resolve_right hrun) (by rw [← h, hval])
        exact Tab.get_upd_ne _ _ hne
      · have heq : Fin.ofNat 8 k.val = g := Fin.ext (hval.trans hg.symm)
        rw [heq]
        exact congrArg Gallery.paces (Tab.get_upd_same ..)
  · rw [if_neg hk]
    exact ⟨rfl, rfl, fun _ _ => rfl, fun g hg _ => by omega⟩

/-- A health report that counts: the firmware is well (R453). -/
theorem State.healthy_reports {s : State} (hon : s.pwr.on pdCtrl = true) (hstop : s.mgmt.stopped = false) (hrec : s.mgmt.recovery = false) :
    (s.raise 255).healthy = { s with irqf := s.irqf.raise 255, mgmt := { s.mgmt with fwOk := true, pulse := true },
                                     dac := { s.dac with fwStop := false } } := by
  have hno : ¬ ((s.raise 255).mgmt.stopped = true ∨ (s.raise 255).mgmt.recovery = true ∨ (s.raise 255).pwr.on pdCtrl = false) := by
    rw [State.raise_mgmt, State.raise_pwr]
    simp [hon, hstop, hrec]
  exact if_neg hno

theorem Port.get_shut {t : Tab Port 2} (p : Fin 2) : (Tab.get (t.map Port.shut) p).st = .down ∧ (Tab.get (t.map Port.shut) p).rdy = false := by
  rw [Tab.get_map]
  exact ⟨rfl, rfl⟩

/-- A receiver that is released drives its line no more. -/
theorem Ser.deAt_release (p : Ser) (now : Nat) : (p.release now).deAt now = false := by
  have hrole : (p.release now).role = p.role := rfl
  have hto : (p.release now).txTo ≤ now := Nat.min_le_right ..
  unfold Ser.deAt
  rw [hrole]
  split
  · rfl
  · simp only [decide_eq_false_iff_not]
    omega
  · simp only [decide_eq_false_iff_not]
    omega
  · rfl

theorem exec_firmwareStop_silences {s : State} (hon : s.pwr.on pdCtrl = true) (hstop : s.mgmt.stopped = false) (hok : s.mgmt.fwOk = true) :
    ∃ t : State, exec .firmwareStop s = .next t ∧ t.mgmt.stopped = true ∧ t.mgmt.pulse = false ∧ t.dac.fwStop = true ∧
      t.dac.mute = true ∧ (∀ p : Fin 2, (t.foyer.port.get p).st = .down ∧ (t.foyer.port.get p).rdy = false) ∧
      (∀ n : Fin 4, (t.ser.get n).deAt (s.line64 false) = false) ∧ t.halls = s.halls ∧ t.voices = s.voices := by
  refine ⟨_, next_when (by simp [State.fwStarted, hon, hstop, hok]), ?_⟩
  extract_lets a _ _ b c
  have hcause : c.dac.cause c.anaOn = true := by simp [c, b, a, Dac.cause]
  have hmute : c.muteNow = { c with dac := c.dac.assertMute c.time.rclk } := if_pos hcause
  have hassert : (c.dac.assertMute c.time.rclk).mute = true ∧ (c.dac.assertMute c.time.rclk).fwStop = true := by
    unfold Dac.assertMute
    split
    next h => exact ⟨h.1, rfl⟩
    next => exact ⟨rfl, rfl⟩
  obtain ⟨_, m, e, -⟩ := (c.muteNow.raise 214).log_shape 0x0805 none []
  obtain ⟨_, _, _, hm⟩ := (c.muteNow.raise 214).log_mgmt 0x0805 none []
  rw [hm, e, hmute]
  refine ⟨rfl, rfl, hassert.2, hassert.1, fun p => Port.get_shut p, fun n => ?_, rfl, rfl⟩
  have hser : c.ser.get n = (s.ser.get n).release (s.line64 false) := Tab.get_map ..
  change (c.ser.get n).deAt (s.line64 false) = false
  rw [hser]
  exact Ser.deAt_release ..

/-! ### The summary (R471) -/

theorem leBytes_length (n v : Nat) : (leBytes n v).length = n := by
  induction n generalizing v with
  | zero => rfl
  | succ n ih => simp [leBytes, ih]

/-- Pieces of two bytes each. -/
theorem flatMap_leBytes_length {α : Type} (l : List α) (f : α → Nat) : (l.flatMap fun a => leBytes 2 (f a)).length = 2 * l.length := by
  induction l with
  | nil => rfl
  | cons a l ih =>
    rw [List.flatMap_cons, List.length_append, leBytes_length, ih, List.length_cons]
    omega

theorem State.summary_length (s : State) : s.summary.length = 64 := by
  unfold State.summary
  simp only [List.length_append, leBytes_length, flatMap_leBytes_length, Vector.length_toList, List.length_finRange, List.length_cons,
    List.length_nil, List.length_replicate]

theorem exec_summaryWrite_writes {s : State} (hon : s.pwr.on pdFoyer = true) (hwf : s.foyer.sram.wf = true) :
    ∃ t : State, exec .summaryWrite s = .next t ∧ s.summary.length = 64 ∧
      t.foyer.sram.readList 0x12000 64 = s.summary ∧ t.mgmt.sumSeq = (s.mgmt.sumSeq + 1) % 2 ^ 32 ∧
      ∀ a, a < 0x12000 ∨ 0x12040 ≤ a → t.foyer.sram.read a = s.foyer.sram.read a := by
  refine ⟨_, next_when hon, s.summary_length, ?_, rfl, fun a ha => ?_⟩
  · have := Memory.readList_writeList s.foyer.sram 0x12000 s.summary hwf
    rwa [s.summary_length] at this
  · refine Memory.read_writeList_out s.foyer.sram 0x12000 a s.summary hwf ?_
    rw [s.summary_length]
    omega

/-- Settles O57, a lemma for each clause: the thermal steps are `State.thermEnter_entered`, the voltages `State.volts_sampled`. -/
theorem sensorsAndHealth : Obligations.SensorsAndHealth := by
  intro s
  refine ⟨fun temps hwf => tempSample_enters hwf, State.guarPersist_range, fun ht hs hm g => State.mbOf_shed ht hs hm g,
    exec_thermalStepExit s, fun mv hwf => exec_voltageSample_takes hwf, fun k reading hwf => exec_paceReading_takes hwf,
    fun x hx hon hstop hrec => ?_, fun h => ?_, exec_firmwareStop_silences, exec_summaryWrite_writes, rfl⟩
  · have hexec : exec x s = .next (s.raise 255).healthy := by
      rcases hx with rfl | rfl
      · exact next_when (by simp [State.fwStarted, hon, hstop])
      · rfl
    rw [hexec, State.healthy_reports hon hstop hrec]
    exact ⟨_, rfl, rfl, rfl, rfl, rfl, rfl⟩
  · have hno : (s.raise 255).mgmt.stopped = true ∨ (s.raise 255).mgmt.recovery = true ∨ (s.raise 255).pwr.on pdCtrl = false := by
      rcases h with h | h | h
      · exact .inr (.inr h)
      · exact .inl h
      · exact .inr (.inl h)
    exact next_eq (if_pos hno)

end Sys2Proof.Machine
end

section
/-! PROOF. Flash work, trials and wipes of the Alcove (spec/17_management_update_alcove.md R457–R470). -/

namespace Sys2Proof.Machine

/-- A log entry changes of what survives the log's own fields and the age of its sector alone. -/
theorem State.log_nv (s : State) (code : Nat) (hall : Option Nat) (data : List Byte) : ∃ logNext flashLog logPos sectors,
    (s.log code hall data).nv = { s.nv with logNext := logNext, flashLog := flashLog, logPos := logPos, sectors := sectors } := by
  unfold State.log State.logAs
  dsimp only [State.logVolatile, State.logFlash]
  split
  · exact ⟨_, _, _, _, rfl⟩
  · split <;> exact ⟨_, _, _, _, rfl⟩

/-! ### What flash does (R457, R459) -/

/-- An answer to a hall that waits for the flash. -/
theorem State.flashAnswer_shape (s : State) (sel : WaitFor → Bool) (data : List Byte) :
    ∃ foyer halls, s.flashAnswer sel data = { s with foyer := foyer, halls := halls } := by
  have hfold : ∀ (l : List (Fin 8)) (u : State), ∃ foyer halls, l.foldl (fun s h =>
      match (s.halls.get h).wait with
      | some w => if sel w.what then s.endWait h 0 data else s
      | none => s) u = { u with foyer := foyer, halls := halls } := by
    intro l
    induction l with
    | nil => exact fun u => ⟨_, _, rfl⟩
    | cons h l ih =>
      intro u
      rw [List.foldl_cons]
      obtain ⟨foyer, halls, e⟩ := ih (match (u.halls.get h).wait with
        | some w => if sel w.what then u.endWait h 0 data else u
        | none => u)
      refine ⟨foyer, halls, e.trans ?_⟩
      split
      · split
        · obtain ⟨_, _, hw⟩ := u.endWait_shape h 0 data
          rw [hw]
        · rfl
      · rfl
  exact hfold _ _

theorem exec_flashEraseDone_hall {s : State} {len : Nat} {n : Fin 2} (h : s.mgmt.flash = some (.erase len n none)) :
    exec .flashEraseDone s = .next (((s.updMgmt fun m => { m with flash := none }).flashWrote (sectorSlot n) (sectorSlot n + 96)).flashAnswer
      (· == .erase) [byte n.val]) := by
  change execFlashEraseDone s = _
  rw [execFlashEraseDone, h]

theorem exec_flashEraseDone_console {s : State} {len : Nat} {n : Fin 2} {k : Fin 4} (h : s.mgmt.flash = some (.erase len n (some k))) :
    exec .flashEraseDone s = .next (((s.updMgmt fun m => { m with flash := none }).flashWrote (sectorSlot n) (sectorSlot n + 96)).say k
      (ascii "SLOT " ++ [byte (0x41 + n.val)] ++ crlf ++ ascii "OK" ++ crlf)) := by
  change execFlashEraseDone s = _
  rw [execFlashEraseDone, h]

/-- A write of the flash ages the sectors it covers and no other. -/
theorem State.flashWrote_shape (s : State) (a b : Nat) : ∃ sectors, s.flashWrote a b = { s with nv := { s.nv with sectors := sectors } } ∧
    ∀ j, sectors.get j = if a ≤ j.val ∧ j.val < b then { s.nv.sectors.get j with written := s.poweredS } else s.nv.sectors.get j :=
  ⟨_, rfl, fun j => by simp [Tab.get]⟩

/-- A line answered on the console leaves flash and halls. -/
theorem State.say_leaves (s : State) (k : Fin 4) (bs : List Byte) : (s.say k bs).nv = s.nv ∧ (s.say k bs).halls = s.halls ∧
    (s.say k bs).mgmt = { s.mgmt with answer := bs } := ⟨rfl, rfl, rfl⟩

theorem flashEraseDone_console {s : State} {len : Nat} {n : Fin 2} {k : Fin 4} (h : s.mgmt.flash = some (.erase len n (some k))) :
    ∃ t : State, exec .flashEraseDone s = .next t ∧ t.mgmt.flash = none ∧
      t.mgmt.answer = ascii "SLOT " ++ [byte (0x41 + n.val)] ++ crlf ++ ascii "OK" ++ crlf ∧ t.nv = { s.nv with sectors := t.nv.sectors } ∧
      t.halls = s.halls ∧ ∀ j : Fin 224, t.nv.sectors.get j = (if sectorSlot n ≤ j.val ∧ j.val < sectorSlot n + 96
        then { s.nv.sectors.get j with written := s.poweredS } else s.nv.sectors.get j) := by
  refine ⟨_, exec_flashEraseDone_console h, ?_⟩
  generalize ascii "SLOT " ++ [byte (0x41 + n.val)] ++ crlf ++ ascii "OK" ++ crlf = bs
  obtain ⟨sectors, e, hget⟩ := (s.updMgmt fun m => { m with flash := none }).flashWrote_shape (sectorSlot n) (sectorSlot n + 96)
  generalize (s.updMgmt fun m => { m with flash := none }).flashWrote (sectorSlot n) (sectorSlot n + 96) = u at e ⊢
  obtain ⟨hnv, hhalls, hmgmt⟩ := u.say_leaves k bs
  rw [hnv, hhalls, hmgmt, e]
  exact ⟨rfl, rfl, rfl, rfl, hget⟩

/-- A program step that ends: the slot holds its bytes too. -/
theorem exec_flashProgramDone_writes {s : State} {data old : List Byte} {con : Option (Fin 4)} {u : Upd}
    (hflash : s.mgmt.flash = some (.program data con)) (hupd : s.mgmt.upd = some u) (hslot : s.nv.slots.get u.slot = .written old) :
    ∃ t : State, exec .flashProgramDone s = .next t ∧ t.nv.slots.get u.slot = .written (old ++ data) ∧ t.mgmt.flash = none ∧
      t.mgmt.upd = some { u with done := u.done + data.length } := by
  change ∃ t : State, execFlashProgramDone s = .next t ∧ _
  rw [execFlashProgramDone, hflash, hupd]
  dsimp only
  refine ⟨_, rfl, ?_⟩
  have hget (f : FwSlot → FwSlot) (hf : f (.written old) = .written (old ++ data)) :
      (s.nv.slots.upd u.slot f).get u.slot = .written (old ++ data) := by rw [Tab.get_upd_same, hslot, hf]
  cases con with
  | some k => exact ⟨hget _ rfl, rfl, rfl⟩
  | none =>
    dsimp only
    rw [(State.flashAnswer_shape _ _ _).choose_spec.choose_spec]
    exact ⟨hget _ rfl, rfl, rfl⟩

/-- A sector that shows no age, or that finds no spare, is only read; another moves into the first spare. -/
theorem State.refreshed_cases (s : State) (k : Fin 224) (bs : List Nat) :
    (((s.nv.sectors.get k).old bs s.poweredS = false ∨ s.nv.spares = []) ∧
      s.refreshed k bs = s.updNv fun v => { v with sectors := v.sectors.put k { s.nv.sectors.get k with read := s.poweredS } }) ∨
    ∃ q qs, (s.nv.sectors.get k).old bs s.poweredS = true ∧ s.nv.spares = q :: qs ∧
      s.refreshed k bs = s.updNv fun v => { v with
        sectors := v.sectors.put k { place := q, written := s.poweredS, read := s.poweredS }, spares := qs ++ [(s.nv.sectors.get k).place] } := by
  cases hold : (s.nv.sectors.get k).old bs s.poweredS with
  | false => exact .inl ⟨.inl rfl, by simp only [State.refreshed, hold]⟩
  | true =>
    cases hsp : s.nv.spares with
    | nil => exact .inl ⟨.inr rfl, by simp only [State.refreshed, hold, hsp]⟩
    | cons q qs => exact .inr ⟨q, qs, rfl, rfl, by simp only [State.refreshed, hold, hsp]⟩

/-! ### Trials (R460, R462) -/

theorem State.logUpd_leaves (s : State) (code : Nat) (n : Fin 2) : ∃ nv mgmt, s.logUpd code n = { s with nv := nv, mgmt := mgmt } ∧
    nv.committed = s.nv.committed ∧ nv.trial = s.nv.trial ∧ nv.fails = s.nv.fails ∧ nv.fuses = s.nv.fuses ∧ nv.slots = s.nv.slots ∧
    mgmt.onTrial = s.mgmt.onTrial := by
  obtain ⟨nv, mgmt, e, -⟩ := s.log_shape code none [byte n.val]
  obtain ⟨_, _, _, _, hnv⟩ := s.log_nv code none [byte n.val]
  obtain ⟨_, _, _, hm⟩ := s.log_mgmt code none [byte n.val]
  rw [e] at hnv hm
  refine ⟨nv, mgmt, e, ?_⟩
  rw [show nv = _ from hnv, show mgmt = _ from hm]
  exact ⟨rfl, rfl, rfl, rfl, rfl, rfl⟩

theorem exec_trialConfirm {s : State} (htrial : s.mgmt.onTrial = true) (hfw : s.mgmt.fwOk = true) (hrun : s.time.running = true)
    (het : 60 * feHz s.fe882 * 512 ≤ s.time.et) :
    ∃ t : State, exec .trialConfirm s = .next t ∧ t.nv.committed = s.mgmt.slot.val ∧ t.nv.trial = none ∧ t.nv.fails = 0 ∧
      t.nv.fuses = min 64 (max s.nv.fuses (s.nv.slots.get s.mgmt.slot).info.rollback) ∧ t.mgmt.onTrial = false ∧ t.voices = s.voices := by
  refine ⟨_, next_when (by simp [htrial, hfw, hrun, het]), ?_⟩
  extract_lets n r u
  obtain ⟨nv, mgmt, e, hc, ht, hf, hfu, -, hon⟩ := (u.updMgmt fun m => { m with onTrial := false }).logUpd_leaves 0x0903 n
  rw [e]
  exact ⟨hc, ht, hf, hfu, hon, rfl⟩

theorem exec_trialFail {s : State} (htrial : s.mgmt.onTrial = true)
    (hfail : s.mgmt.stopped = true ∨ (s.mgmt.fwOk = false ∧ s.edgesUs 10000000 ≤ s.time.rclk)) :
    ∃ t : State, exec .trialFail s = .next t ∧ t.nv.fails = s.nv.fails + 1 ∧
      t.nv.trial = (if s.nv.fails + 1 ≥ 2 then none else s.nv.trial) ∧ t.nv.slots = s.nv.slots ∧ t.voices = [] ∧
      t.pwr.cause = setFlag s.pwr.cause 5 := by
  refine ⟨_, next_when ?_, ?_⟩
  · rcases hfail with h | ⟨h, h'⟩
    · simp [htrial, h]
    · simp [htrial, h, h']
  · extract_lets n void u v
    obtain ⟨nv, mgmt, e, -, ht, hf, -, hs, -⟩ := u.logUpd_leaves 0x0904 n
    have hr : (u.logUpd 0x0904 n).RestartedBy .trial v := State.internalReset_restartedBy _ _
    have hv : v.nv.fails = s.nv.fails + 1 ∧ v.nv.trial = (if s.nv.fails + 1 ≥ 2 then none else s.nv.trial) ∧ v.nv.slots = s.nv.slots ∧
        v.voices = [] ∧ v.pwr.cause = setFlag s.pwr.cause 5 := by
      refine ⟨?_, ?_, ?_, hr.voices, ?_⟩
      · rw [hr.nv, e]
        exact hf
      · rw [hr.nv, e]
        refine ht.trans ?_
        change (if void = true then none else s.nv.trial) = _
        simp [void]
      · rw [hr.nv, e]
        exact hs
      · rw [(hr.warm nofun).1, e]
        rfl
    clear_value v
    split
    · obtain ⟨nv', mgmt', e', -, ht', hf', -, hs', -⟩ := v.logUpd_leaves 0x0905 (otherSlot n)
      rw [e']
      exact ⟨hf'.trans hv.1, ht'.trans hv.2.1, hs'.trans hv.2.2.1, hv.2.2.2⟩
    · exact hv

/-! ### Wipes of the Alcove (R469, R470) -/

/-- What a wipe of the Alcove leaves. -/
theorem State.alcoveWipe_wiped (s : State) (why : WipeWhy) : (s.alcoveWipe why).mgmt.alcove = [] ∧ (s.alcoveWipe why).mgmt.wiped = true ∧
    (s.alcoveWipe why).mgmt.keysIn = false ∧ (s.alcoveWipe why).mgmt.session = none ∧
    (∀ b, why.bit? = some b → (s.alcoveWipe why).mgmt.tamper = setFlag s.mgmt.tamper b) ∧ (s.alcoveWipe why).halls = s.halls ∧
    (s.alcoveWipe why).voices = s.voices ∧ (s.alcoveWipe why).mem = s.mem ∧ (s.alcoveWipe why).pins = s.pins := by
  obtain ⟨_, _, _, e, halc, hw, hk, hs, -, -, ht⟩ := s.alcoveWipe_shape why
  rw [e]
  exact ⟨halc, hw, hk, hs, ht, rfl, rfl, rfl, rfl⟩

/-- ALC_CTRL is the MP's. -/
theorem State.busWrite_alcCtrl (s : State) (v : Word) : s.busWrite .mp 0x4F000018 v = s.alcCtrl v := by
  have hblock : blockOf 0x4F000018 = some (.mgmt, 0x18) := by decide
  have hreach : s.reach .mp 0x4F000018 = .ok .mgmt 0x18 := by simp [State.reach, hblock, State.powered, Block.domain]
  exact State.busWrite_effect hreach rfl

/-- Settles O58, from `exec_trialConfirm`, `exec_trialFail`, `State.refreshed_cases` and `State.alcoveWipe_wiped`. -/
theorem flashTrialsAndTheAlcove : Obligations.FlashTrialsAndTheAlcove := by
  intro s
  refine ⟨fun len n h => exec_flashEraseDone_hall h, fun len n k => flashEraseDone_console,
    fun data con u old => exec_flashProgramDone_writes, fun k bs x hx => ⟨s.refreshed k bs, rfl, ?_⟩,
    exec_trialConfirm, exec_trialFail, fun h => next_stay ?_, fun x hx => ?_, fun h => next_stay h, fun v hv => ?_⟩
  · subst hx
    obtain ⟨h, e⟩ | ⟨q, qs, hold, hsp, e⟩ := s.refreshed_cases k bs
    · rw [e]
      refine ⟨rfl, fun j hj => Tab.get_put_ne _ _ hj.symm, fun _ => ⟨Tab.get_put_same _ _ _, rfl⟩, fun q qs hold hsp => ?_⟩
      simp [hold, hsp] at h
    · rw [e]
      refine ⟨rfl, fun j hj => Tab.get_put_ne _ _ hj.symm, fun h => ?_, fun q' qs' _ hsp' => ?_⟩
      · simp [hold, hsp] at h
      · obtain ⟨rfl, rfl⟩ := List.cons.inj (hsp.symm.trans hsp')
        exact ⟨Tab.get_put_same _ _ _, rfl⟩
  · rcases h with h | ⟨h, h' | h'⟩
    · simp [h]
    · simp [h, h']
    · simp [h, h']
  · rcases hx with ⟨rfl, hon⟩ | rfl | ⟨v, rfl, hv⟩
    · obtain ⟨halc, hw, hk, hs, ht, hhalls, hvoices, hmem, hpins⟩ :=
        ({ s with pins := { s.pins with tamper := true } } : State).alcoveWipe_wiped .pin
      exact ⟨_, next_when hon, halc, hw, hk, hs, fun _ => ⟨by rw [ht 0 rfl]; exact bit_setFlag_same _ (by omega), by rw [hpins]⟩, nofun,
        hhalls, hvoices, hmem⟩
    · obtain ⟨halc, hw, hk, hs, ht, hhalls, hvoices, hmem, -⟩ := s.alcoveWipe_wiped .glitch
      exact ⟨_, rfl, halc, hw, hk, hs, nofun, fun _ => by rw [ht 1 rfl]; exact bit_setFlag_same _ (by omega), hhalls, hvoices, hmem⟩
    · obtain ⟨halc, hw, hk, hs, -, hhalls, hvoices, hmem, -⟩ := (s.updMgmt fun m => { m with alcRet := bit v 0 }).alcoveWipe_wiped .asked
      exact ⟨_, next_eq ((s.busWrite_alcCtrl v).trans (if_pos hv)), halc, hw, hk, hs, nofun, nofun, hhalls, hvoices, hmem⟩
  · exact next_eq ((s.busWrite_alcCtrl v).trans (if_neg (by simp [hv])))

end Sys2Proof.Machine
end

section
/-! PROOF. The show bus (spec/14_serial_show_ports.md R410–R413). -/

namespace Sys2Proof.Machine

/-! ### Events that a port makes -/

/-- The note of a late event: the block of SCHED, the hall's records, the log and its interrupts. -/
theorem State.noteLate_shape (s : State) (h : Fin 8) (src org : Nat) : ∃ sched halls irqf nv mgmt,
    s.noteLate h src org = { s with sched := sched, halls := halls, irqf := irqf, nv := nv, mgmt := mgmt } := by
  unfold State.noteLate
  extract_lets f now _ a logged b
  obtain ⟨irqf, e⟩ := State.guar_shape ({ s with sched := { s.sched with lateCnt := satInc s.sched.lateCnt 1, lateLast := now } }) 2
  split
  · exact ⟨_, _, irqf, s.nv, s.mgmt, by rw [show b = a.updHall h _ from rfl, show a = _ from e]; rfl⟩
  · obtain ⟨nv, mgmt, hl, -⟩ := b.log_shape 0x0201 (some h.val) (leBytes 4 now.toNat)
    exact ⟨_, _, irqf, nv, mgmt, by rw [hl, show b = a.updHall h _ from rfl, show a = _ from e]; rfl⟩

theorem State.arrive_shape (s : State) (h : Fin 8) (src tag org a t : Nat) (kind : EvKind) : ∃ sched halls irqf nv mgmt,
    (s.arrive h src tag org a t kind).1 = { s with sched := sched, halls := halls, irqf := irqf, nv := nv, mgmt := mgmt } := by
  unfold State.arrive
  extract_lets late at' e _ u v
  split
  · obtain ⟨sched, halls, irqf, nv, mgmt, hv⟩ := v.noteLate_shape h src org
    exact ⟨sched, halls, irqf, nv, mgmt, hv⟩
  · exact ⟨_, _, _, _, _, rfl⟩

theorem State.deliver_shape (s : State) (h : Fin 8) (src tag org a t : Nat) (kind : EvKind) : ∃ sched halls irqf nv mgmt,
    (s.deliver h src tag org a t kind).1 = { s with sched := sched, halls := halls, irqf := irqf, nv := nv, mgmt := mgmt } := by
  unfold State.deliver
  split
  · exact ⟨_, _, _, _, _, rfl⟩
  split
  · exact ⟨_, _, _, _, _, rfl⟩
  split
  · exact ⟨_, _, _, _, _, rfl⟩
  · exact s.arrive_shape ..

theorem State.make_shape (s : State) (h : Fin 8) (src tag org a t op : Nat) (template : List Byte) : ∃ sched halls irqf nv mgmt,
    (s.make h src tag org a t op template).1 = { s with sched := sched, halls := halls, irqf := irqf, nv := nv, mgmt := mgmt } := by
  unfold State.make
  split
  · exact ⟨_, _, _, _, _, rfl⟩
  · exact s.deliver_shape ..

/-- The event of an EVENT frame leaves the ports. -/
theorem State.tsbEvent_shape (s : State) (n : Fin 4) (ts : Nat) (pl : List Byte) : ∃ sched halls irqf nv mgmt,
    (s.tsbEvent n ts pl).1 = { s with sched := sched, halls := halls, irqf := irqf, nv := nv, mgmt := mgmt } := by
  unfold State.tsbEvent
  split
  · exact ⟨_, _, _, _, _, rfl⟩
  · extract_lets u
    split
    · exact ⟨_, _, _, _, _, rfl⟩
    split
    · exact ⟨_, _, _, _, _, rfl⟩
    split
    · exact ⟨_, _, _, _, _, rfl⟩
    · exact u.make_shape ..

/-- An EVENT that passes its checks is made at LEAD and its offset after its reception. -/
theorem State.tsbEvent_makes {s : State} {n : Fin 4} {h : Fin 8} {ts : Nat} {pl : List Byte} (hhall : s.serHall n = some h)
    (hfence : (s.traffic h).hallFenced h = false) (hlen : 12 ≤ pl.length) (hflags : f8 pl 4 < 2) (hzero : zero pl 5 3 = true)
    (hoff : f32 pl 8 < 2 ^ 31) :
    s.tsbEvent n ts pl = (s.traffic h).make h 2 (f16 pl 0) n.val ts (ts + s.lead + f32 pl 8) (f16 pl 2) (pl.drop 12) := by
  have hbad : ¬ (f8 pl 4 ≥ 2 ∨ zero pl 5 3 = false ∨ f32 pl 8 ≥ 2 ^ 31) := by
    simp only [hzero, not_or, Bool.true_eq_false, not_false_eq_true, true_and]
    omega
  rw [State.tsbEvent, hhall]
  dsimp only
  rw [if_neg (by simp [hfence]), if_neg (by omega), if_neg hbad]
  rfl

/-! ### The ports' errors -/

theorem Tab.upd_upd {α : Type} {n : Nat} (t : Tab α n) (i : Fin n) (f g : α → α) : (t.upd i f).upd i g = t.upd i fun x => g (f x) := by
  simp [Tab.upd, Tab.put, Tab.get]

theorem State.serErr_shape (s : State) (n : Fin 4) (mask : Nat) : ∃ irqf,
    s.serErr n mask = { s.updSer n fun p => { p with err := p.err ||| word mask } with irqf := irqf } :=
  State.raiseIf_shape { s with ser := s.ser.put n ((s.ser.get n).setErr mask).1 } _ _

/-- A dropped message is counted and flagged. -/
theorem State.serDrop_shape (s : State) (n : Fin 4) : ∃ irqf, s.serDrop n =
    { s.updSer n fun p => { p with dropCnt := satInc p.dropCnt 1, err := p.err ||| word 64 } with irqf := irqf } := by
  obtain ⟨irqf, e⟩ := (s.updSer n fun p => { p with dropCnt := satInc p.dropCnt 1 }).serErr_shape n 64
  refine ⟨irqf, e.trans ?_⟩
  simp only [State.updSer, Tab.upd_upd]

/-! ### Frames that go out (R413) -/

/-- What `tsbGo` may change of a port. -/
theorem Ser.tsbGo_leaves (p : Ser) (now : Nat) : ∃ tx going coll back sent txFrom txTo, p.tsbGo now = { p with
    tsb := { p.tsb with tx := tx, going := going, coll := coll, back := back }, sent := sent, txFrom := txFrom, txTo := txTo } := by
  unfold Ser.tsbGo
  extract_lets _ t
  have ht : ∃ tx going coll back, t = { p.tsb with tx := tx, going := going, coll := coll, back := back } := by
    simp only [t]
    split <;> exact ⟨_, _, _, _, rfl⟩
  obtain ⟨tx, going, coll, back, e⟩ := ht
  clear_value t
  subst e
  split
  · split <;> exact ⟨_, _, _, _, _, _, _, rfl⟩
  · exact ⟨_, _, _, _, _, _, _, rfl⟩

/-- The first frame goes out where the line has been idle for long enough. -/
theorem Ser.tsbGo_starts {p : Ser} {now : Nat} {f : List Byte} {fs : List (List Byte)} (hgoing : p.tsb.going = false) (htx : p.tsb.tx = f :: fs)
    (hidle : 2 * p.charBits * p.div * (1 + p.tsb.back.getD 0) ≤ p.quiet now) :
    p.tsbGo now = { p with tsb := { p.tsb with going := true, back := none }, sent := f, txFrom := now,
                           txTo := now + (f.length * p.charBits + 1) * p.div } := by
  rw [Ser.tsbGo, if_neg (by simp [hgoing])]
  dsimp only
  rw [htx]
  dsimp only
  rw [if_pos ⟨hgoing, hidle⟩]

/-- Before that it waits. -/
theorem Ser.tsbGo_waits {p : Ser} {now : Nat} (hgoing : p.tsb.going = false)
    (hidle : p.quiet now < 2 * p.charBits * p.div * (1 + p.tsb.back.getD 0)) : p.tsbGo now = p := by
  rw [Ser.tsbGo, if_neg (by simp [hgoing])]
  split
  · rw [if_neg (by omega)]
  · rfl

/-- Sending a frame is the business of its port, and leaves what the port has received. -/
theorem State.tsbSend_leaves (s : State) (n : Fin 4) (f : List Byte) : ∃ ser, s.tsbSend n f = { s with ser := ser } ∧
    ∃ tx going coll back sent txFrom txTo, ser.get n = { s.ser.get n with
      tsb := { (s.ser.get n).tsb with tx := tx, going := going, coll := coll, back := back },
      sent := sent, txFrom := txFrom, txTo := txTo } := by
  unfold State.tsbSend
  split
  · obtain ⟨tx, going, coll, back, sent, txFrom, txTo, e⟩ := Ser.tsbGo_leaves
      ({ s.ser.get n with tsb := { (s.ser.get n).tsb with tx := (s.ser.get n).tsb.tx ++ [f] } }) (s.line64 false)
    exact ⟨_, rfl, tx, going, coll, back, sent, txFrom, txTo, (Tab.get_upd_same _ _ _).trans e⟩
  · exact ⟨_, rfl, _, _, _, _, _, _, _, rfl⟩

section Sending
variable {s : State} {n : Fin 4} {f : List Byte}

theorem State.tsbSend_talks (htalk : (s.ser.get n).mayTalk = true) (hbank : s.bankOn .ser = true) : s.tsbSend n f = s.updSer n fun p =>
    ({ p with tsb := { p.tsb with tx := p.tsb.tx ++ [f] } } : Ser).tsbGo (s.line64 false) :=
  if_pos ⟨htalk, hbank⟩

/-- A frame handed to an idle port goes out at once where the line has been idle, and waits otherwise. -/
theorem State.tsbSend_idle (htalk : (s.ser.get n).mayTalk = true) (hbank : s.bankOn .ser = true) (htx : (s.ser.get n).tsb.tx = [])
    (hgoing : (s.ser.get n).tsb.going = false) (hback : (s.ser.get n).tsb.back = none) :
    (2 * (s.ser.get n).charBits * (s.ser.get n).div ≤ (s.ser.get n).quiet (s.line64 false) →
      ((s.tsbSend n f).ser.get n).sent = f ∧ ((s.tsbSend n f).ser.get n).tsb.going = true ∧ ((s.tsbSend n f).ser.get n).tsb.tx = [f] ∧
      ((s.tsbSend n f).ser.get n).txFrom = s.line64 false ∧ s.tsbSend n f = { s with ser := (s.tsbSend n f).ser }) ∧
    ((s.ser.get n).quiet (s.line64 false) < 2 * (s.ser.get n).charBits * (s.ser.get n).div →
      ((s.tsbSend n f).ser.get n).sent = (s.ser.get n).sent ∧ ((s.tsbSend n f).ser.get n).tsb.going = false ∧
      ((s.tsbSend n f).ser.get n).tsb.tx = [f] ∧ s.tsbSend n f = { s with ser := (s.tsbSend n f).ser }) := by
  rw [State.tsbSend_talks htalk hbank, State.updSer]
  generalize hq : ({ s.ser.get n with tsb := { (s.ser.get n).tsb with tx := (s.ser.get n).tsb.tx ++ [f] } } : Ser) = q
  have hqtx : q.tsb.tx = [f] := by rw [← hq, htx]; rfl
  have hqgoing : q.tsb.going = false := by rw [← hq, hgoing]
  have hqback : q.tsb.back = none := by rw [← hq, hback]
  have hquiet : q.quiet (s.line64 false) = (s.ser.get n).quiet (s.line64 false) := by rw [← hq]; rfl
  have hchars : 2 * q.charBits * q.div = 2 * (s.ser.get n).charBits * (s.ser.get n).div := by rw [← hq]; rfl
  have hsent : q.sent = (s.ser.get n).sent := by rw [← hq]
  have hget : (s.ser.upd n fun p => ({ p with tsb := { p.tsb with tx := p.tsb.tx ++ [f] } } : Ser).tsbGo (s.line64 false)).get n =
      q.tsbGo (s.line64 false) := by rw [Tab.get_upd_same, hq]
  rw [hget]
  constructor
  · intro hidle
    rw [Ser.tsbGo_starts hqgoing hqtx (by rw [hqback, hquiet, hchars]; simpa using hidle)]
    exact ⟨rfl, rfl, hqtx, rfl, rfl⟩
  · intro hidle
    rw [Ser.tsbGo_waits hqgoing (by rw [hqback, hquiet, hchars]; simpa using hidle)]
    exact ⟨hsent, hqgoing, hqtx, rfl⟩

end Sending

theorem exec_tsbBeacon {s : State} {n : Fin 4} (hcp1 : s.cp1Runs = true) (hon : s.serOn = true) (htalk : (s.ser.get n).mayTalk = true)
    (hdue : (s.ser.get n).tsb.nextBeacon ≤ s.time.rclk) : ∃ t : State, exec (.tsbBeacon n) s = .next t ∧
      (t.ser.get n).tsb.seq = ((s.ser.get n).tsb.seq + 1) % 2 ^ 32 ∧
      (t.ser.get n).tsb.nextBeacon = (s.ser.get n).tsb.nextBeacon + s.edgesUs 100000 ∧ t = { s with ser := t.ser } ∧
      t = (s.updSer n fun q => { q with tsb := { q.tsb with seq := ((s.ser.get n).tsb.seq + 1) % 2 ^ 32,
                                                            nextBeacon := (s.ser.get n).tsb.nextBeacon + s.edgesUs 100000 } }).tsbSend n
        (tsbFrame 1 (s.ser.get n).addr 255 1 ([2#8, 0#8] ++ leBytes 2 100 ++ leBytes 8 s.nv.uid ++ leBytes 4 (s.ser.get n).tsb.seq)) := by
  refine ⟨_, next_when (by simp [hcp1, hon, htalk, hdue]), ?_⟩
  extract_lets pl u
  have hu : u.ser.get n = { s.ser.get n with tsb := { (s.ser.get n).tsb with
      seq := ((s.ser.get n).tsb.seq + 1) % 2 ^ 32, nextBeacon := (s.ser.get n).tsb.nextBeacon + s.edgesUs 100000 } } := Tab.get_upd_same _ _ _
  have haddr : (u.ser.get n).addr = (s.ser.get n).addr := by rw [hu]
  rw [haddr]
  obtain ⟨ser, e, _, _, _, _, _, _, _, hser⟩ := u.tsbSend_leaves n (tsbFrame 1 (s.ser.get n).addr 255 1 pl)
  refine ⟨?_, ?_, ?_, rfl⟩
  · rw [e, hser, hu]
  · rw [e, hser, hu]
  · rw [e]
    rfl

/-! ### Collisions and their back-off (R413) -/

theorem Tsb.collide_few {t : Tsb} (h : t.coll + 1 < 16) : ∃ g r, r < 2 ^ min (t.coll + 1) 10 ∧
    t.collide = ({ t with gen := g, coll := t.coll + 1, going := false, back := some r }, false) := by
  refine ⟨_, _, ?_, if_neg (by omega)⟩
  have hpos : (0 : Int) < p2 (min (t.coll + 1) 10) := by
    rw [p2]
    exact_mod_cast Nat.two_pow_pos _
  have hlt := Int.emod_lt_of_pos (drawValue (drawState t.gen)) hpos
  have hnn := Int.emod_nonneg (drawValue (drawState t.gen)) (Int.ne_of_gt hpos)
  rw [p2] at hlt hnn ⊢
  exact (Int.toNat_lt hnn).2 hlt

theorem Tsb.collide_many {t : Tsb} (h : 16 ≤ t.coll + 1) :
    t.collide = ({ t with coll := 0, going := false, tx := t.tx.tail, back := none }, true) := if_pos h

/-- A collision within a frame. -/
theorem exec_tsbCollision {s : State} {n : Fin 4} (htalk : (s.ser.get n).mayTalk = true) (hgoing : (s.ser.get n).tsb.going = true)
    (hline : s.line64 false < (s.ser.get n).txTo) : ∃ t : State, exec (.tsbCollision n) s = .next t ∧
      (t.ser.get n).collCnt = satInc (s.ser.get n).collCnt 1 ∧ (t.ser.get n).tsb.going = false ∧
      (t.ser.get n).deAt (s.line64 false) = false ∧ t = { s with ser := t.ser, irqf := t.irqf } ∧
      ((s.ser.get n).tsb.coll + 1 < 16 → (t.ser.get n).tsb.coll = (s.ser.get n).tsb.coll + 1 ∧ (t.ser.get n).tsb.tx = (s.ser.get n).tsb.tx ∧
        ∃ r, (t.ser.get n).tsb.back = some r ∧ r < 2 ^ min ((s.ser.get n).tsb.coll + 1) 10) ∧
      (16 ≤ (s.ser.get n).tsb.coll + 1 → (t.ser.get n).tsb.tx = (s.ser.get n).tsb.tx.tail ∧
        (t.ser.get n).tsbDrop = satInc (s.ser.get n).tsbDrop 1 ∧ bit (t.ser.get n).err 8 = true) := by
  refine ⟨_, next_when (by simp [htalk, hgoing, hline]), ?_⟩
  have hde (p : Ser) (tsb : Tsb) (coll drop err : Word) : ({ p.release (s.line64 false) with
      tsb := tsb, collCnt := coll, tsbDrop := drop, err := err } : Ser).deAt (s.line64 false) = false := Ser.deAt_release p _
  by_cases hk : (s.ser.get n).tsb.coll + 1 < 16
  · obtain ⟨g, r, hr, e⟩ := Tsb.collide_few hk
    rw [e]
    dsimp only
    rw [if_neg (by simp)]
    have hget (f : Ser → Ser) : ((s.updSer n f).ser.get n) = f (s.ser.get n) := Tab.get_upd_same _ _ _
    rw [hget]
    exact ⟨rfl, rfl, hde .., rfl, fun _ => ⟨rfl, rfl, r, rfl, hr⟩, fun h => absurd h (by omega)⟩
  · rw [Tsb.collide_many (by omega)]
    dsimp only
    rw [if_pos rfl, (State.serErr_shape _ n 256).choose_spec]
    simp only [State.updSer, Tab.get_upd_same]
    refine ⟨trivial, trivial, hde .., trivial, fun h => absurd h hk, fun _ => ⟨trivial, by rw [if_pos trivial], ?_⟩⟩
    simp [bit, word]

/-- The end of a back-off. -/
theorem exec_tsbBackoffEnd {s : State} {n : Fin 4} {r : Nat} {f : List Byte} {fs : List (List Byte)} (hcp1 : s.cp1Runs = true)
    (hon : s.serOn = true) (htalk : (s.ser.get n).mayTalk = true) (hgoing : (s.ser.get n).tsb.going = false)
    (hback : (s.ser.get n).tsb.back = some r) (htx : (s.ser.get n).tsb.tx = f :: fs) :
    (2 * (s.ser.get n).charBits * (s.ser.get n).div * (1 + r) ≤ (s.ser.get n).quiet (s.line64 false) →
      ∃ t : State, exec (.tsbBackoffEnd n) s = .next t ∧ (t.ser.get n).sent = f ∧ (t.ser.get n).tsb.back = none ∧
        (t.ser.get n).tsb.tx = f :: fs ∧ (t.ser.get n).tsb.going = true ∧ t = { s with ser := t.ser }) ∧
    ((s.ser.get n).quiet (s.line64 false) < 2 * (s.ser.get n).charBits * (s.ser.get n).div * (1 + r) →
      exec (.tsbBackoffEnd n) s = .next s) := by
  have hexec : exec (.tsbBackoffEnd n) s = .next (s.updSer n fun p => p.tsbGo (s.line64 false)) := next_when (by simp [hcp1, hon, htalk])
  constructor
  · intro hidle
    refine ⟨_, hexec, ?_⟩
    have hget : ((s.updSer n fun p => p.tsbGo (s.line64 false)).ser.get n) = (s.ser.get n).tsbGo (s.line64 false) := Tab.get_upd_same _ _ _
    rw [hget, Ser.tsbGo_starts hgoing htx (by simpa [hback] using hidle)]
    exact ⟨rfl, rfl, htx, rfl, rfl⟩
  · intro hbusy
    rw [hexec, State.updSer, Tab.upd_eq_self _ _ (Ser.tsbGo_waits hgoing (by simpa [hback] using hbusy))]

/-! ### Frames received (R410–R412) -/

/-- What a BEACON leaves among the peers: its sender, with room for it. -/
def heardOf (peers : List Peer) (me : Peer) : List Peer :=
  match peers.find? fun p => p.uid == me.uid with
  | some _ => peers.map fun p => if p.uid = me.uid then me else p
  | none => if peers.length < 32 then peers ++ [me] else peers

theorem mem_heardOf {peers : List Peer} {me : Peer} (hroom : (∃ y ∈ peers, y.uid = me.uid) ∨ peers.length < 32) : me ∈ heardOf peers me := by
  unfold heardOf
  split
  next p hfind =>
    have huid : p.uid = me.uid := by simpa using List.find?_some hfind
    exact List.mem_map.mpr ⟨p, List.mem_of_find?_eq_some hfind, if_pos huid⟩
  next hfind =>
    have hnone : ¬ ∃ y ∈ peers, y.uid = me.uid := by simpa using hfind
    rw [if_pos (hroom.resolve_left hnone)]
    exact List.mem_append_right _ (List.mem_singleton_self _)

/-- A BEACON changes of its port the peers and the errors. -/
theorem State.tsbHear_shape (s : State) (n : Fin 4) (src : Nat) (pl : List Byte) : ∃ ser irqf nv mgmt,
    s.tsbHear n src pl = { s with ser := ser, irqf := irqf, nv := nv, mgmt := mgmt } ∧
    ∃ me : Peer, me.uid = f64 pl 4 ∧ me.addr = src ∧ me.ver = f8 pl 0 ∧ me.seen = s.time.rclk ∧ ∃ err, ser.get n = { s.ser.get n with
      tsb := { (s.ser.get n).tsb with peers := heardOf (s.ser.get n).tsb.peers me }, err := err } := by
  unfold State.tsbHear
  extract_lets t uid clash old told me peers u v
  have hu : u.ser.get n = { s.ser.get n with tsb := { (s.ser.get n).tsb with peers := heardOf (s.ser.get n).tsb.peers me } } :=
    Tab.get_upd_same _ _ _
  obtain ⟨irqf, hv⟩ := u.serErr_shape n 512
  have hvser : v.ser.get n = { u.ser.get n with err := (u.ser.get n).err ||| word 512 } := by
    rw [show v = _ from hv]
    exact Tab.get_upd_same _ _ _
  split
  · exact ⟨u.ser, s.irqf, s.nv, s.mgmt, rfl, me, rfl, rfl, rfl, rfl, _, hu⟩
  · split
    · exact ⟨v.ser, irqf, s.nv, s.mgmt, by rw [show v = _ from hv]; rfl, me, rfl, rfl, rfl, rfl, _, by rw [hvser, hu]⟩
    · obtain ⟨nv, mgmt, hl, -⟩ := v.log_shape 0x0604 none ([byte n.val, byte src] ++ leBytes 8 uid)
      exact ⟨v.ser, irqf, nv, mgmt, by rw [hl, show v = _ from hv]; rfl, me, rfl, rfl, rfl, rfl, _, by rw [hvser, hu]⟩

/-- What an EVENT has left before its answer. -/
structure State.TsbTaken (s v : State) (n : Fin 4) (st : Nat) (w : State) : Prop where
  shape : ∃ ser irqf, w = { v with ser := ser, irqf := irqf }
  tsb : (w.ser.get n).tsb = (s.ser.get n).tsb
  addr : (w.ser.get n).addr = (s.ser.get n).addr
  mapped : st ≤ 1 → (w.ser.get n).msgCnt = satInc (s.ser.get n).msgCnt 1 ∧ (w.ser.get n).mapped = (s.ser.get n).mapped + 1
  dropped : 1 < st → (w.ser.get n).dropCnt = satInc (s.ser.get n).dropCnt 1 ∧ bit (w.ser.get n).err 6 = true

/-- An EVENT is mapped or dropped, and answered where it is addressed and asks for it. -/
theorem State.tsbTake_cases {s v : State} {n : Fin 4} {ts st : Nat} {pl : List Byte} (ver src dst : Nat) (he : s.tsbEvent n ts pl = (v, st)) :
    ∃ w, s.TsbTaken v n st w ∧ s.tsbTake n ts ver src dst pl = if dst = (s.ser.get n).addr ∧ f8 pl 4 % 2 = 1 then
      w.tsbSend n (tsbFrame ((s.ser.get n).tsb.verFor src ver) (s.ser.get n).addr src 3 (leBytes 2 (f16 pl 0) ++ [byte st])) else w := by
  have hvser : v.ser = s.ser := by
    obtain ⟨_, _, _, _, _, e⟩ := s.tsbEvent_shape n ts pl
    rw [he] at e
    rw [show v = _ from e]
  suffices h : ∃ w, s.TsbTaken v n st w ∧
      (if st > 1 then v.serDrop n else v.updSer n fun p => { p with mapped := p.mapped + 1, msgCnt := satInc p.msgCnt 1 }) = w by
    obtain ⟨w, hw, e⟩ := h
    refine ⟨w, hw, ?_⟩
    rw [State.tsbTake, he]
    dsimp only
    rw [e, hw.addr, hw.tsb]
  by_cases hst : 1 < st
  · rw [if_pos hst]
    obtain ⟨irqf, e⟩ := v.serDrop_shape n
    rw [e]
    refine ⟨_, ⟨⟨_, _, rfl⟩, ?_, ?_, fun h => absurd hst (by omega), fun _ => ?_⟩, rfl⟩
    · simp [State.updSer, hvser]
    · simp [State.updSer, hvser]
    · simp [State.updSer, hvser, bit, word]
  · rw [if_neg hst]
    refine ⟨_, ⟨⟨_, v.irqf, rfl⟩, ?_, ?_, fun _ => ?_, fun h => absurd h hst⟩, rfl⟩
    · simp [hvser]
    · simp [hvser]
    · simp [hvser]

/-- The EVENT of a frame to this port, answer and all. -/
theorem State.tsbTake_taken {s v : State} {n : Fin 4} {ts ver src dst st : Nat} {pl : List Byte} (he : s.tsbEvent n ts pl = (v, st)) :
    ∃ t : State, t = s.tsbTake n ts ver src dst pl ∧ (t.ser.get n).tsb.ready = (s.ser.get n).tsb.ready ∧
      t.time = s.time ∧ t.voices = s.voices ∧
      (st ≤ 1 → (t.ser.get n).msgCnt = satInc (s.ser.get n).msgCnt 1 ∧ (t.ser.get n).mapped = (s.ser.get n).mapped + 1) ∧
      (1 < st → (t.ser.get n).dropCnt = satInc (s.ser.get n).dropCnt 1 ∧ bit (t.ser.get n).err 6 = true) ∧
      t.halls = v.halls ∧ t.sched = v.sched ∧
      (dst = (s.ser.get n).addr → f8 pl 4 % 2 = 1 → ∃ w : State, t = w.tsbSend n
        (tsbFrame ((s.ser.get n).tsb.verFor src ver) (s.ser.get n).addr src 3 (leBytes 2 (f16 pl 0) ++ [byte st])) ∧
        (w.ser.get n).tsb.tx = (s.ser.get n).tsb.tx) ∧
      (dst ≠ (s.ser.get n).addr ∨ f8 pl 4 % 2 = 0 → (t.ser.get n).tsb.tx = (s.ser.get n).tsb.tx) := by
  obtain ⟨w, hw, e⟩ := s.tsbTake_cases ver src dst he
  have hv : v.time = s.time ∧ v.voices = s.voices := by
    obtain ⟨_, _, _, _, _, e⟩ := s.tsbEvent_shape n ts pl
    rw [he] at e
    rw [show v = _ from e]
    exact ⟨rfl, rfl⟩
  obtain ⟨ser, irqf, hshape⟩ := hw.shape
  refine ⟨_, rfl, ?_⟩
  rw [e]
  split
  next hasked =>
    obtain ⟨ser', e', _, _, _, _, _, _, _, hser⟩ := w.tsbSend_leaves n
      (tsbFrame ((s.ser.get n).tsb.verFor src ver) (s.ser.get n).addr src 3 (leBytes 2 (f16 pl 0) ++ [byte st]))
    refine ⟨?_, ?_, ?_, fun h => ?_, fun h => ?_, ?_, ?_, fun _ _ => ⟨w, rfl, by rw [hw.tsb]⟩, fun h => ?_⟩
    · rw [e', hser, ← hw.tsb]
    · rw [e', hshape]
      exact hv.1
    · rw [e', hshape]
      exact hv.2
    · rw [e', hser]
      exact hw.mapped h
    · rw [e', hser]
      exact hw.dropped h
    · rw [e', hshape]
    · rw [e', hshape]
    · exact absurd hasked (by omega)
  next hquiet =>
    refine ⟨by rw [hw.tsb], ?_, ?_, hw.mapped, hw.dropped, ?_, ?_, fun h1 h2 => absurd ⟨h1, h2⟩ hquiet, fun _ => by rw [hw.tsb]⟩
    · rw [hshape]
      exact hv.1
    · rw [hshape]
      exact hv.2
    · rw [hshape]
    · rw [hshape]

/-- TSB_FRAME with a frame that waits. -/
theorem exec_tsbFrame {s u : State} {n : Fin 4} {x : Nat × List Byte} {xs : List (Nat × List Byte)} {ver src dst : Nat} {pl : List Byte}
    (hcp1 : s.cp1Runs = true) (hrole : (s.ser.get n).role = 3) (hready : (s.ser.get n).tsb.ready = x :: xs)
    (hu : u = s.updSer n fun q => { q with tsb := { q.tsb with ready := xs } }) (hver : ver = f8 x.2 0) (hsrc : src = f8 x.2 1)
    (hdst : dst = f8 x.2 2) (hpl : pl = (x.2.drop (if ver = 1 then 5 else 6)).dropLast.dropLast) :
    exec (.tsbFrame n) s = .next (
      if dst ≠ (s.ser.get n).addr ∧ dst ≠ 255 then u
      else if f8 x.2 3 = 1 ∧ pl.length = 16 then u.tsbHear n src pl
      else if f8 x.2 3 = 2 then u.tsbTake n x.1 ver src dst pl
      else u) := by
  have haddr : (u.ser.get n).addr = (s.ser.get n).addr := by
    rw [hu, State.updSer, Tab.get_upd_same]
  have hexec : exec (.tsbFrame n) s = .next (
      if f8 x.2 2 ≠ (u.ser.get n).addr ∧ f8 x.2 2 ≠ 255 then u
      else match f8 x.2 3 with
        | 1 => if pl.length = 16 then u.tsbHear n (f8 x.2 1) pl else u
        | 2 => u.tsbTake n x.1 ver (f8 x.2 1) (f8 x.2 2) pl
        | _ => u) := by
    change execTsbFrame n s = _
    rw [execTsbFrame, hready]
    dsimp only
    rw [State.when, if_pos (by simp [hcp1, hrole]), hu, hpl, hver] <;> rfl
  rw [hexec, ← hdst, ← hsrc, haddr]
  congr 1
  split
  · rfl
  generalize f8 x.2 3 = type
  split
  next => simp
  next => simp
  next h1 h2 => rw [if_neg (fun h => h1 h.1), if_neg h2]

/-- What a frame leaves, whatever it is. -/
theorem State.tsbHear_leaves (s : State) (n : Fin 4) (src : Nat) (pl : List Byte) :
    ((s.tsbHear n src pl).ser.get n).tsb.ready = (s.ser.get n).tsb.ready ∧ (s.tsbHear n src pl).time = s.time ∧
      (s.tsbHear n src pl).voices = s.voices := by
  obtain ⟨ser, irqf, nv, mgmt, e, me, -, -, -, -, err, hser⟩ := s.tsbHear_shape n src pl
  rw [e, hser]
  exact ⟨rfl, rfl, rfl⟩

theorem State.tsbHear_peers (s : State) (n : Fin 4) (src : Nat) (pl : List Byte)
    (hroom : (∃ y ∈ (s.ser.get n).tsb.peers, y.uid = f64 pl 4) ∨ (s.ser.get n).tsb.peers.length < 32) :
    ∃ y ∈ ((s.tsbHear n src pl).ser.get n).tsb.peers, y.uid = f64 pl 4 ∧ y.addr = src ∧ y.ver = f8 pl 0 ∧ y.seen = s.time.rclk := by
  obtain ⟨ser, irqf, nv, mgmt, e, me, huid, haddr, hver, hseen, err, hser⟩ := s.tsbHear_shape n src pl
  rw [e, hser]
  exact ⟨me, mem_heardOf (by rwa [huid]), huid, haddr, hver, hseen⟩

/-- A frame that is taken, by its address and its type. -/
theorem tsbFrame_taken {s u : State} {n : Fin 4} {x : Nat × List Byte} {xs : List (Nat × List Byte)} {ver src dst : Nat} {pl : List Byte}
    (hcp1 : s.cp1Runs = true) (hrole : (s.ser.get n).role = 3) (hready : (s.ser.get n).tsb.ready = x :: xs)
    (hu : u = s.updSer n fun q => { q with tsb := { q.tsb with ready := xs } }) (hver : ver = f8 x.2 0) (hsrc : src = f8 x.2 1)
    (hdst : dst = f8 x.2 2) (hpl : pl = (x.2.drop (if ver = 1 then 5 else 6)).dropLast.dropLast) :
    ∃ t : State, exec (.tsbFrame n) s = .next t ∧ (t.ser.get n).tsb.ready = xs ∧ t.time = s.time ∧ t.voices = s.voices ∧
      (dst ≠ (s.ser.get n).addr → dst ≠ 255 → t = u) ∧
      (dst = (s.ser.get n).addr ∨ dst = 255 → f8 x.2 3 = 3 → t = u) ∧
      (dst = (s.ser.get n).addr ∨ dst = 255 → f8 x.2 3 = 1 → pl.length = 16 → t = u.tsbHear n src pl) ∧
      (dst = (s.ser.get n).addr ∨ dst = 255 → f8 x.2 3 = 2 → t = u.tsbTake n x.1 ver src dst pl) := by
  have huser : (u.ser.get n).tsb.ready = xs := by rw [hu, State.updSer, Tab.get_upd_same]
  have hutime : u.time = s.time := by rw [hu]; rfl
  have huvoices : u.voices = s.voices := by rw [hu]; rfl
  refine ⟨_, exec_tsbFrame hcp1 hrole hready hu hver hsrc hdst hpl, ?_⟩
  split
  next hother =>
    exact ⟨huser, hutime, huvoices, fun _ _ => rfl, fun _ _ => rfl, fun h => absurd h (by omega), fun h => absurd h (by omega)⟩
  next hmine =>
  split
  next hbeacon =>
    obtain ⟨hr, ht, hv⟩ := u.tsbHear_leaves n src pl
    exact ⟨hr.trans huser, ht.trans hutime, hv.trans huvoices, fun h1 h2 => absurd ⟨h1, h2⟩ hmine, fun _ h => by omega,
      fun _ _ _ => rfl, fun _ h => by omega⟩
  next hbeacon =>
  split
  next hevent =>
    obtain ⟨t, ht, hr, htime, hv, -⟩ := u.tsbTake_taken (ver := ver) (src := src) (dst := dst) (rfl : u.tsbEvent n x.1 pl = (_, _))
    rw [← ht]
    exact ⟨hr.trans huser, htime.trans hutime, hv.trans huvoices, fun h1 h2 => absurd ⟨h1, h2⟩ hmine, fun _ h => by omega,
      fun _ h => by omega, fun _ _ => rfl⟩
  next hevent =>
    exact ⟨huser, hutime, huvoices, fun _ _ => rfl, fun _ _ => rfl, fun _ h1 h2 => absurd ⟨h1, h2⟩ hbeacon, fun _ h => absurd h hevent⟩

/-- Settles O49, from `tsbFrame_taken`, `State.tsbHear_peers`, `State.tsbTake_taken` and the lemmas about frames that go out. -/
theorem showBusFrames : Obligations.ShowBusFrames := by
  rintro s n p rfl
  refine ⟨fun x xs u ver pl src dst hcp1 hrole hready hu hver hsrc hdst hpl => ?_, fun h ts pl => State.tsbEvent_makes,
    fun f htalk hbank htx hgoing hback => ?_, exec_tsbBeacon, ?_, exec_tsbCollision, fun r f fs => exec_tsbBackoffEnd⟩
  · obtain ⟨t, ht, hr, htime, hv, hother, hack, hbeacon, hevent⟩ := tsbFrame_taken hcp1 hrole hready hu hver hsrc hdst hpl
    have huser : u.ser.get n = { s.ser.get n with tsb := { (s.ser.get n).tsb with ready := xs } } := by
      rw [hu, State.updSer, Tab.get_upd_same]
    have hurclk : u.time.rclk = s.time.rclk := by rw [hu]; rfl
    refine ⟨t, ht, hr, htime, hv, hother, hack, fun hd h1 hlen hroom => ?_, fun v st hd h2 he => ?_⟩
    · rw [hbeacon hd h1 hlen, ← hurclk]
      exact u.tsbHear_peers n src pl (by rw [huser]; exact hroom)
    · obtain ⟨t', ht', -, -, -, hmapped, hdropped, hhalls, hsched, hans, hquiet⟩ := u.tsbTake_taken (ver := ver) (src := src) (dst := dst) he
      rw [hevent hd h2, ← ht']
      rw [huser] at hmapped hdropped hans hquiet
      exact ⟨hmapped, hdropped, hhalls, hsched, hans, fun h hne => hquiet (h.imp_left fun h255 heq => hne (heq.symm.trans h255))⟩
  · obtain ⟨hstarts, hwaits⟩ := State.tsbSend_idle (f := f) htalk hbank htx hgoing hback
    exact ⟨fun h => ⟨_, rfl, hstarts h⟩, fun h => ⟨_, rfl, hwaits h⟩⟩
  · refine ⟨_, rfl, rfl, fun x => ?_⟩
    simp [State.updSer, List.mem_filter]

end Sys2Proof.Machine
end

section
/-! PROOF. Steps, the state after reset and register accesses (spec/00_scope.md R8–R12, spec/01_architecture.md R34, R35, R42). -/

namespace Sys2Proof.Machine

/-! ### Steps -/

/-- Settles O1: the equation of `step` for a queue that is not empty. -/
theorem stepRunsTheFrontCommand : Obligations.StepRunsTheFrontCommand := by
  intro s c cs h
  rw [step, h]

/-- Without an edge that counts nothing advances. -/
theorem State.advance_stopped {s : State} (h : s.time.refclk = false ∨ s.time.counting = false) (k : Nat) : s.advance k = s := by
  have hedges : s.edges k = s := by
    have ht : s.time.edges k = (s.time, []) := if_pos (h.imp_right .inl)
    rw [State.edges, ht]
    dsimp only
    rw [if_neg (by rcases h with h | h <;> simp [h])]
    rfl
  rw [State.advance, if_neg (by rcases h with h | h <;> simp [h]), hedges]

/-- Settles O2: one edge passes, as `State.edges_shape` and `State.Received.forward` say. -/
theorem anEmptyQueuePassesOneEdge : Obligations.AnEmptyQueuePassesOneEdge := by
  intro s hq
  have hstep : step s = .next (s.pass 1) := by
    rw [step, hq]
    rfl
  refine ⟨_, hstep, (everyStepTakesOneCommand s _ hstep).trans (by rw [hq]; rfl), fun harm hr hc => ?_, fun h => ?_⟩
  · obtain ⟨irqf, tmr, going, hits, e⟩ := State.edges_shape hr hc 1
    have hpass : s.pass 1 = (s.edges 1).forward := by rw [State.pass, State.advance_eq_edges (.inl harm)]
    obtain ⟨_, _, _, _, _, _, hrec⟩ := (State.Received.forward (s.edges 1)).shape
    refine ⟨?_, ?_, fun hm => ?_⟩
    · rw [hpass, hrec, e]
    · rw [hpass, hrec, e]
    · rw [hpass, State.forward_of_mapped_nil (by rw [e]; exact hm), e]
  · rw [State.pass, State.advance_stopped h]
    exact ⟨rfl, State.forward_of_mapped_nil⟩

/-- Settles O3: the state after reset, evaluated. -/
theorem resetIsWellFormed : Obligations.ResetIsWellFormed := ⟨by decide, rfl, rfl, rfl, rfl, rfl, rfl, rfl⟩

/-! ### Accesses that reach no register (R34, R35, R42) -/

theorem State.sysErr_shape (s : State) (n : Nat) (a : Word) : ∃ irqf, s.sysErr n a = { s with
    sys := { s.sys with err := setFlag s.sys.err n, errAddr := if s.sys.err = 0#32 then a else s.sys.errAddr }, irqf := irqf } := by
  obtain ⟨irqf, e⟩ := State.raiseIf_shape { s with sys := { s.sys with
    err := setFlag s.sys.err n, errAddr := if (s.sys.err == 0#32) = true then a else s.sys.errAddr } } (s.sys.err == 0#32) 0
  exact ⟨irqf, e.trans (by simp)⟩

/-- What an error leaves once the access has been answered: its flag, its address and zero data. -/
theorem State.sysErr_zeroRead (s : State) (n : Nat) (a : Word) (write : Bool) : ∃ t : State, t = (s.sysErr n a).zeroRead write ∧
    t.sys.err = setFlag s.sys.err n ∧ t.sys.errAddr = (if s.sys.err = 0#32 then a else s.sys.errAddr) ∧ (write = false → t.bus.data = 0#32) ∧
    t = { s with sys := { s.sys with err := t.sys.err, errAddr := t.sys.errAddr }, irqf := t.irqf, bus := { s.bus with data := t.bus.data } } := by
  obtain ⟨irqf, e⟩ := s.sysErr_shape n a
  refine ⟨_, rfl, ?_⟩
  rw [e]
  cases write
  · exact ⟨rfl, rfl, fun _ => rfl, rfl⟩
  · exact ⟨rfl, rfl, nofun, rfl⟩

theorem word_toNat (a : Word) : word a.toNat = a := BitVec.ofNat_toNat ..

/-- An entry that nothing withholds takes the next number of the log. -/
theorem State.log_logNext {s : State} (hw : s.mgmt.withheld = 0) (ht : 0 < s.mgmt.tokens) (code : Nat) (hall : Option Nat)
    (data : List Byte) : (s.log code hall data).nv.logNext = (s.nv.logNext + 1) % 2 ^ 32 := by
  unfold State.log State.logAs
  dsimp only
  rw [if_neg (by simp [ht]), if_pos hw]
  rfl

theorem exec_deniedAccess {s : State} {i : Initiator} {a : Word} (write : Bool) (h : s.reach i a.toNat = .denied) :
    ∃ t : State, exec (.deniedAccess i a write) s = .next t ∧ t.sys.err = setFlag s.sys.err 2 ∧
      t.sys.errAddr = (if s.sys.err = 0#32 then a else s.sys.errAddr) ∧ (write = false → t.bus.data = 0#32) ∧
      (s.mgmt.withheld = 0 → s.mgmt.tokens > 0 → t.nv.logNext = (s.nv.logNext + 1) % 2 ^ 32) ∧
      t = { s with sys := { s.sys with err := t.sys.err, errAddr := t.sys.errAddr }, irqf := t.irqf, bus := { s.bus with data := t.bus.data },
                   nv := t.nv, mgmt := t.mgmt } := by
  refine ⟨_, next_when (by simp [h]), ?_⟩
  rw [State.deniedErr, word_toNat]
  obtain ⟨irqf, e⟩ := s.sysErr_shape 2 a
  have hlogNext := (s.sysErr 2 a).log_logNext (code := 0x0101) (hall := none) (data := leBytes 4 a.toNat)
  obtain ⟨nv, mgmt, hl, -⟩ := (s.sysErr 2 a).log_shape 0x0101 none (leBytes 4 a.toNat)
  rw [hl] at hlogNext ⊢
  rw [e] at hlogNext ⊢
  cases write
  · exact ⟨rfl, rfl, fun _ => rfl, hlogNext, rfl⟩
  · exact ⟨rfl, rfl, nofun, hlogNext, rfl⟩

theorem exec_offDomainAccess {s : State} {i : Initiator} {a : Word} {b : Block} (write : Bool) (h : s.reach i a.toNat = .off b) :
    ∃ t : State, exec (.offDomainAccess i a write) s = .next t ∧ t.pwr.err = setFlag s.pwr.err 0 ∧
      t.pwr.errAddr = (if s.pwr.err = 0#32 then a else s.pwr.errAddr) ∧ (write = false → t.bus.data = 0#32) ∧
      t = { s with pwr := { s.pwr with err := t.pwr.err, errAddr := t.pwr.errAddr }, bus := { s.bus with data := t.bus.data } } := by
  have hexec : exec (.offDomainAccess i a write) s = .next ((s.offErr a.toNat).zeroRead write) := by
    change execOffDomainAccess i a write s = _
    rw [execOffDomainAccess, h]
  refine ⟨_, hexec, ?_⟩
  rw [State.offErr, word_toNat]
  cases write
  · exact ⟨rfl, rfl, fun _ => rfl, rfl⟩
  · exact ⟨rfl, rfl, nofun, rfl⟩

/-- Settles O9, from `State.sysErr_zeroRead`, `exec_deniedAccess` and `exec_offDomainAccess`. -/
theorem accessesThatReachNothing : Obligations.AccessesThatReachNothing := by
  intro s i a write
  refine ⟨fun h => ?_, fun h => ?_, exec_deniedAccess write, fun b => exec_offDomainAccess write⟩
  · obtain ⟨t, ht, hfacts⟩ := s.sysErr_zeroRead 0 a write
    exact ⟨t, (next_when h).trans (by rw [State.sizeErr, word_toNat, ht]), hfacts⟩
  · obtain ⟨t, ht, hfacts⟩ := s.sysErr_zeroRead 1 a write
    exact ⟨t, (next_when (by simp [h])).trans (by rw [State.unmappedErr, word_toNat, ht]), hfacts⟩

/-! ### Plain registers -/

/-- A register of SYS is always reached. -/
theorem State.reach_sys (s : State) (i : Initiator) {off : Nat} (halign : off % 4 = 0) (hoff : off < 0x100) :
    s.reach i (0x40000000 + off) = .ok .sys off := by
  have hwin : windowRange (0x40000000 + off) = true := by
    simp only [windowRange, Bool.or_eq_true, decide_eq_true_eq]
    omega
  have hblock : blockOf (0x40000000 + off) = some (.sys, off) := by
    have hrom : ¬ 0x40000000 + off ≤ 0x0000FFFF := by omega
    have hwave : ¬ (0x10000000 ≤ 0x40000000 + off ∧ 0x40000000 + off ≤ 0x1FFFFFFF) := by omega
    have hsram : ¬ (0x20000000 ≤ 0x40000000 + off ∧ 0x40000000 + off ≤ 0x2003FFFF) := by omega
    have hsys : 0x40000000 ≤ 0x40000000 + off ∧ 0x40000000 + off ≤ 0x400000FF := by omega
    simp [blockOf, hrom, hwave, hsram, hsys]
  exact State.reach_ok i (by omega) hwin hblock rfl rfl

/-- The blocks whose words are memory. -/
def Block.isMemory : Block → Bool
  | .sram => true
  | .rom => true
  | .wave => true
  | .alcove => true
  | _ => false

theorem Block.isMemory_iff (b : Block) : b.isMemory = true ↔ b = .sram ∨ b = .rom ∨ b = .wave ∨ b = .alcove := by
  cases b <;> simp [Block.isMemory]

section Plain
variable {s : State} {i : Initiator} {a : Nat} {b : Block} {off : Nat} {v : Word}

/-- A write of a register with no behaviour of its own. -/
theorem State.busWrite_plain (hr : s.reach i a = .ok b off) (hmem : b.isMemory = false) (he : s.writeEffect i b off v = none)
    (hlo : isPairLo b off = false) (hhi : isPairHi b off = false) : s.busWrite i a v = s.regPut b off v := by
  simp only [State.busWrite, hr]
  cases b <;> simp_all [State.writeBlock, Block.isMemory]

theorem State.busWrite_sys (hoff : off % 4 = 0) (hlt : off < 0x100) (hlo : isPairLo .sys off = false) (hhi : isPairHi .sys off = false) :
    s.busWrite i (0x40000000 + off) v = s.sysWrite off v :=
  State.busWrite_plain (s.reach_sys i hoff hlt) rfl rfl hlo hhi

theorem State.busWrite_sram (hr : s.reach i a = .ok .sram off) : s.busWrite i a v = s.sramPut i (off / 4 * 4) v := by
  simp only [State.busWrite, hr, State.writeBlock]

end Plain

/-- Settles O10, from `State.sysErr_shape` and the write of SYS_ERR. -/
theorem sysErrAddrCapturesTheFirst : Obligations.SysErrAddrCapturesTheFirst := by
  intro s n a
  have hwrite (i : Initiator) (v : Word) : s.busWrite i 0x40000030 v = s.sysWrite 0x30 v :=
    State.busWrite_sys (off := 0x30) rfl (by omega) rfl rfl
  refine ⟨?_, fun h => ?_, fun h => ?_, fun i v _ => ?_⟩
  · obtain ⟨irqf, e⟩ := s.sysErr_shape n a
    rw [e]
  · simp [State.sysErr, State.raiseIf, State.raise, h]
  · simp [State.sysErr, State.raiseIf, h]
  · rw [hwrite]
    exact ⟨rfl, rfl⟩

/-- What another hall's word is, its offset is. -/
theorem State.inOtherHall_word {s : State} {off : Nat} (h : s.inOtherHall off = true) : s.inOtherHall (off / 4 * 4) = true := by
  have hcmd : cmdBase 1 = 0x2000 := rfl
  have hstage : stageBase 0 0 = 0x20000 := rfl
  rw [State.inOtherHall, hcmd, hstage] at h ⊢
  rw [Bool.or_eq_true, Bool.and_eq_true] at h ⊢
  refine h.imp (fun h => ?_) fun ⟨hle, hatt⟩ => ⟨?_, ?_⟩
  · have := of_decide_eq_true h
    exact decide_eq_true (by omega)
  · have := of_decide_eq_true hle
    exact decide_eq_true (by omega)
  · rwa [show (off / 4 * 4 - 0x20000) / 0x10000 = (off - 0x20000) / 0x10000 by omega]

/-- Settles O11, from `State.busWrite_plain`, `State.reach_hallDb` and `State.inOtherHall_word`. -/
theorem plainRegisterWrites : Obligations.PlainRegisterWrites := by
  intro s i v
  have hsys {off : Nat} {a : Word} {t : State} (ha : a.toNat = 0x40000000 + off) (hoff : off % 4 = 0) (hlt : off < 0x100)
      (hlo : isPairLo .sys off = false) (hhi : isPairHi .sys off = false) (ht : s.sysWrite off v = t) :
      exec (.registerWrite i a v) s = .next t :=
    next_eq (by rw [ha, State.busWrite_sys hoff hlt hlo hhi, ht])
  refine ⟨hsys (off := 0x3C) rfl rfl (by omega) rfl rfl rfl, hsys (off := 0x30) rfl rfl (by omega) rfl rfl rfl,
    hsys (off := 0x04) rfl rfl (by omega) rfl rfl rfl, hsys (off := 0x38) rfl rfl (by omega) rfl rfl rfl,
    fun a b off hr he hlo hhi => ?_, fun h h0 hp => ?_, fun a off hr hother => ?_⟩
  · cases hmem : b.isMemory with
    | true => exact .inl (b.isMemory_iff.1 hmem)
    | false => exact .inr (next_eq (State.busWrite_plain hr hmem he hlo hhi))
  · exact next_eq ((State.busWrite_effect (s.reach_hallDb .window h hp) rfl).trans (if_neg fun hw => h0 (hw.2 rfl)))
  · exact next_eq ((State.busWrite_sram hr).trans (if_pos (.inr ⟨rfl, State.inOtherHall_word hother⟩)))

/-! ### Register pairs (R11, R12) -/

theorem isPairLo_isMemory {b : Block} {off : Nat} (h : isPairLo b off = true) : b.isMemory = false := by
  cases b <;> simp_all [isPairLo, Block.isMemory]

theorem State.busRead_pairLo {s : State} {i : Initiator} {a : Nat} {b : Block} {off : Nat} (hr : s.reach i a = .ok b off)
    (hlo : isPairLo b off = true) (he : s.readEffect i b off = none) :
    s.busRead i a = (s.pairLo b off a).1.answer (s.pairLo b off a).2 := by
  have hmem := isPairLo_isMemory hlo
  simp only [State.busRead, hr]
  cases b <;> simp_all [State.readBlock, Block.isMemory]

/-- Settles O12, from `State.busRead_pairLo`. -/
theorem pairsAreReadAndWrittenWhole : Obligations.PairsAreReadAndWrittenWhole := by
  intro s i a b off v w hr
  have hread : exec (.pairLoRead i a) s = .next (s.when (isPairLo b off) fun s => s.busRead i a.toNat) := by
    change execPairLoRead i a s = _
    rw [execPairLoRead, hr]
  have hhold : exec (.pairHiWrite i a v) s = .next (s.when (isPairHi b off) fun s => s.pairHold a.toNat v) := by
    change execPairHiWrite i a v s = _
    rw [execPairHiWrite, hr]
  have hcommit : exec (.pairLoWrite i a v) s = .next (s.when (isPairLo b off) fun s => s.pairCommit b off a.toNat v) := by
    change execPairLoWrite i a v s = _
    rw [execPairLoWrite, hr]
  refine ⟨fun hlo he => ⟨_, hread.trans (next_when hlo), ?_⟩, fun hhi _ => hhold.trans (next_when hhi),
    fun hlo hfind => (hcommit.trans (next_when hlo)).trans (next_eq ?_), fun hlo hfind => (hcommit.trans (next_when hlo)).trans (next_eq ?_)⟩
  · rw [State.busRead_pairLo hr hlo he]
    refine ⟨rfl, rfl, fun u hu => ?_⟩
    rw [State.pairHi, hu]
    simp [State.pairLo, State.answer]
  · rw [State.pairCommit, hfind]
  · rw [State.pairCommit, hfind]

end Sys2Proof.Machine
end

section
/-! PROOF. SCHED_CFG and render bring-up (spec/15_timebase_timers_triggers.md R418, spec/02_time_and_determinism.md R47–R50). -/

namespace Sys2Proof.Machine

/-! ### SCHED_CFG -/

/-- A register of SCHED is reached where its domain answers. -/
theorem State.reach_sched {s : State} (i : Initiator) {off : Nat} (hoff : off = 0 ∨ off = 0x20) (hp : s.pwr.answers pdCtrl = true) :
    s.reach i (0x40200000 + off) = .ok .sched off := by
  refine State.reach_ok i ?_ ?_ ?_ rfl (State.powered_of_answers rfl hp) <;> rcases hoff with rfl | rfl <;> decide

theorem exec_schedCfgWrite {s : State} (i : Initiator) (v : Word) (hp : s.pwr.answers pdCtrl = true) :
    exec (.schedCfgWrite i v) s = .next (s.schedCfg v) :=
  next_eq (State.busWrite_effect (State.reach_sched i (.inl rfl) hp) rfl)

/-- A source of TIME_ERR: the flag and the interrupts. -/
theorem State.timeErr_flag (s : State) (n : Nat) :
    ∃ irqf, s.timeErr n = { s with time := { s.time with err := setFlag s.time.err n }, irqf := irqf } :=
  State.raiseIf_shape { s with time := (s.time.setErr n).1 } _ _

/-- Bring-up that is asked for after its first edge is late. -/
theorem State.schedCfg_late {s : State} {v : Word} (hset : s.sched.cfgSet = false) (hrun : bit v 31 = true)
    (hlate : bringupStep ≤ s.time.rclk) : ∃ t : State, s.schedCfg v = t ∧ t.time.armed = true ∧ t.time.late = true ∧
      t.time.err = setFlag s.time.err 1 ∧ t.sched.cfgSet = true ∧ t.halls = s.halls := by
  refine ⟨_, rfl, ?_⟩
  rw [State.schedCfg, if_neg (by simp [hset])]
  dsimp only
  rw [if_neg (by simp [hrun]), if_neg (by omega)]
  generalize v &&& 0x80000001#32 = w
  obtain ⟨irqf, e⟩ := State.timeErr_flag { s with sched := { s.sched with cfg := w, cfgSet := true },
                                                  time := { s.time with armed := true, late := true } } 1
  obtain ⟨nv, mgmt, hl, -⟩ := (State.timeErr { s with sched := { s.sched with cfg := w, cfgSet := true },
                                                      time := { s.time with armed := true, late := true } } 1).log_shape 0x0702 none []
  rw [hl, e]
  exact ⟨rfl, rfl, rfl, rfl, rfl⟩

/-! ### Bring-up -/

theorem putEng_alive (h : Hall) (he f : Nat) (e : Option Nat) : (putEng h he f e).alive = h.alive := rfl

/-- Mapping hall engines afresh opens and closes no hall. -/
theorem remapFrom_alive (cb : Nat) (ok gone : Nat → Bool) (f : Nat) (hs : Tab Hall 8) (n : Fin 8) :
    ((remapFrom cb ok gone f hs).get n).alive = (hs.get n).alive := by
  unfold remapFrom
  extract_lets drop off
  have hoff : (off.get n).alive = (hs.get n).alive := by
    have hget : off.get n = { hs.get n with engs := (hs.get n).engs.map drop } := Tab.get_map hs _ n
    rw [hget]
  refine (foldl_keeps (fun hs : Tab Hall 8 => (hs.get n).alive) (fun hs k => ?_) _ off).trans hoff
  refine foldl_keeps (fun hs : Tab Hall 8 => (hs.get n).alive) (fun hs x => ?_) _ hs
  split
  · by_cases hk : k = n
    · subst hk
      rw [Tab.get_upd_same, putEng_alive]
    · rw [Tab.get_upd_ne _ _ hk]
  · rfl

/-- Hall 0 opens. -/
theorem State.openHall0_shape (s : State) : ∃ halls, s.openHall0 = { s with halls := halls } ∧ (halls.get 0).alive = true := by
  refine ⟨_, rfl, ?_⟩
  rw [remapFrom_alive, Tab.get_put_same]

/-- What bring-up leaves (R418). -/
structure State.BroughtUp (s t : State) : Prop where
  running : t.time.running = true
  et : t.time.et = 0
  armed : t.time.armed = false
  rclk : t.time.rclk = s.time.rclk
  bringup : t.time.bringup = word s.time.rclk
  nextClose : t.sched.nextClose = 2
  nextBound : t.sched.nextBound = 1
  mez : t.mez.next = 0
  out : t.out.next = 0
  hall0 : (t.halls.get 0).alive = true
  nv : t.nv = s.nv
  foyer : t.foyer = s.foyer

theorem State.bringup_broughtUp (s : State) : s.BroughtUp s.bringup := by
  unfold State.bringup
  extract_lets e0 _ _ _ _ _ _ _ _ u
  have htime : u.time.running = true ∧ u.time.et = 0 ∧ u.time.armed = false ∧ u.time.rclk = s.time.rclk ∧
      u.time.bringup = word s.time.rclk := ⟨rfl, rfl, rfl, rfl, rfl⟩
  have hsched : u.sched.nextClose = 2 ∧ u.sched.nextBound = 1 := ⟨rfl, rfl⟩
  have hnext : u.mez.next = 0 ∧ u.out.next = 0 := ⟨rfl, rfl⟩
  have hkept : u.nv = s.nv ∧ u.foyer = s.foyer := ⟨rfl, rfl⟩
  clear_value u
  obtain ⟨halls, e, halive⟩ := u.openHall0_shape
  obtain ⟨hrun, het, harm, hrclk, hbring⟩ := htime
  rw [e]
  exact ⟨hrun, het, harm, hrclk, hbring, hsched.1, hsched.2, hnext.1, hnext.2, halive, hkept.1, hkept.2⟩

theorem State.edges_zero (s : State) : s.edges 0 = s := by
  have ht : s.time.edges 0 = (s.time, []) := if_pos (.inr (.inr rfl))
  rw [State.edges, ht]
  rfl

/-- An armed bring-up falls on its edge. -/
theorem exec_renderBringup {s : State} (harm : s.time.armed = true) (hc : s.time.counting = true) (hr : s.time.refclk = true) :
    exec .renderBringup s = .next (s.edges (s.time.bringupEdge - s.time.rclk)).bringup := by
  have hlt : s.time.rclk < s.time.bringupEdge := by
    simp only [TimeBlk.bringupEdge, bringupStep]
    omega
  refine (next_when (by simp [harm, hc, hr])).trans (next_eq ?_)
  rw [State.advance, if_pos ⟨harm, hc, hr, by omega⟩,
    show s.time.rclk + (s.time.bringupEdge - s.time.rclk) - s.time.bringupEdge = 0 by omega, State.edges_zero]

/-- Settles O13, from `exec_schedCfgWrite`, `exec_renderBringup` and `State.bringup_broughtUp`. -/
theorem renderBringup : Obligations.RenderBringup := by
  refine ⟨fun s i v hp => ?_, fun s harm hc hr => ⟨_, exec_renderBringup harm hc hr, ?_⟩⟩
  · rw [exec_schedCfgWrite i v hp]
    refine ⟨fun hset => next_eq (if_pos hset), fun hset hrun => next_eq ?_, fun hset hrun hearly => next_eq ?_, fun hset hrun hlate => ?_⟩
    · rw [State.schedCfg, if_neg (by simp [hset])]
      exact if_pos hrun
    · rw [State.schedCfg, if_neg (by simp [hset])]
      dsimp only
      rw [if_neg (by simp [hrun]), if_pos hearly]
    · obtain ⟨t, ht, hfacts⟩ := State.schedCfg_late hset hrun hlate
      exact ⟨t, next_eq ht, hfacts⟩
  · obtain ⟨irqf, tmr, going, hits, e⟩ := State.edges_shape hr hc (s.time.bringupEdge - s.time.rclk)
    have hb := (s.edges (s.time.bringupEdge - s.time.rclk)).bringup_broughtUp
    have hedge : s.time.bringupEdge = (s.time.rclk / bringupStep + 1) * bringupStep := rfl
    have hrclk : (s.edges (s.time.bringupEdge - s.time.rclk)).time.rclk = s.time.bringupEdge := by
      rw [e, hedge]
      simp only [bringupStep]
      omega
    have hle : s.time.rclk < s.time.bringupEdge ∧ s.time.bringupEdge ≤ s.time.rclk + bringupStep := by
      rw [hedge]
      simp only [bringupStep]
      omega
    refine ⟨hb.running, hb.et, hb.armed, ?_, ?_, ?_, ?_, hb.nextClose, hb.nextBound, hb.mez, hb.out, hb.hall0, ?_, ?_⟩
    · rw [hb.rclk, hrclk]
      exact hle.1
    · rw [hb.rclk, hrclk, hedge]
      exact Nat.mul_mod_left _ _
    · rw [hb.rclk, hrclk]
      exact hle.2
    · rw [hb.bringup, hb.rclk]
    · rw [hb.nv, e]
    · rw [hb.foyer, e]

end Sys2Proof.Machine
end

section
/-! PROOF. Measured admission and its budgets (spec/02_time_and_determinism.md R69–R71, spec/17_management_update_alcove.md R450). -/

namespace Sys2Proof.Machine

/-! ### Bits of a word whose field is replaced -/

theorem testBit_bits (w : Word) (hi lo i : Nat) : (bits w hi lo).testBit i = (decide (i < hi + 1 - lo) && bit w (lo + i)) := by
  simp [bits, bit, BitVec.getLsbD, Nat.testBit_mod_two_pow, Nat.testBit_div_two_pow, Nat.add_comm]

/-- A field is made of its bits. -/
theorem bits_congr {w u : Word} {hi lo : Nat} (h : ∀ i, lo ≤ i → i ≤ hi → bit w i = bit u i) : bits w hi lo = bits u hi lo := by
  refine Nat.eq_of_testBit_eq fun i => ?_
  rw [testBit_bits, testBit_bits]
  by_cases hi' : i < hi + 1 - lo
  · rw [h (lo + i) (by omega) (by omega)]
  · simp [hi']

theorem bit_putFlag_false_ne (w : Word) {n m : Nat} (h : n ≠ m) (hn : n < 32) : bit (putFlag w m false) n = bit w n := by
  simp only [putFlag, bit, Bool.false_eq_true, if_false, BitVec.getLsbD_and, BitVec.getLsbD_not, BitVec.getLsbD_shiftLeft]
  by_cases hlt : n < m
  · simp [hn, hlt]
  · have : n - m ≠ 0 := by omega
    simp [hn, hlt, this]

theorem bit_putFlag_false_same (w : Word) {n : Nat} (hn : n < 32) : bit (putFlag w n false) n = false := by
  simp [putFlag, bit, hn]

theorem bits_setBits_15_8 (w : Word) (v : Nat) : bits (setBits w 15 8 v) 15 8 = v % 256 := by
  have hw := w.isLt
  simp only [bits, setBits, word, BitVec.toNat_ofNat]
  omega

theorem bits_15_8_lt (w : Word) : bits w 15 8 < 256 := by
  simp only [bits]
  omega

/-- The margin is what the write gives. -/
theorem bits_setMargin (s : State) (v : Word) : bits (s.setMargin (bits v 15 8)).sched.meas 15 8 = bits v 15 8 :=
  (bits_setBits_15_8 _ _).trans (Nat.mod_eq_of_lt (bits_15_8_lt v))

theorem bit_31_iff (w : Word) : bit w 31 = decide (2 ^ 31 ≤ w.toNat) := by
  have hw := w.isLt
  rw [bit, BitVec.getLsbD, Nat.testBit_eq_decide_div_mod_eq]
  congr 1
  simp only [eq_iff_iff]
  omega

theorem bit_31_setBits_15_8 (w : Word) (v : Nat) : bit (setBits w 15 8 v) 31 = bit w 31 := by
  have hw := w.isLt
  rw [bit_31_iff, bit_31_iff]
  simp only [bits, setBits, word, BitVec.toNat_ofNat]
  congr 1
  simp only [eq_iff_iff]
  omega

/-! ### Writes of SCHED_MEAS_CTRL -/

theorem State.measSet_on {s : State} (hcal : s.nv.calValid = true) : s.measSet true =
    ({ s with sched := { s.sched with meas := setFlag s.sched.meas 31, measured := true, measOff := false } } : State).guar 1 :=
  if_pos ⟨rfl, hcal⟩

theorem State.measSet_ignored {s : State} (hcal : s.nv.calValid = false) : s.measSet true = s :=
  (if_neg (by simp [State.calOk, hcal])).trans (if_pos rfl)

theorem State.measSet_off (s : State) : s.measSet false = { s with sched := { s.sched with
    meas := putFlag s.sched.meas 31 false, measOff := s.sched.measOff || bit s.sched.meas 31 } } :=
  (if_neg (by simp)).trans (if_neg (by simp))

theorem exec_measCtrlWrite {s : State} {i : Initiator} (v : Word) (hr : s.reach i 0x40200020 = .ok .sched 0x20) :
    exec (.measCtrlWrite i v) s = .next (s.measCtrl i v) :=
  next_eq (State.busWrite_effect hr rfl)

theorem measCtrlWrite_set {s : State} {v : Word} (hp : s.pwr.answers pdCtrl = true) (hv : bit v 31 = true) (hcal : s.nv.calValid = true) :
    ∃ t : State, exec (.measCtrlWrite .window v) s = .next t ∧ t.sched.measured = true ∧ bit t.sched.meas 31 = true ∧
      bits t.sched.meas 15 8 = bits v 15 8 ∧ t.sched.guar = setFlag s.sched.guar 1 ∧ t.halls = s.halls ∧ t.voices = s.voices := by
  refine ⟨_, exec_measCtrlWrite v (State.reach_sched .window (.inr rfl) hp), ?_⟩
  have hmargin := bits_setMargin s v
  have hguar : (s.setMargin (bits v 15 8)).sched.guar = s.sched.guar := rfl
  have hhalls : (s.setMargin (bits v 15 8)).halls = s.halls := rfl
  have hvoices : (s.setMargin (bits v 15 8)).voices = s.voices := rfl
  have hcal' : (s.setMargin (bits v 15 8)).nv.calValid = true := hcal
  rw [State.measCtrl, if_pos rfl, hv]
  generalize s.setMargin (bits v 15 8) = u at hmargin hguar hhalls hvoices hcal' ⊢
  rw [State.measSet_on hcal']
  obtain ⟨irqf, e⟩ := State.guar_shape ({ u with sched := { u.sched with meas := setFlag u.sched.meas 31, measured := true,
                                                                         measOff := false } }) 1
  rw [e]
  refine ⟨rfl, bit_setFlag_same _ (by decide), ?_, congrArg (setFlag · 1) hguar, hhalls, hvoices⟩
  rw [← hmargin]
  exact bits_congr fun i _ hi => bit_setFlag_ne _ (by omega)

theorem measCtrlWrite_uncalibrated {s : State} {v : Word} (hp : s.pwr.answers pdCtrl = true) (hv : bit v 31 = true)
    (hcal : s.nv.calValid = false) : ∃ t : State, exec (.measCtrlWrite .window v) s = .next t ∧ bit t.sched.meas 31 = bit s.sched.meas 31 ∧
      bits t.sched.meas 15 8 = bits v 15 8 ∧ t = { s with sched := { s.sched with meas := t.sched.meas } } := by
  refine ⟨s.setMargin (bits v 15 8), ?_, bit_31_setBits_15_8 _ _, bits_setMargin s v, rfl⟩
  rw [exec_measCtrlWrite v (State.reach_sched .window (.inr rfl) hp), State.measCtrl, if_pos rfl, hv]
  exact next_eq (State.measSet_ignored hcal)

theorem measCtrlWrite_cleared {s : State} {v : Word} (hp : s.pwr.answers pdCtrl = true) (hv : bit v 31 = false) :
    ∃ t : State, exec (.measCtrlWrite .window v) s = .next t ∧ t.sched.measured = s.sched.measured ∧ bit t.sched.meas 31 = false ∧
      bits t.sched.meas 15 8 = bits v 15 8 ∧ t.sched.measOff = (s.sched.measOff || bit s.sched.meas 31) ∧
      t = { s with sched := { s.sched with meas := t.sched.meas, measOff := t.sched.measOff } } := by
  refine ⟨_, exec_measCtrlWrite v (State.reach_sched .window (.inr rfl) hp), ?_⟩
  have hmargin := bits_setMargin s v
  have hbit : bit (setBits s.sched.meas 15 8 (bits v 15 8)) 31 = bit s.sched.meas 31 := bit_31_setBits_15_8 _ _
  rw [State.setMargin] at hmargin
  rw [State.measCtrl, if_pos rfl, hv, State.measSet_off, State.setMargin]
  generalize setBits s.sched.meas 15 8 (bits v 15 8) = w at hmargin hbit ⊢
  refine ⟨rfl, bit_putFlag_false_same _ (by decide), ?_, congrArg (s.sched.measOff || ·) hbit, rfl⟩
  rw [← hmargin]
  exact bits_congr fun i _ hi => bit_putFlag_false_ne _ (by omega) (by omega)

theorem measCtrlWrite_margin {s : State} {i : Initiator} {v : Word} (hi : i ≠ .window) (hr : s.reach i 0x40200020 = .ok .sched 0x20) :
    ∃ t : State, exec (.measCtrlWrite i v) s = .next t ∧ bit t.sched.meas 31 = bit s.sched.meas 31 ∧
      bits t.sched.meas 15 8 = bits v 15 8 ∧ t = { s with sched := { s.sched with meas := t.sched.meas } } := by
  refine ⟨s.setMargin (bits v 15 8), ?_, bit_31_setBits_15_8 _ _, bits_setMargin s v, rfl⟩
  rw [exec_measCtrlWrite v hr]
  exact next_eq (if_neg hi)

/-! ### A frame boundary without measured admission -/

theorem State.noteLate_meas (s : State) (h : Fin 8) (src org : Nat) : (s.noteLate h src org).sched.meas = s.sched.meas := by
  unfold State.noteLate
  extract_lets f now _ a logged b
  have hb : b.sched.meas = s.sched.meas := by
    obtain ⟨irqf, e⟩ := State.guar_shape ({ s with sched := { s.sched with lateCnt := satInc s.sched.lateCnt 1, lateLast := now } }) 2
    rw [show b = a.updHall h _ from rfl, show a = _ from e]
    rfl
  split
  · exact hb
  · rw [State.log_sched, hb]

theorem State.arrive_meas (s : State) (h : Fin 8) (src tag org a t : Nat) (kind : EvKind) :
    (s.arrive h src tag org a t kind).1.sched.meas = s.sched.meas := by
  unfold State.arrive
  extract_lets late at' e _ u v
  split
  · exact v.noteLate_meas h src org
  · rfl

theorem State.deliver_meas (s : State) (h : Fin 8) (src tag org a t : Nat) (kind : EvKind) :
    (s.deliver h src tag org a t kind).1.sched.meas = s.sched.meas := by
  unfold State.deliver
  split
  · rfl
  split
  · rfl
  split
  · rfl
  · exact s.arrive_meas ..

theorem State.forward_meas (s : State) : s.forward.sched.meas = s.sched.meas := by
  refine (foldl_keeps (fun t : State => t.sched.meas) (fun t m => ?_) _ _).trans rfl
  have hd := t.deliver_meas (hallIx m.hall) 1 m.tag m.trig m.stamp m.time m.kind
  unfold State.forwardOne
  dsimp only
  split
  · exact hd
  · exact hd

theorem State.runTo_meas {s : State} (t : Nat) (ha : s.time.armed = false) : (s.runTo t).sched.meas = s.sched.meas := by
  have hadv : (s.advanceTo t).sched = s.sched := by
    unfold State.advanceTo
    split
    · rw [State.advance_eq_edges (.inl ha)]
      rfl
    · rfl
  obtain ⟨_, _, _, _, e⟩ := (s.passTo t).settleBy_shape (s.passTo t).time.et
  rw [State.runTo, State.settle, e]
  exact (State.forward_meas _).trans (congrArg Sched.meas hadv)

@[simp] theorem State.convRelease_sched (s : State) (k : Fin 8) : (s.convRelease k).sched = s.sched := by
  unfold State.convRelease
  dsimp only
  split
  · rfl
  · rw [State.updSpec_sched]
    split
    · exact State.wipePages_sched ..
    · rfl

@[simp] theorem State.specRest_sched (s : State) : s.specRest.sched = s.sched := by
  unfold State.specRest
  split <;> rfl

@[simp] theorem State.anRelease_sched (s : State) (a : Fin 2) : (s.anRelease a).sched = s.sched := State.specRest_sched _

@[simp] theorem State.convFree_sched (s : State) (k : Fin 8) : (s.convFree k).sched = s.sched :=
  (State.specRest_sched _).trans (State.wipePages_sched ..)

@[simp] theorem State.specReleaseHall_sched (s : State) (h : Nat) : (s.specReleaseHall h).sched = s.sched := by
  refine (foldl_keeps State.sched (fun u a => ?_) _ _).trans (foldl_keeps State.sched (fun u k => ?_) _ s)
  · dsimp only
    split
    · exact State.anRelease_sched ..
    · rfl
  · split
    · exact State.convRelease_sched ..
    · rfl

@[simp] theorem State.endWait_sched (s : State) (h : Fin 8) (status : Nat) (data : List Byte) : (s.endWait h status data).sched = s.sched := by
  obtain ⟨_, _, e⟩ := s.endWait_shape h status data
  rw [e]

@[simp] theorem State.hallFenceAt_sched (s : State) (h : Fin 8) (m : Nat) : (s.hallFenceAt h m).sched = s.sched := by
  have hv : (s.hallFenceAt h m).sched = (State.specReleaseHall ((((s.mapVoices fun v => if v.hall = h.val then
      v.stopBy (m * s.fl) (m * s.fl * 512) .fence else v).updHall h fun x => { x with fenceReq := none, queue := [] }).reap h)) h.val).sched := by
    unfold State.hallFenceAt
    extract_lets n u v w
    split
    · split
      · exact State.endWait_sched ..
      · exact State.endWait_sched ..
      · exact State.endWait_sched ..
      · rfl
    · rfl
  rw [hv, State.specReleaseHall_sched, State.reap_sched]
  rfl

@[simp] theorem State.boundaryFences_sched (s : State) (F : Nat) : (s.boundaryFences F).sched = s.sched := by
  unfold State.boundaryFences
  generalize List.finRange 64 = es
  generalize List.finRange 8 = gs
  extract_lets u v
  have hu : u.sched = s.sched := by
    refine foldl_keeps State.sched (fun u e => ?_) _ s
    split
    · exact State.fenceEngine_sched ..
    · rfl
  clear_value u
  have hv : v.sched = u.sched := by
    refine foldl_keeps State.sched (fun u g => ?_) _ u
    split
    · exact State.fenceGallery_sched ..
    · rfl
  clear_value v
  refine (foldl_keeps State.sched (fun u h => ?_) _ v).trans (hv.trans hu)
  split
  · exact State.hallFenceAt_sched ..
  · rfl

theorem State.switchOn_sched (s : State) (d : Fin 16) : (s.switchOn d).sched = s.sched := rfl

@[simp] theorem State.boundaryMap_sched (s : State) (F : Nat) : (s.boundaryMap F).sched = s.sched := by
  unfold State.boundaryMap
  extract_lets u
  have hu : u.sched = s.sched := rfl
  clear_value u
  split
  · exact hu
  · split
    next x hx =>
      rw [State.unparkOne, Option.map_eq_some_iff] at hx
      obtain ⟨g, -, rfl⟩ := hx
      exact (u.switchOn_sched (pdGal g)).trans hu
    next => exact hu

/-- Measured admission that is off asks for no measured budget. -/
theorem State.heBudget_unmeasured {s : State} (hmeas : bit s.sched.meas 31 = false) (hoff : s.sched.measOff = false) (hl : Hall) (x : HallEng) :
    s.heBudget hl x = hl.hb := if_neg (by simp [hmeas, hoff])

theorem State.measDrain_off {s : State} (hmeas : bit s.sched.meas 31 = false) :
    bit s.measDrain.sched.meas 31 = false ∧ s.measDrain.sched.measOff = false := by
  rw [State.measDrain, if_neg (by simp [hmeas])]
  exact ⟨hmeas, rfl⟩

@[simp] theorem State.boundaryPark_sched (s : State) (g : Fin 8) : (s.boundaryPark g).sched = s.sched := by
  unfold State.boundaryPark
  split
  · unfold State.switchOff
    split <;> rfl
  · rfl

@[simp] theorem State.convFades_sched (s : State) : s.convFades.sched = s.sched := by
  refine foldl_keeps State.sched (fun t k => ?_) _ s
  dsimp only
  split
  · split
    · exact State.convFree_sched ..
    · rfl
  · rfl

@[simp] theorem State.noteIdle_sched (s : State) : s.noteIdle.sched = s.sched := rfl

@[simp] theorem State.fenceDone_sched (s : State) (code : Nat) : (s.fenceDone code).sched = s.sched := by
  obtain ⟨_, _, e⟩ := State.fenceDone_shape s code
  rw [e]

/-- What a boundary does after measured admission has drained leaves SCHED but for the next boundary. -/
theorem State.boundary_sched (s : State) (F : Nat) : (s.boundary F).sched =
    { ((s.boundaryFences F).boundaryMap F).measDrain.sched with nextBound := F + 1 } := by
  unfold State.boundary
  generalize List.finRange 8 = gs
  generalize ((s.boundaryFences F).boundaryMap F).measDrain = u
  extract_lets _ v w x y
  have hv : v.sched = u.sched := foldl_keeps State.sched State.boundaryPark_sched gs u
  have hw : w.sched = v.sched := rfl
  clear_value w
  have hx : x.sched = w.sched := (State.noteIdle_sched _).trans (State.convFades_sched w)
  clear_value x
  have hy : y.sched = x.sched := by
    simp only [y]
    split
    · split
      · exact State.fenceDone_sched ..
      · rfl
    · rfl
  clear_value y
  exact congrArg (fun c : Sched => { c with nextBound := F + 1 }) (hy.trans (hx.trans (hw.trans hv)))

/-- After a boundary with measured admission off, no hall engine has a measured budget. -/
theorem frameBoundary_unmeasured {s : State} (hreach : s.reaches (s.start s.sched.nextBound) = true) (hmeas : bit s.sched.meas 31 = false)
    (ha : s.time.armed = false) : ∃ t : State, exec .frameBoundary s = .next t ∧ ∀ hl x, t.heBudget hl x = hl.hb := by
  refine ⟨_, next_when hreach, fun hl x => ?_⟩
  generalize hu : s.runTo (s.start s.sched.nextBound) = u
  have humeas : bit u.sched.meas 31 = false := by rw [← hu, State.runTo_meas _ ha, hmeas]
  have hmap : bit ((u.boundaryFences s.sched.nextBound).boundaryMap s.sched.nextBound).sched.meas 31 = false := by
    rw [State.boundaryMap_sched, State.boundaryFences_sched, humeas]
  obtain ⟨hmeas', hoff⟩ := State.measDrain_off hmap
  refine State.heBudget_unmeasured ?_ ?_ hl x
  · rw [State.boundary_sched]
    exact hmeas'
  · rw [State.boundary_sched]
    exact hoff

/-- The budgets that a recomputation gives. -/
theorem State.recompute_mb (s : State) (f : Nat) (g : Fin 8) : (s.paceMin g f = none → (s.recompute f).sched.mb.get g = s.sched.mb.get g) ∧
    ∀ p, s.paceMin g f = some p → (s.recompute f).sched.mb.get g = s.measuredBudget g.val p := by
  have hget : (s.recompute f).sched.mb.get g = match s.paceMin g f with
      | some p => s.measuredBudget g.val p
      | none => s.sched.mb.get g := by
    simp only [State.recompute, Tab.get, Vector.getElem_ofFn] <;> rfl
  exact ⟨fun h => by rw [hget, h], fun p h => by rw [hget, h]⟩

/-- Settles O14, clause by clause: the writes of SCHED_MEAS_CTRL, the boundary, the recomputation. -/
theorem measuredBudgets : Obligations.MeasuredBudgets := by
  intro s
  refine ⟨fun v => measCtrlWrite_set, fun v => measCtrlWrite_uncalibrated, fun v => measCtrlWrite_cleared, ?_, fun i v => measCtrlWrite_margin,
    next_stay, ?_⟩
  · rintro F rfl hreach hmeas ha
    exact frameBoundary_unmeasured hreach hmeas ha
  · rintro u hreach rfl
    exact ⟨_, next_when hreach, rfl, fun g => State.recompute_mb _ _ g⟩

end Sys2Proof.Machine
end

section
/-! PROOF. Lift and fence requests, and self-tests (spec/18_power_reset_faults.md R483, R486, R487). -/

namespace Sys2Proof.Machine

/-! ### Requests -/

theorem State.busWrite_fenceCtrl (s : State) (v : Word) : s.busWrite .window 0x40B00004 v = s.fenceCtrl v := by
  have hblock : blockOf 0x40B00004 = some (.fence, 4) := by decide
  exact State.busWrite_effect (State.reach_ok .window (by decide) (by decide) hblock rfl rfl) rfl

/-- Bit `n` of a word and what a mask or a flag leaves of the fields of FENCE_CTRL. -/
theorem fenceOp_fields (v w : Word) (h : ∀ i, i ≠ 30 → i < 32 → bit w i = bit v i) :
    bit w 31 = bit v 31 ∧ bits w 26 24 = bits v 26 24 ∧ bits w 11 0 = bits v 11 0 :=
  ⟨h 31 (by decide) (by decide), bits_congr fun i _ hi => h i (by omega) (by omega), bits_congr fun i _ hi => h i (by omega) (by omega)⟩

theorem bit_liftOp (v : Word) : (∀ i, i ≠ 30 → i < 32 → bit (v &&& 0xBFFFFFFF#32) i = bit v i) ∧ bit (v &&& 0xBFFFFFFF#32) 30 = false := by
  have hmask : ∀ i : Fin 32, bit 0xBFFFFFFF#32 i.val = decide (i.val ≠ 30) := by decide
  constructor
  · intro i hne hi
    have := hmask ⟨i, hi⟩
    simp only [bit] at this ⊢
    simp [this, hne]
  · simp [bit]

theorem bit_fenceOp (v : Word) : (∀ i, i ≠ 30 → i < 32 → bit (v ||| 0x40000000#32) i = bit v i) ∧ bit (v ||| 0x40000000#32) 30 = true := by
  have hmask : ∀ i : Fin 32, bit 0x40000000#32 i.val = decide (i.val = 30) := by decide
  constructor
  · intro i hne hi
    have := hmask ⟨i, hi⟩
    simp only [bit] at this ⊢
    simp [this, hne]
  · simp [bit]

theorem exec_fenceCtrlLift {s : State} {v : Word} (hv : bit v 31 = true) (hbusy : s.fence.busy = none) :
    exec (.fenceCtrlLift .window v) s = .next (s.liftUnit (bits v 26 24) (bits v 11 0)) := by
  obtain ⟨hmask, h30⟩ := bit_liftOp v
  obtain ⟨h31, hkind, hindex⟩ := fenceOp_fields v _ hmask
  refine next_eq ((s.busWrite_fenceCtrl _).trans ?_)
  rw [State.fenceCtrl, if_neg (by simp [hbusy, h31, hv]), if_neg (by simp [h30]), hkind, hindex]

theorem exec_fenceCtrlFence {s : State} {v : Word} (hv : bit v 31 = true) (hbusy : s.fence.busy = none) :
    exec (.fenceCtrlFence .window v) s = .next (s.fenceUnit (bits v 26 24) (bits v 11 0)) := by
  obtain ⟨hmask, h30⟩ := bit_fenceOp v
  obtain ⟨h31, hkind, hindex⟩ := fenceOp_fields v _ hmask
  refine next_eq ((s.busWrite_fenceCtrl _).trans ?_)
  rw [State.fenceCtrl, if_neg (by simp [hbusy, h31, hv]), if_pos h30, hkind, hindex]

/-! ### Self-tests, which a lost engine leaves -/

@[simp] theorem State.notice_eng (s : State) (h : Fin 8) (kind : Nat) (data : List Byte) : (s.notice h kind data).eng = s.eng := by
  obtain ⟨_, _, e⟩ := (State.RingsServed.notice s h kind data).shape
  rw [e]

@[simp] theorem State.endVoice_eng (s : State) (v : Voice) (x : Stop) : (s.endVoice v x).1.eng = s.eng := by
  unfold State.endVoice
  extract_lets h st t _ u w z
  have hu : u.eng = s.eng := by
    simp only [u]
    split <;> rfl
  have hw : w.eng = s.eng := by
    rw [← hu]
    simp only [w]
    split <;> rfl
  rw [← hw]
  change z.eng = w.eng
  simp only [z]
  split
  · exact State.notice_eng ..
  · rfl

@[simp] theorem State.loseVoice_eng (s : State) (v : Voice) (n : Nat) : (s.loseVoice v n).1.eng = s.eng := by
  unfold State.loseVoice
  split
  · split <;> simp
  · simp

@[simp] theorem State.loseTarget_eng (s : State) (v : Voice) (x : HallEng) : (s.loseTarget v x).1.eng = s.eng := by
  unfold State.loseTarget
  dsimp only
  split
  · simp
  · rfl

/-- Which engines are in their self-test. -/
def State.testing (s : State) (e : Fin 64) : Bool := (s.eng.get e).selftest

theorem State.testing_updEng (s : State) (e : Fin 64) {f : Engine → Engine} (hf : ∀ x, (f x).selftest = x.selftest) :
    (s.updEng e f).testing = s.testing := by
  funext k
  change ((s.eng.upd e f).get k).selftest = _
  by_cases hk : e = k
  · subst hk
    rw [Tab.get_upd_same, hf]
    rfl
  · rw [Tab.get_upd_ne _ _ hk]
    rfl

theorem State.testing_loseEngine (s : State) (e : Nat) : (s.loseEngine e).testing = s.testing := by
  unfold State.loseEngine
  extract_lets f bound u w
  have hu : u.eng = s.eng := by
    refine foldl_keeps (fun acc : State × List Voice => acc.1.eng) (fun acc v => ?_) s.voices (s, [])
    dsimp only
    split
    · rfl
    split
    · rfl
    · split
      · simp
      · split
        · simp
        · rfl
  clear_value u
  have hw : w.reapAll.testing = s.testing := by
    unfold State.testing
    rw [State.eng_reapAll, show w.eng = s.eng from hu]
  rw [State.testing_updEng, hw]
  intro x
  rfl

theorem State.testing_fenceGallery (s : State) (g : Fin 8) (cause : Nat) : (s.fenceGallery g cause).testing = s.testing := by
  have hadd (u : State) (kind c i halls n : Nat) : ((u.fenceAdd kind c i halls).raise n).testing = u.testing := by
    obtain ⟨_, _, _, e, -⟩ := u.fenceAdd_shape kind c i halls
    rw [e]
    rfl
  unfold State.fenceGallery
  split
  · unfold State.fenceAgain
    extract_lets u
    split
    · exact hadd ..
    · rfl
  · extract_lets es halls u
    have hu : u.testing = s.testing := by
      refine foldl_keeps State.testing (fun t e => ?_) es s
      split
      · rfl
      · exact State.testing_loseEngine ..
    clear_value u es
    exact (hadd ..).trans hu

theorem State.testing_noteFenced (s : State) (e : Fin 64) : (s.noteFenced e).testing = s.testing := by
  unfold State.noteFenced
  extract_lets g recent u
  split
  · exact u.testing_fenceGallery g 8
  · rfl

theorem State.fenceLift_shape (s : State) (kind index : Nat) : ∃ fence nv mgmt,
    s.fenceLift kind index = { s with fence := fence, nv := nv, mgmt := mgmt } := by
  unfold State.fenceLift
  split
  · exact ⟨_, _, _, rfl⟩
  · obtain ⟨nv, mgmt, e, -⟩ := State.log_shape _ _ _ _
    exact ⟨_, nv, mgmt, e⟩

/-- A self-test that passes puts the engine back. -/
theorem selftestDone_passed {s : State} {e : Fin 64} (htest : (s.eng.get e).selftest = true) (hbusy : s.fence.busy = some (.selftest e.val)) :
    ∃ t : State, exec (.selftestDone e true) s = .next t ∧ (t.eng.get e).selftest = false ∧ (t.eng.get e).fenced = false ∧
      t.fence.busy = none ∧ t.fence.code = 0 := by
  refine ⟨_, next_when (by simp [htest, hbusy]), ?_⟩
  dsimp only
  rw [if_pos rfl]
  obtain ⟨_, _, _, hl⟩ := (s.updEng e fun x => { x with selftest := false, fenced := false }).fenceLift_shape 1 e.val
  obtain ⟨_, _, hd⟩ := ((s.updEng e fun x => { x with selftest := false, fenced := false }).fenceLift 1 e.val).fenceDone_shape 0
  have heng : (s.updEng e fun x => { x with selftest := false, fenced := false }).eng.get e =
      { s.eng.get e with selftest := false, fenced := false } := Tab.get_upd_same ..
  change ((((s.updEng e fun x => { x with selftest := false, fenced := false }).fenceLift 1 e.val).fenceDone 0).eng.get e).selftest = false ∧ _
  rw [Bool.not_true, hd, hl, heng]
  exact ⟨rfl, rfl, rfl, rfl⟩

/-- One that fails fences it again. -/
theorem selftestDone_failed {s : State} {e : Fin 64} (htest : (s.eng.get e).selftest = true) (hbusy : s.fence.busy = some (.selftest e.val)) :
    ∃ t : State, exec (.selftestDone e false) s = .next t ∧ (t.eng.get e).selftest = false ∧ (t.eng.get e).fenced = true ∧
      t.fence.busy = none ∧ t.fence.code = 3 := by
  refine ⟨_, next_when (by simp [htest, hbusy]), ?_⟩
  dsimp only
  rw [if_neg (by simp), Bool.not_false]
  generalize hu : s.updEng e (fun x => { x with selftest := false, fenced := true }) = u
  have heng : u.eng.get e = { s.eng.get e with selftest := false, fenced := true } := by
    rw [← hu]
    exact Tab.get_upd_same ..
  obtain ⟨_, _, _, hl⟩ := u.fenceLift_shape 1 e.val
  obtain ⟨_, _, _, ha, -⟩ := (u.fenceLift 1 e.val).fenceAdd_shape 1 6 e.val 0
  generalize hw : ((u.fenceLift 1 e.val).fenceAdd 1 6 e.val 0).raise (33 + 8 * (galOf e.val).val) = w
  have hweng : w.eng = u.eng := by
    rw [← hw, ha, hl]
    rfl
  obtain ⟨_, _, hd⟩ := (w.noteFenced e).fenceDone_shape 3
  rw [hd]
  refine ⟨?_, ?_, rfl, rfl⟩
  · refine (congrFun (w.testing_noteFenced e) e).trans ?_
    rw [State.testing, hweng, heng]
  · refine ((w.noteFenced_engines e).2 e).trans ?_
    rw [hweng, heng]

/-- Settles O18, from the two requests, the branches of `liftUnit` and `fenceUnit`, and the two ends of a self-test. -/
theorem fenceRequestsAct : Obligations.FenceRequestsAct := by
  intro s v hv
  refine ⟨fun h => ⟨exec_fenceCtrlLift hv h, exec_fenceCtrlFence hv h⟩, fun k n hn => ⟨if_pos hn, if_pos (.inl hn)⟩,
    fun k n hn hst => (if_neg (Nat.not_le.2 hn)).trans (if_pos (by simp [hst])),
    fun k n hk => if_pos (.inr hk), fun e htest hbusy => ⟨selftestDone_passed htest hbusy, selftestDone_failed htest hbusy⟩⟩

end Sys2Proof.Machine
end

section
/-! PROOF. Commands that read, and the session commands (spec/13_command_set.md R337, R365–R371). -/

namespace Sys2Proof.Machine

/-! ### Commands of one entry -/

section Answered
variable {o : Opcode} {s t : State} {h : Fin 8} {c : Cmd} {n st : Nat} {data : List Byte}

/-- A command that is taken and completes with one entry. -/
theorem Opcode.row_answered (ht : s.Takes o h c n) (hneed : o.need = needOne) (hbody : o.body (s.takeEntries h n) h c = .done t st data) :
    o.row h s = .next (t.answered h c st data) := by
  have hone : o.need s h c = 1 := by rw [hneed]; rfl
  rw [Opcode.row_of_takes ht, hone, hbody, State.finish_done]

/-- A command that is taken and waits, one entry reserved for it. -/
theorem Opcode.row_waits {what : WaitFor} (ht : s.Takes o h c n) (hneed : o.need = needOne)
    (hbody : o.body (s.takeEntries h n) h c = .wait t what) : o.row h s = .next (t.begun h c 1 what) := by
  have hone : o.need s h c = 1 := by rw [hneed]; rfl
  rw [Opcode.row_of_takes ht, hone, hbody, State.finish_wait]

end Answered

/-- Checks that hold one by one. -/
theorem firstFail_cons {b : Bool} {st : Nat} {cs : List (Bool × Nat)} (hb : b = true) : firstFail ((b, st) :: cs) = firstFail cs := if_pos hb

theorem exec_helloEcho {s : State} {h : Fin 8} {c : Cmd} {n : Nat} {p : Fin 2} (ht : s.Takes opHelloEcho h c n)
    (hp : ((s.takeEntries h n).halls.get h).port? = some p) :
    exec (.helloEcho h) s = .next ((s.takeEntries h n).answered h c 0
      ((s.takeEntries h n).helloData p (s.port p).nowVersion (s.port p).width
        (at_ (s.foyer.sup == some p) 0 + ((s.port p).helloFlags / 2 % 4) * 2))) := by
  refine Opcode.row_answered ht rfl ?_
  change cmdHelloEcho _ h c = _
  rw [cmdHelloEcho, hp]
  rfl

theorem exec_bye_closes {s : State} {h : Fin 8} {c : Cmd} {n : Nat} (ht : s.Takes opBye h c n) (hc : c.pay = [0#8, 0#8, 0#8, 0#8]) :
    exec (.bye h) s = .next (((s.takeEntries h n).lapse h).answered h c 0 []) := by
  refine Opcode.row_answered ht rfl ?_
  change cmdBye _ h c = _
  rw [cmdBye, State.checked_pass (by rw [hc]; rfl)]
  exact if_pos (by rw [hc]; rfl)

theorem exec_bye_suspends {s : State} {h : Fin 8} {c : Cmd} {n : Nat} (ht : s.Takes opBye h c n) (hc : c.pay = [1#8, 0#8, 0#8, 0#8]) :
    exec (.bye h) s = .next (((s.takeEntries h n).updHall h fun x => { x with kaSusp := true }).answered h c 0 []) := by
  refine Opcode.row_answered ht rfl ?_
  change cmdBye _ h c = _
  rw [cmdBye, State.checked_pass (by rw [hc]; rfl)]
  exact if_neg (by rw [hc]; decide)

theorem exec_modSet {s : State} {h : Fin 8} {c : Cmd} {n : Nat} (ht : s.Takes opModSet h c n) (hz : zero c.pay 1 1 = true)
    (hlo : 1 ≤ f8 c.pay 0) (hhi : f8 c.pay 0 ≤ 64) : exec (.modSet h) s = .next (((s.takeEntries h n).updRing h fun r =>
      { r with modCount := f8 c.pay 0, modTime := f16 c.pay 2 }).answered h c 0 []) := by
  refine Opcode.row_answered ht rfl ?_
  have hchecks : firstFail [(zero c.pay 1 1 && decide (1 ≤ f8 c.pay 0 ∧ f8 c.pay 0 ≤ 64), 0x22)] = none :=
    firstFail_cons (by simp [hz, hlo, hhi])
  change cmdModSet _ h c = _
  rw [cmdModSet]
  exact State.checked_pass hchecks

/-- The posting of a PORT_SLEEP entry puts the port asleep. -/
theorem State.postItem_sleep {s : State} {h : Fin 8} {x : Held} {p : Fin 2} (hp : (s.halls.get h).port? = some p) (hx : x.sleep = true)
    (hlost : isLost x = false) : ((s.postItem h x).port p).asleep = true := by
  unfold State.postItem
  rw [if_neg (by simp [hlost])]
  extract_lets u v w
  have hw : s.RingsServed w := by
    have hv : s.RingsServed v := by
      refine (State.RingsServed.postEntries h (chunks64 (x.bytes.length / 64) x.bytes) s).trans ?_
      simp only [v]
      split
      · exact .updPort ..
      · exact .refl _
    refine hv.trans ?_
    simp only [w, State.answerBox]
    split
    · exact (State.RingsServed.updPort ..).trans (.irqEval ..)
    · exact .refl _
  obtain ⟨ring, hring⟩ := hw.hall h
  clear_value w
  have hp' : (w.halls.get h).port? = some p := by rw [hring]; exact hp
  rw [if_pos hx, hp']
  exact congrArg Port.asleep (State.port_updPort_same ..)

/-- Settles O20: each command's body is its answer. -/
theorem readingAndSessionCommandsComplete : Obligations.ReadingAndSessionCommandsComplete :=
  ⟨fun _ _ _ _ => ⟨fun _ => exec_helloEcho, fun ht => Opcode.row_answered ht rfl rfl, fun ht => Opcode.row_answered ht rfl rfl,
    fun ht => Opcode.row_answered ht rfl rfl, fun ht => Opcode.row_answered ht rfl rfl⟩,
   fun _ _ _ _ => ⟨exec_bye_closes, exec_bye_suspends, exec_modSet, fun ht => Opcode.row_answered ht rfl rfl,
    fun _ _ => State.postItem_sleep⟩⟩

end Sys2Proof.Machine
end

section
/-! PROOF. Program commands and the loads that wait (spec/03_voice_programs.md R84–R88, spec/13_command_set.md R374,
spec/09_wave_memory.md R258, R259). -/

namespace Sys2Proof.Machine

section Take
variable {o : Opcode} {s t : State} {h : Fin 8} {c : Cmd} {n st : Nat} {data : List Byte}

/-- What a command that is taken and waits, one entry reserved for it, leaves. -/
theorem Opcode.take_waits {what : WaitFor} (ht : s.Takes o h c n) (hneed : o.need = needOne)
    (hbody : o.body (s.takeEntries h n) h c = .wait t what) : o.take o.is h s = t.begun h c 1 what := by
  have hone : o.need s h c = 1 := by rw [hneed]; rfl
  rw [Opcode.take_of_takes ht (by simp [Opcode.is, ht.2.2.2.2.1]), hone, hbody, State.finish_wait]

end Take

/-! ### PROG_LOAD, PROG_FREE, PROG_INFO -/

/-- An image whose checks all pass claims its pages and waits. -/
theorem State.progTake_waits {s : State} {h : Fin 8} {bs : List Byte} {p : Prog} {ps : List Nat}
    (hpages : s.pagesFor h p.storedPages false = .take ps) (hidx : (s.halls.get h).freeIdx.isSome = true) :
    s.progTake h bs p = .wait { s with mem := s.mem.claim ps h.val .stored } (.progLoad (imageOf bs).1 (imageOf bs).2 ps) := by
  rw [State.progTake, hpages]
  exact if_neg (by simp [Option.isNone_iff_eq_none, Option.isSome_iff_ne_none.mp hidx])

theorem State.progStaged_ok {s u : State} {h : Fin 8} {first len : Nat} {p : Prog} {bs : List Byte}
    (hu : u = s.memDo (s.mem.readCws (runCws first len))) (hclean : ((runCws first len).all fun w => !u.mem.flagged w) = true)
    (hbs : bs = u.mem.rdList (first * 65536) len) (hparse : parseImage 0x15 0x30 (u.halls.get h).rv bs.toArray = .ok p)
    (hchecks : u.progChecks h p = none) : s.progStaged h first len = u.progTake h bs p := by
  have hfind : (runCws first len).zipIdx.find? (fun x => u.mem.flagged x.1) = none := by
    rw [List.find?_eq_none]
    rintro ⟨w, i⟩ hw
    have := List.all_eq_true.mp hclean w (List.fst_mem_of_mem_zipIdx hw)
    simpa using this
  rw [State.progStaged]
  dsimp only
  rw [← hu, hfind]
  dsimp only
  rw [← hbs, hparse]
  dsimp only
  rw [hchecks]

theorem cmdProgLoad_staged {s : State} {h : Fin 8} {c : Cmd} (hz : zero c.pay 2 2 = true) (hfirst : f16 c.pay 0 ≤ 4095)
    (hlen : f32 c.pay 4 ≠ 0) (hmax : f32 c.pay 4 ≤ 8388608) (hfit : f16 c.pay 0 + (f32 c.pay 4 + 65535) / 65536 ≤ 4096)
    (hread : (spanOf (f16 c.pay 0) (f32 c.pay 4)).all (s.mayRead h) = true) :
    cmdProgLoad s h c = s.progStaged h (f16 c.pay 0) (f32 c.pay 4) := by
  rw [cmdProgLoad, if_neg (by rw [hz]; simp; omega), if_neg hlen, if_neg (by omega), if_neg (by rw [hread]; simp)]

theorem exec_progFree {s : State} {h : Fin 8} {c : Cmd} {n : Nat} (ht : s.Takes opProgFree h c n) (hz : zero c.pay 2 2 = true)
    (hprog : (((s.takeEntries h n).halls.get h).prog? (f16 c.pay 0)).isSome = true) : exec (.progFree h) s =
      .next ((((s.takeEntries h n).updHall h fun x => { x with progs := x.progs.map (fun (e : ProgEnt) =>
          if (handleOf e.idx e.gen = f16 c.pay 0) then { e with draining := true } else e) }).reap h).answered h c 0 []) := by
  refine Opcode.row_answered ht rfl ?_
  change cmdProgFree _ h c = _
  have hchecks : firstFail [(zero c.pay 2 2, 0x22), ((((s.takeEntries h n).halls.get h).prog? (f16 c.pay 0)).isSome, 0x19)] = none := by
    rw [firstFail_cons hz, firstFail_cons hprog]
    rfl
  rw [cmdProgFree]
  exact State.checked_pass hchecks

theorem exec_progInfo {s : State} {h : Fin 8} {c : Cmd} {n : Nat} {e : ProgEnt} (ht : s.Takes opProgInfo h c n)
    (hz : zero c.pay 2 2 = true)
    (hfind : ((s.takeEntries h n).halls.get h).progs.find? (fun p => handleOf p.idx p.gen == f16 c.pay 0) = some e) :
    exec (.progInfo h) s = .next ((s.takeEntries h n).answered h c 0 ((s.takeEntries h n).progInfo h e)) := by
  refine Opcode.row_answered ht rfl ?_
  change cmdProgInfo _ h c = _
  rw [cmdProgInfo, if_neg (by rw [hz]; simp), hfind]

/-! ### Loads that wait -/

theorem exec_progLoadDone {s : State} {h : Fin 8} {w : Wait} {image : List Byte} {pf3 : Bool} {ps : List Nat} {p : Prog}
    (hw : (s.halls.get h).wait = some w) (hwhat : w.what = .progLoad image pf3 ps)
    (hparse : parsePf4 0x15 0x30 (s.halls.get h).rv image.toArray pf3 = .ok p) :
    exec (.progLoadDone h) s = .next (s.storeProg h image p ps) := by
  change execProgLoadDone h s = _
  rw [execProgLoadDone, hw]
  dsimp only
  rw [hwhat]
  dsimp only
  rw [hparse]

theorem exec_sealedLoadDone {s u : State} {h : Fin 8} {w : Wait} {stage len : Nat} {dest : List Nat} (hw : (s.halls.get h).wait = some w)
    (hwhat : w.what = .sealed stage dest len) (hu : u = s.memDo (s.mem.readCws (cwSpan (stage * 65536) (0x60 + len)))) :
    exec (.sealedLoadDone h) s = .next (match u.openPackage h stage len with
      | some bs => ((dest.zipIdx.foldl (fun (v : State) x => v.fillPage x.1 (bs.drop (65536 * x.2)) .sealed) u).erasePkg h).endWait h 0
          (leBytes 4 len)
      | none => ((dest.foldl (fun (v : State) p => v.fillPage p [] .owned) u).erasePkg h).endWait h 0x31 []) := by
  change execSealedLoadDone h s = _
  rw [execSealedLoadDone, hw]
  dsimp only
  rw [hwhat]
  dsimp only
  rw [← hu] <;> rfl

/-- Settles O22, from the branches of PROG_LOAD that pass its checks, PROG_FREE, PROG_INFO, and the two ends. -/
theorem programCommandsComplete : Obligations.ProgramCommandsComplete := by
  refine ⟨?_, fun s h w hw => ⟨fun image pf3 ps p => exec_progLoadDone hw, fun stage dest len u => exec_sealedLoadDone hw⟩⟩
  rintro s h c n t rfl
  refine ⟨fun p ps u bs ht hz hfirst hlen hmax hfit hread hu hclean hbs hparse hchecks hpages hidx => ?_, exec_progFree,
    fun e => exec_progInfo⟩
  have hbody : cmdProgLoad (s.takeEntries h n) h c =
      .wait { u with mem := u.mem.claim ps h.val .stored } (.progLoad (imageOf bs).1 (imageOf bs).2 ps) := by
    rw [cmdProgLoad_staged hz hfirst hlen hmax hfit hread, State.progStaged_ok hu hclean hbs hparse hchecks,
      State.progTake_waits hpages hidx]
  exact next_eq (congrArg State.servePages (Opcode.take_waits ht rfl hbody))

end Sys2Proof.Machine
end

section
/-! PROOF. Page and wave commands (spec/09_wave_memory.md R254–R259, spec/13_command_set.md R375–R377). -/

namespace Sys2Proof.Machine

/-- Where no fault is among them none is the worst. -/
theorem worst_none {α : Type} {order : List Nat} {l : List α} {f : α → Option Nat} (h : (l.all fun x => (f x).isNone) = true) :
    worst order (l.map f) = none := by
  rw [worst, List.find?_eq_none]
  intro st _ hmem
  obtain ⟨x, hx, hfx⟩ := List.mem_map.mp (List.contains_iff_mem.mp hmem)
  have := List.all_eq_true.mp h x hx
  simp [hfx] at this

/-! ### PAGE_ALLOC and PAGE_FREE -/

theorem cmdPageAlloc_takes {s : State} {h : Fin 8} {c : Cmd} {ps : List Nat} (hmode : f8 c.pay 2 < 2) (hz : zero c.pay 3 1 = true)
    (hn : f16 c.pay 0 ≠ 0) (hmax : f16 c.pay 0 ≤ 4096) (hpages : s.pagesFor h (f16 c.pay 0) (f8 c.pay 2 % 2 == 1) = .take ps)
    (hext : 1 + pageExt ps ≤ (s.halls.get h).ring.len) :
    cmdPageAlloc s h c = .done { s with mem := s.mem.claim ps h.val .owned } 0 (pageResult ps) := by
  have hchecks : firstFail [(decide (f8 c.pay 2 < 2) && zero c.pay 3 1, 0x22), (decide (f16 c.pay 0 ≤ 4096), 0x12)] = none := by
    rw [firstFail_cons (by simp [hmode, hz]), firstFail_cons (by simp [hmax])]
    rfl
  have hnow : s.pageAllocNow h (f16 c.pay 0) (f8 c.pay 2 % 2 == 1) =
      some ({ s with mem := s.mem.claim ps h.val .owned }, 0, pageResult ps) := by
    rw [State.pageAllocNow, hpages]
    exact if_neg (by omega)
  rw [cmdPageAlloc]
  refine (State.checked_pass hchecks).trans ?_
  rw [if_neg hn, hnow]

theorem exec_pageFree {s : State} {h : Fin 8} {c : Cmd} {n : Nat} (ht : s.Takes opPageFree h c n) (hz : zero c.pay 2 2 = true)
    (hrange : ((pagesOfPay c.pay).all fun p => decide (p < 4096)) = true) (hdup : noDup (pagesOfPay c.pay) = true)
    (hfree : ((pagesOfPay c.pay).all fun p => ((s.takeEntries h n).freeFault h p).isNone) = true) :
    exec (.pageFree h) s = .next (((s.takeEntries h n).wipePages (pagesOfPay c.pay)).answered h c 0 []) := by
  refine Opcode.row_answered ht rfl ?_
  change cmdPageFree _ h c = _
  have hchecks : firstFail [(zero c.pay 2 2 && ((pagesOfPay c.pay).all fun p => decide (p < 4096)) && noDup (pagesOfPay c.pay), 0x22)] = none := by
    rw [firstFail_cons (by rw [hz, hrange, hdup]; rfl)]
    rfl
  rw [cmdPageFree]
  refine (State.checked_pass hchecks).trans ?_
  rw [worst_none hfree]

/-! ### WAVE_WRITE -/

theorem State.waveWrite_done {s : State} {h : Fin 8} {page off : Nat} {data : List Byte} (hpage : page ≤ 4095) (hoff : off ≤ 65535)
    (hdata : data ≠ []) (hfit : page * 65536 + off + data.length ≤ 4096 * 65536)
    (hfault : ((runOf page ((off + data.length + 65535) / 65536)).all fun p => (s.pageFault h p).isNone) = true) :
    s.waveWrite h page off data = .done (s.memDo (s.mem.writeBytes (page * 65536 + off) data)) 0 [] := by
  rw [State.waveWrite, if_neg (by omega), if_neg hdata, if_neg (by omega), worst_none hfault]

/-- A row that runs what `take` leaves. -/
theorem exec_waveWrite_ring {s : State} {h : Fin 8} {c : Cmd} {n : Nat} (hcmd : s.nextCmd h = .cmd c n) :
    exec (.waveWrite h) s = opWaveWrite.row h s := by
  change execWaveWrite h s = _
  rw [execWaveWrite, hcmd]
  rfl

theorem exec_waveWrite_bulk {s u : State} {h : Fin 8} {j : BulkJob} (hcmd : s.nextCmd h = .bulk j) (hcp0 : s.cp0Runs = true)
    (hroom : s.room h 1 = true) (hturn : s.turn h = true) (hu : u = (s.updHall h fun x => { x with bulks := x.bulks.tail }).takeEntries h 0)
    (hfence : u.hallFenced h = false) {v : State} {data : List Byte}
    (hwrite : u.waveWrite h (j.addr / 65536) (j.addr % 65536) (u.sramRead (stageBase j.port j.buf) j.len) = .done v 0 data) :
    exec (.waveWrite h) s = .next (v.answered h
      { op := 0x0403, tag := j.tag, flags := 0, len := 12, pay := [], via := .bulk j.port j.buf } 0 data) := by
  change execWaveWrite h s = _
  rw [execWaveWrite, hcmd]
  dsimp only
  rw [if_pos (by rw [hcp0, hturn]; rfl), State.takeBulk, if_neg (by simp [hroom])]
  dsimp only
  rw [← hu, if_neg (by simp [hfence]), hwrite]
  rfl

/-! ### WAVE_LOAD_SEALED -/

theorem cmdWaveLoadSealed_waits {s u : State} {h : Fin 8} {c : Cmd} {ds : List Nat} {len : Nat} (hz : zero c.pay 8 4 = true)
    (hfit : f16 c.pay 0 + f16 c.pay 2 ≤ 4096) (hfirst : f16 c.pay 0 ≤ 4095) (hfit' : f16 c.pay 4 + f16 c.pay 6 ≤ 4096)
    (hfirst' : f16 c.pay 4 ≤ 4095) (hdn : f16 c.pay 6 ≠ 0) (hds : ds = runOf (f16 c.pay 4) (f16 c.pay 6))
    (hlen : len = leNat (s.mem.rdList (f16 c.pay 0 * 65536 + 0x10) 4)) (hpkg : 0x60 + len ≤ f16 c.pay 2 * 65536)
    (hroom : len ≤ f16 c.pay 6 * 65536)
    (hmine : ((runOf (f16 c.pay 0) (f16 c.pay 2) ++ ds).all fun p => (s.mem.page p).hall == h.val && (s.mem.page p).state == .owned) = true)
    (hu : u = s.memDo (s.mem.readCws (runCws (f16 c.pay 0) (0x60 + len))))
    (hclean : ((runCws (f16 c.pay 0) (0x60 + len)).all fun w => !u.mem.flagged w) = true)
    (hgood : sealedBad (fun o k => s.mem.rdList (f16 c.pay 0 * 65536 + o) k) = false)
    (hver : leNat (s.mem.rdList (f16 c.pay 0 * 65536 + 4) 2) = 1)
    (hdest : (ds.all fun p => (u.pageFault h p).isNone && !u.referenced h p) = true) :
    cmdWaveLoadSealed s h c = .wait ({ u with mem := u.mem.claim ds h.val .sealing }.unwrapPkg h (f16 c.pay 0))
      (.sealed (f16 c.pay 0) ds len) := by
  have hfault : (ds.all fun p => (u.pageFault h p).isNone) = true :=
    List.all_eq_true.mpr fun p hp => (Bool.and_eq_true_iff.mp (List.all_eq_true.mp hdest p hp)).1
  have href : ds.any (u.referenced h) = false := by
    rw [List.any_eq_false]
    intro p hp
    simpa using (Bool.and_eq_true_iff.mp (List.all_eq_true.mp hdest p hp)).2
  have hflag : ((runCws (f16 c.pay 0) (0x60 + len)).any fun w => u.mem.flagged w) = false := by
    rw [List.any_eq_false]
    intro w hw
    simpa using List.all_eq_true.mp hclean w hw
  rw [cmdWaveLoadSealed]
  dsimp only
  rw [if_neg (by rw [hz]; simp; omega), if_neg (by omega), if_neg (by omega), ← hds, ← hlen, if_neg (by omega), if_neg, ← hu,
    if_neg (by rw [hflag, hgood]; simp), if_neg (by simp [hver]), worst_none hfault]
  · dsimp only
    rw [if_neg (by simp [href])]
  · rw [Bool.not_eq_false, List.all_eq_true]
    intro p hp
    obtain ⟨hhall, hstate⟩ := Bool.and_eq_true_iff.mp (List.all_eq_true.mp hmine p hp)
    rw [hhall, eq_of_beq hstate]
    rfl

/-- Settles O23, from what each command's body comes to. -/
theorem pageCommandsComplete : Obligations.PageCommandsComplete := by
  rintro s h c n t rfl
  refine ⟨fun ps ht hmode hz hn hmax hpages hext => ?_, exec_pageFree, fun ht hz hpage hoff hdata hfit hfault => ?_,
    fun j u data hcmd hcp0 hroom hturn hu hdata hfence hne hpage hfit hfault => ?_,
    fun ds len ht hz hfit hfirst hfit' hfirst' _ hdn hds hlen hpkg hroom hmine u hu hclean hgood hver hdest =>
      Opcode.row_waits ht rfl (cmdWaveLoadSealed_waits hz hfit hfirst hfit' hfirst' hdn hds hlen hpkg hroom hmine hu hclean hgood hver hdest)⟩
  · refine next_eq (congrArg State.servePages ?_)
    rw [Opcode.take_of_takes ht (by simp [Opcode.is, ht.2.2.2.2.1])]
    have hbody : opPageAlloc.body (s.takeEntries h n (opPageAlloc.need s h c)) h c = .done
        { s.takeEntries h n (opPageAlloc.need s h c) with mem := (s.takeEntries h n).mem.claim ps h.val .owned } 0 (pageResult ps) :=
      cmdPageAlloc_takes (s := s.takeEntries h n (opPageAlloc.need s h c)) hmode hz hn hmax hpages hext
    rw [hbody, State.finish_done]
    rfl
  · refine (exec_waveWrite_ring ht.2.2.2.1).trans (Opcode.row_answered ht rfl ?_)
    change cmdWaveWrite _ h c = _
    rw [cmdWaveWrite, if_neg (by rw [hz]; simp), State.waveWrite_done hpage (by omega) hdata hfit hfault]
  · subst hdata
    refine exec_waveWrite_bulk hcmd hcp0 hroom hturn hu hfence (State.waveWrite_done hpage (by omega) hne (by omega) hfault)

end Sys2Proof.Machine
end

section
/-! PROOF. Events: what their arrival fixes (spec/02_time_and_determinism.md R52–R55), and the commands that queue them
(spec/13_command_set.md R365, R378–R381). -/

namespace Sys2Proof.Machine

/-! ### Arrival -/

theorem evInsert_length (e : Ev) (l : List Ev) : (evInsert e l).length = l.length + 1 := by
  induction l with
  | nil => rfl
  | cons f fs ih =>
    rw [evInsert]
    split
    · rfl
    · simp [ih]

/-- A late event's note, on what an arrival gives. -/
theorem State.noteLate_notes (s : State) (h : Fin 8) (src org : Nat) :
    (s.noteLate h src org).sched.lateCnt = satInc s.sched.lateCnt 1 ∧ (s.noteLate h src org).sched.guar = setFlag s.sched.guar 2 ∧
    ((s.noteLate h src org).halls.get h).queue = (s.halls.get h).queue ∧
    ((s.noteLate h src org).halls.get h).lateCnt = satInc (s.halls.get h).lateCnt 1 ∧
    ∀ m, m ≠ h → (s.noteLate h src org).halls.get m = s.halls.get m := by
  unfold State.noteLate
  extract_lets f now _ a logged b
  obtain ⟨irqf, e⟩ := State.guar_shape ({ s with sched := { s.sched with lateCnt := satInc s.sched.lateCnt 1, lateLast := now } }) 2
  have ha : a.sched.lateCnt = satInc s.sched.lateCnt 1 ∧ a.sched.guar = setFlag s.sched.guar 2 ∧ a.halls = s.halls := by
    rw [show a = _ from e]
    exact ⟨rfl, rfl, rfl⟩
  obtain ⟨hcnt, hguar, hhalls⟩ := ha
  have hb : b.sched = a.sched ∧ b.halls.get h = { s.halls.get h with lateCnt := satInc (s.halls.get h).lateCnt 1, lateLog := some f } ∧
      ∀ m, m ≠ h → b.halls.get m = s.halls.get m := by
    refine ⟨rfl, ?_, fun m hm => ?_⟩
    · rw [← hhalls]
      exact Tab.get_upd_same ..
    · rw [← hhalls]
      exact Tab.get_upd_ne _ _ hm.symm
  clear_value a b logged
  obtain ⟨hsched, hh, hm⟩ := hb
  split
  · rw [hsched, hh]
    exact ⟨hcnt, hguar, rfl, rfl, hm⟩
  · rw [State.log_sched, State.log_halls, hsched, hh]
    exact ⟨hcnt, hguar, rfl, rfl, hm⟩

/-- The event in its hall's queue, before a late one is noted. -/
structure State.Queued (s : State) (h : Fin 8) (v : State) : Prop where
  shape : ∃ sched halls, v = { s with sched := sched, halls := halls }
  lateCnt : v.sched.lateCnt = s.sched.lateCnt
  guar : v.sched.guar = s.sched.guar
  queue : (v.halls.get h).queue.length = (s.halls.get h).queue.length + 1
  lateOf : (v.halls.get h).lateCnt = (s.halls.get h).lateCnt
  others : ∀ m, m ≠ h → v.halls.get m = s.halls.get m

theorem State.arrive_queued (s : State) (h : Fin 8) (src tag org a T : Nat) (k : EvKind) (late : Bool)
    (hlate : late = (decide (T < a + s.lead) || decide (T < s.openAt))) : ∃ v, s.Queued h v ∧ s.arrive h src tag org a T k =
      (if late then v.noteLate h src org else v, if late then max T s.openAt else T, late) := by
  subst hlate
  unfold State.arrive
  extract_lets late at' e _ u v
  refine ⟨v, ?_, rfl⟩
  have hget : v.halls.get h = { s.halls.get h with
      queue := evInsert e (s.halls.get h).queue, qHigh := max (s.halls.get h).qHigh ((s.halls.get h).queue.length + 1) } :=
    Tab.get_upd_same ..
  refine ⟨⟨_, _, rfl⟩, rfl, rfl, ?_, ?_, fun m hm => Tab.get_upd_ne _ _ hm.symm⟩
  · rw [hget]
    exact evInsert_length ..
  · rw [hget]

/-- Settles O25, from `State.arrive_queued` and `State.noteLate_notes`. -/
theorem arrivalFixesTheAppliedTime : Obligations.ArrivalFixesTheAppliedTime := by
  intro s h src tag org a T k
  obtain ⟨v, hv, e⟩ := s.arrive_queued h src tag org a T k _ rfl
  obtain ⟨hcnt, hguar, hqueue, hlate, hothers⟩ := v.noteLate_notes h src org
  refine ⟨fun hlead hopen => ⟨v, ?_, hv.lateCnt, hv.guar, hv.queue⟩, fun h' => ⟨v.noteLate h src org, ?_, ?_, ?_, ?_, ?_⟩,
    fun u a' l hu => ?_⟩
  · rw [e, decide_eq_false (by omega), decide_eq_false (by omega)]
    rfl
  · have htrue : (decide (T < a + s.lead) || decide (T < s.openAt)) = true := by simpa using h'
    rw [e, htrue]
    rfl
  · rw [hcnt, hv.lateCnt]
  · rw [hguar, hv.guar]
  · rw [hqueue, hv.queue]
  · rw [hlate, hv.lateOf]
  · obtain ⟨sched, halls, irqf, nv, mgmt, hshape⟩ := s.arrive_shape h src tag org a T k
    have hu' : (s.arrive h src tag org a T k).1 = u := congrArg Prod.fst hu
    have hhalls : ∀ m, m ≠ h → u.halls.get m = s.halls.get m := by
      intro m hm
      rw [← hu', e]
      dsimp only
      split
      · rw [hothers m hm, hv.others m hm]
      · rw [hv.others m hm]
    rw [hu'] at hshape
    rw [hshape] at hhalls ⊢
    exact ⟨rfl, rfl, rfl, rfl, hhalls⟩

/-! ### Commands that are events -/

/-- An event whose time is acceptable arrives, and its completion tells when it applies. -/
theorem State.timed_arrives {s : State} {h : Fin 8} {c : Cmd} {T : Nat} (hT : T = if c.immediate then s.time.et + s.lead else f64 c.pay 0)
    (hok : s.timeOk T = true) (k : EvKind) (extra : List Byte) : s.timed h c k extra =
      .done (s.arrive h 0 c.tag c.tag s.time.et T k).1 (if (s.arrive h 0 c.tag c.tag s.time.et T k).2.2 then 1 else 0)
        (leBytes 8 (s.arrive h 0 c.tag c.tag s.time.et T k).2.1 ++ extra) := by
  rw [State.timed]
  dsimp only
  rw [← hT, if_neg (by simp [hok])]

/-- An event whose own checks pass. -/
theorem State.checked_timed {s : State} {cs : List (Bool × Nat)} {h : Fin 8} {c : Cmd} {k : EvKind} {extra : List Byte}
    (hchecks : firstFail cs = none) : (s.checked cs fun s => s.timed h c k extra) = s.timed h c k extra := State.checked_pass hchecks

theorem firstFail_one {b : Bool} {st : Nat} (hb : b = true) : firstFail [(b, st)] = none := firstFail_cons hb

section Events
variable {o : Opcode} {s t : State} {h : Fin 8} {c : Cmd} {n T : Nat} {k : EvKind} {extra : List Byte}

/-- What a command that is taken and is an event comes to, whichever row takes it. -/
theorem Opcode.take_timed {sel : Cmd → Bool} (ht : t = s.takeEntries h n) (hT : T = if c.immediate then t.time.et + t.lead else f64 c.pay 0)
    (hok : t.timeOk T = true) (htake : s.Takes o h c n) (hsel : sel c = true) (hneed : o.need = needOne)
    (hbody : o.body t h c = t.timed h c k extra) : ∃ a late u, t.arrive h 0 c.tag c.tag t.time.et T k = (u, a, late) ∧
      o.take sel h s = u.answered h c (if late then 1 else 0) (leBytes 8 a ++ extra) := by
  refine ⟨_, _, _, rfl, ?_⟩
  have hone : o.need s h c = 1 := by rw [hneed]; rfl
  rw [Opcode.take_of_takes htake hsel, hone, ← ht, hbody, State.timed_arrives hT hok]
  rfl

theorem Opcode.row_timed (ht : t = s.takeEntries h n) (hT : T = if c.immediate then t.time.et + t.lead else f64 c.pay 0)
    (hok : t.timeOk T = true) (htake : s.Takes o h c n) (hneed : o.need = needOne) (hbody : o.body t h c = t.timed h c k []) :
    ∃ a late u, t.arrive h 0 c.tag c.tag t.time.et T k = (u, a, late) ∧
      o.row h s = .next (u.answered h c (if late then 1 else 0) (leBytes 8 a)) := by
  obtain ⟨a, late, u, ha, hrow⟩ := Opcode.take_timed ht hT hok htake (sel := o.is) (by simp [Opcode.is, htake.2.2.2.2.1]) hneed hbody
  rw [List.append_nil] at hrow
  exact ⟨a, late, u, ha, next_eq hrow⟩

end Events

/-- Settles O24, each from `Opcode.row_timed`. -/
theorem voiceEventsAreQueued : Obligations.VoiceEventsAreQueued := by
  intro s h c n t T ht hT hok
  refine ⟨fun htake hchecks => ?_, fun htake hz => ?_, fun htake hz => ?_, fun htake hchecks => ?_, fun htake hchecks => ?_,
    fun htake hctrl => ?_⟩
  · obtain ⟨a, late, u, ha, hrow⟩ := Opcode.row_timed ht hT hok htake rfl (State.checked_timed hchecks)
    rw [ha]
    exact hrow
  · exact Opcode.row_timed ht hT hok htake rfl (State.checked_timed (firstFail_one hz))
  · exact Opcode.row_timed ht hT hok htake rfl (State.checked_timed (firstFail_one hz))
  · exact Opcode.row_timed ht hT hok htake rfl (State.checked_timed hchecks)
  · exact Opcode.row_timed ht hT hok htake rfl (State.checked_timed hchecks)
  · exact Opcode.row_timed ht hT hok htake rfl (State.checked_timed (firstFail_one hctrl))

/-! ### BUS_ROUTE (R381) -/

section BusRoute
variable {body : State → Fin 8 → Cmd → Res} {s t : State} {h : Fin 8} {c : Cmd} {n T op : Nat} {k : EvKind}

/-- An operation of BUS_ROUTE that passes its checks. -/
theorem busRow_timed {extra : List Byte} (ht : t = s.takeEntries h n) (hT : T = if c.immediate then t.time.et + t.lead else f64 c.pay 0)
    (hok : t.timeOk T = true) (htake : s.Takes (opBus body) h c n) (hop : f8 c.pay 8 = op) (hle : op ≤ 4)
    (hbody : body t h c = t.timed h c k extra) : ∃ a late u, t.arrive h 0 c.tag c.tag t.time.et T k = (u, a, late) ∧
      busRow op body h s = .next (u.answered h c (if late then 1 else 0) (leBytes 8 a ++ extra)) := by
  have hsel : (c.op == 0x0601 && busOp c == op) = true := by
    rw [htake.2.2.2.2.1, busOp, hop, if_pos hle]
    simp [opBus]
  obtain ⟨a, late, u, ha, hrow⟩ := Opcode.take_timed (sel := fun c => c.op == 0x0601 && busOp c == op) ht hT hok htake hsel rfl hbody
  exact ⟨a, late, u, ha, next_eq hrow⟩

theorem busRow_timed_nil (ht : t = s.takeEntries h n) (hT : T = if c.immediate then t.time.et + t.lead else f64 c.pay 0)
    (hok : t.timeOk T = true) (htake : s.Takes (opBus body) h c n) (hop : f8 c.pay 8 = op) (hle : op ≤ 4)
    (hbody : body t h c = t.timed h c k []) : ∃ a late u, t.arrive h 0 c.tag c.tag t.time.et T k = (u, a, late) ∧
      busRow op body h s = .next (u.answered h c (if late then 1 else 0) (leBytes 8 a)) := by
  obtain ⟨a, late, u, ha, hrow⟩ := busRow_timed ht hT hok htake hop hle hbody
  rw [List.append_nil] at hrow
  exact ⟨a, late, u, ha, hrow⟩

end BusRoute

theorem cmdInRoute_timed {s : State} {h : Fin 8} {c : Cmd} {k : Nat} (hz : busZero c.pay = true) (hop : f8 c.pay 8 = 0)
    (hi : f8 c.pay 9 < 32 ∨ f8 c.pay 9 = 0xFF) (hlane : f8 c.pay 10 ≤ 1) (hslot : f8 c.pay 11 ≤ 15) (hbus : f8 c.pay 12 < 64)
    (hlvl : isS24 (s32 c.pay 16) = true) (hmask : s.inMask h (f8 c.pay 12) = true) (hk : s.routeFor (f8 c.pay 9) = some k)
    (hown : s.routeOwner k = none ∨ s.routeOwner k = some h.val) : cmdInRoute s h c =
      s.timed h c (.inRoute k (f8 c.pay 10) (f8 c.pay 11) (f8 c.pay 12) (w32 c.pay 16 &&& 0x00FFFFFF#32)) [byte k] := by
  rw [cmdInRoute, State.checked_pass, hk]
  · exact if_pos hown
  · rw [firstFail_cons (by simp [hz, hop, hi, hlane, hslot, hbus, hlvl]), firstFail_cons hmask]
    rfl

/-- Settles O26, from the checks of each operation. -/
theorem busRoutesAreQueued : Obligations.BusRoutesAreQueued := by
  intro s h c n t T ht hT hok hz
  refine ⟨fun k htake hop hi hlane hslot hbus hlvl hmask hk hown => ?_, fun htake hop hi hown => ?_,
    fun htake h0 hop hslot hen hsel => ?_, fun htake h0 hop hch hselEn hrange hsel hen hgrade => ?_, fun htake hop hmask => ?_⟩
  · exact busRow_timed ht hT hok htake hop (by omega) (cmdInRoute_timed hz hop hi hlane hslot hbus hlvl hmask hk hown)
  · refine busRow_timed_nil ht hT hok htake hop (by omega) (State.checked_timed ?_)
    rw [firstFail_cons (by simp [hz, hi]), firstFail_cons (by rcases hown with h | h <;> simp [h])]
    rfl
  · subst h0
    refine busRow_timed_nil ht hT hok htake hop (by omega) (State.checked_timed ?_)
    rw [firstFail_cons (by simp [hz, hslot, hen, hsel])]
    rfl
  · subst h0
    refine busRow_timed_nil ht hT hok htake hop (by omega) (State.checked_timed ?_)
    rw [firstFail_cons (by simp [hz, hch, hselEn, hrange, hsel, hen]), firstFail_cons (by decide),
      firstFail_cons (by simpa using hgrade)]
    rfl
  · refine busRow_timed_nil ht hT hok htake hop (by omega) (State.checked_timed ?_)
    rw [firstFail_cons hz, firstFail_cons (by simpa using hmask)]
    rfl

end Sys2Proof.Machine
end

section
/-! PROOF. Output and spectral commands (spec/13_command_set.md R382–R384, spec/08_spectral_unit.md R235–R243). -/

namespace Sys2Proof.Machine

/-! ### EQ_LOAD and DETECTOR_CFG -/

theorem cmdEqLoad_waits {s : State} {h : Fin 8} {c : Cmd} (hz : zero c.pay 2 2 = true) (hbus : f8 c.pay 0 < 64) (hfmt : f8 c.pay 1 ≤ 1)
    (hvals : (eqVals c.pay).all isS24 = true) (hmask : s.inMask h (f8 c.pay 0) = true) : cmdEqLoad s h c =
      .wait (s.updOut (Fin.ofNat 64 (f8 c.pay 0)) fun x => { x with loads := x.loads ++ [(h.val, coefsOf (eqVals c.pay))] })
        (.eqLoad (f8 c.pay 0)) := by
  rw [cmdEqLoad, State.checked_pass]
  rw [firstFail_cons (by rw [hvals]; simp [hz, hbus, hfmt]), firstFail_cons hmask]
  rfl

theorem cmdDetectorCfg_done {s : State} {h : Fin 8} {c : Cmd} (hbus : f8 c.pay 0 < 64) (hin : f8 c.pay 1 < 8 ∨ f8 c.pay 1 = 0xFF)
    (hwhich : f8 c.pay 2 ≤ 3) (hset : f8 c.pay 3 < 2) (hvals : ([4, 8, 12, 16].all fun o => decide (f32 c.pay o < 2 ^ 24)) = true)
    (hmask : s.inMask h (f8 c.pay 0) = true) : cmdDetectorCfg s h c = .done
      (if f8 c.pay 1 = 0xFF then (if f8 c.pay 3 = 1 then s.detCoefs (f8 c.pay 0) c.pay else s)
        else (if f8 c.pay 3 = 1 then s.detCoefs (f8 c.pay 0) c.pay else s).detBind h (f8 c.pay 1) (f8 c.pay 0) (f8 c.pay 2)) 0 [] := by
  rw [cmdDetectorCfg, State.checked_pass]
  rw [firstFail_cons (by rw [hvals]; simp [hbus, hin, hwhich, hset]), firstFail_cons hmask]
  rfl

/-! ### CONV_LOAD and CONV_ROUTE -/

theorem cmdConvLoad_builds {s u : State} {h k : Fin 8} {c : Cmd} {b : Build} {ps : List Nat} (hhalt : s.spec.halted = false)
    (hz3 : zero c.pay 3 1 = true) (hz6 : zero c.pay 6 2 = true) (hch : f8 c.pay 0 ≤ 7) (hfmt : f8 c.pay 1 ≤ 1)
    (hlo : -16 ≤ signed 8 (f8 c.pay 2)) (hhi : signed 8 (f8 c.pay 2) ≤ 16) (hfirst : f16 c.pay 4 ≤ 4095) (hT : f32 c.pay 8 ≠ 0)
    (hmax : f32 c.pay 8 ≤ 2097152) (hfit : f16 c.pay 4 + (tapBytes (f8 c.pay 1) * f32 c.pay 8 + 65535) / 65536 ≤ 4096)
    (hk : k = Fin.ofNat 8 (f8 c.pay 0)) (hb : b = buildOf c.pay)
    (hmine : (s.spec.ch.get k).owner = none ∨ (s.spec.ch.get k).owner = some h.val)
    (hread : (spanOf (f16 c.pay 4) (tapBytes (f8 c.pay 1) * f32 c.pay 8)).all (s.mayRead h) = true)
    (hu : u = s.memDo (s.mem.readCws (runCws (f16 c.pay 4) (tapBytes (f8 c.pay 1) * f32 c.pay 8))))
    (hclean : ((runCws (f16 c.pay 4) (tapBytes (f8 c.pay 1) * f32 c.pay 8)).any fun w => u.mem.flagged w) = false)
    (hfits : u.convFits k b = true) (hpages : u.pagesFor h (convPages b.parts) false = .take ps) :
    cmdConvLoad s h c =
      .wait ((u.updSpec k fun x => { x with owner := some h.val, build := some b }).convBuild k h.val ps) (.conv k.val) := by
  have hown : ¬ ((match (s.spec.ch.get k).owner with | some o => o == h.val | none => true) = false ∨
      ((spanOf (f16 c.pay 4) (tapBytes (f8 c.pay 1) * f32 c.pay 8)).all (s.mayRead h)) = false) := by
    rw [hread]
    rcases hmine with e | e <;> simp [e]
  have htake : u.convTake h k b =
      .wait ((u.updSpec k fun x => { x with owner := some h.val, build := some b }).convBuild k h.val ps) (.conv k.val) := by
    rw [State.convTake, hpages]
  rw [cmdConvLoad]
  dsimp only
  rw [if_neg (by rw [hz3, hz6]; simp; omega), if_neg hT, if_neg (by omega), if_neg (by simp [hhalt]), ← hk, ← hb]
  refine (if_neg hown).trans ?_
  rw [← hu, if_neg (by rw [hclean]; simp), if_neg (by simp [hfits]), htake]

section Route
variable {s : State} {h k : Fin 8} {c : Cmd} (hhalt : s.spec.halted = false) (hch : f8 c.pay 0 < 8) (hfl : f8 c.pay 1 < 8)
  (hk : k = Fin.ofNat 8 (f8 c.pay 0)) (hown : (s.spec.ch.get k).owner = some h.val) (hstay : (s.spec.ch.get k).leaving = false)
include hhalt hch hfl hk hown hstay

theorem cmdConvRoute_releases (hrel : f8 c.pay 1 % 2 = 1) : cmdConvRoute s h c = .done (s.convRelease k) 0 [] := by
  rw [cmdConvRoute, State.checked_pass]
  · rw [if_pos hrel, hk]
  · rw [← hk, firstFail_cons (by simp [hch, hfl, hrel]), firstFail_cons (by simp [hhalt]), firstFail_cons (by simp [hown, hstay]),
      firstFail_cons (by simp [hrel])]
    rfl

theorem cmdConvRoute_configures (hset : f8 c.pay 1 % 2 = 0) (hok : convRouteOk c.pay = true)
    (hleft : f8 c.pay 1 / 2 % 2 = 1 → s.inMask h (f8 c.pay 4) = true) (hright : f8 c.pay 1 / 4 % 2 = 1 → s.inMask h (f8 c.pay 5) = true)
    (hsrc : f8 c.pay 2 = 1 → s.inMask h (f8 c.pay 3) = true) : cmdConvRoute s h c = .done (s.convRoute k c.pay) 0 [] := by
  have hbuses : (((if f8 c.pay 1 / 2 % 2 = 1 then [f8 c.pay 4] else []) ++ (if f8 c.pay 1 / 4 % 2 = 1 then [f8 c.pay 5] else []) ++
      (if f8 c.pay 2 = 1 then [f8 c.pay 3] else [])).all (s.inMask h)) = true := by
    rw [List.all_append, List.all_append]
    have hone (b : Prop) [Decidable b] (x : Nat) (hx : b → s.inMask h x = true) : (if b then [x] else []).all (s.inMask h) = true := by
      split
      next hb => simp [hx hb]
      next => rfl
    rw [hone _ _ hleft, hone _ _ hright, hone _ _ hsrc]
    rfl
  rw [cmdConvRoute, State.checked_pass]
  · rw [if_neg (by omega), hk]
  · rw [← hk, firstFail_cons (by simp [hch, hfl, hok]), firstFail_cons (by simp [hhalt]), firstFail_cons (by simp [hown, hstay]),
      firstFail_cons (by rw [hbuses]; simp)]
    rfl

end Route

/-! ### RESYN_CFG -/

section Resyn
variable {s : State} {h : Fin 8} {c : Cmd} {a : Fin 2} (hhalt : s.spec.halted = false) (hok : resynOk c.pay = true)
  (ha : a = Fin.ofNat 2 (f8 c.pay 0))
include hhalt hok ha

theorem cmdResynCfg_releases (hrel : f8 c.pay 1 = 0) (hown : anOwner (s.spec.an.get a) = some h.val) :
    cmdResynCfg s h c = .done (s.anRelease a) 0 [] := by
  rw [cmdResynCfg, State.checked_pass]
  · rw [if_pos (by simp [hrel]), ha]
  · rw [← ha, firstFail_cons hok, firstFail_cons (by simp [hhalt]), firstFail_cons (by simp [hown]), firstFail_cons (by simp [hrel]),
      firstFail_cons (by simp [hrel])]
    rfl

theorem cmdResynCfg_configures (hset : f8 c.pay 1 = 1) (hown : anOwner (s.spec.an.get a) = none ∨ anOwner (s.spec.an.get a) = some h.val)
    (hmine : s.anMine h c.pay = true) (hfits : s.anFits a h.val c.pay = true) : cmdResynCfg s h c =
      if (s.anSet a h.val c.pay).pwr.on pdSpec = true then .done (s.anSet a h.val c.pay) 0 []
      else .wait ((s.anSet a h.val c.pay).switchOn pdSpec) (.specPower c.pay) := by
  rw [cmdResynCfg, State.checked_pass]
  · rw [if_neg (by simp [hset]), ha]
  · rw [← ha, firstFail_cons hok, firstFail_cons (by simp [hhalt]), firstFail_cons (by rcases hown with e | e <;> simp [e, hset]),
      firstFail_cons (by simp [hmine]), firstFail_cons (by simp [hfits])]
    rfl

end Resyn

theorem State.anSet_pwr (s : State) (a : Fin 2) (h : Nat) (p : List Byte) : (s.anSet a h p).pwr = s.pwr := rfl

/-- Settles O27, from what each command's body comes to. -/
theorem outputAndSpectralCommandsComplete : Obligations.OutputAndSpectralCommandsComplete := by
  refine ⟨?_, ?_⟩
  · intro s h c n t T ht hT
    refine ⟨fun htake hz hbus hfmt hvals hmask => ?_, fun htake hok hz hbus hxf hmask => ?_, fun htake hok hbus hint hfrac hmask => ?_,
      fun htake hbus hin hwhich hset hvals hmask => ⟨_, rfl, ?_⟩⟩
    · subst ht
      exact Opcode.row_waits htake rfl (cmdEqLoad_waits hz hbus hfmt hvals hmask)
    · refine Opcode.row_timed ht hT hok htake rfl (State.checked_timed ?_)
      rw [firstFail_cons (by simp [hz, hbus]), firstFail_cons (by simp [hxf]), firstFail_cons hmask]
      rfl
    · refine Opcode.row_timed ht hT hok htake rfl (State.checked_timed ?_)
      rw [firstFail_cons (by simp [hbus]), firstFail_cons (by simp [hint, hfrac]), firstFail_cons hmask]
      rfl
    · subst ht
      exact Opcode.row_answered htake rfl (cmdDetectorCfg_done hbus hin hwhich hset hvals hmask)
  · rintro s h c n t rfl hhalt
    refine ⟨fun k b u ps htake _ hz3 hz6 hch hfmt hlo hhi hfirst hT hmax hfit hk hb hmine hread hu hclean hfits hpages => ?_,
      fun k htake hch hfl hk hown hstay => ⟨fun hrel => ?_, fun hset hok hleft hright hsrc => ?_⟩,
      fun a htake hok ha => ⟨fun hrel hown => ?_, fun hset hown hmine hfits hon => ?_, fun hset hown hmine hfits hoff => ?_⟩⟩
    · exact next_eq (congrArg State.servePages (Opcode.take_waits htake rfl
        (cmdConvLoad_builds hhalt hz3 hz6 hch hfmt hlo hhi hfirst hT hmax hfit hk hb hmine hread hu hclean hfits hpages)))
    · exact Opcode.row_answered htake rfl (cmdConvRoute_releases hhalt hch hfl hk hown hstay hrel)
    · exact Opcode.row_answered htake rfl (cmdConvRoute_configures hhalt hch hfl hk hown hstay hset hok hleft hright hsrc)
    · exact Opcode.row_answered htake rfl (cmdResynCfg_releases hhalt hok ha hrel hown)
    · refine Opcode.row_answered htake rfl ((cmdResynCfg_configures hhalt hok ha hset hown hmine hfits).trans (if_pos ?_))
      rw [State.anSet_pwr, hon]
    · refine Opcode.row_waits htake rfl ((cmdResynCfg_configures hhalt hok ha hset hown hmine hfits).trans (if_neg ?_))
      rw [State.anSet_pwr, hoff]
      simp

end Sys2Proof.Machine
end

section
/-! PROOF. TRIGGER_MAP, FENCE_STATUS and LOG_READ (spec/13_command_set.md R386–R388). -/

namespace Sys2Proof.Machine

section Selected
variable {o : Opcode} {sel : Cmd → Bool} {s t : State} {h : Fin 8} {c : Cmd} {n st : Nat} {data : List Byte}

/-- A command that a row's own choice takes and that completes with one entry. -/
theorem Opcode.take_answered (ht : s.Takes o h c n) (hsel : sel c = true) (hneed : o.need = needOne)
    (hbody : o.body (s.takeEntries h n) h c = .done t st data) : o.take sel h s = t.answered h c st data := by
  have hone : o.need s h c = 1 := by rw [hneed]; rfl
  rw [Opcode.take_of_takes ht hsel, hone, hbody, State.finish_done]

theorem Opcode.take_begun {what : WaitFor} (ht : s.Takes o h c n) (hsel : sel c = true) (hneed : o.need = needOne)
    (hbody : o.body (s.takeEntries h n) h c = .wait t what) : o.take sel h s = t.begun h c 1 what := by
  have hone : o.need s h c = 1 := by rw [hneed]; rfl
  rw [Opcode.take_of_takes ht hsel, hone, hbody, State.finish_wait]

end Selected

theorem Opcode.is_of_takes {o : Opcode} {s : State} {h : Fin 8} {c : Cmd} {n : Nat} (ht : s.Takes o h c n) : o.is c = true := by
  simp [Opcode.is, ht.2.2.2.2.1]

theorem cmdTriggerMap_maps {s : State} {h g : Fin 8} {c : Cmd} {map : Option TrigMap} (hg : f8 c.pay 0 < 8) (hfl : f8 c.pay 1 < 8)
    (htmpl : (templateLen (f16 c.pay 4)).isSome = true) (hz : zero c.pay 6 2 = true) (hoff : f64 c.pay 8 < 2 ^ 41)
    (hgdef : g = Fin.ofNat 8 (f8 c.pay 0)) (hown : (s.time.trg.get g).map = none ∨ ((s.time.trg.get g).map.map (·.hall)) = some h.val)
    (hmap : map = if f8 c.pay 1 % 2 = 1 then some { hall := h.val, edges := f8 c.pay 1 / 2 % 4, tag := f16 c.pay 2, opcode := f16 c.pay 4,
                                                    offset := f64 c.pay 8, template := c.pay.drop 16 } else none) :
    cmdTriggerMap s h c = .done (s.updTrg g fun x => { x with map := map }) 0 [] := by
  rw [cmdTriggerMap, State.checked_pass]
  · rw [hmap, hgdef]
  · have hwf : f64 c.pay 8 < 2199023255552 := hoff
    rw [firstFail_cons (by simp [hg, hfl, htmpl, hz, hwf]), ← hgdef]
    refine firstFail_one ?_
    rcases hown with e | e
    · rw [e]
    · obtain ⟨m, hm, hh⟩ := Option.map_eq_some_iff.mp e
      rw [hm]
      exact beq_iff_eq.mpr hh

theorem exec_fenceStatusLift {s u : State} {c : Cmd} {n : Nat} (ht : s.Takes opFenceLift 0 c n) (hop : f8 c.pay 0 = 1)
    (hu : u = (s.takeEntries 0 n).liftUnit (f8 c.pay 1) (f16 c.pay 2)) :
    (u.fence.busy.isSome = true → exec (.fenceStatusLift 0) s = .next (u.begun 0 c 1 (.lift (f8 c.pay 1) (f16 c.pay 2)))) ∧
    (u.fence.busy = none → exec (.fenceStatusLift 0) s = .next (u.answered 0 c (fenceStatus u.fence.code) [])) := by
  have hsel : (opFenceLift.is c && f8 c.pay 0 == 1) = true := by rw [Opcode.is_of_takes ht, hop]; rfl
  have hbody : cmdFenceLift (s.takeEntries 0 n) 0 c =
      if u.fence.busy.isSome then .wait u (.lift (f8 c.pay 1) (f16 c.pay 2)) else .done u (fenceStatus u.fence.code) [] := by
    rw [cmdFenceLift, State.checked_pass rfl, ← hu]
  exact ⟨fun hbusy => next_eq (Opcode.take_begun ht hsel rfl (hbody.trans (if_pos hbusy))),
    fun hfree => next_eq (Opcode.take_answered ht hsel rfl (hbody.trans (if_neg (by simp [hfree]))))⟩

/-- Settles O28, from what each command's body comes to. -/
theorem statusCommandsComplete : Obligations.StatusCommandsComplete := by
  rintro s h c n t rfl
  refine ⟨fun g map ht hg hfl htmpl hz hoff hgdef hown hmap =>
      Opcode.row_answered ht rfl (cmdTriggerMap_maps hg hfl htmpl hz hoff hgdef hown hmap),
    fun ht hop => ?_, fun u ht hop h0 _ hu => ?_, fun ht hsrc hz hmax => ?_⟩
  · refine next_eq (Opcode.take_answered ht (by rw [Opcode.is_of_takes ht, hop]; rfl) rfl ?_)
    change cmdFenceStatus _ h c = _
    rw [cmdFenceStatus, State.checked_pass (firstFail_one (by rw [hop]; rfl))]
  · subst h0
    exact exec_fenceStatusLift ht hop hu
  · refine (Opcode.row_of_takes ht).trans (next_eq ?_)
    have hbody : opLogRead.body (s.takeEntries h n (opLogRead.need s h c)) h c =
        .done (s.takeEntries h n (opLogRead.need s h c)) 0 (logResult (f32 c.pay 0) ((s.takeEntries h n).logList h c.pay)) := by
      change cmdLogRead _ h c = _
      rw [cmdLogRead, State.checked_pass]
      · rfl
      · rw [firstFail_cons (by simp [hsrc, hz])]
        exact firstFail_one (decide_eq_true hmax)
    rw [hbody, State.finish_done]
    rfl

end Sys2Proof.Machine
end

section
/-! PROOF. The update and life-cycle commands (R389, R459–R463, R467). -/
namespace Sys2Proof.Machine

/-- A complete, signed image that fits is put on trial (R460, R461). -/
theorem State.updCommit_tries {s : State} {u : Upd} (restart : Bool) (hupd : s.mgmt.upd = some u) (hlen : u.len ≤ u.done)
    (hsig : (s.nv.slots.get u.slot).info.signed = true) (hfit : s.fwFits (s.nv.slots.get u.slot).info = true) :
    ∃ v : State, s.updCommit restart = (v, 0) ∧ v.nv.trial = some u.slot.val ∧ v.mgmt.upd = none ∧ v.nv.committed = s.nv.committed ∧
      v.nv.slots = s.nv.slots ∧ v.halls = s.halls ∧ v.mgmt.rst = if restart then some .update else s.mgmt.rst := by
  unfold State.updCommit
  rw [hupd]
  dsimp only
  rw [if_neg (Nat.not_lt.mpr hlen), if_neg (by simp [hsig]), if_neg (by simp [hfit])]
  refine ⟨_, rfl, ?_⟩
  generalize hw : (s.updRec sectorBoot fun v => { v with trial := some u.slot.val, fails := 0, selected := none }).updMgmt
    (fun m => { m with upd := none, rst := if restart then some .update else m.rst }) = w
  obtain ⟨_, _, _, hm⟩ := w.log_mgmt 0x0902 none [byte u.slot.val]
  obtain ⟨nv, mgmt, e, hcom, htri, -, -, hslots, -⟩ := w.logUpd_leaves 0x0902 u.slot
  rw [← State.logUpd, e] at hm
  have hm' : mgmt.upd = w.mgmt.upd ∧ mgmt.rst = w.mgmt.rst := ⟨congrArg (·.upd) hm, congrArg (·.rst) hm⟩
  rw [e]
  refine ⟨htri.trans ?_, hm'.1.trans ?_, hcom.trans ?_, hslots.trans ?_, ?_, hm'.2.trans ?_⟩ <;> rw [← hw] <;> rfl

/-- An acceptable other slot is selected for the next start (R462). -/
theorem State.updRollback_selects {s : State} (hacc : s.acceptable (otherSlot s.mgmt.slot) = true) :
    ∃ v : State, s.updRollback = (v, 0) ∧ v.nv.selected = some (otherSlot s.mgmt.slot).val ∧ v.nv.slots = s.nv.slots ∧
      v.nv.committed = s.nv.committed ∧ v.halls = s.halls := by
  unfold State.updRollback
  dsimp only
  rw [if_pos hacc]
  refine ⟨_, rfl, ?_⟩
  generalize hw : (s.updRec sectorBoot fun v => { v with selected := some (otherSlot s.mgmt.slot).val }) = w
  obtain ⟨_, _, _, _, hnv⟩ := w.log_nv 0x0906 none [byte (otherSlot s.mgmt.slot).val]
  obtain ⟨nv, mgmt, e, hcom, -, -, -, hslots, -⟩ := w.logUpd_leaves 0x0906 (otherSlot s.mgmt.slot)
  rw [← State.logUpd, e] at hnv
  have hsel : nv.selected = w.nv.selected := congrArg (·.selected) hnv
  rw [e]
  refine ⟨hsel.trans ?_, hslots.trans ?_, hcom.trans ?_, ?_⟩ <;> rw [← hw] <;> rfl

theorem State.lifeChange_allowed {s : State} {console : Bool} {cur tgt : Nat} {l : LifeCycle} (hcur : cur = s.nv.life.code)
    (htgt : LifeCycle.ofCode tgt = some l) (hok : lifeAllowed console s.nv.life l = true) :
    s.lifeChange console cur tgt = (s.lifeTo l, 0) := by
  unfold State.lifeChange
  rw [htgt]
  exact if_pos ⟨hcur, hok⟩

theorem cmdUpdBegin_opens {s : State} {h : Fin 8} {c : Cmd} (hz : zero c.pay 4 4 = true) (hmax : f32 c.pay 0 ≤ fwMax)
    (hn : f32 c.pay 0 ≠ 0) (hon : s.mgmt.onTrial = false) : cmdUpdBegin s h c = .wait (s.updOpen (f32 c.pay 0) none) .erase := by
  rw [cmdUpdBegin, State.checked_pass]
  · rw [if_neg hn, if_neg (by simp [hon])]
  · rw [firstFail_cons hz]
    exact firstFail_one (decide_eq_true hmax)

theorem cmdUpdChunk_programs {s u : State} {h : Fin 8} {c : Cmd} (hz : zero c.pay 6 2 = true) (hfirst : f16 c.pay 4 ≤ 4095)
    (hn : f32 c.pay 8 ≠ 0) (hend : f16 c.pay 4 * 65536 + f32 c.pay 8 ≤ 4096 * 65536) (hrefuse : s.updRefuse (f32 c.pay 0) (f32 c.pay 8) = none)
    (hfault : s.chunkFault h (spanOf (f16 c.pay 4) (f32 c.pay 8)) = none)
    (hu : u = s.memDo (s.mem.readCws (runCws (f16 c.pay 4) (f32 c.pay 8)))) :
    cmdUpdChunk s h c = .wait (u.updProgram (u.mem.rdList (f16 c.pay 4 * 65536) (f32 c.pay 8)) none) .program := by
  rw [cmdUpdChunk]
  dsimp only
  rw [if_neg (by simp [hz]; omega), if_neg hn, if_neg (by omega), hrefuse]
  dsimp only
  rw [hfault, hu]

/-- Settles O29, from what each command's body comes to. -/
theorem updateCommandsComplete : Obligations.UpdateCommandsComplete := by
  rintro s h c n t rfl -
  refine ⟨fun ht hz hmax hn hon => Opcode.row_waits ht rfl (cmdUpdBegin_opens (h := h) hz hmax hn hon),
    fun u ht hz hfirst hn hend hrefuse hfault hu =>
      Opcode.row_waits ht rfl (cmdUpdChunk_programs hz hfirst hn hend hrefuse hfault hu),
    fun u ht hkind hz hupd hlen hsig hfit => ?_, fun ht hacc => ?_, fun l ht hz hcur htgt hok => ?_⟩
  · obtain ⟨v, hv, htri, hnone, hcom, hslots, hhalls, hrst⟩ := State.updCommit_tries (f8 c.pay 0 == 1) hupd hlen hsig hfit
    refine ⟨v, Opcode.row_answered ht rfl ?_, htri, hnone, hcom, hslots, hhalls, ?_⟩
    · change cmdUpdCommit _ h c = _
      rw [cmdUpdCommit, State.checked_pass (firstFail_one (by simp [hkind, hz])), hv]
    · rw [hrst]
      simp only [beq_iff_eq]
      rfl
  · obtain ⟨v, hv, hsel, hslots, hcom, hhalls⟩ := State.updRollback_selects hacc
    refine ⟨v, Opcode.row_answered ht rfl ?_, hsel, hslots, hcom, hhalls⟩
    change cmdUpdRollback _ h c = _
    rw [cmdUpdRollback, hv]
  · refine Opcode.row_answered ht rfl ?_
    have hlife : (s.takeEntries h n).lifeChange false (f8 c.pay 0) (f8 c.pay 1) = ((s.takeEntries h n).lifeTo l, 0) :=
      State.lifeChange_allowed hcur htgt hok
    change cmdLifecycle _ h c = _
    rw [cmdLifecycle, State.checked_pass (firstFail_one hz), hlife]

end Sys2Proof.Machine
end

section
/-! PROOF. Power and serial commands (R69–R71, R217, R218, R389, R399, R404, R409, R476). -/
namespace Sys2Proof.Machine

variable {s u : State} {h : Fin 8} {c : Cmd}

theorem cmdPowerPolicy_sets (hf : f8 c.pay 0 < 8) (hz : zero c.pay 2 6 = true) (hcal : f8 c.pay 0 / 2 % 2 = 1 → s.nv.calValid = true) :
    cmdPowerPolicy s h c = .done (((({ s with pwr := { s.pwr with policy := putFlag s.pwr.policy 31 (f8 c.pay 0 % 2 == 1) } }
      : State).setMargin (f8 c.pay 1)).updMgmt fun m => { m with shed := f8 c.pay 0 / 4 % 2 == 1 }).measSet
        (f8 c.pay 0 / 2 % 2 == 1)) 0 [] := by
  have hmeas : (!(f8 c.pay 0 / 2 % 2 == 1) || s.calOk) = true := by
    by_cases hm : f8 c.pay 0 / 2 % 2 = 1
    · simp [State.calOk, hcal hm]
    · simp [hm]
  rw [cmdPowerPolicy, State.checked_pass]
  rw [firstFail_cons (by simp [hf, hz])]
  exact firstFail_one hmeas

theorem cmdGalleryPark_parks (hg : f8 c.pay 0 < 8) (hop : f8 c.pay 1 = 0) (hz : zero c.pay 2 2 = true)
    (hp : (s.gal.get (Fin.ofNat 8 (f8 c.pay 0))).parked = false) (hu : s.parkGal (Fin.ofNat 8 (f8 c.pay 0)) = some u) :
    cmdGalleryPark s h c = .wait u (.park (Fin.ofNat 8 (f8 c.pay 0))) := by
  rw [cmdGalleryPark, State.checked_pass]
  · rw [if_neg (by rw [hp]; exact fun e => Bool.noConfusion e.1), if_neg (by rw [hp]; exact Bool.noConfusion), hu]
  · exact firstFail_one (by simp [hg, hop, hz])

theorem cmdGalleryUnpark_wakes (hg : f8 c.pay 0 < 8) (hz : zero c.pay 2 2 = true)
    (hp : (s.gal.get (Fin.ofNat 8 (f8 c.pay 0))).parked = true) :
    cmdGalleryUnpark s h c = .wait (s.switchOn (pdGal (Fin.ofNat 8 (f8 c.pay 0)))) (.unpark (Fin.ofNat 8 (f8 c.pay 0))) := by
  rw [cmdGalleryUnpark, State.checked_pass]
  · rw [if_pos hp]
  · exact firstFail_one (by simp [hg, hz])

theorem cmdSerRole_gives (hk : f8 c.pay 0 < 4) (hrole : f8 c.pay 1 ≤ 4) (hz : zero c.pay 2 2 = true) (hz' : zero c.pay 10 2 = true)
    (hrate : roleRateOk (f8 c.pay 1) (f32 c.pay 4) = true) (haddr : roleAddrOk (f8 c.pay 1) (f16 c.pay 8) = true)
    (hfree : s.serHall (Fin.ofNat 4 (f8 c.pay 0)) = none) :
    cmdSerRole s h c = if f8 c.pay 1 = 0 ∨ s.pwr.on pdSerial = true then .done (s.giveRole c.pay) 0 []
      else .wait (s.switchOn pdSerial) (.serPower c.pay) := by
  rw [cmdSerRole, State.checked_pass]
  rw [firstFail_cons (by simp [hk, hrole, hz, hz'])]
  exact firstFail_one (by rw [hrate, haddr, hfree]; rfl)

theorem cmdDmxPatch_replaces {rest : List Patch} {k : Fin 4} (hk : k = Fin.ofNat 4 (f8 c.pay 0)) (hok : patchOk c.pay = true)
    (hn : f16 c.pay 2 ≠ 0) (hrole : (s.ser.get k).role = 2) (halive : (s.hall (f8 c.pay 1)).alive = true)
    (hrest : rest = (s.ser.get k).dmx.patch.filter (fun e => e.hall != f8 c.pay 1))
    (hlen : rest.length + (patchOf c.pay).length ≤ 64) (hfit : slotsFit (s.ser.get k).dmx.start (patchOf c.pay) = true)
    (hdup : noDup ((patchOf c.pay).map (·.ctl)) = true) :
    cmdDmxPatch s h c = .done (s.updSer k fun x => { x with dmx := { x.dmx with patch := rest ++ patchOf c.pay } }) 0 [] := by
  subst hk
  rw [cmdDmxPatch, if_neg hn, State.checked_pass]
  · rw [← hrest]
  · rw [← hrest, firstFail_cons hok, firstFail_cons (decide_eq_true hlen)]
    exact firstFail_one (by rw [hrole, halive, hfit, hdup]; rfl)

theorem cmdRdmIdent_identifies {k : Fin 4} (hk : k = Fin.ofNat 4 (f8 c.pay 0)) (hport : f8 c.pay 0 < 4) (hz : zero c.pay 1 1 = true)
    (hlo : 1 ≤ f16 c.pay 2) (hhi : f16 c.pay 2 ≤ 512) (hz' : zero c.pay 6 2 = true) (hlabel : labelOk (c.pay.drop 8) = true)
    (hrole : (s.ser.get k).role = 2) (hend : f16 c.pay 2 + f16 c.pay 4 ≤ 513)
    (hfit : slotsFit (f16 c.pay 2) (s.ser.get k).dmx.patch = true) :
    cmdRdmIdent s h c = .done (s.updSer k fun x =>
      { x with dmx := { x.dmx with start := f16 c.pay 2, foot := f16 c.pay 4, label := (c.pay.drop 8).takeWhile (· != 0#8) } }) 0 [] := by
  subst hk
  rw [cmdRdmIdent, State.checked_pass]
  rw [firstFail_cons (by simp [hport, hz, hlo, hhi, hz', hlabel])]
  exact firstFail_one (by rw [hrole, decide_eq_true hend, hfit]; rfl)

/-- Settles O30, from what each command's body comes to. -/
theorem powerAndSerialCommandsComplete : Obligations.PowerAndSerialCommandsComplete := by
  constructor
  · rintro s h c n t rfl hz
    refine ⟨fun ht hf hz' hcal => Opcode.row_answered ht rfl (cmdPowerPolicy_sets (h := h) hf hz' hcal),
      fun u ht hg hop hp hu => ?_, fun ht hg hop hp => ?_⟩
    · exact next_eq (Opcode.take_begun ht (by rw [Opcode.is_of_takes ht, hop]; rfl) rfl (cmdGalleryPark_parks (h := h) hg hop hz hp hu))
    · exact next_eq (Opcode.take_begun ht (by rw [Opcode.is_of_takes ht, hop]; rfl) rfl (cmdGalleryUnpark_wakes (h := h) hg hz hp))
  · rintro s h c n t k rfl rfl hk
    refine ⟨fun ht hrole hz hz' hrate haddr hfree => ?_, fun ht hok hn => ?_,
      fun rest ht hok hn hrole halive hrest hlen hfit hdup => Opcode.row_answered ht rfl
        (cmdDmxPatch_replaces (h := h) rfl hok hn hrole halive hrest hlen hfit hdup),
      fun ht hz hlo hhi hz' hlabel hrole hend hfit => Opcode.row_answered ht rfl
        (cmdRdmIdent_identifies (h := h) rfl hk hz hlo hhi hz' hlabel hrole hend hfit)⟩
    · have hbody := cmdSerRole_gives (h := h) hk hrole hz hz' hrate haddr hfree
      exact ⟨fun hon => Opcode.row_answered ht rfl (hbody.trans (if_pos hon)),
        fun hne hoff => Opcode.row_waits ht rfl (hbody.trans (if_neg (by simp [hne, hoff])))⟩
    · refine Opcode.row_answered ht rfl ?_
      change cmdDmxPatch _ h c = _
      rw [cmdDmxPatch, if_pos hn, State.checked_pass (firstFail_one hok)]

end Sys2Proof.Machine
end

section
/-! PROOF. MUTE_n: its causes, its release, and the sequences of the channels (spec/11_analog_outputs.md R313–R316). -/
namespace Sys2Proof.Machine

theorem Tab.upd_congr {α : Type} {n : Nat} {t : Tab α n} {i : Fin n} {f g : α → α} (hfg : f (t.get i) = g (t.get i)) :
    t.upd i f = t.upd i g := by
  rw [Tab.upd, Tab.upd, hfg]

/-! ### MUTE_n and DAC_READY over a word-clock edge -/

/-- The two signals of the mute: MUTE_n and DAC_READY. -/
def Dac.signals (d : Dac) : Bool × Bool := (d.mute, d.ready)

theorem State.latchOne_signals (s : State) (t : Nat) (e : Int) (n : Fin 16) : (s.latchOne t e n).dac.signals = s.dac.signals := by
  unfold State.latchOne
  split
  · rfl
  extract_lets r u _
  split
  · obtain ⟨irqf, h⟩ := ({ u with dac := { u.dac with ufCnt := satInc u.dac.ufCnt 1 } } : State).dacErr_shape 0
    rw [h]
    rfl
  · rfl

theorem State.latchAll_signals (s : State) (t : Nat) (e : Int) : (s.latchAll t e).dac.signals = s.muteOff.dac.signals :=
  foldl_keeps (fun u : State => u.dac.signals) (fun u n => u.latchOne_signals t e n) (List.finRange 16) s.muteOff

theorem State.clockRest_signals (s : State) : s.clockRest.dac.signals = s.dac.signals := by
  unfold State.clockRest
  extract_lets quiet
  split <;> rfl

theorem State.fillDac_signals (s : State) (n : Fin 16) : (s.fillDac n).dac.signals = s.dac.signals := by
  unfold State.fillDac
  split
  · rfl
  extract_lets c d late u _
  split
  · rfl
  · obtain ⟨irqf, h⟩ := ({ u with dac := { u.dac with ufCnt := satInc u.dac.ufCnt late } } : State).dacErr_shape 0
    rw [h]
    rfl

theorem State.fillOut_signals (s : State) : s.fillOut.dac.signals = s.dac.signals :=
  foldl_keeps (fun u : State => u.dac.signals) State.fillDac_signals (List.finRange 16) s

theorem State.wordClock_signals (s : State) : s.wordClock.dac.signals = (s.runTo (s.edgeEt s.dac.edge)).muteOff.dac.signals := by
  unfold State.wordClock
  extract_lets e t u _
  have hu : u.dac.signals = (s.runTo (s.edgeEt e)).muteOff.dac.signals := State.latchAll_signals ..
  clear_value u
  rw [State.fillOut_signals, State.clockRest_signals]
  exact hu

theorem Dac.signals_eq {d : Dac} {m r : Bool} (h : d.signals = (m, r)) : d.mute = m ∧ d.ready = r := Prod.mk.inj h

/-! ### The channels at an assertion and at the release -/

theorem DacCh.zeroNow_silent (c : DacCh) : c.zeroNow.code = 0 ∧ c.zeroNow.k = 0 ∧ c.zeroNow.hold = false := by
  unfold DacCh.zeroNow
  extract_lets d
  split
  · exact ⟨rfl, rfl, rfl⟩
  · split <;> exact ⟨rfl, rfl, rfl⟩

/-- With a word clock a channel outside a range sequence ramps down from the gain it has (R314). -/
theorem DacCh.muteOn_ramps {c : DacCh} (hr : c.ranging = false) (now : Nat) :
    (c.muteOn true now).seq = (if c.k = 0 then .zero else .down) ∧ (c.muteOn true now).k = c.k := by
  unfold DacCh.muteOn
  simp [hr, DacCh.rampDown]

/-- Without a word clock a channel holds its value, since now where it held none (R314). -/
theorem DacCh.muteOn_holds (c : DacCh) (now : Nat) : (c.muteOn false now).hold = true ∧ (c.muteOn false now).code = c.code ∧
    (c.hold = false → (c.muteOn false now).heldAt = now) :=
  ⟨rfl, rfl, fun h => by simp [DacCh.muteOn, h]⟩

theorem DacCh.muteOff_k (c : DacCh) (m : Nat) : (c.muteOff m).k = 0 := by
  unfold DacCh.muteOff
  extract_lets d
  split
  · rfl
  · split
    · rfl
    · split <;> rfl

/-- An enabled channel outside a range sequence holds zero code for the lead, then ramps up (R315). -/
theorem DacCh.muteOff_leads {c : DacCh} (hr : c.ranging = false) (hen : c.en = true) (m : Nat) :
    (c.muteOff m).lead = m ∧ (c.muteOff m).seq = if m = 0 then .up else .lead := by
  unfold DacCh.muteOff
  extract_lets d
  rw [if_neg (by simp [d, hr]), if_neg (by simp [d, hr]), if_pos (show d.en = true from hen)]
  exact ⟨rfl, rfl⟩

theorem Dac.cause_of_present {s : State} {c : MuteSrc} (hc : c ≠ .vref) (h : s.muteCausePresent c = true) :
    s.dac.cause s.anaOn = true := by
  unfold Dac.cause
  cases c with
  | vref => exact absurd rfl hc
  | ana => simp_all [State.muteCausePresent]
  | wclk => simp_all [State.muteCausePresent]
  | thermal => simp_all [State.muteCausePresent]
  | fwStop => simp_all [State.muteCausePresent]
  | request => simp_all [State.muteCausePresent]

theorem State.muteNow_of_cause {s : State} (h : s.dac.cause s.anaOn = true) :
    s.muteNow = { s with dac := s.dac.assertMute s.time.rclk } := if_pos h

theorem Dac.assertMute_signals (d : Dac) (now : Nat) : (d.assertMute now).signals = (true, false) := by
  unfold Dac.assertMute
  split
  next h => exact Prod.ext h.1 rfl
  · rfl

theorem Dac.assertMute_ch {d : Dac} (now : Nat) (h : d.mute = false ∨ d.wclkOk = false) (n : Fin 16) :
    (d.assertMute now).ch.get n = (d.ch.get n).muteOn d.wclkOk now := by
  unfold Dac.assertMute
  rw [if_neg (by rcases h with h | h <;> simp [h])]
  exact Tab.get_map ..

theorem State.vrefOut_silent (s : State) : ∃ dac irqf, s.vrefOut = { s with dac := dac, irqf := irqf } ∧ dac.signals = (true, false) ∧
    dac.vrefOk = false ∧ (s.dac.vrefOk = true → bit dac.err 1 = true) ∧
    ∀ n : Fin 16, (dac.ch.get n).code = 0 ∧ (dac.ch.get n).k = 0 ∧ (dac.ch.get n).hold = false := by
  have hsilent (d : Dac) (n : Fin 16) : (d.assertZero.ch.get n).code = 0 ∧ (d.assertZero.ch.get n).k = 0 ∧
      (d.assertZero.ch.get n).hold = false := by
    rw [Dac.assertZero, Tab.get_map]
    exact DacCh.zeroNow_silent _
  unfold State.vrefOut
  by_cases hok : s.dac.vrefOk = true
  · obtain ⟨irqf, h⟩ := ({ s with dac := { s.dac with vrefOk := false } } : State).dacErr_shape 1
    rw [if_pos hok, h]
    exact ⟨_, irqf, rfl, rfl, rfl, fun _ => bit_setFlag_same _ (by decide), hsilent _⟩
  · rw [if_neg hok]
    exact ⟨_, s.irqf, rfl, rfl, eq_false_of_ne_true hok, fun h => absurd h hok, hsilent _⟩

theorem exec_muteCause {s : State} {c : MuteSrc} (h : s.muteCausePresent c = true) :
    ∃ t : State, exec (.muteCause c) s = .next t ∧ t.dac.mute = true ∧ t.dac.ready = false ∧ t = { s with dac := t.dac, irqf := t.irqf } ∧
      (c = .vref → t.dac.vrefOk = false ∧ (s.dac.vrefOk = true → bit t.dac.err 1 = true) ∧
        ∀ n : Fin 16, (t.dac.ch.get n).code = 0 ∧ (t.dac.ch.get n).k = 0 ∧ (t.dac.ch.get n).hold = false) ∧
      (c ≠ .vref → s.dac.mute = false → s.dac.wclkOk = true → ∀ n : Fin 16, (s.dac.ch.get n).ranging = false →
        (t.dac.ch.get n).seq = (if (s.dac.ch.get n).k = 0 then .zero else .down) ∧ (t.dac.ch.get n).k = (s.dac.ch.get n).k) ∧
      (c ≠ .vref → s.dac.wclkOk = false → ∀ n : Fin 16, (t.dac.ch.get n).hold = true ∧ (t.dac.ch.get n).code = (s.dac.ch.get n).code ∧
        ((s.dac.ch.get n).hold = false → (t.dac.ch.get n).heldAt = s.time.rclk)) := by
  by_cases hc : c = .vref
  · obtain ⟨dac, irqf, e, hsig, hok, herr, hch⟩ := s.vrefOut_silent
    obtain ⟨hmute, hready⟩ := Dac.signals_eq hsig
    refine ⟨s.vrefOut, (next_when h).trans (by rw [if_pos hc]), ?_⟩
    rw [e]
    exact ⟨hmute, hready, rfl, fun _ => ⟨hok, herr, hch⟩, fun hne => absurd hc hne, fun hne => absurd hc hne⟩
  · obtain ⟨hmute, hready⟩ := Dac.signals_eq (s.dac.assertMute_signals s.time.rclk)
    refine ⟨{ s with dac := s.dac.assertMute s.time.rclk },
      (next_when h).trans (by rw [if_neg hc, State.muteNow_of_cause (Dac.cause_of_present hc h)]), hmute, hready, rfl,
      fun hv => absurd hv hc, fun _ hm hok n hr => ?_, fun _ hok n => ?_⟩
    · dsimp only
      rw [Dac.assertMute_ch _ (.inl hm), hok]
      exact DacCh.muteOn_ramps hr _
    · dsimp only
      rw [Dac.assertMute_ch _ (.inr hok), hok]
      exact DacCh.muteOn_holds ..

theorem exec_muteLeadElapsed {s : State} (hm : s.dac.mute = true) : ∃ t : State, exec .muteLeadElapsed s = .next t ∧
    t = { s with dac := { s.dac with ch := t.dac.ch } } ∧
    ∀ n : Fin 16, ((s.dac.ch.get n).hold = true → s.leadPast (s.dac.ch.get n).heldAt = true →
        (t.dac.ch.get n).code = 0 ∧ (t.dac.ch.get n).k = 0 ∧ (t.dac.ch.get n).hold = false) ∧
      ((s.dac.ch.get n).hold = false ∨ s.leadPast (s.dac.ch.get n).heldAt = false → t.dac.ch.get n = s.dac.ch.get n) := by
  refine ⟨_, next_when hm, rfl, fun n => ?_⟩
  dsimp only
  rw [Tab.get_map]
  unfold DacCh.leadElapsed
  constructor
  · intro hhold hpast
    rw [if_pos ⟨hhold, hpast⟩]
    exact DacCh.zeroNow_silent _
  · intro hstay
    rw [if_neg]
    rintro ⟨hhold, hpast⟩
    rcases hstay with h | h
    · exact Bool.noConfusion (h.symm.trans hhold)
    · exact Bool.noConfusion (h.symm.trans hpast)

/-! ### The release -/

theorem State.muteOff_releases {s : State} (hm : s.dac.mute = true) (hc : s.dac.cause s.anaOn = false) :
    s.muteOff = { s with dac := { s.dac with mute := false, ready := true,
                                             ch := s.dac.ch.map (DacCh.muteOff (leadEdges s.fe882 s.out.p s.out.q (bits s.dac.ctrl 3 0))) } } := by
  unfold State.muteOff Dac.muteRelease
  rw [if_pos ⟨hm, hc⟩]

theorem State.muteOff_signals {s : State} (hm : s.dac.mute = true) (hc : s.dac.cause s.anaOn = false) :
    s.muteOff.dac.signals = (false, true) := by
  rw [State.muteOff_releases hm hc]
  rfl

theorem exec_muteRelease_paced {s u : State} (hm : s.dac.mute = true) (hc : s.dac.cause s.anaOn = false) (hseen : s.wclkSeen = true)
    (hpaced : s.unpaced = false) (hreach : s.reaches (s.edgeEt s.dac.edge) = true) (hu : u = s.runTo (s.edgeEt s.dac.edge))
    (hum : u.dac.mute = true) (huc : u.dac.cause u.anaOn = false) :
    ∃ t : State, exec .muteRelease s = .next t ∧ t = s.wordClock ∧ t.dac.mute = false ∧ t.dac.ready = true ∧
      t.dac.edge = s.dac.edge + 1 ∧ t.voices = u.voices ∧ t.mem = u.mem := by
  obtain ⟨hedge, hvoices, hmem, -⟩ := s.wordClock_leaves
  rw [← hu] at hvoices hmem
  obtain ⟨hmute, hready⟩ := Dac.signals_eq (s.wordClock_signals.trans (by rw [← hu, State.muteOff_signals hum huc]))
  exact ⟨s.wordClock, (next_when (by simp [hm, hc, hseen, hreach])).trans (by simp [State.anyEdge, hpaced]), rfl, hmute, hready,
    hedge, hvoices, hmem⟩

theorem exec_muteRelease_unpaced {s : State} (hm : s.dac.mute = true) (hc : s.dac.cause s.anaOn = false) (hseen : s.wclkSeen = true)
    (hun : s.unpaced = true) : ∃ t : State, exec .muteRelease s = .next t ∧ t = s.unpacedEdge ∧ t.dac.mute = false ∧
      t.dac.ready = true ∧ t.dac.edge = s.dac.edge ∧ t = { s with dac := t.dac, irqf := t.irqf } := by
  obtain ⟨hmute, hready⟩ := Dac.signals_eq
    ((s.latchAll_signals s.time.et (if s.time.running then s.dac.edge - 1 else -1)).trans (State.muteOff_signals hm hc))
  obtain ⟨dac, irqf, e, hedge, -⟩ := s.latchAll_shape s.time.et (if s.time.running then s.dac.edge - 1 else -1)
  refine ⟨s.unpacedEdge, (next_when (by simp [hm, hc, hseen, hun])).trans (by simp [State.anyEdge, hun]), rfl, hmute, hready, ?_⟩
  rw [show s.unpacedEdge = _ from e]
  exact ⟨hedge, rfl⟩

theorem DacCh.leadEnd_rises {c : DacCh} {mute : Bool} (hseq : c.seq = .lead) (hlead : c.lead = 0) (hen : c.en = true)
    (hm : mute = false) : c.leadEnd mute = { c with seq := .up } := by
  simp [DacCh.leadEnd, DacCh.goOn, hseq, hlead, hen, hm]

/-- Settles O33, from what an assertion and the release do to one channel, and from the edge at which the release falls. -/
theorem muteIsAssertedAndReleased : Obligations.MuteIsAssertedAndReleased := by
  refine ⟨⟨fun s c h => exec_muteCause h, fun s hm => exec_muteLeadElapsed hm⟩, fun s =>
    ⟨fun hc => next_stay (by simp [hc]),
      fun u hm hc hseen hpaced hreach hu hum huc => exec_muteRelease_paced hm hc hseen hpaced hreach hu hum huc,
      fun hm hc hseen hun => exec_muteRelease_unpaced hm hc hseen hun, fun hm hc => ?_, fun n hseq hlead hen hm => ?_,
      fun n hseq hsw hleft => ?_, next_when, next_stay⟩⟩
  · obtain ⟨hmute, hready⟩ := Dac.signals_eq (State.muteOff_signals hm hc)
    refine ⟨hmute, hready, rfl, fun n => ?_⟩
    rw [State.muteOff_releases hm hc]
    dsimp only
    rw [Tab.get_map]
    refine ⟨DacCh.muteOff_k .., fun hr hen => ?_⟩
    obtain ⟨hlead, hseq⟩ := DacCh.muteOff_leads hr hen (leadEdges s.fe882 s.out.p s.out.q (bits s.dac.ctrl 3 0))
    exact ⟨hlead, by rw [hseq, hlead]⟩
  · exact next_eq (congrArg (fun ch => { s with dac := { s.dac with ch := ch } }) (Tab.upd_congr (DacCh.leadEnd_rises hseq hlead hen hm)))
  · refine next_eq (congrArg (fun ch => { s with dac := { s.dac with ch := ch } }) (Tab.upd_congr ?_))
    exact if_pos ⟨hseq, hsw, hleft⟩

end Sys2Proof.Machine
end

section
/-! PROOF. Writes of DACn_CTRL and of mute_req (spec/11_analog_outputs.md R309, R312, R316, R318, R319). -/
namespace Sys2Proof.Machine

/-! ### Bits of a word whose field or flag is replaced -/

/-- A number with a field of `b` values from `a` on replaced: the upper part, the new field, the lower part. -/
theorem replaceField (n a b x : Nat) : n - n / a % b * a + x * a = a * b * (n / (a * b)) + (a * x + n % a) := by
  have hn : a * (b * (n / a / b) + n / a % b) + n % a = n := by rw [Nat.div_add_mod, Nat.div_add_mod]
  rw [Nat.mul_add, ← Nat.mul_assoc, Nat.div_div_eq_div_mul] at hn
  rw [Nat.mul_comm x a, Nat.mul_comm (n / a % b) a]
  omega

/-- A field over a lower part. -/
theorem fieldBelow_lt {a b x y : Nat} (hx : x < b) (hy : y < a) : a * x + y < b * a := by
  have h := Nat.mul_le_mul_left a (Nat.succ_le_of_lt hx)
  rw [Nat.mul_succ] at h
  rw [Nat.mul_comm b a]
  omega

theorem bit_setBits (w : Word) {hi lo : Nat} (v : Nat) (hle : lo ≤ hi) {i : Nat} (hi32 : i < 32) :
    bit (setBits w hi lo v) i = if lo ≤ i ∧ i ≤ hi then v.testBit (i - lo) else bit w i := by
  have hhi : lo + (hi + 1 - lo) = hi + 1 := by omega
  have hlow : 2 ^ lo * (v % 2 ^ (hi + 1 - lo)) + w.toNat % 2 ^ lo < 2 ^ (hi + 1) := by
    rw [show 2 ^ (hi + 1) = 2 ^ (hi + 1 - lo) * 2 ^ lo by rw [← Nat.pow_add, Nat.sub_add_cancel (by omega)]]
    exact fieldBelow_lt (Nat.mod_lt _ (Nat.two_pow_pos _)) (Nat.mod_lt _ (Nat.two_pow_pos _))
  unfold setBits bits
  rw [replaceField, ← Nat.pow_add, hhi]
  simp only [bit, word, BitVec.getLsbD_ofNat, hi32, decide_true, Bool.true_and]
  rw [Nat.testBit_two_pow_mul_add _ hlow, Nat.testBit_two_pow_mul_add _ (Nat.mod_lt _ (Nat.two_pow_pos _)), Nat.testBit_mod_two_pow,
    Nat.testBit_mod_two_pow, Nat.testBit_div_two_pow, BitVec.getLsbD]
  by_cases h1 : i < hi + 1
  · by_cases h2 : i < lo
    · simp [h1, h2, Nat.not_le.mpr h2]
    · have h3 : lo ≤ i := by omega
      have h4 : i ≤ hi := by omega
      have h5 : i - lo < hi + 1 - lo := by omega
      simp [h1, h2, h3, h4, h5]
  · have h4 : ¬ i ≤ hi := by omega
    have h5 : i - (hi + 1) + (hi + 1) = i := by omega
    simp [h1, h4, h5]

/-- The field that `setBits` writes is the value, where it fits. -/
theorem bits_setBits_same (w : Word) {hi lo v : Nat} (hle : lo ≤ hi) (hhi : hi < 32) (hv : v < 2 ^ (hi + 1 - lo)) :
    bits (setBits w hi lo v) hi lo = v := by
  refine Nat.eq_of_testBit_eq fun i => ?_
  rw [testBit_bits]
  by_cases h : i < hi + 1 - lo
  · rw [bit_setBits w v hle (by omega), if_pos (by omega)]
    simp [h]
  · rw [Nat.testBit_lt_two_pow (Nat.lt_of_lt_of_le hv (Nat.pow_le_pow_right (by decide) (by omega)))]
    simp [h]

theorem bits_lt (w : Word) (hi lo : Nat) : bits w hi lo < 2 ^ (hi + 1 - lo) := Nat.mod_lt _ (Nat.two_pow_pos _)

theorem bit_putFlag_same (w : Word) {n : Nat} (b : Bool) (hn : n < 32) : bit (putFlag w n b) n = b := by
  cases b with
  | false => exact bit_putFlag_false_same w hn
  | true => exact bit_setFlag_same w hn

theorem bit_putFlag_ne (w : Word) {n m : Nat} (b : Bool) (h : n ≠ m) (hn : n < 32) : bit (putFlag w m b) n = bit w n := by
  cases b with
  | false => exact bit_putFlag_false_ne w h hn
  | true => exact bit_setFlag_ne w h

/-! ### The parts of a write of DACn_CTRL -/

/-- The field of a range (R316) and the enable (R312), as a write of `v` sets them. -/
def DacCh.rangeWrite (bad : Bool) (v : Word) (c : DacCh) : DacCh := if bad then c else c.startRange (bits v 29 28)
def DacCh.enWrite (mute was : Bool) (v : Word) (c : DacCh) : DacCh :=
  if bit v 31 = was then c else { c with ctrl := putFlag c.ctrl 31 (bit v 31) }.enChanged mute

/-- The whole write. -/
def DacCh.ctrlWrite (bad mute : Bool) (now len3 : Nat) (v : Word) (c : DacCh) : DacCh :=
  (({ c with ctrl := putFlag c.ctrl 30 (bit v 30) }.selWrite now len3 v).rangeWrite bad v).enWrite mute c.en v

theorem State.dacChCtrl_eq {s : State} {n : Fin 16} (v : Word) (hhas : s.hasDac n = true) : s.dacChCtrl n v =
    if s.badRange (bits v 29 28)
    then (s.updDac n (DacCh.ctrlWrite (s.badRange (bits v 29 28)) s.dac.mute s.time.et (3 * s.fl * 512) v)).dacErr 4
    else s.updDac n (DacCh.ctrlWrite (s.badRange (bits v 29 28)) s.dac.mute s.time.et (3 * s.fl * 512) v) :=
  if_neg (by simp [hhas])

/-- Sel and sel_en are written, and the change waits for its edge where there is one (R283, R309). -/
theorem DacCh.selWrite_shape (c : DacCh) (now len3 : Nat) (v : Word) : ∃ ctrl dests, c.selWrite now len3 v = { c with
    ctrl := ctrl, dests := dests } ∧ (∀ i < 32, i ≠ 23 → (i < 16 ∨ 21 < i) → bit ctrl i = bit c.ctrl i) ∧ bit ctrl 23 = bit v 23 ∧
    bits ctrl 21 16 = bits v 21 16 ∧
    (bits v 23 23 = bits c.ctrl 23 23 → bits v 21 16 = bits c.ctrl 21 16 → c.dests = [] → dests = []) ∧
    (bits v 23 23 ≠ bits c.ctrl 23 23 ∨ bits v 21 16 ≠ bits c.ctrl 21 16 ∨ c.dests ≠ [] → dests = c.dests ++
      [{ time := now + len3, sel := bits v 21 16, selEn := bit v 23, range := none, en := none }]) := by
  have hbit (w : Word) : (bits w 23 23).testBit 0 = bit w 23 := by rw [testBit_bits]; rfl
  unfold DacCh.selWrite
  split
  next h =>
    obtain ⟨hen, hsel, hd⟩ := h
    refine ⟨c.ctrl, c.dests, rfl, fun _ _ _ _ => rfl, by rw [← hbit, ← hbit, hen], hsel.symm, fun _ _ _ => hd, fun hne => ?_⟩
    rcases hne with h | h | h
    · exact absurd hen h
    · exact absurd hsel h
    · exact absurd hd h
  next h =>
    refine ⟨_, _, rfl, fun i hi hne hout => ?_, ?_, ?_, fun hen hsel hd => absurd ⟨hen, hsel, hd⟩ h, fun _ => rfl⟩
    · rw [bit_setBits _ _ (by decide) hi, if_neg (by omega), bit_setBits _ _ (by decide) hi, if_neg (by omega)]
    · rw [bit_setBits _ _ (by decide) (by decide), if_neg (by decide), bit_setBits _ _ (by decide) (by decide), if_pos (by decide)]
      exact hbit v
    · exact bits_setBits_same _ (by decide) (by decide) (bits_lt v 21 16)

theorem DacCh.startRange_shape (c : DacCh) {r : Nat} (hr : r < 4) : ∃ ctrl ranging seq switch, c.startRange r = { c with
    ctrl := ctrl, ranging := ranging, seq := seq, switch := switch } ∧ (∀ i < 32, (i < 28 ∨ 29 < i) → bit ctrl i = bit c.ctrl i) ∧
    bits ctrl 29 28 = r ∧ (r = c.target → ranging = c.ranging ∧ seq = c.seq) ∧
    (c.ranging = false → r ≠ c.target → r ≠ c.stage → ranging = true ∧ seq = .down) := by
  have hother : ∀ i < 32, (i < 28 ∨ 29 < i) → bit (setBits c.ctrl 29 28 r) i = bit c.ctrl i := fun i hi hout => by
    rw [bit_setBits _ _ (by decide) hi, if_neg (by omega)]
  have hsame : bits (setBits c.ctrl 29 28 r) 29 28 = r := bits_setBits_same _ (by decide) (by decide) hr
  unfold DacCh.startRange
  split
  next h => exact ⟨c.ctrl, c.ranging, c.seq, c.switch, rfl, fun _ _ _ => rfl, h.symm, fun _ => ⟨rfl, rfl⟩, fun _ hne => absurd h hne⟩
  next h =>
    extract_lets d
    split
    next hstay => exact ⟨_, d.ranging, d.seq, d.switch, rfl, hother, hsame, fun e => absurd e h, fun _ _ hne => absurd hstay.2 hne⟩
    next hgo =>
      split
      · exact ⟨_, true, .down, false, rfl, hother, hsame, fun e => absurd e h, fun _ _ _ => ⟨rfl, rfl⟩⟩
      next hbusy =>
        have hranging : c.ranging ≠ false := fun e => hbusy (.inl e)
        split
        · exact ⟨_, d.ranging, d.seq, true, rfl, hother, hsame, fun e => absurd e h, fun e => absurd e hranging⟩
        · exact ⟨_, d.ranging, d.seq, d.switch, rfl, hother, hsame, fun e => absurd e h, fun e => absurd e hranging⟩

theorem DacCh.rangeWrite_shape (c : DacCh) (bad : Bool) (v : Word) : ∃ ctrl ranging seq switch, c.rangeWrite bad v = { c with
    ctrl := ctrl, ranging := ranging, seq := seq, switch := switch } ∧ (∀ i < 32, (i < 28 ∨ 29 < i) → bit ctrl i = bit c.ctrl i) ∧
    bits ctrl 29 28 = (if bad then c.target else bits v 29 28) ∧ (bits v 29 28 = c.target → ranging = c.ranging ∧ seq = c.seq) ∧
    (bad = false → c.ranging = false → bits v 29 28 ≠ c.target → bits v 29 28 ≠ c.stage → ranging = true ∧ seq = .down) := by
  unfold DacCh.rangeWrite
  have hr : bits v 29 28 < 4 := by simpa using bits_lt v 29 28
  generalize bits v 29 28 = r at hr ⊢
  cases bad with
  | true => exact ⟨c.ctrl, c.ranging, c.seq, c.switch, if_pos rfl, fun _ _ _ => rfl, (if_pos rfl).symm, fun _ => ⟨rfl, rfl⟩,
      fun e => Bool.noConfusion e⟩
  | false =>
    obtain ⟨ctrl, ranging, seq, switch, e, hother, hsame, hstay, hgo⟩ := c.startRange_shape hr
    exact ⟨ctrl, ranging, seq, switch, (if_neg Bool.false_ne_true).trans e, hother,
      hsame.trans (if_neg Bool.false_ne_true).symm, hstay, fun _ => hgo⟩

theorem DacCh.enChanged_shape (c : DacCh) (mute : Bool) : ∃ ranging seq, c.enChanged mute = { c with ranging := ranging, seq := seq } ∧
    (c.ranging = false → c.en = true → mute = false → seq = .up) ∧
    (c.ranging = false → c.en = false → seq = if c.k = 0 then .zero else .down) := by
  unfold DacCh.enChanged
  cases hen : c.en with
  | true =>
    rw [if_pos rfl]
    split
    next hstay =>
      refine ⟨c.ranging, c.seq, rfl, fun hr _ hm => ?_, fun _ h => Bool.noConfusion h⟩
      rcases hstay with e | e
      · exact Bool.noConfusion (hr.symm.trans e)
      · exact Bool.noConfusion (hm.symm.trans e)
    · exact ⟨c.ranging, .up, rfl, fun _ _ _ => rfl, fun _ h => Bool.noConfusion h⟩
  | false =>
    rw [if_neg Bool.false_ne_true]
    split
    next hstay => exact ⟨c.ranging, c.seq, rfl, fun _ h => Bool.noConfusion h, fun hr => Bool.noConfusion (hr.symm.trans hstay.1)⟩
    · exact ⟨false, if c.k = 0 then .zero else .down, rfl, fun _ h => Bool.noConfusion h, fun _ _ => rfl⟩

theorem DacCh.enWrite_shape (c : DacCh) (mute : Bool) {was : Bool} (v : Word) (hwas : was = c.en) :
    ∃ ctrl ranging seq, c.enWrite mute was v = { c with
    ctrl := ctrl, ranging := ranging, seq := seq } ∧ (∀ i < 31, bit ctrl i = bit c.ctrl i) ∧ bit ctrl 31 = bit v 31 ∧
    (bit v 31 = c.en → ranging = c.ranging ∧ seq = c.seq) ∧
    (c.ranging = false → c.en = false → bit v 31 = true → mute = false → seq = .up) ∧
    (c.ranging = false → c.en = true → bit v 31 = false → seq = if c.k = 0 then .zero else .down) := by
  subst hwas
  unfold DacCh.enWrite
  have hother : ∀ i < 31, bit (putFlag c.ctrl 31 (bit v 31)) i = bit c.ctrl i := fun i hi => bit_putFlag_ne _ _ (by omega) (by omega)
  have hsame : bit (putFlag c.ctrl 31 (bit v 31)) 31 = bit v 31 := bit_putFlag_same _ _ (by decide)
  generalize putFlag c.ctrl 31 (bit v 31) = w at hother hsame ⊢
  generalize bit v 31 = on at hsame ⊢
  by_cases h : on = c.en
  · rw [if_pos h]
    refine ⟨c.ctrl, c.ranging, c.seq, rfl, fun _ _ => rfl, h.symm, fun _ => ⟨rfl, rfl⟩, fun _ hoff hon => ?_, fun _ hon hoff => ?_⟩
    · exact Bool.noConfusion (hon.symm.trans (h.trans hoff))
    · exact Bool.noConfusion (hoff.symm.trans (h.trans hon))
  · rw [if_neg h]
    obtain ⟨ranging, seq, e, hrise, hfall⟩ := ({ c with ctrl := w } : DacCh).enChanged_shape mute
    rw [e]
    exact ⟨w, ranging, seq, rfl, hother, hsame, fun e => absurd e h, fun hr _ hon => hrise hr (hsame.trans hon),
      fun hr _ hoff => hfall hr (hsame.trans hoff)⟩

/-- What the whole write makes of the channel. -/
structure DacCh.Written (bad mute : Bool) (due : Nat) (v : Word) (c d : DacCh) : Prop where
  en : d.en = bit v 31
  sine : bit d.ctrl 30 = bit v 30
  selEn : bit d.ctrl 23 = bit v 23
  sel : bits d.ctrl 21 16 = bits v 21 16
  k : d.k = c.k
  code : d.code = c.code
  same : bits v 23 23 = bits c.ctrl 23 23 → bits v 21 16 = bits c.ctrl 21 16 → c.dests = [] → d.dests = []
  change : bits v 23 23 ≠ bits c.ctrl 23 23 ∨ bits v 21 16 ≠ bits c.ctrl 21 16 ∨ c.dests ≠ [] → d.dests = c.dests ++
    [{ time := due, sel := bits v 21 16, selEn := bit v 23, range := none, en := none }]
  target : d.target = if bad then c.target else bits v 29 28
  rises : c.ranging = false → bits v 29 28 = c.target → c.en = false → bit v 31 = true → mute = false → d.seq = .up
  falls : c.ranging = false → bits v 29 28 = c.target → c.en = true → bit v 31 = false → d.seq = if c.k = 0 then .zero else .down
  ranges : bad = false → c.ranging = false → bits v 29 28 ≠ c.target → bits v 29 28 ≠ c.stage → bit v 31 = c.en →
    d.seq = .down ∧ d.ranging = true

theorem DacCh.ctrlWrite_written (c : DacCh) (bad mute : Bool) (now len3 : Nat) (v : Word) :
    DacCh.Written bad mute (now + len3) v c (c.ctrlWrite bad mute now len3 v) := by
  obtain ⟨w1, dests, e1, hother1, hselEn1, hsel1, hsame1, hchange1⟩ :=
    ({ c with ctrl := putFlag c.ctrl 30 (bit v 30) } : DacCh).selWrite_shape now len3 v
  have hc0 : ∀ i < 32, i ≠ 30 → bit (putFlag c.ctrl 30 (bit v 30)) i = bit c.ctrl i := fun i hi hne => bit_putFlag_ne _ _ hne hi
  have hf0 (hi lo : Nat) (hhi : hi < 30) : bits (putFlag c.ctrl 30 (bit v 30)) hi lo = bits c.ctrl hi lo :=
    bits_congr fun i _ hi' => hc0 i (by omega) (by omega)
  have htarget1 : bits w1 29 28 = c.target := (bits_congr fun i _ _ => hother1 i (by omega) (by omega) (by omega)).trans (hf0 29 28 (by decide))
  have hen1 : bit w1 31 = c.en := (hother1 31 (by decide) (by decide) (by decide)).trans (hc0 31 (by decide) (by decide))
  obtain ⟨w2, ranging2, seq2, switch2, e2, hother2, htarget2, hstay2, hgo2⟩ :=
    ({ c with ctrl := w1, dests := dests } : DacCh).rangeWrite_shape bad v
  have hen2 : bit w2 31 = c.en := (hother2 31 (by decide) (by decide)).trans hen1
  obtain ⟨w3, ranging3, seq3, e3, hother3, hen3, hstay3, hrise3, hfall3⟩ :=
    ({ c with ctrl := w2, dests := dests, ranging := ranging2, seq := seq2, switch := switch2 } : DacCh).enWrite_shape mute v hen2.symm
  have he : c.ctrlWrite bad mute now len3 v =
      { c with ctrl := w3, dests := dests, ranging := ranging3, seq := seq3, switch := switch2 } := by
    rw [DacCh.ctrlWrite, e1, e2, e3]
  have htarget1' : ({ c with ctrl := w1, dests := dests } : DacCh).target = c.target := htarget1
  have hen2' : ({ c with ctrl := w2, dests := dests, ranging := ranging2, seq := seq2, switch := switch2 } : DacCh).en = c.en := hen2
  rw [htarget1'] at htarget2 hstay2 hgo2
  rw [hen2'] at hstay3 hrise3 hfall3
  rw [hf0 23 23 (by decide), hf0 21 16 (by decide)] at hsame1 hchange1
  rw [he]
  refine ⟨hen3, ?_, ?_, ?_, rfl, rfl, hsame1, hchange1, ?_, fun hr ht => ?_, fun hr ht => ?_, fun hb hr hne hne' hv => ?_⟩
  · exact (hother3 30 (by decide)).trans ((hother2 30 (by decide) (by decide)).trans
      ((hother1 30 (by decide) (by decide) (by decide)).trans (bit_putFlag_same _ _ (by decide))))
  · exact (hother3 23 (by decide)).trans ((hother2 23 (by decide) (by decide)).trans hselEn1)
  · exact (bits_congr fun i _ _ => (hother3 i (by omega)).trans (hother2 i (by omega) (by omega))).trans hsel1
  · exact (bits_congr fun i _ _ => hother3 i (by omega)).trans htarget2
  · exact hrise3 ((hstay2 ht).1.trans hr)
  · exact hfall3 ((hstay2 ht).1.trans hr)
  · obtain ⟨hr3, hs3⟩ := hstay3 hv
    obtain ⟨hr2, hs2⟩ := hgo2 hb hr hne hne'
    exact ⟨hs3.trans hs2, hr3.trans hr2⟩

/-! ### The writes -/

theorem State.reach_dacCh {s : State} (i : Initiator) (n : Fin 16) (hp : s.pwr.answers pdAna = true) :
    s.reach i (dacCtrlAddr n) = .ok (.dacCh n) 0 := by
  refine State.reach_ok i ?_ ?_ ?_ rfl (State.powered_of_answers rfl hp)
  all_goals (revert n; decide)

theorem State.reach_dac {s : State} (i : Initiator) (hp : s.pwr.answers pdAna = true) : s.reach i 0x40600000 = .ok .dac 0 :=
  State.reach_ok i (by decide) (by decide) (by decide) rfl (State.powered_of_answers rfl hp)

/-- What a write of DACn_CTRL leaves: the other channels, MUTE_n, and the flags where the range is one that the grade has. -/
theorem State.dacChCtrl_written {s : State} {n : Fin 16} (v : Word) (hhas : s.hasDac n = true) : ∃ t : State, s.dacChCtrl n v = t ∧
    t = { s with dac := t.dac, irqf := t.irqf } ∧ (∀ m, m ≠ n → t.dac.ch.get m = s.dac.ch.get m) ∧ t.dac.mute = s.dac.mute ∧
    (s.badRange (bits v 29 28) = false → t.dac.err = s.dac.err) ∧ (s.badRange (bits v 29 28) = true → bit t.dac.err 4 = true) ∧
    DacCh.Written (s.badRange (bits v 29 28)) s.dac.mute (s.time.et + 3 * s.fl * 512) v (s.dac.ch.get n) (t.dac.ch.get n) := by
  have hch (f : DacCh → DacCh) : (∀ m, m ≠ n → (s.dac.ch.upd n f).get m = s.dac.ch.get m) ∧ (s.dac.ch.upd n f).get n = f (s.dac.ch.get n) :=
    ⟨fun m hm => Tab.get_upd_ne _ _ (Ne.symm hm), Tab.get_upd_same ..⟩
  rw [State.dacChCtrl_eq v hhas]
  cases hbad : s.badRange (bits v 29 28) with
  | true =>
    obtain ⟨irqf, e⟩ := (s.updDac n (DacCh.ctrlWrite true s.dac.mute s.time.et (3 * s.fl * 512) v)).dacErr_shape 4
    obtain ⟨hothers, hself⟩ := hch (DacCh.ctrlWrite true s.dac.mute s.time.et (3 * s.fl * 512) v)
    refine ⟨_, (if_pos rfl).trans e, rfl, hothers, rfl, fun h => Bool.noConfusion h, fun _ => bit_setFlag_same _ (by decide), ?_⟩
    exact hself ▸ DacCh.ctrlWrite_written ..
  | false =>
    obtain ⟨hothers, hself⟩ := hch (DacCh.ctrlWrite false s.dac.mute s.time.et (3 * s.fl * 512) v)
    refine ⟨_, if_neg Bool.false_ne_true, rfl, hothers, rfl, fun _ => rfl, fun h => Bool.noConfusion h, ?_⟩
    exact hself ▸ DacCh.ctrlWrite_written ..

theorem State.muteNow_shape_ctrl (s : State) : ∃ dac, s.muteNow = { s with dac := dac } ∧ dac.ctrl = s.dac.ctrl ∧
    (s.dac.cause s.anaOn = true → dac.mute = true ∧ dac.ready = false) := by
  by_cases h : s.dac.cause s.anaOn = true
  · refine ⟨_, State.muteNow_of_cause h, ?_, fun _ => Dac.signals_eq (s.dac.assertMute_signals s.time.rclk)⟩
    unfold Dac.assertMute
    split <;> rfl
  · exact ⟨s.dac, if_neg h, rfl, fun e => absurd e h⟩

theorem exec_dacMuteReqWrite_window {s : State} (v : Word) (hp : s.pwr.answers pdAna = true) :
    ∃ t : State, exec (.dacMuteReqWrite .window v) s = .next t ∧ t = { s with dac := t.dac } ∧
      bit t.dac.ctrl 31 = bit v 31 ∧ bits t.dac.ctrl 3 0 = bits v 3 0 ∧ (bit v 31 = true → t.dac.mute = true ∧ t.dac.ready = false) := by
  have hwrite : s.busWrite .window 0x40600000 v = s.dacCtrl .window v := State.busWrite_effect (State.reach_dac .window hp) rfl
  generalize hw : putFlag (setBits s.dac.ctrl 3 0 (bits v 3 0)) 31 (bit v 31) = w
  have hreq : bit w 31 = bit v 31 := by rw [← hw]; exact bit_putFlag_same _ _ (by decide)
  have hlead : bits w 3 0 = bits v 3 0 := by
    rw [← hw]
    exact (bits_congr fun i _ _ => bit_putFlag_ne _ _ (by omega) (by omega)).trans
      (bits_setBits_same _ (by decide) (by decide) (bits_lt v 3 0))
  have hctrl : s.dacCtrl .window v = ({ s with dac := { s.dac with ctrl := w } } : State).muteNow := by rw [← hw]; rfl
  obtain ⟨dac, e, hkeep, hmute⟩ := ({ s with dac := { s.dac with ctrl := w } } : State).muteNow_shape_ctrl
  refine ⟨_, next_eq (hwrite.trans (hctrl.trans e)), rfl, ?_, ?_, fun hv => hmute ?_⟩
  · exact (congrArg (bit · 31) hkeep).trans hreq
  · exact (congrArg (bits · 3 0) hkeep).trans hlead
  · simp [Dac.cause, hreq, hv]

/-- Settles O34, from the three parts of a write of DACn_CTRL, and from the cause that mute_req is. -/
theorem dacControlWrites : Obligations.DacControlWrites := by
  rintro s i n v c rfl hp hhas
  refine ⟨fun x hx => ?_, exec_dacMuteReqWrite_window v hp, fun hi => next_eq ?_⟩
  · obtain ⟨t, e, hshape, hothers, hmute, hok, hbad, hwritten⟩ := State.dacChCtrl_written v hhas
    have hexec : exec x s = .next t := by
      have hwrite : s.busWrite i (dacCtrlAddr n) v = t := (State.busWrite_effect (State.reach_dacCh i n hp) rfl).trans e
      rcases hx with rfl | rfl | rfl | rfl <;> exact next_eq hwrite
    obtain ⟨hen, hsine, hselEn, hsel, hk, hcode, hsame, hchange, htarget, hrises, hfalls, hranges⟩ := hwritten
    refine ⟨t, hexec, hshape, hothers, hmute, hen, hsine, hselEn, hsel, hk, hcode, hsame, hchange, fun hb => ⟨?_, hok hb⟩,
      fun hb => ⟨?_, hbad hb⟩, hrises, hfalls, hranges⟩
    · rw [htarget, hb]; rfl
    · rw [htarget, hb]; rfl
  · exact (State.busWrite_effect (State.reach_dac i hp) rfl).trans (if_neg hi)

end Sys2Proof.Machine
end

section
/-! PROOF. TDM frames out and in (spec/10_output_chain.md R298–R304, R491, R496). -/
namespace Sys2Proof.Machine

/-! ### Slot words -/

/-- A sample of 24 bits survives its slot word, and bits 7:0 are zero (R299). -/
theorem slotWord_spec {y : Int} (hlo : -8388608 ≤ y) (hhi : y ≤ 8388607) :
    slotSample (slotWord y) = y ∧ bits (slotWord y) 7 0 = 0 := by
  have h0 : 0 ≤ y % 16777216 := Int.emod_nonneg _ (by decide)
  have h1 : y % 16777216 < 16777216 := Int.emod_lt_of_pos _ (by decide)
  have hn : (slotWord y).toNat = (y % 16777216).toNat * 256 := by
    change (BitVec.ofNat 32 ((y % 16777216).toNat * 256)).toNat = _
    rw [BitVec.toNat_ofNat]
    exact Nat.mod_eq_of_lt (by omega)
  constructor
  · have hb : bits (slotWord y) 31 8 = (y % 16777216).toNat := by
      simp only [bits, hn]
      omega
    unfold slotSample
    rw [hb]
    change ((((y % 16777216).toNat : Int)) + 8388608) % 16777216 - 8388608 = y
    omega
  · simp only [bits, hn]
    omega

theorem map_slotWord_silence (n : Nat) : (List.replicate n (0 : Int)).map slotWord = List.replicate n 0#32 := by
  rw [List.map_replicate]
  rfl

/-! ### A frame at an output edge -/

/-- What lane `l` has for the edge that is due. -/
def Tdm.laneGot (d : Tdm) (l : Fin 4) : Option (List Int) := ((d.lanes.get l).find? fun x => x.1 == d.edge).map (·.2)

theorem Tdm.send_sent (d : Tdm) (s8 : Bool) (t : Nat) (l : Fin 4) : (d.send s8 t).1.sent.getD l.val [] =
    (((d.laneGot l).getD (List.replicate 16 0)).map slotWord).take (if s8 then 8 else 16) := by
  match l with
  | 0 | 1 | 2 | 3 => rfl

theorem Tdm.send_under (d : Tdm) (s8 : Bool) (t : Nat) :
    (d.send s8 t).2 = ((List.finRange 4).filter fun l => decide (d.edge ≥ 0) && (d.laneGot l).isNone).map Fin.val := by
  unfold Tdm.send
  dsimp only
  rw [show List.range 4 = (List.finRange 4).map Fin.val from rfl, List.filter_map]
  refine congrArg _ (List.filter_congr fun l _ => ?_)
  match l with
  | 0 | 1 | 2 | 3 => rfl

theorem Tdm.laneGot_isNone (d : Tdm) (l : Fin 4) : (d.laneGot l).isNone = (d.lanes.get l).all fun x => x.1 != d.edge := by
  rw [Tdm.laneGot, Option.isNone_map, Bool.eq_iff_iff]
  simp

/-! ### What follows the frame leaves -/

/-- What of a TDM interface the filling of its buffers leaves. -/
def Tdm.outgoing (d : Tdm) : Int × List (List Word) × Word × Word := (d.edge, d.sent, d.err, d.ufCnt)

theorem Tdm.fillLane_outgoing (s8 : Bool) (outs : Nat → List (Int × Int) × Int) (et : Int → Nat) (l : Fin 4) (n : Nat) (d : Tdm) :
    (Tdm.fillLane s8 outs et l n d).outgoing = d.outgoing := by
  induction n generalizing d with
  | zero => rfl
  | succ n ih =>
    unfold Tdm.fillLane
    extract_lets e
    split
    · rfl
    · split
      · rfl
      · rw [ih]
        rfl

theorem State.fillOut_outgoing (s : State) : s.fillOut.tdm.outgoing = s.tdm.outgoing := by
  unfold State.fillOut
  extract_lets u d v e
  have hu : u.tdm = s.tdm := foldl_keeps State.tdm (fun u n => by
    obtain ⟨_, _, e⟩ := u.fillDac_shape n
    rw [e]) _ s
  have hd : d.outgoing = u.tdm.outgoing := foldl_keeps Tdm.outgoing (fun x l => Tdm.fillLane_outgoing ..) _ u.tdm
  rw [← hu, ← hd]

/-- Raising flags of TDM_ERR one after the other sets each of them, and none goes. -/
theorem State.foldl_tdmErr (f : Nat → Nat) (ls : List Nat) (s : State) : ∃ err irqf,
    ls.foldl (fun (u : State) l => u.tdmErr (f l)) s = { s with tdm := { s.tdm with err := err }, irqf := irqf } ∧
    (∀ n, bit s.tdm.err n = true → bit err n = true) ∧ ∀ l ∈ ls, f l < 32 → bit err (f l) = true := by
  induction ls generalizing s with
  | nil => exact ⟨s.tdm.err, s.irqf, rfl, fun _ h => h, fun _ h => absurd h List.not_mem_nil⟩
  | cons l ls ih =>
    obtain ⟨irqf, e⟩ := s.tdmErr_shape (f l)
    obtain ⟨err, irqf', e', hkeep, hset⟩ := ih (s.tdmErr (f l))
    rw [e] at e' hkeep
    refine ⟨err, irqf', by rw [List.foldl_cons, e]; exact e', fun n hn => hkeep n (bit_setFlag_of_bit hn), fun m hm hlt => ?_⟩
    rcases List.mem_cons.mp hm with rfl | hm
    · exact hkeep _ (bit_setFlag_same _ hlt)
    · exact hset m hm hlt

/-- The parts of a frame at an output edge: the frame is sent and each lane that has none is flagged (R300); once the firmware has been
declared stopped every lane sends zeros (R491). -/
def State.flagLanes (u : State) (r : Tdm × List Nat) : State :=
  r.2.foldl (fun (s : State) l => s.tdmErr (2 + l)) { u with tdm := r.1 }
def State.silenceStopped (v : State) : State :=
  if v.mgmt.stopped then
    { v with tdm := { v.tdm with sent := List.replicate 4 (List.replicate (if v.slots8 then 8 else 16) 0#32) } } else v
def State.sentFrame (u : State) : State := (u.flagLanes (u.tdm.send u.slots8 (u.edgeAt u.tdm.edge))).silenceStopped.fillOut

theorem exec_tdmOutputFrame {s : State} (hrun : s.tdm.running = true) (hseen : s.wclkSeen = true)
    (hreach : s.reaches (s.edgeEt s.tdm.edge) = true) : exec .tdmOutputFrame s = .next (s.runTo (s.edgeEt s.tdm.edge)).sentFrame :=
  next_when (by simp [hrun, hseen, hreach])

/-- What is sent: zeros once the firmware has stopped, else what the lanes have (R491). -/
def State.sentWords (u : State) : List (List Word) :=
  if u.mgmt.stopped then List.replicate 4 (List.replicate (if u.slots8 then 8 else 16) 0#32)
  else (u.tdm.send u.slots8 (u.edgeAt u.tdm.edge)).1.sent

theorem State.sentFrame_leaves (u : State) : ∃ err,
    u.sentFrame.tdm.outgoing = (u.tdm.edge + 1, u.sentWords, err, (u.tdm.send u.slots8 (u.edgeAt u.tdm.edge)).1.ufCnt) ∧
    (∀ l ∈ (u.tdm.send u.slots8 (u.edgeAt u.tdm.edge)).2, 2 + l < 32 → bit err (2 + l) = true) ∧
    u.sentFrame.voices = u.voices ∧ u.sentFrame.mem = u.mem := by
  obtain ⟨err, irqf, e, -, hset⟩ := State.foldl_tdmErr (2 + ·) (u.tdm.send u.slots8 (u.edgeAt u.tdm.edge)).2
    { u with tdm := (u.tdm.send u.slots8 (u.edgeAt u.tdm.edge)).1 }
  have hedge : (u.tdm.send u.slots8 (u.edgeAt u.tdm.edge)).1.edge = u.tdm.edge + 1 := rfl
  generalize hw : (u.flagLanes (u.tdm.send u.slots8 (u.edgeAt u.tdm.edge))).silenceStopped = w
  have hleaves : w.tdm.outgoing = (u.tdm.edge + 1, u.sentWords, err, (u.tdm.send u.slots8 (u.edgeAt u.tdm.edge)).1.ufCnt) ∧
      w.voices = u.voices ∧ w.mem = u.mem := by
    rw [← hw, State.flagLanes, e]
    unfold State.sentWords State.silenceStopped
    generalize u.tdm.send u.slots8 (u.edgeAt u.tdm.edge) = r at hedge ⊢
    rw [← hedge]
    dsimp only
    split <;> exact ⟨rfl, rfl, rfl⟩
  obtain ⟨hout, hvoices, hmem⟩ := hleaves
  obtain ⟨-, hfv, hfm, -⟩ := w.fillOut_leaves
  rw [show u.sentFrame = w.fillOut by rw [← hw]; rfl]
  exact ⟨err, w.fillOut_outgoing.trans hout, hset, hfv.trans hvoices, hfm.trans hmem⟩

/-- A lane that has no frame sends zeros. -/
theorem Tdm.send_none {d : Tdm} {l : Fin 4} (s8 : Bool) (t : Nat) (h : (d.laneGot l).isNone = true) :
    (d.send s8 t).1.sent.getD l.val [] = List.replicate (if s8 then 8 else 16) 0#32 := by
  rw [Tdm.send_sent, Option.isNone_iff_eq_none.mp h, Option.getD_none, map_slotWord_silence]
  cases s8 <;> rfl

theorem State.sentWords_stopped {u : State} (h : u.mgmt.stopped = true) :
    u.sentWords = List.replicate 4 (List.replicate (if u.slots8 then 8 else 16) 0#32) := if_pos h

theorem State.sentWords_running {u : State} (h : u.mgmt.stopped = false) :
    u.sentWords = (u.tdm.send u.slots8 (u.edgeAt u.tdm.edge)).1.sent := if_neg (by simp [h])

theorem State.sentWords_none {u : State} {l : Fin 4} (h : (u.tdm.laneGot l).isNone = true) :
    u.sentWords.getD l.val [] = List.replicate (if u.slots8 then 8 else 16) 0#32 := by
  cases hs : u.mgmt.stopped with
  | true =>
    rw [State.sentWords_stopped hs]
    generalize List.replicate (if u.slots8 then 8 else 16) 0#32 = z
    match l with
    | 0 | 1 | 2 | 3 => rfl
  | false =>
    rw [State.sentWords_running hs]
    exact Tdm.send_none _ _ h

/-! ### Time that passes leaves the pins -/

theorem State.openHall0_pins (s : State) : s.openHall0.pins = s.pins := by
  unfold State.openHall0
  rfl
theorem State.bringup_pins (s : State) : s.bringup.pins = s.pins := by
  unfold State.bringup
  extract_lets e0 _ _ _ _ _ _ _ _ u
  exact u.openHall0_pins

theorem State.edges_pins (s : State) (k : Nat) : (s.edges k).pins = s.pins := rfl

theorem State.advance_pins (s : State) (k : Nat) : (s.advance k).pins = s.pins := by
  unfold State.advance
  extract_lets b
  split
  · rw [State.edges_pins, State.bringup_pins, State.edges_pins]
  · rw [State.edges_pins]

theorem State.forwardOne_pins (s : State) (m : Mapped) : (s.forwardOne m).pins = s.pins := by
  obtain ⟨_, _, _, _, _, e⟩ := s.deliver_shape (hallIx m.hall) 1 m.tag m.trig m.stamp m.time m.kind
  unfold State.forwardOne
  extract_lets r
  have hr : r.1.pins = s.pins := (congrArg State.pins e).trans rfl
  clear_value r
  split <;> exact hr

theorem State.runTo_pins (s : State) (t : Nat) : (s.runTo t).pins = s.pins := by
  have hadv : (s.advanceTo t).pins = s.pins := by
    unfold State.advanceTo
    split
    · exact State.advance_pins ..
    · rfl
  have hfwd : (s.advanceTo t).forward.pins = (s.advanceTo t).pins := foldl_keeps State.pins State.forwardOne_pins _ _
  obtain ⟨_, _, _, _, e⟩ := (s.passTo t).settleBy_shape (s.passTo t).time.et
  rw [State.runTo, State.settle, e]
  exact hfwd.trans hadv

/-! ### A frame at an input edge -/

/-- What forming engine frames leaves: the edge that is due and the frames received. -/
theorem Tdm.formIn_leaves (s8 : Bool) (P Q : Nat) (trk : Option Track) (len phi k : Nat) (r : Tdm × List Nat × Bool) :
    (Tdm.formIn s8 P Q trk len phi k r).1.inEdge = r.1.inEdge ∧ (Tdm.formIn s8 P Q trk len phi k r).1.hist = r.1.hist := by
  induction k generalizing r with
  | zero => exact ⟨rfl, rfl⟩
  | succ k ih =>
    unfold Tdm.formIn
    extract_lets d f0 f1
    split
    · exact ih _
    · exact ⟨rfl, rfl⟩

/-- The frame taken and the engine frames formed (R301), in a state that has just reached the edge. -/
def State.tookFrame (u : State) (r : Tdm × List Nat × Bool) : State :=
  let v := { u with tdm := { r.1 with ovfCnt := satInc r.1.ovfCnt r.2.1.length } }
  r.2.1.foldl (fun (s : State) l => s.tdmErr l) (if r.2.2 then v.outErr 4 else v)

theorem State.tookFrame_leaves (u : State) (r : Tdm × List Nat × Bool) : ∃ tdm irqf err,
    u.tookFrame r = { u with tdm := tdm, irqf := irqf, out := { u.out with err := err } } ∧ tdm.inEdge = r.1.inEdge ∧ tdm.hist = r.1.hist := by
  have hout (v : State) (b : Bool) : ∃ irqf err, (if b then v.outErr 4 else v) = { v with irqf := irqf, out := { v.out with err := err } } := by
    cases b with
    | true =>
      obtain ⟨irqf, e⟩ := v.outErr_shape 4
      exact ⟨irqf, _, e⟩
    | false => exact ⟨v.irqf, v.out.err, rfl⟩
  unfold State.tookFrame
  dsimp only
  obtain ⟨irqf, err, e⟩ := hout { u with tdm := { r.1 with ovfCnt := satInc r.1.ovfCnt r.2.1.length } } r.2.2
  obtain ⟨err', irqf', e', -, -⟩ := State.foldl_tdmErr id r.2.1
    (if r.2.2 then ({ u with tdm := { r.1 with ovfCnt := satInc r.1.ovfCnt r.2.1.length } } : State).outErr 4
      else { u with tdm := { r.1 with ovfCnt := satInc r.1.ovfCnt r.2.1.length } })
  rw [e] at e' ⊢
  exact ⟨_, irqf', err, e', rfl, rfl⟩

theorem exec_tdmInputFrame {s u : State} {lanes : List (List Word)} (hwf : lanesWf lanes = true) (hrun : s.tdm.running = true)
    (hseen : s.wclkSeen = true) (hreach : s.reaches (s.edgeEt (s.tdm.inEdge + 1)) = true)
    (hu : u = s.runTo (s.edgeEt (s.tdm.inEdge + 1))) :
    ∃ t : State, exec (.tdmInputFrame lanes) s = .next t ∧
      t = { u with tdm := t.tdm, irqf := t.irqf, out := { u.out with err := t.out.err } } ∧ t.tdm.inEdge = u.tdm.inEdge + 1 ∧
      t.tdm.hist = ((u.tdm.inEdge, lanes.map fun l => l.map fun w => if s.bankOn .tdm then slotSample w else 0) :: u.tdm.hist).take 512 := by
  generalize hr : u.tdm.receive u.slots8 u.out.p u.out.q u.out.trk u.fl u.out.phi
    (lanes.map fun l => l.map fun w => if s.bankOn .tdm then slotSample w else 0) = r
  have hexec : exec (.tdmInputFrame lanes) s = .next (u.tookFrame r) := by
    refine (if_neg (by simp [hwf])).trans ((next_when (by simp [hrun, hseen, hreach])).trans ?_)
    rw [← hu, ← hr, show s.bankOn .tdm = u.bankOn .tdm by rw [State.bankOn, State.bankOn, hu, State.runTo_pins]]
    rfl
  obtain ⟨tdm, irqf, err, e, hedge, hhist⟩ := u.tookFrame_leaves r
  obtain ⟨hinEdge, hinHist⟩ := Tdm.formIn_leaves u.slots8 u.out.p u.out.q u.out.trk u.fl u.out.phi 4
    ({ u.tdm with
       inEdge := u.tdm.inEdge + 1,
       hist := ((u.tdm.inEdge, lanes.map fun l => l.map fun w => if s.bankOn .tdm then slotSample w else 0) :: u.tdm.hist).take 512 }, [], false)
  refine ⟨_, hexec, ?_⟩
  rw [e]
  exact ⟨rfl, hedge.trans ((congrArg (·.1.inEdge) hr.symm).trans hinEdge), hhist.trans ((congrArg (·.1.hist) hr.symm).trans hinHist)⟩

/-- Settles O35, from the frame sent, the frame taken, and the events that a word clock out of sight does not bring. -/
theorem tdmFramesAreExchanged : Obligations.TdmFramesAreExchanged := by
  refine ⟨fun y hlo hhi => slotWord_spec hlo hhi, fun s u w => ⟨fun hrun hseen hreach hu hw => ?_,
    fun lanes hwf hrun hseen hreach hu => exec_tdmInputFrame hwf hrun hseen hreach hu, fun hm hbank => ?_⟩⟩
  · have hexec := exec_tdmOutputFrame hrun hseen hreach
    rw [← hu] at hexec
    obtain ⟨err, hout, hset, hvoices, hmem⟩ := u.sentFrame_leaves
    obtain ⟨hedge, hsent, herr, huf⟩ : u.sentFrame.tdm.edge = u.tdm.edge + 1 ∧ u.sentFrame.tdm.sent = u.sentWords ∧
        u.sentFrame.tdm.err = err ∧ u.sentFrame.tdm.ufCnt = (u.tdm.send u.slots8 (u.edgeAt u.tdm.edge)).1.ufCnt := by
      simpa only [Tdm.outgoing, Prod.mk.injEq] using hout
    rw [Tdm.send_under] at hset
    subst hw
    refine ⟨_, hexec, hedge, hvoices, hmem, fun hstop => hsent.trans (State.sentWords_stopped hstop), fun l hno h0 => ?_, fun h0 => ?_,
      fun l x hgo hfind => ?_⟩
    · have hnone : (u.tdm.laneGot l).isNone = true := by
        rw [Tdm.laneGot_isNone, List.all_eq_true]
        exact fun x hx => bne_iff_ne.mpr (hno x hx)
      rw [hsent, herr]
      refine ⟨State.sentWords_none hnone, hset l.val (List.mem_map_of_mem ?_) (by omega)⟩
      simp [h0, hnone]
    · rw [huf]
      change satInc u.tdm.ufCnt (u.tdm.send u.slots8 (u.edgeAt u.tdm.edge)).2.length = _
      rw [Tdm.send_under, List.length_map]
      simp only [Tdm.laneGot_isNone, h0, decide_true, Bool.true_and]
    · rw [hsent, State.sentWords_running hgo, Tdm.send_sent, Tdm.laneGot, hfind]
      rfl
  · have hseen : s.wclkSeen = false := by simp [State.wclkSeen, hm, hbank]
    exact ⟨next_stay (by simp [hseen]), fun lanes hwf => (if_neg (by simp [hwf])).trans (next_stay (by simp [hseen]))⟩

end Sys2Proof.Machine
end

section
/-! PROOF. The word clock in slave mode (spec/10_output_chain.md R295, R296). -/
namespace Sys2Proof.Machine

/-! ### Filling the outputs' buffers -/

theorem State.fillDac_wclkOk (s : State) (n : Fin 16) : (s.fillDac n).dac.wclkOk = s.dac.wclkOk := by
  unfold State.fillDac
  split
  · rfl
  extract_lets c d late u _
  split
  · rfl
  · obtain ⟨irqf, h⟩ := ({ u with dac := { u.dac with ufCnt := satInc u.dac.ufCnt late } } : State).dacErr_shape 0
    rw [h]
    rfl

theorem State.fillDacs_shape (ns : List (Fin 16)) (s : State) : ∃ dac irqf, ns.foldl State.fillDac s = { s with dac := dac, irqf := irqf } := by
  induction ns generalizing s with
  | nil => exact ⟨s.dac, s.irqf, rfl⟩
  | cons n ns ih =>
    obtain ⟨_, _, e⟩ := s.fillDac_shape n
    obtain ⟨dac, irqf, e'⟩ := ih (s.fillDac n)
    rw [e] at e'
    exact ⟨dac, irqf, by rw [List.foldl_cons, e]; exact e'⟩

theorem Tdm.fillLane_running (s8 : Bool) (outs : Nat → List (Int × Int) × Int) (et : Int → Nat) (l : Fin 4) (n : Nat) (d : Tdm) :
    (Tdm.fillLane s8 outs et l n d).running = d.running := by
  induction n generalizing d with
  | zero => rfl
  | succ n ih =>
    unfold Tdm.fillLane
    extract_lets e
    split
    · rfl
    · split
      · rfl
      · rw [ih]

theorem State.fillOut_running (s : State) : s.fillOut.tdm.running = s.tdm.running := by
  unfold State.fillOut
  extract_lets u d v e
  have hu : u.tdm = s.tdm := foldl_keeps State.tdm (fun u n => by
    obtain ⟨_, _, e⟩ := u.fillDac_shape n
    rw [e]) _ s
  have hd : d.running = u.tdm.running := foldl_keeps Tdm.running (fun x l => Tdm.fillLane_running ..) _ u.tdm
  rw [← hu, ← hd]

theorem State.fillOut_wclkOk (s : State) : s.fillOut.dac.wclkOk = s.dac.wclkOk := by
  unfold State.fillOut
  extract_lets u d v e
  have hu : u.dac.wclkOk = s.dac.wclkOk := foldl_keeps (fun u : State => u.dac.wclkOk) State.fillDac_wclkOk (List.finRange 16) s
  rw [← hu]

theorem State.fillOut_eq (s : State) : ∃ ch dac tdm irqf,
    s.fillOut = { s with out := { s.out with ch := ch }, dac := dac, tdm := tdm, irqf := irqf } := by
  obtain ⟨dac, irqf, hu⟩ := State.fillDacs_shape (List.finRange 16) s
  unfold State.fillOut
  rw [hu]
  generalize List.finRange 4 = lanes
  exact ⟨_, _, _, _, rfl⟩

/-- Filling the buffers changes the DAC, TDM, what OUT's channels keep, and the interrupts; no clock and no signal. -/
theorem State.fillOut_clocks (s : State) : ∃ ch dac tdm irqf,
    s.fillOut = { s with out := { s.out with ch := ch }, dac := dac, tdm := tdm, irqf := irqf } ∧ dac.edge = s.dac.edge ∧
    dac.signals = s.dac.signals ∧ dac.wclkOk = s.dac.wclkOk ∧ tdm.edge = s.tdm.edge ∧ tdm.running = s.tdm.running := by
  have hwclk := s.fillOut_wclkOk
  have hedge := s.fillOut_leaves.1
  have hsig := s.fillOut_signals
  have hout := s.fillOut_outgoing
  have hrun := s.fillOut_running
  obtain ⟨ch, dac, tdm, irqf, e⟩ := s.fillOut_eq
  rw [e] at hedge hsig hwclk hout hrun
  exact ⟨ch, dac, tdm, irqf, e, hedge, hsig, hwclk, congrArg Prod.fst hout, hrun⟩

/-- Forming what OUT's channels hold and filling the buffers. -/
theorem State.formFill_shape (s : State) : ∃ ch dac tdm irqf,
    s.formOuts.fillOut = { s with out := { s.out with ch := ch }, dac := dac, tdm := tdm, irqf := irqf } ∧ dac.edge = s.dac.edge ∧
    dac.signals = s.dac.signals ∧ dac.wclkOk = s.dac.wclkOk ∧ tdm.edge = s.tdm.edge ∧ tdm.running = s.tdm.running := by
  obtain ⟨ch, dac, tdm, irqf, e, h⟩ := s.formOuts.fillOut_clocks
  exact ⟨ch, dac, tdm, irqf, e, h⟩

/-! ### The grid -/

/-- A chain that tracks no more. -/
theorem State.trackOff_leaves (s : State) : ∃ ch, s.trackOff = { s with out := { s.out with trk := none, ch := ch } } := by
  unfold State.trackOff
  split
  next h => exact ⟨s.out.ch, by rw [← h]⟩
  · exact ⟨_, rfl⟩

/-- A new grid: the edges of DAC and TDM start from the first grid point. -/
theorem State.regrid_trackOff (s : State) (phi : Nat) : ∃ ch dacCh tdm,
    s.trackOff.regrid phi = { s with
      out := { s.out with trk := none, phi := phi, ch := ch }, tdm := tdm,
      dac := { s.dac with edge := ({ s with out := { s.out with phi := phi, trk := none } } : State).firstGrid, ch := dacCh } } ∧
    tdm.edge = ({ s with out := { s.out with phi := phi, trk := none } } : State).firstGrid ∧ tdm.running = s.tdm.running := by
  obtain ⟨ch, e⟩ := s.trackOff_leaves
  rw [e]
  exact ⟨_, _, _, rfl, rfl, rfl⟩

/-! ### The events -/

/-- A mute with a cause: both signals, and nothing but the DAC changes. -/
theorem State.muteNow_asserts {s : State} (h : s.dac.cause s.anaOn = true) : ∃ dac, s.muteNow = { s with dac := dac } ∧
    dac.signals = (true, false) ∧ dac.err = s.dac.err ∧ dac.wclkOk = s.dac.wclkOk := by
  refine ⟨_, State.muteNow_of_cause h, s.dac.assertMute_signals s.time.rclk, ?_⟩
  unfold Dac.assertMute
  split <;> exact ⟨rfl, rfl⟩

theorem Dac.cause_of_wclk {d : Dac} (ana : Bool) (h : d.wclkOk = false) : d.cause ana = true := by simp [Dac.cause, h]

/-- A DAC that loses its word clock flags it and asserts MUTE_n (R313). -/
theorem State.dacClockGone {s : State} (h : s.dac.wclkOk = false) : ∃ dac irqf, (s.dacErr 2).muteNow = { s with dac := dac, irqf := irqf } ∧
    dac.wclkOk = false ∧ dac.mute = true ∧ bit dac.err 2 = true := by
  obtain ⟨irqf, e⟩ := s.dacErr_shape 2
  obtain ⟨dac, e', hsig, herr, hwclk⟩ := ({ s with dac := (s.dac.setErr 2).1, irqf := irqf } : State).muteNow_asserts (Dac.cause_of_wclk _ h)
  rw [e, e']
  refine ⟨dac, irqf, rfl, hwclk.trans h, (Dac.signals_eq hsig).1, ?_⟩
  rw [herr]
  exact bit_setFlag_same _ (by decide)

theorem exec_wclkLost_early {s : State} (hrun : s.time.running = false) (hm : s.out.master = false) (hok : s.dac.wclkOk = true) :
    ∃ t : State, exec .wclkLost s = .next t ∧ t.dac.wclkOk = false ∧ t.dac.mute = true ∧ bit t.dac.err 2 = true ∧
      t = { s with dac := t.dac, irqf := t.irqf } := by
  obtain ⟨dac, irqf, e, hwclk, hmute, herr⟩ := State.dacClockGone (s := { s with dac := { s.dac with wclkOk := false } }) rfl
  refine ⟨_, (next_when (by simp [hrun, hm, hok])).trans (by rw [if_neg (by simp [hrun]), e]), hwclk, hmute, herr, rfl⟩

theorem exec_wclkLost_running {s : State} (hrun : s.time.running = true) (hm : s.out.master = false) (hok : s.out.wclkOk = true) :
    ∃ t : State, exec .wclkLost s = .next t ∧ t.out.wclkOk = false ∧ t.out.locked = false ∧
      t.tdm.running = false ∧ t.dac.mute = true ∧ bit t.out.err 1 = true ∧ bit t.dac.err 2 = true ∧
      t = { s with out := t.out, dac := t.dac, tdm := t.tdm, irqf := t.irqf } := by
  obtain ⟨ch, e⟩ := s.trackOff_leaves
  generalize hu : ({ s with
    out := { s.out with trk := none, ch := ch, wclkOk := false, locked := false },
    dac := { s.dac with wclkOk := false }, tdm := { s.tdm with running := false } } : State) = u
  have hgone : s.wclkGone = ((u.outErr 1).dacErr 2).muteNow := by
    rw [State.wclkGone, e, ← hu]
  obtain ⟨irqf, e1⟩ := u.outErr_shape 1
  obtain ⟨dac, irqf', e2, hwclk, hmute, herr⟩ := State.dacClockGone (s := u.outErr 1) (by rw [e1, ← hu])
  rw [e1] at e2
  refine ⟨_, (next_when (by simp [hrun, hm, hok])).trans (by rw [if_pos hrun, hgone, e1, e2]), ?_⟩
  rw [← hu]
  exact ⟨rfl, rfl, rfl, hmute, bit_setFlag_same _ (by decide), herr, rfl⟩

theorem exec_lockLost {s : State} (hrun : s.time.running = true) (hm : s.out.master = false) (hl : s.out.locked = true)
    (hok : s.out.wclkOk = true) (hbank : s.bankOn .tdm = true) :
    ∃ t : State, exec .lockLost s = .next t ∧ t.out.locked = false ∧
      t.out.trk.isSome = true ∧ bit t.out.err 2 = true ∧ bit t.sched.guar 3 = true ∧ t.dac = s.dac ∧
      t = { s with out := { s.out with locked := false, trk := t.out.trk, err := t.out.err },
                   sched := { s.sched with guar := t.sched.guar }, irqf := t.irqf, fresh := s.fresh + 1 } := by
  generalize hu : ({ s with out := { s.out with locked := false } } : State).trackOn = u
  obtain ⟨trk, hux⟩ : ∃ trk : Track, u = { s with out := { s.out with locked := false, trk := some trk }, fresh := s.fresh + 1 } :=
    ⟨_, hu.symm⟩
  obtain ⟨irqf, e1⟩ := u.guar_shape 3
  obtain ⟨irqf', e2⟩ := (u.guar 3).outErr_shape 2
  rw [e1] at e2
  refine ⟨_, (next_when (by simp [hrun, hm, hl, hok, hbank])).trans (by rw [hu, e1, e2]), ?_⟩
  rw [hux]
  exact ⟨rfl, rfl, bit_setFlag_same _ (by decide), bit_setFlag_same _ (by decide), rfl, rfl⟩

theorem exec_wclkRelock {s : State} {phi : Nat} {edge : Int} (hrun : s.time.running = true) (hm : s.out.master = false)
    (hl : s.out.locked = false) (htrack : s.out.track = false) (hok : s.out.wclkOk = true) (hbank : s.bankOn .tdm = true)
    (hphi : s.phiOk phi = true) (hedge : edge = ({ s with out := { s.out with phi := phi, trk := none } } : State).firstGrid) :
    ∃ t : State, exec (.wclkRelock phi edge) s = .next t ∧ t.out.phi = phi ∧ t.out.locked = true ∧ t.out.trk = none ∧
      t.out.relock = satInc s.out.relock 1 ∧ bit t.out.err 3 = true ∧ t.dac.edge = edge ∧ t.tdm.edge = edge ∧
      t = { s with out := t.out, dac := t.dac, tdm := t.tdm, irqf := t.irqf } := by
  obtain ⟨ch, dacCh, tdm, e, htdm, -⟩ := s.regrid_trackOff phi
  rw [← hedge] at e htdm
  obtain ⟨ch', dac, tdm', irqf, e1, hdac, -, -, htdm', -⟩ := ({ s with
    out := { s.out with trk := none, phi := phi, ch := ch, locked := true, relock := satInc s.out.relock 1 },
    tdm := tdm, dac := { s.dac with edge := edge, ch := dacCh } } : State).formFill_shape
  obtain ⟨irqf', e2⟩ := ({ s with
    out := { s.out with trk := none, phi := phi, ch := ch', locked := true, relock := satInc s.out.relock 1 },
    tdm := tdm', dac := dac, irqf := irqf } : State).outErr_shape 3
  refine ⟨_, (next_when (by rw [e]; simp [hrun, hm, hl, htrack, hok, hbank, hphi])).trans (by rw [e, e1, e2]), ?_⟩
  exact ⟨rfl, rfl, rfl, rfl, bit_setFlag_same _ (by decide), hdac, htdm'.trans htdm, rfl⟩

theorem exec_wclkReturn_early {s : State} (phi : Nat) (hrun : s.time.running = false) (hm : s.out.master = false)
    (hbank : s.bankOn .tdm = true) (hp : s.pwr.on pdCtrl = true) :
    exec (.wclkReturn phi) s = .next { s with dac := { s.dac with wclkOk := true } } :=
  (if_pos hrun).trans (next_when (by simp [hm, hbank, hp]))

theorem exec_wclkReturn_running {s : State} {phi : Nat} (hrun : s.time.running = true) (hm : s.out.master = false)
    (hok : s.out.wclkOk = false) (hbank : s.bankOn .tdm = true) (hphi : s.phiOk phi = true) :
    ∃ t : State, exec (.wclkReturn phi) s = .next t ∧ t.out.phi = phi ∧
      t.out.wclkOk = true ∧ t.dac.wclkOk = true ∧ t.tdm.running = true ∧ t.out.locked = !s.out.track ∧ t.dac.mute = s.dac.mute ∧
      t.tdm.edge = t.dac.edge ∧ (s.out.track = true → bit t.sched.guar 3 = true) ∧ t.voices = s.voices ∧ t.mem = s.mem := by
  obtain ⟨ch, dacCh, tdm, e, htdm, -⟩ := s.regrid_trackOff phi
  generalize ({ s with out := { s.out with phi := phi, trk := none } } : State).firstGrid = edge at e htdm
  generalize hu : ({ s with
    out := { s.out with trk := none, phi := phi, ch := ch, wclkOk := true, first := true, locked := !s.out.track },
    tdm := { tdm with running := true }, dac := { s.dac with edge := edge, ch := dacCh, wclkOk := true } } : State) = u
  have htracked : ∃ trk sched irqf fresh, (if u.out.track then u.trackOn.guar 3 else u) = { u with
      out := { u.out with trk := trk }, sched := sched, irqf := irqf, fresh := fresh } ∧ (s.out.track = true → bit sched.guar 3 = true) := by
    have htrack : u.out.track = s.out.track := by rw [← hu]
    by_cases hk : u.out.track = true
    · rw [if_pos hk]
      obtain ⟨irqf, eg⟩ := u.trackOn.guar_shape 3
      exact ⟨_, _, _, _, eg, fun _ => bit_setFlag_same _ (by decide)⟩
    · rw [if_neg hk]
      exact ⟨u.out.trk, u.sched, u.irqf, u.fresh, rfl, fun h => absurd (htrack.trans h) hk⟩
  obtain ⟨trk, sched, irqf, fresh, et, hguar⟩ := htracked
  obtain ⟨ch', dac, tdm', irqf', ef, hdac, hsig, hwclk, htdm', hrunning⟩ := ({ u with
    out := { u.out with trk := trk }, sched := sched, irqf := irqf, fresh := fresh } : State).formFill_shape
  have hexec : exec (.wclkReturn phi) s = .next (if u.out.track then u.trackOn.guar 3 else u).formOuts.fillOut :=
    (if_neg (by simp [hrun])).trans ((next_when (by simp [hm, hok, hbank, hphi])).trans (by rw [e, ← hu]))
  refine ⟨_, hexec.trans (by rw [et, ef]), ?_⟩
  subst hu
  exact ⟨rfl, rfl, hwclk, hrunning, rfl, congrArg (·.1) hsig, (htdm'.trans htdm).trans hdac.symm, hguar, rfl, rfl⟩

/-- Settles O36, event by event. -/
theorem wordClockEventsInSlaveMode : Obligations.WordClockEventsInSlaveMode :=
  ⟨fun _ hrun hm => ⟨fun phi => exec_wclkReturn_early phi hrun hm, exec_wclkLost_early hrun hm⟩,
    fun _ hrun hm => ⟨exec_lockLost hrun hm,
      fun _ _ hl htrack hok hbank hphi hedge => exec_wclkRelock hrun hm hl htrack hok hbank hphi hedge,
      exec_wclkLost_running hrun hm, fun _ hok hbank hphi => exec_wclkReturn_running hrun hm hok hbank hphi⟩⟩

end Sys2Proof.Machine
end

section
/-! PROOF. SPEC works in blocks, halts and restarts (spec/08_spectral_unit.md R238–R250). -/
namespace Sys2Proof.Machine

/-! ### What work on wave memory and on the channels changes -/

/-- `t` is `s` but for memory, what reports on it, the halls and the Foyer, and, of SPEC, its channels and counters. -/
def State.SpecWorked (s t : State) : Prop := t = { s with
  nv := t.nv, mgmt := t.mgmt, sched := t.sched, irqf := t.irqf, mem := t.mem, fence := t.fence, halls := t.halls, foyer := t.foyer,
  spec := { s.spec with err := t.spec.err, satCnt := t.spec.satCnt, ch := t.spec.ch } }

/-- Work that leaves the channels as they are. -/
def State.MemWorked (s t : State) : Prop := s.SpecWorked t ∧ t.spec.ch = s.spec.ch

namespace State.SpecWorked

theorem refl (s : State) : s.SpecWorked s := rfl

theorem trans {s t u : State} (h1 : s.SpecWorked t) (h2 : t.SpecWorked u) : s.SpecWorked u := by
  unfold State.SpecWorked at *
  rw [h2, h1]

theorem spec_eq {s t : State} (h : s.SpecWorked t) :
    t.spec = { s.spec with err := t.spec.err, satCnt := t.spec.satCnt, ch := t.spec.ch } := congrArg State.spec h

/-- What such work leaves. -/
theorem leaves {s t : State} (h : s.SpecWorked t) : t.time = s.time ∧ t.voices = s.voices ∧ t.out = s.out ∧
    t.spec.halted = s.spec.halted ∧ t.spec.next = s.spec.next ∧ t.spec.struck = s.spec.struck ∧ t.spec.an = s.spec.an ∧
    t.spec.ueCnt = s.spec.ueCnt := by
  have hspec := h.spec_eq
  rw [hspec, h]
  exact ⟨rfl, rfl, rfl, rfl, rfl, rfl, rfl, rfl⟩

theorem updSpec (s : State) (k : Fin 8) (f : SpecCh → SpecCh) : s.SpecWorked (s.updSpec k f) := rfl

end State.SpecWorked

namespace State.MemWorked

theorem refl (s : State) : s.MemWorked s := ⟨rfl, rfl⟩

theorem trans {s t u : State} (h1 : s.MemWorked t) (h2 : t.MemWorked u) : s.MemWorked u := ⟨h1.1.trans h2.1, h2.2.trans h1.2⟩

theorem foldl {β : Type} {f : State → β → State} (hf : ∀ (u : State) x, u.MemWorked (f u x)) (l : List β) (s : State) :
    s.MemWorked (l.foldl f s) := by
  induction l generalizing s with
  | nil => exact refl s
  | cons x l ih => exact (hf s x).trans (ih _)

theorem log (s : State) (code : Nat) (hall : Option Nat) (data : List Byte) : s.MemWorked (s.log code hall data) := by
  obtain ⟨_, _, e, -⟩ := s.log_shape code hall data
  rw [e]
  exact ⟨rfl, rfl⟩

theorem raise (s : State) (n : Nat) : s.MemWorked (s.raise n) := ⟨rfl, rfl⟩

theorem guar (s : State) (n : Nat) : s.MemWorked (s.guar n) := by
  obtain ⟨_, e⟩ := s.guar_shape n
  rw [e]
  exact ⟨rfl, rfl⟩

theorem specErr (s : State) (n : Nat) : s.MemWorked (s.specErr n) := by
  obtain ⟨_, e⟩ := s.specErr_shape n
  rw [e]
  exact ⟨rfl, rfl⟩

theorem notice (s : State) (h : Fin 8) (kind : Nat) (data : List Byte) : s.MemWorked (s.notice h kind data) := by
  obtain ⟨_, _, e⟩ := (State.RingsServed.notice s h kind data).shape
  rw [e]
  exact ⟨rfl, rfl⟩

theorem unitNotice (s : State) (h unit index event : Nat) : s.MemWorked (s.unitNotice h unit index event) := notice ..

theorem pageNotice (s : State) (h page cw event : Nat) : s.MemWorked (s.pageNotice h page cw event) := notice ..

theorem endWait (s : State) (h : Fin 8) (status : Nat) (data : List Byte) : s.MemWorked (s.endWait h status data) := by
  obtain ⟨_, _, e⟩ := s.endWait_shape h status data
  rw [e]
  exact ⟨rfl, rfl⟩

theorem fenceAdd (s : State) (kind cause index halls : Nat) : s.MemWorked (s.fenceAdd kind cause index halls) := by
  obtain ⟨_, _, _, e, -⟩ := s.fenceAdd_shape kind cause index halls
  rw [e]
  exact ⟨rfl, rfl⟩

theorem fenceLift (s : State) (kind index : Nat) : s.MemWorked (s.fenceLift kind index) := by
  obtain ⟨_, _, _, e⟩ := s.fenceLift_shape kind index
  rw [e]
  exact ⟨rfl, rfl⟩

theorem poisoned (s : State) (x : Nat × Bool) : s.MemWorked (s.poisoned x) := by
  unfold State.poisoned
  extract_lets cw p o a b
  have ha : s.MemWorked a := (log ..).trans (guar ..)
  clear_value a
  have hb : s.MemWorked b := by
    refine ha.trans ?_
    simp only [b]
    cases o with
    | none => exact refl a
    | some h => exact pageNotice ..
  clear_value b
  split
  · exact hb.trans (fenceAdd ..)
  · exact hb

theorem retiredPage (s : State) (p : Nat) : s.MemWorked (s.retiredPage p) := by
  unfold State.retiredPage
  extract_lets o a b
  have ha : s.MemWorked a := ((log ..).trans (raise ..)).trans (fenceLift ..)
  clear_value a
  have hb : s.MemWorked b := by
    refine ha.trans ?_
    simp only [b]
    cases o with
    | none => exact refl a
    | some h => exact pageNotice ..
  clear_value b
  split
  · exact hb
  · split
    · exact hb.trans ⟨rfl, rfl⟩
    · exact hb.trans ⟨rfl, rfl⟩

theorem memDo (s : State) (x : WaveMem × MemEvents) : s.MemWorked (s.memDo x) := by
  unfold State.memDo
  have hraise : s.MemWorked (({ s with mem := x.1 } : State).memRaise x.2) := ⟨rfl, rfl⟩
  exact (hraise.trans (foldl poisoned _ _)).trans (foldl retiredPage _ _)

theorem wipePages (s : State) (ps : List Nat) : s.MemWorked (s.wipePages ps) :=
  foldl (fun u p => (show u.MemWorked { u with mem := u.mem.wipe p } from ⟨rfl, rfl⟩).trans (fenceLift ..)) ps s

theorem storeAt (s : State) (pages : List Nat) (off : Nat) (bs : List Byte) : s.MemWorked (s.storeAt pages off bs) :=
  foldl (fun _ _ => memDo ..) _ s

theorem specRead (s : State) (k : Fin 8) (cws : List Nat) : s.MemWorked (s.specRead k cws) := by
  unfold State.specRead
  extract_lets bad u v
  have hu : s.MemWorked u := memDo ..
  have hv : s.MemWorked v := (hu.trans (specErr ..)).trans (guar ..)
  clear_value u v
  split
  · exact hu
  · split
    · exact hv.trans (unitNotice ..)
    · exact hv

end State.MemWorked

/-! ### A new impulse -/

theorem State.updSpec_ch (s : State) (k : Fin 8) (f : SpecCh → SpecCh) : (s.updSpec k f).spec.ch = s.spec.ch.upd k f := rfl

/-- The channel `k` goes over to the impulse `bd`, at a block `b`. -/
theorem State.convSwap_channel (s : State) (k : Fin 8) (bd : Build) (b : Nat) : s.SpecWorked (s.convSwap k bd b) ∧
    ∃ x, (s.convSwap k bd b).spec.ch = s.spec.ch.upd k fun c => { c with p := bd.parts, pages := bd.pages, swap := none, x := x } := by
  unfold State.convSwap
  extract_lets c P u kept v w z
  have hz : s.MemWorked z := (((State.MemWorked.specRead ..).trans (.foldl (fun _ _ => .storeAt ..) _ _)).trans (.storeAt ..)).trans
    (.wipePages ..)
  clear_value z
  refine ⟨hz.1.trans (.updSpec ..), (if (s.spec.ch.get k).p = 0 then Sparse.clear (s.spec.ch.get k).x 0 (256 * b) else (s.spec.ch.get k).x), ?_⟩
  rw [State.updSpec_ch, hz.2]
  exact Tab.upd_congr rfl

theorem State.convBuilt_memWorked (s : State) (k : Fin 8) (bd : Build) : s.MemWorked (s.convBuilt k bd) :=
  ((State.MemWorked.specRead ..).trans (.foldl (fun _ _ => .storeAt ..) _ _)).trans (.storeAt ..)

/-! ### A block -/

/-- The impulse that a channel works with, and the one that waits. -/
def SpecCh.route (c : SpecCh) : Option (Nat × Build) × Nat × List Nat := (c.swap, c.p, c.pages)

/-- What becomes of them at block `b` (R240). -/
def SpecCh.dueAt (b : Nat) (c : SpecCh) : Option (Nat × Build) × Nat × List Nat :=
  match c.swap with
  | some (b0, bd) => if b0 ≤ b then (none, bd.parts, bd.pages) else c.route
  | none => c.route

theorem SpecCh.dueAt_due {b b0 : Nat} {c : SpecCh} {bd : Build} (h : c.swap = some (b0, bd)) (hle : b0 ≤ b) :
    c.dueAt b = (none, bd.parts, bd.pages) := by
  rw [SpecCh.dueAt, h]
  exact if_pos hle

theorem SpecCh.dueAt_later {b b0 : Nat} {c : SpecCh} {bd : Build} (h : c.swap = some (b0, bd)) (hlt : ¬ b0 ≤ b) : c.dueAt b = c.route := by
  rw [SpecCh.dueAt, h]
  exact if_neg hlt

theorem SpecCh.dueAt_none {c : SpecCh} (b : Nat) (h : c.swap = none) : c.dueAt b = c.route := by
  rw [SpecCh.dueAt, h]

theorem State.convDue_channel (s : State) (b : Nat) (k : Fin 8) : s.SpecWorked (s.convDue b k) ∧
    ((s.convDue b k).spec.ch.get k).route = (s.spec.ch.get k).dueAt b ∧
    ∀ j, j ≠ k → (s.convDue b k).spec.ch.get j = s.spec.ch.get j := by
  unfold State.convDue
  split
  next b0 bd hswap =>
    split
    next hle =>
      obtain ⟨hworked, x, hch⟩ := s.convSwap_channel k bd b
      rw [hch, Tab.get_upd_same, SpecCh.dueAt_due hswap hle]
      exact ⟨hworked, rfl, fun j hj => Tab.get_upd_ne _ _ (Ne.symm hj)⟩
    next hlt => exact ⟨.refl s, (SpecCh.dueAt_later hswap hlt).symm, fun _ _ => rfl⟩
  next hnone => exact ⟨.refl s, (SpecCh.dueAt_none b hnone).symm, fun _ _ => rfl⟩

/-- A channel that only gains an output block, after work that leaves the channels. -/
theorem State.MemWorked.output {s t : State} (h : s.MemWorked t) (k : Fin 8) (y : Nat × List Int) :
    s.SpecWorked (t.updSpec k fun c => { c with y := (y :: c.y).take 8 }) ∧
    ((t.updSpec k fun c => { c with y := (y :: c.y).take 8 }).spec.ch.get k).route = (s.spec.ch.get k).route ∧
    ∀ j, j ≠ k → (t.updSpec k fun c => { c with y := (y :: c.y).take 8 }).spec.ch.get j = s.spec.ch.get j := by
  rw [State.updSpec_ch, h.2, Tab.get_upd_same]
  exact ⟨h.1.trans (.updSpec ..), rfl, fun j hj => Tab.get_upd_ne _ _ (Ne.symm hj)⟩

theorem State.convOne_channel (s : State) (b : Nat) (k : Fin 8) : s.SpecWorked (s.convOne b k) ∧
    ((s.convOne b k).spec.ch.get k).route = (s.spec.ch.get k).dueAt b ∧
    ∀ j, j ≠ k → (s.convOne b k).spec.ch.get j = s.spec.ch.get j := by
  obtain ⟨hdue, hroute, hother⟩ := s.convDue_channel b k
  unfold State.convOne
  extract_lets u c r v hit y hist slot w x z
  have hu : u = s.convDue b k := rfl
  rw [← hu] at hdue hroute hother
  clear_value u
  split
  · exact ⟨hdue, hroute, hother⟩
  have hx : u.MemWorked x := ((State.MemWorked.specRead ..).trans (.storeAt ..)).trans (.memDo ..)
  obtain ⟨hz, hzroute, hzother⟩ := hx.output k (b, y)
  have hdone : s.SpecWorked z ∧ (z.spec.ch.get k).route = (s.spec.ch.get k).dueAt b ∧ ∀ j, j ≠ k → z.spec.ch.get j = s.spec.ch.get j :=
    ⟨hdue.trans hz, hzroute.trans hroute, fun j hj => (hzother j hj).trans (hother j hj)⟩
  clear_value z
  split
  · exact hdone
  · have herr := State.MemWorked.specErr { z with spec := { z.spec with satCnt := satInc z.spec.satCnt r.sats } } 3
    rw [herr.2]
    have hcount : z.SpecWorked { z with spec := { z.spec with satCnt := satInc z.spec.satCnt r.sats } } := rfl
    exact ⟨hdone.1.trans (hcount.trans herr.1), hdone.2⟩

/-- The channels, one after the other. -/
theorem State.convAll_channel (b : Nat) (ks : List (Fin 8)) (hnd : ks.Nodup) (s : State) :
    s.SpecWorked (ks.foldl (fun s k => s.convOne b k) s) ∧ ∀ k,
      (k ∈ ks → ((ks.foldl (fun s k => s.convOne b k) s).spec.ch.get k).route = (s.spec.ch.get k).dueAt b) ∧
      (k ∉ ks → (ks.foldl (fun s k => s.convOne b k) s).spec.ch.get k = s.spec.ch.get k) := by
  induction ks generalizing s with
  | nil => exact ⟨.refl s, fun k => ⟨fun h => absurd h List.not_mem_nil, fun _ => rfl⟩⟩
  | cons k ks ih =>
    obtain ⟨hk, hnd⟩ := List.nodup_cons.mp hnd
    obtain ⟨hone, hroute, hother⟩ := s.convOne_channel b k
    obtain ⟨hrest, hrestch⟩ := ih hnd (s.convOne b k)
    refine ⟨hone.trans hrest, fun j => ⟨fun hj => ?_, fun hj => ?_⟩⟩
    · rcases Decidable.em (j = k) with rfl | hne
      · exact (congrArg SpecCh.route ((hrestch j).2 hk)).trans hroute
      · have hmem : j ∈ ks := (List.mem_cons.mp hj).resolve_left hne
        exact ((hrestch j).1 hmem).trans (congrArg (SpecCh.dueAt b) (hother j hne))
    · have hne : j ≠ k := fun e => hj (e ▸ List.mem_cons_self)
      exact ((hrestch j).2 fun hmem => hj (List.mem_cons_of_mem _ hmem)).trans (hother j hne)

/-- `t` has worked block `b` in the state `s`: the next one follows, no strike on a channel is left, and a channel goes by the impulse that
is due. -/
structure State.BlockWorked (s : State) (b : Nat) (t : State) : Prop where
  next : t.spec.next = b + 1
  struck : ∀ k : Fin 8, WmUnit.ch k ∉ t.spec.struck
  halted : t.spec.halted = s.spec.halted
  time : t.time = s.time
  voices : t.voices = s.voices
  out : t.out = s.out
  route : ∀ k, (t.spec.ch.get k).route = (s.spec.ch.get k).dueAt b

theorem State.BlockWorked.missed {s t : State} {b : Nat} (h : s.BlockWorked b t) :
    s.BlockWorked b (({ t with spec := { t.spec with miss := satInc t.spec.miss 1 } } : State).specErr 2) := by
  obtain ⟨_, e⟩ := ({ t with spec := { t.spec with miss := satInc t.spec.miss 1 } } : State).specErr_shape 2
  rw [e]
  exact ⟨h.next, h.struck, h.halted, h.time, h.voices, h.out, h.route⟩

/-- The strikes that outlast a block of the channels: those on analysers. -/
def WmUnit.isAn : WmUnit → Bool
  | .ch _ => false
  | .an _ => true

/-- The block with its end, but for the count of a block that came too late. -/
def State.workBlock (s : State) (b : Nat) : State :=
  let u := (List.finRange 8).foldl (fun s k => s.convOne b k) s
  { u with spec := { u.spec with next := b + 1, struck := u.spec.struck.filter WmUnit.isAn } }

/-- The count of a block that came too late. -/
def State.noteMiss (s : State) (b : Nat) : State :=
  if (s.blockLate b && (s.spec.ch.toList.any fun c => c.owner.isSome && c.p != 0)) = true
  then ({ s with spec := { s.spec with miss := satInc s.spec.miss 1 } } : State).specErr 2 else s

theorem State.workBlock_worked (s : State) (mem : WaveMem) (b : Nat) : s.BlockWorked b (State.workBlock { s with mem := mem } b) := by
  obtain ⟨hworked, hch⟩ := State.convAll_channel b (List.finRange 8) (List.nodup_finRange 8) { s with mem := mem }
  unfold State.workBlock
  generalize (List.finRange 8).foldl (fun s k => s.convOne b k) { s with mem := mem } = u at hworked hch ⊢
  obtain ⟨htime, hvoices, hout, hhalted, -⟩ := hworked.leaves
  refine ⟨rfl, fun k hk => ?_, hhalted, htime, hvoices, hout, fun k => (hch k).1 (List.mem_finRange k)⟩
  exact Bool.noConfusion (List.mem_filter.mp hk).2

theorem exec_specBlock {s : State} {upsets : Upsets} {b : Nat} (hon : s.pwr.on pdSpec = true) (hwf : Upsets.wf upsets = true)
    (hrun : s.time.running = true) (hgo : s.spec.halted = false) (hb : b = s.spec.next) (hready : 256 * (b + 1) ≤ s.mez.next * s.fl)
    (hany : ∃ k : Fin 8, (s.spec.ch.get k).owner.isSome = true) :
    ∃ t : State, exec (.specBlock upsets) s = .next t ∧ s.BlockWorked b t := by
  subst hb
  obtain ⟨k, hk⟩ := hany
  have hsome : (s.spec.ch.toList.any fun c => c.owner.isSome) = true :=
    List.any_eq_true.mpr ⟨s.spec.ch.get k, by simp [Tab.get], hk⟩
  have hworked := s.workBlock_worked (s.mem.upset upsets) s.spec.next
  have hexec : exec (.specBlock upsets) s = .next ((State.workBlock { s with mem := s.mem.upset upsets } s.spec.next).noteMiss s.spec.next) := by
    change execSpecBlock upsets s = _
    unfold execSpecBlock
    rw [if_neg (by simp [hwf])]
    extract_lets u b ok
    have hok : ok = true := by simp [ok, b, u, hrun, hgo, hon, hsome]; exact hready
    rw [State.when, if_pos hok]
    unfold State.workBlock State.noteMiss
    generalize List.finRange 8 = channels
    rfl
  refine ⟨_, hexec, ?_⟩
  unfold State.noteMiss
  split
  · exact hworked.missed
  · exact hworked

/-! ### An analyser's block and its writes -/

theorem exec_resynBlock {s : State} {i : Fin 2} {b : Nat} (hon : s.pwr.on pdSpec = true) (hb : b = (s.spec.an.get i).next)
    (hrun : s.time.running = true) (hcfg : bit (s.spec.an.get i).cfg 31 = true) (hgo : s.spec.halted = false)
    (hready : 256 * (b + 1) ≤ s.mez.next * s.fl) :
    ∃ t : State, exec (.resynBlock i) s = .next t ∧ (t.spec.an.get i).next = b + 1 ∧ WmUnit.an i ∉ t.spec.struck ∧
      (WmUnit.an i ∈ s.spec.struck → (t.spec.an.get i).out = (s.spec.an.get i).out) ∧
      (WmUnit.an i ∉ s.spec.struck → ∃ ws, (t.spec.an.get i).out = (s.spec.an.get i).out ++ [(b, ws)]) ∧
      t = { s with spec := t.spec } ∧ ∀ j, j ≠ i → t.spec.an.get j = s.spec.an.get j := by
  subst hb
  have hhit : s.spec.struck.contains (.an i) = decide (WmUnit.an i ∈ s.spec.struck) := List.contains_eq_mem ..
  refine ⟨_, next_when (by simp [hrun, hcfg, hgo, hon, hready]), ?_⟩
  dsimp only [State.updAn]
  rw [Tab.get_upd_same, hhit]
  refine ⟨rfl, by simp, fun hmem => ?_, fun hmem => ?_, rfl, fun j hj => Tab.get_upd_ne _ _ (Ne.symm hj)⟩
  · dsimp only
    rw [if_pos (decide_eq_true hmem)]
  · dsimp only
    rw [if_neg (by simp [hmem])]
    exact ⟨_, rfl⟩

theorem exec_resynCtrlWrite {s : State} {i : Fin 2} {b : Nat} {ws : List (Nat × Int)} {rest : List (Nat × List (Nat × Int))} {h : Fin 8}
    (hout : (s.spec.an.get i).out = (b, ws) :: rest) (hh : h = hallIx (bits (s.spec.an.get i).cfg 28 26)) :
    ∃ t : State, exec (.resynCtrlWrite i) s = .next t ∧ (t.spec.an.get i).out = rest ∧ t = { s with spec := t.spec, halls := t.halls } ∧
      t.halls.get h = ws.foldl (fun x w => x.setCtl ((256 * b + 512) * 512) 1 w.1 w.2 0) (s.halls.get h) ∧
      ∀ k, k ≠ h → t.halls.get k = s.halls.get k := by
  subst hh
  refine ⟨((s.updAn i fun a => { a with out := rest }).updHall (hallIx (bits (s.spec.an.get i).cfg 28 26)) fun x =>
    ws.foldl (fun x w => x.setCtl ((256 * b + 512) * 512) 1 w.1 w.2 0) x), ?_, ?_, rfl, ?_, fun k hk => Tab.get_upd_ne _ _ (Ne.symm hk)⟩
  · refine next_eq ?_
    dsimp only
    rw [hout]
  · change ((s.spec.an.upd i fun a => { a with out := rest }).get i).out = rest
    rw [Tab.get_upd_same]
  · exact Tab.get_upd_same s.halls (hallIx (bits (s.spec.an.get i).cfg 28 26)) _

/-! ### A new impulse is built -/

/-- What the switch makes of a channel: at once where no channel works, else from the block `b` on. -/
theorem State.convSwitchAt_channel (s : State) (k : Fin 8) (bd : Build) (b : Nat) :
    ((s.convSwitchAt k bd b).spec.ch.get k).build = none ∧ (s.convSwitchAt k bd b).time = s.time ∧
    (s.convSwitchAt k bd b).voices = s.voices ∧
    (s.spec.first = true → ((s.convSwitchAt k bd b).spec.ch.get k).p = bd.parts ∧
      ((s.convSwitchAt k bd b).spec.ch.get k).pages = bd.pages ∧ (s.convSwitchAt k bd b).spec.next = b) ∧
    (s.spec.first = false → ((s.convSwitchAt k bd b).spec.ch.get k).swap = some (b, bd) ∧
      ((s.convSwitchAt k bd b).spec.ch.get k).p = (s.spec.ch.get k).p ∧
      ((s.convSwitchAt k bd b).spec.ch.get k).pages = (s.spec.ch.get k).pages ∧ (s.convSwitchAt k bd b).spec.next = s.spec.next) := by
  obtain ⟨hbuilt, hch⟩ := s.convBuilt_memWorked k bd
  unfold State.convSwitchAt
  generalize s.convBuilt k bd = u at hbuilt hch
  obtain ⟨htime, hvoices, -, -, hnext, -⟩ := hbuilt.leaves
  have hbuild (f : SpecCh → SpecCh) : (u.updSpec k f).spec.ch.get k = f (s.spec.ch.get k) := by
    rw [State.updSpec_ch, hch, Tab.get_upd_same]
  cases hfirst : s.spec.first with
  | true =>
    rw [if_pos rfl]
    dsimp only
    generalize hw : u.updSpec k (fun c => { c with build := none }) = w
    have hwk : (w.spec.ch.get k).build = none := by rw [← hw, hbuild]
    obtain ⟨hswap, x, hswapch⟩ := ({ w with spec := { w.spec with next := b } } : State).convSwap_channel k bd b
    obtain ⟨hst, hsv, -, -, hsn, -⟩ := hswap.leaves
    rw [hswapch, Tab.get_upd_same]
    refine ⟨hwk, hst.trans ?_, hsv.trans ?_, fun _ => ⟨rfl, rfl, hsn⟩, fun h => Bool.noConfusion h⟩ <;> rw [← hw]
    · exact htime
    · exact hvoices
  | false =>
    rw [if_neg Bool.false_ne_true]
    have hk : ((u.updSpec k fun c => { c with build := none }).updSpec k fun c => { c with swap := some (b, bd) }).spec.ch.get k =
        { s.spec.ch.get k with build := none, swap := some (b, bd) } := by
      rw [State.updSpec_ch, Tab.get_upd_same, hbuild]
    rw [hk]
    exact ⟨rfl, htime, hvoices, fun h => Bool.noConfusion h, fun _ => ⟨rfl, rfl, rfl, hnext⟩⟩

theorem exec_convSwitch {s u : State} {k : Fin 8} {bd : Build} {h b : Nat} (hon : s.pwr.on pdSpec = true)
    (hbuild : (s.spec.ch.get k).build = some bd) (howner : (s.spec.ch.get k).owner = some h) (hgo : s.spec.halted = false)
    (hstay : (s.spec.ch.get k).leaving = false) (hswap : (s.spec.ch.get k).swap = none) (hb : b = s.switchBlock)
    (hreach : s.reaches (b * 131072) = true) (hu : u = s.runTo (b * 131072)) :
    ∃ t : State, exec (.convSwitch k) s = .next t ∧ (t.spec.ch.get k).build = none ∧ s.time.et < b * 131072 ∧
      (u.spec.first = true → (t.spec.ch.get k).p = bd.parts ∧ (t.spec.ch.get k).pages = bd.pages ∧ t.spec.next = b) ∧
      (u.spec.first = false → (t.spec.ch.get k).swap = some (b, bd) ∧ (t.spec.ch.get k).p = (u.spec.ch.get k).p ∧
        (t.spec.ch.get k).pages = (u.spec.ch.get k).pages ∧ t.spec.next = u.spec.next) ∧
      t.time = u.time ∧ t.voices = u.voices := by
  have hlate : s.time.et < b * 131072 := by
    have hge : s.nextBlock ≤ b := by rw [hb]; exact Nat.le_max_right ..
    simp only [State.nextBlock] at hge
    omega
  obtain ⟨hdone, htime, hvoices, hfirst, hlater⟩ := u.convSwitchAt_channel k bd b
  generalize hv : u.convSwitchAt k bd b = v at hdone htime hvoices hfirst hlater
  have hexec : ∃ foyer halls, exec (.convSwitch k) s = .next { v with foyer := foyer, halls := halls } := by
    change ∃ foyer halls, execConvSwitch k s = _
    unfold execConvSwitch
    dsimp only
    rw [hbuild, howner]
    dsimp only
    rw [State.when, if_pos (by rw [← hb]; simp [hgo, hon, hstay, hswap, hreach]), ← hb, ← hu, hv]
    split
    · split
      · obtain ⟨foyer, halls, e⟩ := v.endWait_shape (hallIx h) 0 (leBytes 2 bd.parts ++ leBytes 2 bd.pages.length)
        exact ⟨foyer, halls, by rw [e]⟩
      · exact ⟨v.foyer, v.halls, rfl⟩
    · exact ⟨v.foyer, v.halls, rfl⟩
  obtain ⟨foyer, halls, e⟩ := hexec
  exact ⟨_, e, hdone, hlate, hfirst, hlater, htime, hvoices⟩

/-! ### Errors of the working memory -/

/-- What is kept of a list ends as the list ends. -/
theorem keepLast_append {α : Type} {n : Nat} (l : List α) {post : List α} (h : post.length ≤ n) :
    ∃ pre, keepLast n (l ++ post) = pre ++ post := by
  induction l with
  | nil =>
    refine ⟨[], ?_⟩
    cases post with
    | nil => rfl
    | cons x xs => exact if_pos h
  | cons y l ih =>
    rw [List.cons_append, keepLast]
    split
    · exact ⟨y :: l, rfl⟩
    · exact ih

/-- An entry that is logged is the last one of the volatile log, after no more than one other (R456). -/
theorem State.log_volLog (s : State) (code : Nat) (hall : Option Nat) {data : List Byte} (hd : data.length ≤ 12) :
    ∃ l e, (s.log code hall data).mgmt.volLog = keepLast 128 (l ++ [e]) ∧
      (l = s.mgmt.volLog ∨ ∃ x, l = keepLast 128 (s.mgmt.volLog ++ [x])) ∧
      e.code = code ∧ e.hall = hall ∧ e.data = data := by
  have hent (u : State) (cls : LogClass) : (u.logEnt code cls hall data).code = code ∧ (u.logEnt code cls hall data).hall = hall ∧
      (u.logEnt code cls hall data).data = data := ⟨rfl, rfl, List.take_of_length_le hd⟩
  unfold State.log
  generalize logClassOf (Config.logClass code) = cls
  unfold State.logAs
  extract_lets pass _ _ _ _ _ u
  split
  · exact ⟨_, _, rfl, .inl rfl, hent ..⟩
  · have hu : u.mgmt.volLog = s.mgmt.volLog ∨ ∃ x, u.mgmt.volLog = keepLast 128 (s.mgmt.volLog ++ [x]) := by
      simp only [u]
      split
      · exact .inl rfl
      · exact .inr ⟨_, rfl⟩
    clear_value u
    exact ⟨_, _, rfl, hu, hent ..⟩

/-- An entry that is the last one of the volatile log is still in it when another has been logged. -/
theorem State.mem_log {s : State} {pre : List LogEnt} {e : LogEnt} (h : s.mgmt.volLog = pre ++ [e]) (code : Nat) (hall : Option Nat)
    {data : List Byte} (hd : data.length ≤ 12) : e ∈ (s.log code hall data).mgmt.volLog := by
  obtain ⟨l, x, hl, hpre, -⟩ := s.log_volLog code hall hd
  rw [hl]
  have hmem : ∃ pre post : List LogEnt, l ++ [x] = pre ++ ([e] ++ post) ∧ post.length ≤ 2 := by
    rcases hpre with rfl | ⟨y, rfl⟩
    · exact ⟨pre, [x], by rw [h, List.append_assoc], by simp⟩
    · obtain ⟨pre', hy⟩ := keepLast_append (n := 128) pre (post := [e] ++ [y]) (by simp)
      exact ⟨pre', [y, x], by rw [h, List.append_assoc, hy]; simp, by simp⟩
  obtain ⟨pre, post, heq, hlen⟩ := hmem
  obtain ⟨pre', hkeep⟩ := keepLast_append (n := 128) pre (post := [e] ++ post) (by simp; omega)
  rw [heq, hkeep]
  simp

/-- An entry that is logged is the last one of the volatile log. -/
theorem State.log_last (s : State) (code : Nat) (hall : Option Nat) {data : List Byte} (hd : data.length ≤ 12) :
    ∃ pre e, (s.log code hall data).mgmt.volLog = pre ++ [e] ∧ e.code = code ∧ e.hall = hall ∧ e.data = data := by
  obtain ⟨l, e, hl, -, he⟩ := s.log_volLog code hall hd
  obtain ⟨pre, hpre⟩ := keepLast_append (n := 128) l (post := [e]) (by simp)
  exact ⟨pre, e, hl.trans hpre, he⟩

theorem State.RingsServed.foldl {β : Type} {f : State → β → State} (hf : ∀ (u : State) x, u.RingsServed (f u x)) (l : List β) (s : State) :
    s.RingsServed (l.foldl f s) := by
  induction l generalizing s with
  | nil => exact .refl s
  | cons x l ih => exact (hf s x).trans (ih _)

theorem State.specTell_ringsServed (s : State) (event : Nat) : s.RingsServed (s.specTell event) := by
  unfold State.specTell
  extract_lets u
  have hu : s.RingsServed u := by
    refine .foldl (fun v k => ?_) _ s
    split
    · exact .notice ..
    · exact .refl v
  clear_value u
  refine hu.trans (.foldl (fun v a => ?_) _ u)
  dsimp only
  split
  · exact .notice ..
  · exact .refl v

/-- The halt (R250): SPEC stands, nothing strikes, and what has been logged last is still in the log. -/
theorem State.specHalt_leaves (s : State) : s.specHalt.spec.halted = true ∧ s.specHalt.spec.ueCnt = s.spec.ueCnt ∧
    s.specHalt.spec.err = s.spec.err ∧ s.specHalt.sched = s.sched ∧ s.specHalt.voices = s.voices ∧ s.specHalt.mem = s.mem ∧
    s.specHalt.time = s.time ∧ ∀ pre e, s.mgmt.volLog = pre ++ [e] → e ∈ s.specHalt.mgmt.volLog := by
  unfold State.specHalt
  extract_lets n ch an _ u
  have hu : u.spec.halted = true ∧ u.spec.ueCnt = s.spec.ueCnt ∧ u.spec.err = s.spec.err ∧ u.sched = s.sched ∧ u.voices = s.voices ∧
      u.mem = s.mem ∧ u.time = s.time ∧ u.mgmt = s.mgmt := ⟨rfl, rfl, rfl, rfl, rfl, rfl, rfl, rfl⟩
  clear_value u
  obtain ⟨hhalt, hcnt, herr, hsched, hvoices, hmem, htime, hmgmt⟩ := hu
  have hkept (pre : List LogEnt) (e : LogEnt) (h : s.mgmt.volLog = pre ++ [e]) : e ∈ (u.log 0x0402 none []).mgmt.volLog :=
    State.mem_log (hmgmt ▸ h) 0x0402 none (by simp)
  obtain ⟨nv, mgmt, e, -⟩ := u.log_shape 0x0402 none []
  obtain ⟨_, _, htell⟩ := (((u.log 0x0402 none []).raise 97).specTell_ringsServed 2).shape
  rw [e] at hkept htell
  rw [e, htell]
  exact ⟨hhalt, hcnt, herr, hsched, hvoices, hmem, htime, hkept⟩

/-- The strike of an error of the working memory: counted, flagged, logged and told. -/
def State.strike (s : State) (u : WmUnit) (h : Nat) : State :=
  let recent := s.time.et :: s.spec.ueAt.filter fun t => decide (s.time.et < t + feHz s.fe882 * 512)
  let s := { s with spec := { s.spec with struck := u :: s.spec.struck.filter (· != u), ueAt := recent,
                                          ueCnt := satInc s.spec.ueCnt 1 } }
  (((s.specErr 0).guar 4).log 0x0401 (some h) [byte u.kind, byte u.index]).unitNotice h u.kind u.index 1

theorem State.strike_leaves (s : State) (u : WmUnit) (h : Nat) : (s.strike u h).spec.halted = s.spec.halted ∧ u ∈ (s.strike u h).spec.struck ∧
    (s.strike u h).spec.ueCnt = satInc s.spec.ueCnt 1 ∧ bit (s.strike u h).spec.err 0 = true ∧ bit (s.strike u h).sched.guar 4 = true ∧
    (∃ pre e, (s.strike u h).mgmt.volLog = pre ++ [e] ∧ e.code = 0x0401 ∧ e.hall = some h ∧ e.data = [byte u.kind, byte u.index]) ∧
    (s.strike u h).voices = s.voices ∧ (s.strike u h).mem = s.mem ∧ (s.strike u h).time = s.time := by
  unfold State.strike
  extract_lets recent _ v
  have hv : v.spec.halted = s.spec.halted ∧ u ∈ v.spec.struck ∧ v.spec.ueCnt = satInc s.spec.ueCnt 1 ∧ v.voices = s.voices ∧
      v.mem = s.mem ∧ v.time = s.time := ⟨rfl, List.mem_cons_self, rfl, rfl, rfl, rfl⟩
  clear_value v
  obtain ⟨hhalt, hstruck, hcnt, hvoices, hmem, htime⟩ := hv
  obtain ⟨_, e1⟩ := v.specErr_shape 0
  obtain ⟨_, e2⟩ := (v.specErr 0).guar_shape 4
  have hlast := State.log_last ((v.specErr 0).guar 4) 0x0401 (some h) (data := [byte u.kind, byte u.index]) (by simp)
  obtain ⟨nv, mgmt, e3, -⟩ := ((v.specErr 0).guar 4).log_shape 0x0401 (some h) [byte u.kind, byte u.index]
  obtain ⟨_, _, e4⟩ := (State.RingsServed.notice (((v.specErr 0).guar 4).log 0x0401 (some h) [byte u.kind, byte u.index]) (hallIx h) 3
    [byte u.kind, byte u.index, byte 1]).shape
  rw [e3] at hlast
  rw [State.unitNotice, e4, e3, e2, e1]
  exact ⟨hhalt, hstruck, hcnt, bit_setFlag_same _ (by decide), bit_setFlag_same _ (by decide), hlast, hvoices, hmem, htime⟩

theorem exec_specWmError {s : State} {u : WmUnit} {h : Nat} (hon : s.pwr.on pdSpec = true) (hh : s.wmHall u = some h)
    (hgo : s.spec.halted = false) :
    ∃ t : State, exec (.specWmError u) s = .next t ∧ (t.spec.halted = false → u ∈ t.spec.struck) ∧
      t.spec.ueCnt = satInc s.spec.ueCnt 1 ∧ bit t.spec.err 0 = true ∧ bit t.sched.guar 4 = true ∧
      (∃ e ∈ t.mgmt.volLog, e.code = 0x0401 ∧ e.hall = some h ∧ e.data = [byte u.kind, byte u.index]) ∧
      t.voices = s.voices ∧ t.mem = s.mem ∧ t.time = s.time ∧
      (3 ≤ (s.spec.ueAt.filter fun x => decide (s.time.et < x + feHz s.fe882 * 512)).length ↔ t.spec.halted = true) := by
  obtain ⟨hhalt, hstruck, hcnt, herr, hguar, ⟨pre, e, hlast, hent⟩, hvoices, hmem, htime⟩ := s.strike_leaves u h
  have hexec : exec (.specWmError u) s = .next
      (if 4 ≤ (s.spec.ueAt.filter fun x => decide (s.time.et < x + feHz s.fe882 * 512)).length + 1 then (s.strike u h).specHalt
        else s.strike u h) := by
    change execSpecWmError u s = _
    unfold execSpecWmError
    rw [hh]
    exact next_when (by simp [hgo, hon])
  refine ⟨_, hexec, ?_⟩
  split
  next h4 =>
    obtain ⟨hhalt', hcnt', herr', hsched', hvoices', hmem', htime', hlog⟩ := (s.strike u h).specHalt_leaves
    exact ⟨fun hno => Bool.noConfusion (hno.symm.trans hhalt'), hcnt'.trans hcnt, by rw [herr', herr], by rw [hsched', hguar],
      ⟨e, hlog pre e hlast, hent⟩, hvoices'.trans hvoices, hmem'.trans hmem, htime'.trans htime, fun _ => hhalt', fun _ => by omega⟩
  next h4 =>
    exact ⟨fun _ => hstruck, hcnt, herr, hguar, ⟨e, by rw [hlast]; simp, hent⟩, hvoices, hmem, htime, fun h3 => absurd (by omega) h4,
      fun hyes => Bool.noConfusion (hgo.symm.trans (hhalt.symm.trans hyes))⟩

/-! ### The restart -/

theorem State.zeroHist_specWorked (s : State) (b : Nat) (k : Fin 8) : s.SpecWorked (s.zeroHist b k) := by
  unfold State.zeroHist
  exact (State.MemWorked.foldl (fun _ _ => .memDo ..) _ s).1.trans (.updSpec ..)

theorem State.specResume_leaves {s : State} (h : s.spec.halted = true) : s.specResume.spec.halted = false ∧
    s.specResume.spec.next = s.nextBlock ∧ (∀ i : Fin 2, (s.specResume.spec.an.get i).next = s.nextBlock ∧
    (s.specResume.spec.an.get i).tracks = []) ∧ s.specResume.voices = s.voices ∧ s.specResume.time = s.time := by
  unfold State.specResume
  rw [if_neg (by simp [h])]
  generalize List.finRange 8 = channels
  extract_lets b an _ u
  have hworked : u.SpecWorked (channels.foldl (fun s k => s.zeroHist b k) u) := by
    generalize u = v
    induction channels generalizing v with
    | nil => exact .refl v
    | cons k ks ih => exact (v.zeroHist_specWorked b k).trans (ih _)
  obtain ⟨htime, hvoices, -, hhalted, hnext, -, han, -⟩ := hworked.leaves
  have hstand (i : Fin 2) : (u.spec.an.get i).next = s.nextBlock ∧ (u.spec.an.get i).tracks = [] := by
    simp only [u, an]
    rw [Tab.get_map]
    exact ⟨rfl, rfl⟩
  exact ⟨hhalted.trans rfl, hnext.trans rfl, fun i => han ▸ hstand i, hvoices.trans rfl, htime.trans rfl⟩

theorem State.busWrite_specCtrl {s : State} (i : Initiator) (v : Word) (hp : s.pwr.answers pdSpec = true) :
    s.busWrite i 0x40300004 v = if i = .window then s.specCtrl v else s :=
  State.busWrite_effect (b := .spec) (off := 4)
    (State.reach_ok i (by decide) (by decide) (by decide) rfl (State.powered_of_answers rfl hp)) rfl

/-- Settles O37, from the work of one channel, the strike of one error, and the restart. -/
theorem specWorksInBlocks : Obligations.SpecWorksInBlocks := by
  refine ⟨fun s hon => ⟨fun upsets b hwf hrun hgo hb hready hany => ?_,
    fun i b hb hrun hcfg hgo hready => exec_resynBlock hon hb hrun hcfg hgo hready,
    fun i b ws rest h hout hh => exec_resynCtrlWrite hout hh,
    fun k bd h b u hbuild howner hgo hstay hswap hb hreach hu => exec_convSwitch hon hbuild howner hgo hstay hswap hb hreach hu,
    fun upsets b k b0 bd hwf hrun hgo hb hready howner hswap => ?_⟩,
    fun s => ⟨fun u h hon hh hgo => exec_specWmError hon hh hgo, fun hp v hv hhalt => ?_, fun hp v hv => ?_, fun hp i v hi => ?_⟩⟩
  · obtain ⟨t, hexec, h⟩ := exec_specBlock hon hwf hrun hgo hb hready hany
    exact ⟨t, hexec, h.next, h.struck, h.time, h.voices, h.out, h.halted.trans hgo⟩
  · obtain ⟨t, hexec, h⟩ := exec_specBlock hon hwf hrun hgo hb hready ⟨k, howner⟩
    have hroute := h.route k
    refine ⟨t, hexec, fun hle => ?_, fun hlt => ?_⟩
    · rw [SpecCh.dueAt_due hswap hle] at hroute
      simpa only [SpecCh.route, Prod.mk.injEq] using hroute
    · rw [SpecCh.dueAt_later hswap (by omega)] at hroute
      simpa only [SpecCh.route, Prod.mk.injEq, hswap] using hroute
  · obtain ⟨hhalted, hnext, han, hvoices, htime⟩ := State.specResume_leaves hhalt
    exact ⟨s.specResume, next_eq ((State.busWrite_specCtrl .window v hp).trans ((if_pos rfl).trans (if_pos hv))), hhalted, hnext, han,
      hvoices, htime⟩
  · exact next_eq ((State.busWrite_specCtrl .window v hp).trans ((if_pos rfl).trans (if_neg (by simp [hv]))))
  · exact next_eq ((State.busWrite_specCtrl i v hp).trans (if_neg hi))

end Sys2Proof.Machine
end

section
/-! PROOF. A patrol read that render bring-up precedes (spec/09_wave_memory.md R265, spec/02_time_and_determinism.md R418): the cadence
follows the rate that bring-up selects, which the statement of the scrubbers leaves out. -/

namespace Sys2Proof.Machine

/-- A device at the last REFCLK edge before bring-up, configured for the other rate, whose time runs already; the patrol of channel 0 falls
due one edge later. No premise of the statement excludes it. -/
def bringupDuringPatrol : State :=
  { State.reset with
    nv := { State.reset.nv with cfg := { State.reset.nv.cfg with fe882 := true } }
    time := { State.reset.time with counting := true, refclk := true, running := true, armed := true, rclk := 3686399 }
    mem := { State.reset.mem with ch := State.reset.mem.ch.upd 0 fun c => { c with due := some 2 } } }

/-- What the model makes of the cadence: the next read falls due 2422 es later, as at the rate that bring-up selects. -/
theorem bringupDuringPatrol_due :
    (match exec (.scrubPatrolRead 0 []) bringupDuringPatrol with
      | .next t => (t.mem.ch.get 0).due
      | _ => none) = some (2 + 2422 * 512) := by decide +kernel

/-- Refutes O39: the first clause has the next patrol read fall due at the cadence of the state before, and where bring-up falls on the edge of
the read (`bringupDuringPatrol`), the model's is that of the rate selected. -/
theorem not_scrubbersPatrol : ¬ Obligations.ScrubbersPatrol := by
  intro hall
  obtain ⟨hpatrol, -⟩ := hall bringupDuringPatrol bringupDuringPatrol 0 [] (by decide) rfl
  have hdue : (bringupDuringPatrol.mem.ch.get 0).due = some 2 := by decide +kernel
  have hreach : bringupDuringPatrol.reaches 2 = true := by decide +kernel
  have hjobs : ((bringupDuringPatrol.runTo 2).mem.ch.get 0).jobs = [] := by decide +kernel
  have hnext : ((bringupDuringPatrol.runTo 2).mem.ch.get 0).scrubNext < 1048576 := by decide +kernel
  obtain ⟨t, ht, hstep, -⟩ := hpatrol 2 hdue hreach hjobs hnext
  have hmodel := bringupDuringPatrol_due
  rw [ht] at hmodel
  have hcadence : bringupDuringPatrol.patrolStep = 2636 * 512 := by decide +kernel
  rw [hcadence] at hstep
  exact absurd (hstep.symm.trans hmodel) (by decide)

end Sys2Proof.Machine
end

section
/-! PROOF. READ, REG_READ and STATUS, and how a port answers (spec/12_host_ports_and_mailboxes.md R325, R326, R333, R334, R336). -/
namespace Sys2Proof.Machine

/-- A transaction whose answer is cut short ends in ABORTED. -/
theorem PortRes.recorded_cut (r : PortRes) {ph : Phase} (h : ph ≠ .whole) : r.recorded true ph = .aborted := by
  simp [PortRes.recorded, h]

/-- An act that ends in OK with a response phase: a read, always. -/
theorem State.Negotiated.txn_read {s t : State} {p : Fin 2} (hs : s.Negotiated p) {code : Nat} (hread : readType code = true)
    (hdef : codeDefined (s.port p).version code = true) (seq : Nat) (ph : Phase) {act : State → State × PortRes × List Byte}
    {data : List Byte} (hact : act (s.validTxn p) = (t, .ok, data)) : s.txn p code seq ph act = t.portEnd p code seq true ph .ok data := by
  have hresp : (s.port p).responds code ph = true := by simp [Port.responds, hread]
  rw [hs.txn_ok hdef seq ph hact, hresp]

theorem State.doRead_area {s : State} {p : Fin 2} {n addr len : Nat} {a : Area} (ha : s.attached p = some n) (h0 : 1 ≤ len)
    (h1 : len ≤ 4096) (harea : areaOf (hallIx n) addr len = some a) : s.doRead p addr len = (s, .ok, s.areaRead (hallIx n) addr len a) := by
  rw [State.doRead, State.attachedOp_of_attached ha h0 h1]
  simp only [harea]

theorem State.doRegRead_sup {s : State} {p : Fin 2} (hsup : s.foyer.sup = some p) {addr len : Nat} (h0 : 4 ≤ len) (h1 : len ≤ 256)
    (h4 : len % 4 = 0) (ha : addr % 4 = 0) :
    s.doRegRead p addr len = ((s.regWords addr (len / 4)).1, .ok, (s.regWords addr (len / 4)).2) := by
  have hne : len ≠ 0 := by omega
  simp [State.doRegRead, State.regOp, hsup, hne, h4, ha, Nat.not_lt.2 h1]

theorem State.regWords_length (s : State) (addr n : Nat) : (s.regWords addr n).2.length = 4 * n := by
  induction n with
  | zero => rfl
  | succ n ih =>
    rw [State.regWords]
    dsimp only
    rw [List.length_append, ih, leBytes_length]
    omega

theorem State.statusData_length (s : State) (p : Fin 2) : (s.statusData p).length = 16 := by
  unfold State.statusData
  extract_lets q h heads
  have hheads : heads.length = 4 := by
    simp only [heads]
    clear_value h
    cases h with
    | none => rfl
    | some n => simp [leBytes_length]
  simp [hheads, leBytes_length]

/-- Settles O40, from the end of a transaction and from the act of each read. -/
theorem portReadsAnswer : Obligations.PortReadsAnswer := by
  refine ⟨fun u p code seq data => ?_, ?_⟩
  · obtain ⟨answer, irq, hport, hans⟩ := u.port_portEnd p code seq true .whole .ok data
    rw [hport]
    refine ⟨hans rfl rfl, rfl, fun resp ph => ?_⟩
    obtain ⟨answer', irq', hport', -⟩ := u.port_portEnd p code seq resp ph .ok data
    rw [hport', State.portEnd_halls]
    refine ⟨rfl, rfl, rfl, rfl, fun hresp hcut => ?_⟩
    rw [hresp, PortRes.recorded_cut .ok hcut]
    rfl
  · rintro s v p seq addr len ph ver hon hrdy hst - rfl
    have hs : s.Negotiated p := ⟨hon, hrdy, hst⟩
    refine ⟨fun h a ha h0 h1 harea => ?_, fun r hsup h0 h1 h4 halign hr => ⟨?_, ?_⟩, fun hlen => ⟨?_, s.statusData_length p⟩⟩
    · exact next_eq (hs.txn_read rfl rfl seq.toNat ph (State.doRead_area ha h0 h1 harea))
    · subst hr
      exact next_eq (hs.txn_read rfl rfl seq.toNat ph (State.doRegRead_sup hsup h0 h1 h4 halign))
    · rw [hr, State.regWords_length]
      omega
    · exact next_eq (hs.txn_read rfl rfl seq.toNat ph (if_pos hlen))

end Sys2Proof.Machine
end

section
/-! PROOF. UHP-2 operations and the mailbox (spec/12_host_ports_and_mailboxes.md R329, R340, R341). -/
namespace Sys2Proof.Machine

/-- A UHP-2 operation on a port that is OPEN or UHP2 fixes its generation, acts, and leaves the port busy (R329). -/
theorem State.uhp2_taken {s u : State} {p : Fin 2} (hon : s.portOn p = true) (hrdy : (s.port p).rdy = true)
    (hst : (s.port p).st = .opened ∨ (s.port p).st = .uhp2) (hu : u = (s.validTxn p).updPort p (fun q => { q with st := .uhp2 }))
    (code : Nat) (act : State → State) : s.uhp2 p code act = ((act u).portBusy p).irqEval p := by
  have hready : ¬ (s.portOn p = false ∨ (s.port p).rdy = false) := by simp [hon, hrdy]
  unfold State.uhp2
  rw [if_neg hready, hu]
  rcases hst with h | h <;> rw [h]

/-- The port after an operation. -/
theorem State.port_operated (t : State) (p : Fin 2) : ∃ irq, ((t.portBusy p).irqEval p).port p = { t.port p with rdy := false, irq := irq } := by
  obtain ⟨irq, e⟩ := (t.portBusy p).irqEval_shape p
  refine ⟨irq, ?_⟩
  rw [e, State.port_updPort_same, State.portBusy, State.port_updPort_same]

theorem State.halls_operated (t : State) (p : Fin 2) : ((t.portBusy p).irqEval p).halls = t.halls := by
  obtain ⟨irq, e⟩ := (t.portBusy p).irqEval_shape p
  rw [e]
  rfl

/-- A valid transaction leaves what the firmware's state is read from. -/
theorem State.validTxn_cp0 (s : State) (p : Fin 2) : (s.validTxn p).cp0Runs = s.cp0Runs := by
  have hclaim : (s.claimSup p).cp0Runs = s.cp0Runs := by unfold State.claimSup; split <;> rfl
  unfold State.validTxn
  dsimp only
  split <;> exact hclaim

theorem State.cp0_operated (t : State) (p : Fin 2) : ((t.portBusy p).irqEval p).cp0Runs = t.cp0Runs := by
  obtain ⟨irq, e⟩ := (t.portBusy p).irqEval_shape p
  rw [e]
  rfl

/-- A write of an argument register that no command uses (R340). -/
theorem Port.windowWrite_arg {q : Port} (k : Fin 32) (v : BitVec 16) (hfree : q.mbxBusy = false) :
    q.windowWrite (0x10 + k.val) v = { q with mbxArg := q.mbxArg.put k v } := by
  have hk : Fin.ofNat 32 (0x10 + k.val - 0x10) = k := by
    rw [Nat.add_sub_cancel_left]
    exact Fin.ofNat_val_eq_self k
  unfold Port.windowWrite
  split
  next h => omega
  next h => omega
  · rw [if_pos ⟨by omega, by omega, hfree⟩, hk]

section Operation
variable {s u : State} {p : Fin 2} (hu : u = (s.validTxn p).updPort p (fun q => { q with st := .uhp2 }))
include hu

/-- The port as an operation finds it. -/
theorem port_operation : u.port p =
    { s.port p with crcRun := 0, txnCnt := satInc (s.port p).txnCnt 1, asleep := false, st := .uhp2 } := by
  rw [hu, State.port_updPort_same, State.port_validTxn]

theorem cp0_operation : u.cp0Runs = s.cp0Runs := by
  rw [hu]
  exact State.validTxn_cp0 ..

variable (hon : s.portOn p = true) (hrdy : (s.port p).rdy = true) (hst : (s.port p).st = .opened ∨ (s.port p).st = .uhp2)
include hon hrdy hst

/-- What an operation that acts on its port alone leaves of it. -/
theorem port_uhp2_updPort (code : Nat) (act : State → State) {f : Port → Port} (hact : act u = u.updPort p f) :
    ∃ irq, (s.uhp2 p code act).port p = { f (u.port p) with rdy := false, irq := irq } := by
  rw [State.uhp2_taken hon hrdy hst hu, hact]
  obtain ⟨irq, e⟩ := (u.updPort p f).port_operated p
  exact ⟨irq, by rw [e, State.port_updPort_same]⟩

/-! ### Windows -/

/-- A write that would run beyond the window is ignored whole and counted (R340). -/
theorem exec_wr_beyond {addr : BitVec 16} {ws : List (BitVec 16)} (hlen : ws.length < 256) (hbeyond : 0x10000 < addr.toNat + ws.length) :
    ∃ t : State, exec (.wr p addr ws) s = .next t ∧ (t.port p).refuse = satInc (s.port p).refuse 1 ∧ (t.port p).mbxArg = (s.port p).mbxArg := by
  obtain ⟨irq, e⟩ := port_uhp2_updPort hu hon hrdy hst 0x02 (fun s => s.windowWr p addr.toNat ws)
    (f := fun q => { q with refuse := satInc q.refuse 1 }) (if_pos hbeyond)
  refine ⟨_, if_neg (by omega), ?_⟩
  rw [e, port_operation hu]
  exact ⟨rfl, rfl⟩

theorem exec_wr_arg (k : Fin 32) (v : BitVec 16) (hfree : (s.port p).mbxBusy = false) : ∃ t : State,
    exec (.wr p (BitVec.ofNat 16 (0x10 + k.val)) [v]) s = .next t ∧ (t.port p).mbxArg = (s.port p).mbxArg.put k v := by
  have haddr : (BitVec.ofNat 16 (0x10 + k.val)).toNat = 0x10 + k.val := by
    rw [BitVec.toNat_ofNat]
    exact Nat.mod_eq_of_lt (by omega)
  obtain ⟨irq, e⟩ := port_uhp2_updPort hu hon hrdy hst 0x02 (fun s => s.windowWr p (0x10 + k.val) [v])
    (f := fun q => q.windowWrites (0x10 + k.val) [v]) (if_neg (by simp; omega))
  have hbusy : (u.port p).mbxBusy = false := by rw [port_operation hu]; exact hfree
  have harg : ((u.port p).windowWrites (0x10 + k.val) [v]).mbxArg = (s.port p).mbxArg.put k v := by
    rw [Port.windowWrites, Port.windowWrites, Port.windowWrite_arg k v hbusy, port_operation hu]
  have hexec : exec (.wr p (BitVec.ofNat 16 (0x10 + k.val)) [v]) s =
      .next (s.uhp2 p 0x02 fun s => s.windowWr p (BitVec.ofNat 16 (0x10 + k.val)).toNat [v]) := rfl
  rw [haddr] at hexec
  refine ⟨_, hexec, ?_⟩
  rw [e]
  exact harg

theorem exec_rd {addr : BitVec 16} {n : Byte} (hin : addr.toNat + n.toNat ≤ 0x10000) : ∃ t : State, exec (.rd p addr n) s = .next t ∧
    (t.port p).rdData = (List.range n.toNat).map (fun i => u.windowRead p (addr.toNat + i)) ∧ (t.port p).mbxArg = (s.port p).mbxArg := by
  obtain ⟨irq, e⟩ := port_uhp2_updPort hu hon hrdy hst 0x03 (fun s => s.windowRd p addr.toNat n.toNat)
    (f := fun q => { q with rdData := (List.range n.toNat).map fun i => u.windowRead p (addr.toNat + i) }) (if_neg (by omega))
  refine ⟨_, rfl, ?_⟩
  rw [e, port_operation hu]
  exact ⟨rfl, rfl⟩

/-! ### The mailbox -/

/-- The state in which the command of a free mailbox starts: the port is busy with it. -/
theorem mbxStart_eq (hfree : (s.port p).mbxBusy = false) :
    s.mbxStart p = ((u.updPort p fun q => { q with mbxStat := q.mbxStat ||| 0x8000 }).portBusy p).irqEval p :=
  (if_neg (by simp [hfree])).trans (State.uhp2_taken hon hrdy hst hu 0x02 _)

theorem mbxStart_port (hfree : (s.port p).mbxBusy = false) : ∃ irq, (s.mbxStart p).port p =
    { u.port p with mbxStat := (s.port p).mbxStat ||| 0x8000, rdy := false, irq := irq } := by
  rw [mbxStart_eq hu hon hrdy hst hfree]
  obtain ⟨irq, e⟩ := (u.updPort p fun q => { q with mbxStat := q.mbxStat ||| 0x8000 }).port_operated p
  exact ⟨irq, by rw [e, State.port_updPort_same, port_operation hu]⟩

theorem mbxStart_busy (hfree : (s.port p).mbxBusy = false) : ((s.mbxStart p).port p).mbxBusy = true := by
  obtain ⟨irq, e⟩ := mbxStart_port hu hon hrdy hst hfree
  rw [e]
  simp [Port.mbxBusy]

theorem mbxStart_leaves (hfree : (s.port p).mbxBusy = false) : (s.mbxStart p).halls = u.halls ∧ (s.mbxStart p).cp0Runs = s.cp0Runs := by
  rw [mbxStart_eq hu hon hrdy hst hfree, State.halls_operated, State.cp0_operated]
  have hcp0 := cp0_operation hu
  exact ⟨rfl, hcp0⟩

/-- The mailbox's command waits for the firmware, which runs it at once (R341). -/
theorem exec_mbxGo (hfree : (s.port p).mbxBusy = false) :
    exec (.mbxGo p) s = .next (if s.cp0Runs then (s.mbxStart p).mbxRun p else s.mbxStart p) := by
  change Host.Outcome.next (if _ then _ else _) = _
  rw [mbxStart_busy hu hon hrdy hst hfree, (mbxStart_leaves hu hon hrdy hst hfree).2]
  rfl

/-- The start leaves the argument and the hall that the port is attached to. -/
theorem mbxStart_reads (hfree : (s.port p).mbxBusy = false) : ((s.mbxStart p).port p).mbxArg = (s.port p).mbxArg ∧
    (s.mbxStart p).attached p = u.attached p := by
  obtain ⟨irq, e⟩ := mbxStart_port hu hon hrdy hst hfree
  refine ⟨by rw [e, port_operation hu], ?_⟩
  unfold State.attached State.hall
  rw [(mbxStart_leaves hu hon hrdy hst hfree).1]

/-- The command runs on the halls and the port that its start leaves. -/
theorem exec_mbxGo_runs (hfree : (s.port p).mbxBusy = false) (hcp0 : s.cp0Runs = true) :
    exec (.mbxGo p) s = .next ((s.mbxStart p).mbxRun p) :=
  (exec_mbxGo hu hon hrdy hst hfree).trans (congrArg _ (if_pos hcp0))

end Operation

/-! ### The firmware's answers -/

theorem mbxAnswer_done (q : Port) (status : Nat) (data : List Byte) : (mbxAnswer q status data).mbxBusy = false ∧
    (mbxAnswer q status data).mbxStat.getLsbD 14 = true := by
  unfold mbxAnswer
  extract_lets st data' words
  have hst : st ≤ 1 := by
    simp only [st]
    split <;> omega
  clear_value st
  have hbit : q.mbxStat.toNat / 2 ^ 13 % 2 < 2 := Nat.mod_lt _ (by decide)
  generalize q.mbxStat.toNat / 2 ^ 13 % 2 = b at hbit ⊢
  simp only [Port.mbxBusy]
  have hfields : ∀ b st : Fin 2, (BitVec.ofNat 16 (2 ^ 14 + b.val * 2 ^ 13 + st.val)).getLsbD 15 = false ∧
      (BitVec.ofNat 16 (2 ^ 14 + b.val * 2 ^ 13 + st.val)).getLsbD 14 = true := by decide
  exact hfields ⟨b, hbit⟩ ⟨st, Nat.lt_succ_of_le hst⟩

theorem mbxAnswer_rsp (q : Port) (status : Nat) (data : List Byte) :
    (mbxAnswer q status data).mbxRsp.get 0 = BitVec.ofNat 16 (if status ≤ 1 then 0 else 1) ∧
    (mbxAnswer q status data).mbxRsp.get 1 = BitVec.ofNat 16 status := by
  unfold mbxAnswer
  extract_lets st data' words
  simp only [Tab.get, Vector.getElem_ofFn]
  exact ⟨rfl, rfl⟩

theorem State.port_mbxAnswered (t : State) (p : Fin 2) (f : Port → Port) : ∃ irq,
    ((t.updPort p f).irqEval p).port p = { f (t.port p) with irq := irq } := by
  obtain ⟨irq, e⟩ := (t.updPort p f).irqEval_shape p
  exact ⟨irq, by rw [e, State.port_updPort_same, State.port_updPort_same]⟩

theorem mbxUnknown_spec (q : Port) : (mbxUnknown q).mbxBusy = false ∧ (mbxUnknown q).mbxStat.getLsbD 14 = true ∧
    (mbxUnknown q).mbxStat.toNat % 256 = 2 ∧ (mbxUnknown q).mbxRsp.get 0 = 2 := by
  refine ⟨?_, ?_, ?_, Tab.get_put_same ..⟩
  · simp [Port.mbxBusy, mbxUnknown]
  · simp [mbxUnknown]
  · have hlow (x : Nat) : (x &&& 0x2000 ||| 0x4002) % 2 ^ 8 = 2 := by
      rw [Nat.or_mod_two_pow, Nat.and_mod_two_pow]
      simp
    exact hlow q.mbxStat.toNat

theorem mbxOpcode_other {code : Nat} {o : Opcode} (h : mbxOpcode code = some o) (h1 : code ≠ 0x01) (h2 : code ≠ 0x0A) :
    o.op ≠ opGetInfo.op ∧ o.op ≠ opKeepalive.op := by
  unfold mbxOpcode at h
  split at h
  all_goals try contradiction
  all_goals
    cases h
    exact ⟨by decide, by decide⟩

/-- A command of a port that no hall holds (R28). -/
theorem State.mbxAlone_spec (s : State) (code : Nat) (q : Port) : ∃ status data, s.mbxAlone code q = mbxAnswer q status data ∧
    (code = 0x01 ∨ code = 0x0A → status = 0) ∧ (code ≠ 0x01 → code ≠ 0x0A → status = 0x21) := by
  unfold State.mbxAlone
  by_cases h1 : code = 0x01
  · subst h1
    exact ⟨0, _, rfl, fun _ => rfl, fun h => absurd rfl h⟩
  by_cases h2 : code = 0x0A
  · subst h2
    exact ⟨0, _, rfl, fun _ => rfl, fun _ h => absurd rfl h⟩
  · refine ⟨0x21, [], ?_, fun h => absurd h (by simp [h1, h2]), fun _ _ => rfl⟩
    split
    next o ho =>
      obtain ⟨hinfo, hkeep⟩ := mbxOpcode_other ho h1 h2
      rw [if_neg hinfo, if_neg hkeep]
    · rfl

/-- Settles O46, from what an operation makes of its port, and from the firmware's two ways to answer a port by itself. -/
theorem mailboxOperations : Obligations.MailboxOperations := by
  intro s u p hon hrdy hst hu
  have htaken := State.uhp2_taken hon hrdy hst hu
  refine ⟨⟨_, next_eq (htaken 0x00 _), rfl, ?_⟩, fun addr ws hlen hin => ?_, fun addr ws hlen hbeyond => exec_wr_beyond hu hon hrdy hst hlen hbeyond,
    fun k v hfree => exec_wr_arg hu hon hrdy hst k v hfree, fun addr n hin => exec_rd hu hon hrdy hst hin, ?_, fun hfree hcp0 => ?_,
    fun code hfree hcp0 hatt hcode => ?_, fun hfree hcp0 hatt hop => ?_,
    fun hfree hcp0 => ⟨_, exec_mbxGo_runs hu hon hrdy hst hfree hcp0, rfl⟩⟩
  · obtain ⟨irq, e⟩ := u.port_operated p
    rw [e, port_operation hu]
    exact ⟨rfl, rfl⟩
  · refine (if_neg (by omega)).trans (congrArg Host.Outcome.next ((htaken 0x02 _).trans ?_))
    rw [State.windowWr, if_neg (by omega)]
  · obtain ⟨irq, e⟩ := port_uhp2_updPort hu hon hrdy hst 0x1F (fun s => s.updPort p Port.toOpen) rfl
    refine ⟨_, rfl, ?_⟩
    rw [e]
    exact ⟨rfl, rfl⟩
  · refine ⟨s.mbxStart p, (exec_mbxGo hu hon hrdy hst hfree).trans (by rw [hcp0]; rfl), mbxStart_busy hu hon hrdy hst hfree⟩
  · obtain ⟨harg, hattached⟩ := mbxStart_reads hu hon hrdy hst hfree
    obtain ⟨hhalls, -⟩ := mbxStart_leaves hu hon hrdy hst hfree
    have hexec := exec_mbxGo_runs hu hon hrdy hst hfree hcp0
    generalize s.mbxStart p = v at harg hattached hhalls hexec
    have hrun : v.mbxRun p = (v.updPort p (v.mbxAlone code)).irqEval p := by
      unfold State.mbxRun
      dsimp only
      rw [hattached, hatt, harg, ← hcode]
    obtain ⟨status, data, halone, hknown, hother⟩ := v.mbxAlone_spec code (v.port p)
    obtain ⟨irq, e⟩ := v.port_mbxAnswered p (v.mbxAlone code)
    obtain ⟨hdone, hstat⟩ := mbxAnswer_done (v.port p) status data
    obtain ⟨h0, h1⟩ := mbxAnswer_rsp (v.port p) status data
    rw [hrun] at hexec
    refine ⟨_, hexec, ?_⟩
    rw [e, halone, State.irqEval_halls]
    refine ⟨hdone, hstat, hhalls, fun h => ?_, fun hne hne' => ?_⟩
    · rw [hknown h] at h0 h1 ⊢
      exact ⟨h0.trans (by decide), h1⟩
    · rw [hother hne hne'] at h0 h1 ⊢
      exact ⟨h0.trans (by decide), h1⟩
  · obtain ⟨harg, hattached⟩ := mbxStart_reads hu hon hrdy hst hfree
    have hexec := exec_mbxGo_runs hu hon hrdy hst hfree hcp0
    generalize s.mbxStart p = v at harg hattached hexec
    obtain ⟨h, hh⟩ := Option.isSome_iff_exists.mp hatt
    have hrun : v.mbxRun p = (v.updPort p mbxUnknown).irqEval p := by
      unfold State.mbxRun
      dsimp only
      rw [hattached, hh, harg]
      dsimp only
      rw [hop]
    obtain ⟨irq, e⟩ := v.port_mbxAnswered p mbxUnknown
    rw [hrun] at hexec
    refine ⟨_, hexec, ?_⟩
    rw [e]
    exact mbxUnknown_spec (v.port p)

end Sys2Proof.Machine
end

section
/-! PROOF. The console's lines (spec/17_management_update_alcove.md R464–R468). -/
namespace Sys2Proof.Machine

/-- A line of the console's own is no unknown one. -/
theorem State.conUnknown_of_known {s : State} {n : Fin 4} {line : List Byte} {rest : List (List Byte)} {x : Con × List (List Byte)}
    (hl : (s.ser.get n).lines = line :: rest) (hx : conOf line = some x) : s.conUnknown n = s := by
  unfold State.conUnknown
  rw [hl, List.takeWhile_cons, hx]
  rfl

/-- A line at the front whose row may act is taken, and the row acts. -/
theorem State.conRow_taken {s : State} {n : Fin 4} {line : List Byte} {rest : List (List Byte)} {k : Con} {args : List (List Byte)}
    (hrun : s.conRuns n = true) (hl : (s.ser.get n).lines = line :: rest) (hx : conOf line = some (k, args))
    (hflash : k.update = true → s.mgmt.flash = none) (f : List (List Byte) → List Byte → State → State) :
    s.conRow n k f = if k.normalOnly = true ∧ s.mgmt.recovery = true then (s.conTake n).conSay n [] 0x10
      else if k.session = true ∧ s.mgmt.session.map (·.1) ≠ some n then (s.conTake n).conSay n [] 0x31
      else f args line (s.conTake n) := by
  have hfree : ¬ (k ≠ k ∨ (k.update = true ∧ s.mgmt.flash.isSome = true)) := by
    rintro (h | ⟨h, h'⟩)
    · exact h rfl
    · rw [hflash h] at h'
      exact Bool.noConfusion h'
  unfold State.conRow
  rw [if_neg (by simp [hrun]), State.conUnknown_of_known hl hx]
  dsimp only
  rw [hl]
  dsimp only
  rw [hx]
  dsimp only
  rw [if_neg hfree]

section Row
variable {s : State} {n : Fin 4} {line : List Byte} {rest : List (List Byte)} {k : Con} {args : List (List Byte)}
  (hrun : s.conRuns n = true) (hl : (s.ser.get n).lines = line :: rest) (hx : conOf line = some (k, args))
include hrun hl hx

/-- The row of a line that needs no session. -/
theorem State.conRow_free (hk : k.session = false) (f : List (List Byte) → List Byte → State → State) :
    s.conRow n k f = f args line (s.conTake n) := by
  have hflash : k.update = true → s.mgmt.flash = none := fun h => by cases k <;> simp [Con.session, Con.update] at hk h
  have hnormal : ¬ (k.normalOnly = true ∧ s.mgmt.recovery = true) := fun h => by cases k <;> simp [Con.session, Con.normalOnly] at hk h
  rw [State.conRow_taken hrun hl hx hflash, if_neg hnormal, if_neg (by simp [hk])]

/-- The row of a line that needs a session, on the port whose session it is. -/
theorem State.conRow_owned (hses : s.mgmt.session.map (·.1) = some n) (hflash : k.update = true → s.mgmt.flash = none)
    (hnormal : k.normalOnly = true → s.mgmt.recovery = false) (f : List (List Byte) → List Byte → State → State) :
    s.conRow n k f = f args line (s.conTake n) := by
  have hrec : ¬ (k.normalOnly = true ∧ s.mgmt.recovery = true) := fun ⟨h, h'⟩ => Bool.noConfusion ((hnormal h).symm.trans h')
  rw [State.conRow_taken hrun hl hx hflash, if_neg hrec, if_neg (by simp [hses])]

end Row

/-- Taking a line leaves the challenge, so the response is judged as before. -/
theorem State.respOk_conTake (s : State) (n : Fin 4) (sig : List Byte) : (s.conTake n).respOk n sig = s.respOk n sig := rfl

theorem conResp_opens {s : State} {n : Fin 4} {line w sig : List Byte} (hw : hexOf w = some sig) (hlen : sig.length = 64) :
    (conResp n [w] line s).mgmt.chal = none ∧
    (conResp n [w] line s).mgmt.session = (if s.respOk n sig then some (n, s.time.rclk) else s.mgmt.session) ∧
    (conResp n [w] line s).mgmt.answer = conLast (if s.respOk n sig then 0 else 0x31) := by
  unfold conResp
  simp only [List.map_cons, List.map_nil, hw]
  rw [if_neg (by simp [hlen])]
  cases s.respOk n sig with
  | true => exact ⟨rfl, rfl, rfl⟩
  | false => exact ⟨rfl, rfl, rfl⟩

theorem conLog_answers {s : State} {n : Fin 4} {line w : List Byte} {k : Nat} (hw : numOf 10 w = some k) (hk : k ≤ 128) :
    conLog n [w] line s = s.conSay n
      (Config.consoleText 2 (natsOf ((s.mgmt.volLog.drop (s.mgmt.volLog.length - k)).flatMap LogEnt.bytes))) 0 := by
  unfold conLog
  simp only [List.map_cons, List.map_nil, hw]
  rw [if_neg (by omega)]

theorem conUpdBegin_opens {s : State} {n : Fin 4} {line w : List Byte} {len : Nat} (hw : numOf 10 w = some len) (h1 : 1 ≤ len)
    (hmax : len ≤ fwMax) (htrial : s.mgmt.onTrial = false) : conUpdBegin n [w] line s = s.updOpen len (some n) := by
  unfold conUpdBegin
  simp only [List.map_cons, List.map_nil, hw]
  rw [if_neg (by omega), if_neg (by omega), if_neg (by simp [htrial])]

theorem conUpdD_programs {s : State} {n : Fin 4} {args : List (List Byte)} {line data : List Byte} {off : Nat}
    (hline : updDLine line = some (off, data)) (hlen : data.length ≤ 64) (hok : s.updRefuse off data.length = none) :
    conUpdD n args line s = s.updProgram data (some n) := by
  unfold conUpdD
  rw [hline]
  dsimp only
  rw [if_neg (by omega), hok]

theorem conLc_changes {s : State} {n : Fin 4} {line a b : List Byte} {cur tgt : Nat} (ha : numOf 10 a = some cur) (hb : numOf 10 b = some tgt) :
    conLc n [a, b] line s = (s.lifeChange true cur tgt).1.conSay n [] (s.lifeChange true cur tgt).2 := by
  unfold conLc
  simp only [List.map_cons, List.map_nil, ha, hb]
  rfl

theorem conKey_writes {s : State} {n : Fin 4} {line a b w : List Byte} {k : Fin 8} (ha : numOf 10 a = some k.val) (hb : hexOf b = some w)
    (hlen : w.length = 40) (hlife : s.nv.life = .provisioned) :
    conKey n [a, b] line s = (s.updRec sectorKeys fun v => { v with keys := v.keys.put k (.wrapped w) }).conSay n [] 0 := by
  unfold conKey
  simp only [ha, hb]
  rw [if_pos ⟨hlife, k.isLt, hlen⟩, show Fin.ofNat 8 k.val = k from Fin.ofNat_val_eq_self k]

theorem conUpdCommit_commits {s : State} {n : Fin 4} {line : List Byte} :
    conUpdCommit n [] line s = (s.updCommit true).1.conSay n [] (s.updCommit true).2 :=
  if_neg (fun h => h rfl)

theorem conRollback_selects {s : State} {n : Fin 4} {line : List Byte} :
    conRollback n [] line s = s.updRollback.1.conSay n [] s.updRollback.2 :=
  if_neg (fun h => h rfl)

/-- A session's end changes the session and what the Alcove still holds of it, nothing else. -/
theorem State.endSession_shape (s : State) :
    ∃ a, s.endSession = { s with mgmt := { s.mgmt with session := none, alcove := a } } := by
  unfold State.endSession State.alcoveErase
  generalize List.replicate 32 (0#8) = zeros
  exact ⟨s.mgmt.alcove.writeList sessionKeyAt zeros, rfl⟩

/-- Settles O50, row by row. -/
theorem consoleLinesAreAnswered : Obligations.ConsoleLinesAreAnswered := by
  refine ⟨?_, fun s k r hses hover => ?_, fun s n k r hses hrun hne line rest hl hx hflash => ?_⟩
  · rintro s t n line rest hrun hl rfl
    refine ⟨fun hx => next_eq (State.conRow_free hrun hl hx rfl _), fun hx => next_eq (State.conRow_free hrun hl hx rfl _),
      fun w k hx hw hk => next_eq ((State.conRow_free hrun hl hx rfl _).trans (conLog_answers hw hk)),
      fun hx => ⟨_, _, next_eq (State.conRow_free hrun hl hx rfl _), rfl, rfl, rfl, rfl⟩,
      fun w sig hx hw hlen => ⟨_, next_eq (State.conRow_free hrun hl hx rfl _), conResp_opens hw hlen⟩, fun hses =>
      ⟨fun w len hx hw h1 hmax htrial hflash => ?_, fun ws off data hx hline hlen hok hflash => ?_, fun hx hflash => ?_, fun hx hflash => ?_,
        fun a b cur tgt hx hrec ha hb => ?_, fun a b k w hx hrec ha hb hlen hlife => ?_⟩⟩
    · exact next_eq ((State.conRow_owned hrun hl hx hses (fun _ => hflash) (fun h => Bool.noConfusion h) _).trans
        (conUpdBegin_opens hw h1 hmax htrial))
    · exact next_eq ((State.conRow_owned hrun hl hx hses (fun _ => hflash) (fun h => Bool.noConfusion h) _).trans
        (conUpdD_programs hline hlen hok))
    · exact next_eq ((State.conRow_owned hrun hl hx hses (fun _ => hflash) (fun h => Bool.noConfusion h) _).trans conUpdCommit_commits)
    · exact next_eq ((State.conRow_owned hrun hl hx hses (fun _ => hflash) (fun h => Bool.noConfusion h) _).trans conRollback_selects)
    · exact next_eq ((State.conRow_owned hrun hl hx hses (fun h => Bool.noConfusion h) (fun _ => hrec) _).trans (conLc_changes ha hb))
    · exact next_eq ((State.conRow_owned hrun hl hx hses (fun h => Bool.noConfusion h) (fun _ => hrec) _).trans
        (conKey_writes ha hb hlen hlife))
  · obtain ⟨a, ha⟩ := State.endSession_shape s
    refine ⟨next_eq ?_, by rw [ha], by rw [ha]⟩
    rw [hses]
    exact if_pos (decide_eq_true hover)
  · refine next_eq ((State.conRow_taken hrun hl hx (fun _ => hflash) _).trans ((if_neg (fun h => Bool.noConfusion h.1)).trans (if_pos ⟨rfl, ?_⟩)))
    rw [hses]
    simpa using hne

end Sys2Proof.Machine
end

section
/-! PROOF. A timer's overflow that an event of trigger mapping meets on its way (spec/15_timebase_timers_triggers.md R422, R431): the event
enters its hall's queue, which the statement of the timers leaves out. -/

namespace Sys2Proof.Machine

/-- A rendering device with hall 0 open, whose timer 0 is one REFCLK edge from its overflow; the event of a mapped trigger falls due at SCHED
with that edge. -/
def overflowAsMappedArrives : State :=
  { State.reset with
    time := { State.reset.time with
      counting := true, refclk := true, running := true, et := 512
      tmr := State.reset.time.tmr.upd 0 fun m => { m with go := true, count := 0xFFFFFFFF#32 } }
    halls := State.reset.halls.upd 0 fun h => { h with alive := true }
    sched := { State.reset.sched with mapped := [{ trig := 0, hall := 0, tag := 0, stamp := 0, time := 1048576, kind := .tempo 12000 }] } }

/-- What the model makes of hall 0: the event waits in its queue. -/
theorem overflowAsMappedArrives_queues :
    (match exec (.timerOverflow 0) overflowAsMappedArrives with
      | .next t => (t.halls.get 0).queue.length
      | _ => 0) = 1 := by decide +kernel

/-- Refutes O53: the clause of the overflow keeps every hall also where a mapped event is on its way, and at the edge of the overflow
(`overflowAsMappedArrives`) one arrives in its hall's queue. -/
theorem not_timersCountAndMatch : ¬ Obligations.TimersCountAndMatch := by
  intro hall
  obtain ⟨-, hoverflow, -⟩ := hall overflowAsMappedArrives .cp0 0
  have hcounts : ((overflowAsMappedArrives.time.tmr.get 0).settle).counts overflowAsMappedArrives.time.dbgHalt = true := by decide +kernel
  have hsrc : ((overflowAsMappedArrives.time.tmr.get 0).settle).src = 0 := by decide +kernel
  obtain ⟨t, ht, -, -, -, hkept, -⟩ := hoverflow _ rfl hcounts hsrc rfl rfl rfl
  have hmodel := overflowAsMappedArrives_queues
  rw [ht] at hmodel
  have hempty : (overflowAsMappedArrives.halls.get 0).queue.length = 0 := by decide +kernel
  have hlength : (t.halls.get 0).queue.length = 1 := hmodel
  rw [hkept, hempty] at hlength
  exact absurd hlength (by decide)

end Sys2Proof.Machine
end

section
/-! PROOF. Start-up (spec/18_power_reset_faults.md R481, spec/17_management_update_alcove.md R458–R464). -/
namespace Sys2Proof.Machine

/-! ### What start-up has achieved, and keeps -/

/-- What start-up has achieved by `s` stands in `t`: the slot, the domains that are on, memory that is ready. -/
structure State.Achieved (s t : State) : Prop where
  slot : t.mgmt.slot = s.mgmt.slot
  trial : t.mgmt.onTrial = s.mgmt.onTrial
  on : ∀ d, s.pwr.on d = true → t.pwr.on d = true
  ready : s.mem.ready = true → t.mem.ready = true

/-- A part of start-up that takes no time: TIME, the configuration record and the write of SCHED_CFG that is still to come stay too. -/
structure State.Booting (s t : State) : Prop extends s.Achieved t where
  time : t.time = s.time
  cfg : t.nv.cfg = s.nv.cfg
  unset : t.sched.cfgSet = s.sched.cfgSet

namespace State.Achieved

theorem trans {s t u : State} (h : s.Achieved t) (h' : t.Achieved u) : s.Achieved u :=
  ⟨h'.slot.trans h.slot, h'.trial.trans h.trial, fun d hd => h'.on d (h.on d hd), fun hr => h'.ready (h.ready hr)⟩

theorem log (s : State) (code : Nat) (hall : Option Nat) (data : List Byte) : s.Achieved (s.log code hall data) := by
  obtain ⟨_, _, _, hm⟩ := s.log_mgmt code hall data
  obtain ⟨_, _, e, -⟩ := s.log_shape code hall data
  refine ⟨by rw [hm], by rw [hm], fun d hd => ?_, fun hr => ?_⟩ <;> rw [e] <;> assumption

theorem edges (s : State) (k : Nat) : s.Achieved (s.edges k) := ⟨rfl, rfl, fun _ h => h, fun h => h⟩

theorem bringup (s : State) : s.Achieved s.bringup := by
  unfold State.bringup
  extract_lets e0 _ _ _ _ _ _ _ _ u
  have hu : s.Achieved u := ⟨rfl, rfl, fun _ h => h, fun h => h⟩
  clear_value u
  obtain ⟨halls, e, -⟩ := u.openHall0_shape
  rw [e]
  exact ⟨hu.slot, hu.trial, hu.on, hu.ready⟩

theorem advance (s : State) (k : Nat) : s.Achieved (s.advance k) := by
  unfold State.advance
  dsimp only
  split
  · exact ((edges ..).trans (bringup _)).trans (edges ..)
  · exact edges ..

theorem schedCfg (s : State) (v : Word) : s.Achieved (s.schedCfg v) := by
  unfold State.schedCfg
  extract_lets _ u _ w x
  split
  · exact ⟨rfl, rfl, fun _ h => h, fun h => h⟩
  have hu : s.Achieved u := ⟨rfl, rfl, fun _ h => h, fun h => h⟩
  have hw : s.Achieved w := ⟨rfl, rfl, fun _ h => h, fun h => h⟩
  clear_value u w
  split
  · exact hu
  split
  · exact hw
  · refine hw.trans (State.Achieved.trans ?_ (log ..))
    obtain ⟨_, e⟩ := State.timeErr_flag { w with time := { w.time with late := true } } 1
    rw [e]
    exact ⟨rfl, rfl, fun _ h => h, fun h => h⟩

end State.Achieved

namespace State.Booting

theorem refl (s : State) : s.Booting s := ⟨⟨rfl, rfl, fun _ h => h, fun h => h⟩, rfl, rfl, rfl⟩

theorem trans {s t u : State} (h : s.Booting t) (h' : t.Booting u) : s.Booting u :=
  ⟨h.toAchieved.trans h'.toAchieved, h'.time.trans h.time, h'.cfg.trans h.cfg, h'.unset.trans h.unset⟩

theorem foldl {β : Type} {f : State → β → State} (hf : ∀ (u : State) x, u.Booting (f u x)) (l : List β) (s : State) :
    s.Booting (l.foldl f s) := by
  induction l generalizing s with
  | nil => exact refl s
  | cons x l ih => exact (hf s x).trans (ih _)

theorem log (s : State) (code : Nat) (hall : Option Nat) (data : List Byte) : s.Booting (s.log code hall data) := by
  obtain ⟨_, _, e, hcfg⟩ := s.log_shape code hall data
  refine ⟨.log .., ?_, ?_, ?_⟩ <;> rw [e]
  exact hcfg

theorem raise (s : State) (n : Nat) : s.Booting (s.raise n) := ⟨⟨rfl, rfl, fun _ h => h, fun h => h⟩, rfl, rfl, rfl⟩

theorem updRec (s : State) (k : Fin 224) (f : Nv → Nv) (hf : (f s.nv).cfg = s.nv.cfg) : s.Booting (s.updRec k f) :=
  ⟨⟨rfl, rfl, fun _ h => h, fun h => h⟩, rfl, hf, rfl⟩

theorem fenceLift (s : State) (kind index : Nat) : s.Booting (s.fenceLift kind index) := by
  unfold State.fenceLift
  split
  · exact refl s
  · next r _ =>
    have hf : s.Booting { s with fence := s.fence.lift kind index } := ⟨⟨rfl, rfl, fun _ h => h, fun h => h⟩, rfl, rfl, rfl⟩
    exact hf.trans (log ..)

theorem notice (s : State) (h : Fin 8) (kind : Nat) (data : List Byte) : s.Booting (s.notice h kind data) := by
  obtain ⟨_, _, e⟩ := (State.RingsServed.notice s h kind data).shape
  rw [e]
  exact ⟨⟨rfl, rfl, fun _ h => h, fun h => h⟩, rfl, rfl, rfl⟩

theorem retiredPage (s : State) (p : Nat) : s.Booting (s.retiredPage p) := by
  unfold State.retiredPage
  extract_lets o a b
  have ha : s.Booting a := ((log ..).trans (raise ..)).trans (fenceLift ..)
  clear_value a
  have hb : s.Booting b := by
    refine ha.trans ?_
    simp only [b]
    cases o with
    | none => exact refl a
    | some h => exact notice ..
  clear_value b
  split
  · exact hb
  · split
    · exact hb.trans (updRec _ _ _ rfl)
    · exact hb.trans ⟨⟨rfl, rfl, fun _ h => h, fun h => h⟩, rfl, rfl, rfl⟩

/-- A domain that is switched on. -/
theorem bootDomain (s : State) (d : Fin 16) : s.Booting (s.bootDomain d) ∧ (s.bootDomain d).pwr.on d = true := by
  have hon : ∀ k, k = d ∨ s.pwr.on k = true → (s.bootDomain d).pwr.on k = true := by
    rintro k hk
    unfold State.bootDomain State.updDom Pwr.on Pwr.is
    show (((s.pwr.dom.upd d _).get k).st == DomSt.on) = true
    by_cases hd : d = k
    · subst hd
      rw [Tab.get_upd_same]
      rfl
    · rw [Tab.get_upd_ne _ _ hd]
      exact hk.resolve_left (Ne.symm hd)
  exact ⟨⟨⟨rfl, rfl, fun k hk => hon k (.inr hk), fun h => h⟩, rfl, rfl, rfl⟩, hon d (.inl rfl)⟩

theorem bootGallery (s : State) (g : Fin 8) : s.Booting (s.bootGallery g) := by
  unfold State.bootGallery
  split
  · exact (bootDomain ..).1
  · exact ⟨⟨rfl, rfl, fun _ h => h, fun h => h⟩, rfl, rfl, rfl⟩

/-- Retirements are reported. -/
theorem memDo (s : State) (x : WaveMem × MemEvents) (hpoisoned : x.2.poisoned = []) (hready : x.1.ready = s.mem.ready) :
    s.Booting (s.memDo x) := by
  unfold State.memDo
  rw [hpoisoned]
  have hraise : s.Booting (State.memRaise { s with mem := x.1 } x.2) :=
    ⟨⟨rfl, rfl, fun _ h => h, fun h => hready.trans h⟩, rfl, rfl, rfl⟩
  exact hraise.trans (foldl retiredPage _ _)

theorem bootBad (s : State) (cw : Nat) : s.Booting (s.bootBad cw) := by
  unfold State.bootBad
  dsimp only
  split
  · exact refl s
  · exact memDo _ _ rfl rfl

theorem loadKeys (s : State) : s.Booting s.loadKeys := by
  unfold State.loadKeys
  split
  · exact refl s
  · generalize List.finRange 8 = l
    dsimp only
    split <;> exact ⟨⟨rfl, rfl, fun _ h => h, fun h => h⟩, rfl, rfl, rfl⟩

theorem setRole (s : State) (n : Fin 4) (role rate addr : Nat) : s.Booting (s.setRole n role rate addr) :=
  ⟨⟨rfl, rfl, fun _ h => h, fun h => h⟩, rfl, rfl, rfl⟩

theorem bootRoles (s : State) : s.Booting s.bootRoles := by
  unfold State.bootRoles
  split
  · exact refl s
  · refine (bootDomain ..).1.trans (foldl (fun u n => ?_) _ _)
    split
    · split
      · exact refl u
      · exact setRole ..
    · exact refl u

theorem bootRange (s : State) (n : Fin 16) : s.Booting (s.bootRange n) := by
  unfold State.bootRange
  split
  · split
    · exact refl s
    · exact ⟨⟨rfl, rfl, fun _ h => h, fun h => h⟩, rfl, rfl, rfl⟩
  · exact refl s

theorem loadTrims (s : State) : s.Booting s.loadTrims := by
  unfold State.loadTrims
  split
  · exact ⟨⟨rfl, rfl, fun _ h => h, fun h => h⟩, rfl, rfl, rfl⟩
  · exact refl s

theorem bootAna (s : State) : s.Booting s.bootAna := by
  unfold State.bootAna
  generalize List.finRange 16 = channels
  extract_lets _ u v
  have hu : s.Booting u := ⟨⟨rfl, rfl, fun _ h => h, fun h => h⟩, rfl, rfl, rfl⟩
  have hv : u.Booting v := (bootDomain ..).1.trans (loadTrims _)
  clear_value u v
  split
  · exact hu
  · exact (hu.trans hv).trans (State.Booting.trans (t := { v with dac := { v.dac with vrefOk := true } })
      ⟨⟨rfl, rfl, fun _ h => h, fun h => h⟩, rfl, rfl, rfl⟩ (foldl bootRange _ _))

theorem bootFirmware (s : State) : s.Booting s.bootFirmware := ⟨⟨rfl, rfl, fun _ h => h, fun h => h⟩, rfl, rfl, rfl⟩

theorem bootSlot (s : State) : s.Booting s.bootSlot.1 := by
  have hc : s.Booting s.bootChoice.1 := by
    unfold State.bootChoice
    split
    · next n _ =>
      split
      · exact updRec s sectorBoot (fun v => { v with selected := none }) rfl
      · exact updRec s sectorBoot (fun v => { v with selected := none, trial := none, committed := n }) rfl
    · split <;> exact refl s
  unfold State.bootSlot
  dsimp only
  split
  · exact hc
  · split
    · exact (hc.trans (updRec _ sectorBoot (fun v => { v with trial := none, committed := _ }) rfl)).trans (log ..)
    · exact hc

end State.Booting

theorem setPages_ready (m : WaveMem) (ps : List Nat) :
    (ps.foldl (fun (m : WaveMem) p => m.setPage p { state := .retired, hall := 8, poisoned := false }) m).ready = m.ready :=
  foldl_keeps WaveMem.ready (f := fun (m : WaveMem) (p : Nat) => m.setPage p { state := .retired, hall := 8, poisoned := false })
    (fun _ _ => rfl) ps m

/-- Memory is ready. -/
theorem State.bootMem_ready (s : State) (bad : List (Fin 4194304)) : s.Booting (s.bootMem bad) ∧ (s.bootMem bad).mem.ready = true := by
  unfold State.bootMem
  extract_lets ch _ m u
  have hready : u.mem.ready = true := setPages_ready m s.nv.retired
  have hu : s.Booting u := ⟨⟨rfl, rfl, fun _ h => h, fun _ => hready⟩, rfl, rfl, rfl⟩
  clear_value u
  have hbad := State.Booting.foldl (f := fun (s : State) (cw : Fin 4194304) => s.bootBad cw.val) (fun v cw => .bootBad v cw.val) bad u
  exact ⟨hu.trans hbad, hbad.ready hready⟩

/-- What the image and its bring-up of the outputs find, before REFCLK has come to 120 ms. -/
def State.bootImage (s : State) (bad : List (Fin 4194304)) (n : Fin 2) (trial : Bool) (i : FwInfo) : State :=
  let s := s.updMgmt fun m => { m with slot := n, onTrial := trial }
  let s := [pdCtrl, pdFoyer, pdMem].foldl State.bootDomain s.loadKeys
  let s := { s with sys := { s.sys with fwVer := word i.version, rvAvail := word i.rvMask } }
  let s := (List.finRange 8).foldl State.bootGallery ((s.bootMem bad).bootDomain pdOut)
  s.bootRoles.bootAna.bootFirmware

/-- The clock of the start-up: 120 ms, SCHED_CFG, the edge of bring-up. -/
def State.bootClock (s : State) : State :=
  let s := s.clockTo (120 * refHz s.ref882 / 1000)
  let s := s.schedCfg (word (2 ^ 31 + at_ s.nv.cfg.frame16 0))
  s.clockTo s.time.bringupEdge

theorem State.startFirmware_eq (s : State) (bad : List (Fin 4194304)) (n : Fin 2) (trial : Bool) (i : FwInfo) :
    s.startFirmware bad n trial i =
      let t := (s.bootImage bad n trial i).bootClock
      { t with foyer := { t.foyer with port := t.foyer.port.map Port.opened } } := rfl

theorem State.bootImage_achieves (s : State) (bad : List (Fin 4194304)) (n : Fin 2) (trial : Bool) (i : FwInfo) :
    ∃ t : State, t = s.bootImage bad n trial i ∧ t.mgmt.slot = n ∧ t.mgmt.onTrial = trial ∧ t.pwr.on pdCtrl = true ∧ t.pwr.on pdMem = true ∧
      t.mem.ready = true ∧ t.time = s.time ∧ t.nv.cfg = s.nv.cfg ∧ t.sched.cfgSet = s.sched.cfgSet := by
  refine ⟨_, rfl, ?_⟩
  unfold State.bootImage
  generalize List.finRange 8 = galleries
  extract_lets a b _ c d
  have hslot : a.mgmt.slot = n ∧ a.mgmt.onTrial = trial := ⟨rfl, rfl⟩
  have hkept : a.time = s.time ∧ a.nv.cfg = s.nv.cfg ∧ a.sched.cfgSet = s.sched.cfgSet := ⟨rfl, rfl, rfl⟩
  clear_value a
  obtain ⟨hctrl, honCtrl⟩ := State.Booting.bootDomain a.loadKeys pdCtrl
  obtain ⟨hfoyer, -⟩ := State.Booting.bootDomain (a.loadKeys.bootDomain pdCtrl) pdFoyer
  obtain ⟨hmem, honMem⟩ := State.Booting.bootDomain ((a.loadKeys.bootDomain pdCtrl).bootDomain pdFoyer) pdMem
  have hb : a.Booting b := (((State.Booting.loadKeys a).trans hctrl).trans hfoyer).trans hmem
  have hbOn : b.pwr.on pdCtrl = true ∧ b.pwr.on pdMem = true := ⟨hmem.on _ (hfoyer.on _ honCtrl), honMem⟩
  clear_value b
  have hc : b.Booting c := ⟨⟨rfl, rfl, fun _ h => h, fun h => h⟩, rfl, rfl, rfl⟩
  clear_value c
  obtain ⟨hmemory, hready⟩ := State.bootMem_ready c bad
  have hrest : (c.bootMem bad).Booting d.bootRoles.bootAna.bootFirmware :=
    ((((State.Booting.bootDomain ..).1.trans (.foldl .bootGallery ..)).trans (.bootRoles ..)).trans (.bootAna ..)).trans (.bootFirmware ..)
  clear_value d
  have h : b.Booting d.bootRoles.bootAna.bootFirmware := (hc.trans hmemory).trans hrest
  have hall := hb.trans h
  exact ⟨hall.slot.trans hslot.1, hall.trial.trans hslot.2, h.on _ hbOn.1, h.on _ hbOn.2, hrest.ready hready, hall.time.trans hkept.1,
    hall.cfg.trans hkept.2.1, hall.unset.trans hkept.2.2⟩

theorem State.bootClock_achieved (s : State) : s.Achieved s.bootClock :=
  ((State.Achieved.advance ..).trans (.schedCfg ..)).trans (.advance ..)

/-- In time for the first edge, start-up brings rendering up on it (R418). -/
theorem State.bootClock_bringsUp {s : State} (harm : s.time.armed = false) (hset : s.sched.cfgSet = false)
    (hc : s.time.counting = true) (hr : s.time.refclk = true) (hearly : s.time.rclk ≤ 120 * refHz s.ref882 / 1000) :
    ∃ t : State, t = s.bootClock ∧ t.time.running = true ∧ t.time.et = 0 ∧ t.time.rclk = bringupStep ∧ t.time.bringup = word bringupStep ∧
      t.sched.nextBound = 1 ∧ (t.halls.get 0).alive = true := by
  have hms : 120 * refHz s.ref882 / 1000 < bringupStep := by
    unfold refHz bringupStep
    split <;> decide
  refine ⟨_, rfl, ?_⟩
  unfold State.bootClock State.clockTo
  obtain ⟨irqf, tmr, going, hits, ha⟩ := State.edges_shape hr hc (120 * refHz s.ref882 / 1000 - s.time.rclk)
  rw [State.advance_eq_edges (.inl harm), ha]
  dsimp only
  rw [show s.time.rclk + (120 * refHz s.ref882 / 1000 - s.time.rclk) = 120 * refHz s.ref882 / 1000 by omega]
  generalize 120 * refHz s.ref882 / 1000 = ms at hms
  generalize hu : State.schedCfg _ _ = u
  have harmed : u.time.armed = true ∧ u.time.counting = true ∧ u.time.refclk = true ∧ u.time.rclk = ms := by
    have hrun : bit (word (2 ^ 31 + at_ s.nv.cfg.frame16 0)) 31 = true := by cases s.nv.cfg.frame16 <;> decide
    rw [← hu, State.schedCfg, if_neg (by simp [hset])]
    dsimp only
    rw [if_neg (fun h => Bool.noConfusion (h.symm.trans hrun)), if_pos hms]
    exact ⟨rfl, hc, hr, rfl⟩
  clear hu
  obtain ⟨harm', hc', hr', hrclk⟩ := harmed
  have hedge : u.time.bringupEdge = bringupStep := by
    rw [TimeBlk.bringupEdge, hrclk, Nat.div_eq_of_lt hms, Nat.zero_add, Nat.one_mul]
  rw [State.advance, if_pos ⟨harm', hc', hr', by omega⟩, hedge, hrclk, show ms + (bringupStep - ms) - bringupStep = 0 by omega, State.edges_zero]
  obtain ⟨_, _, _, _, he⟩ := State.edges_shape hr' hc' (bringupStep - ms)
  have hat : (u.edges (bringupStep - ms)).time.rclk = bringupStep := by
    rw [he]
    exact (congrArg (· + (bringupStep - ms)) hrclk).trans (Nat.add_sub_cancel' (Nat.le_of_lt hms))
  have hb := (u.edges (bringupStep - ms)).bringup_broughtUp
  exact ⟨hb.running, hb.et, hb.rclk.trans hat, hb.bringup.trans (congrArg word hat), hb.nextBound, hb.hall0⟩

/-! ### RECOVERY (R464) -/

theorem State.recovery_console (s : State) : ∃ t : State, t = s.recovery ∧ t.mgmt.recovery = true ∧ (t.ser.get 0).role = 4 := by
  refine ⟨_, rfl, ?_⟩
  unfold State.recovery
  extract_lets a
  have ha : a.mgmt.recovery = true := by
    obtain ⟨_, _, _, hm⟩ := State.log_mgmt (s.updMgmt fun m => { m with recovery := true }) 0x0907 none []
    simp only [a, hm]
    rfl
  clear_value a
  refine ⟨ha, ?_⟩
  unfold Ser.role State.updSer
  rw [Tab.get_upd_same]
  exact (by decide : bits 0x80000000#32 31 29 = 4)

/-! ### The row -/

/-- The slot that is chosen starts, or RECOVERY. -/
def State.bootOn (s : State) (bad : List (Fin 4194304)) : State :=
  match s.bootSlot.2 with
  | some (n, trial) => s.bootSlot.1.startFirmware bad n trial (s.bootSlot.1.nv.slots.get n).info
  | none => s.bootSlot.1.recovery

theorem State.bootOn_slot {s : State} {n : Fin 2} {trial : Bool} (h : s.bootSlot.2 = some (n, trial)) (bad : List (Fin 4194304)) :
    s.bootOn bad = s.bootSlot.1.startFirmware bad n trial (s.bootSlot.1.nv.slots.get n).info := by
  rw [State.bootOn, h]

theorem State.bootOn_none {s : State} (h : s.bootSlot.2 = none) (bad : List (Fin 4194304)) : s.bootOn bad = s.bootSlot.1.recovery := by
  rw [State.bootOn, h]

/-- Settles O52, by what each part of start-up achieves and keeps. -/
theorem startupStartsTheFirmware : Obligations.StartupStartsTheFirmware := by
  intro s w u hlow hbrown hc hr hoff hrec hw hu
  have hexec : exec .startup s = .next (u.bootOn s.pins.memBad) := by
    refine (next_when (by simp [Pins.free, hlow, hbrown, hc, hr, hoff, hrec])).trans (next_eq ?_)
    extract_lets bad _ _ a b c r
    have hb : b = w := by
      rw [hw]
      simp only [b]
      split <;> rfl
    have hcal : w.nv.calValid = s.nv.calValid := by
      rw [hw]
      dsimp only
      split <;> rfl
    have hcu : c = u := by
      simp only [c]
      rw [hb, hu, hcal]
    clear_value c
    subst hcu
    rfl
  have hkept : u.time.armed = s.time.armed ∧ u.time.counting = true ∧ u.time.refclk = true ∧ u.time.rclk = s.time.rclk ∧
      u.ref882 = s.ref882 ∧ u.sched.cfgSet = s.sched.cfgSet := by
    have hwu : w.Booting u := by
      rw [hu]
      split
      · exact .refl w
      · exact .log ..
    have hsw : w.nv.cfg = s.nv.cfg := by
      rw [hw]
      dsimp only
      split <;> rfl
    have htime : w.time = { s.time with ok := true } := by rw [hw]
    have hunset : w.sched = s.sched := by rw [hw]
    rw [hwu.time, htime, hwu.unset, hunset]
    exact ⟨rfl, hc, hr, rfl, congrArg CfgRec.fe882 (hwu.cfg.trans hsw), rfl⟩
  obtain ⟨harmU, hcU, hrU, hrclkU, href, hsetU⟩ := hkept
  have hslot := State.Booting.bootSlot u
  refine ⟨fun n trial hstart => ⟨_, ?_, rfl, ?_⟩, fun hnone => ⟨_, ?_, rfl, ?_⟩⟩
  · rw [hexec, State.bootOn_slot hstart]
  · obtain ⟨v, hv, hslotV, htrial, hctrl, hmem, hready, htimeV, hcfgV, hsetV⟩ :=
      State.bootImage_achieves u.bootSlot.1 s.pins.memBad n trial (u.bootSlot.1.nv.slots.get n).info
    rw [State.startFirmware_eq, ← hv]
    clear hv
    have hdone := State.bootClock_achieved v
    refine ⟨hdone.slot.trans hslotV, hdone.trial.trans htrial, hdone.on _ hctrl, hdone.on _ hmem, hdone.ready hready, fun p => ?_⟩
    have hport : Tab.get (v.bootClock.foyer.port.map Port.opened) p = (v.bootClock.foyer.port.get p).opened := Tab.get_map ..
    dsimp only
    rw [hport]
    refine ⟨rfl, rfl, fun harm _ hset hearly => ?_⟩
    have htime : v.time = u.time := htimeV.trans hslot.time
    have href : v.ref882 = s.ref882 := (congrArg CfgRec.fe882 (hcfgV.trans hslot.cfg)).trans href
    obtain ⟨_, rfl, h⟩ := State.bootClock_bringsUp (s := v) (by rw [htime, harmU, harm]) (by rw [hsetV, hslot.unset, hsetU, hset])
      (by rw [htime, hcU]) (by rw [htime, hrU]) (by rw [htime, hrclkU, href]; exact hearly)
    exact h
  · rw [hexec, State.bootOn_none hnone]
  · obtain ⟨t, rfl, h⟩ := State.recovery_console u.bootSlot.1
    exact h

end Sys2Proof.Machine
end

section
/-! PROOF. Mapped events on their way to SCHED and at it (spec/13_command_set.md R386, spec/15_timebase_timers_triggers.md R431). -/
namespace Sys2Proof.Machine

/-! ### An event in its hall's queue -/

theorem mem_evInsert (e : Ev) (l : List Ev) : e ∈ evInsert e l := by
  induction l with
  | nil => exact List.mem_singleton_self e
  | cons f fs ih =>
    rw [evInsert]
    split
    · exact List.mem_cons_self
    · exact List.mem_cons_of_mem _ ih

theorem State.noteLate_lateLast (s : State) (h : Fin 8) (src org : Nat) :
    (s.noteLate h src org).sched.lateLast = word (src * 2 ^ 19 + h.val * 2 ^ 16 + org % 2 ^ 16) := by
  unfold State.noteLate
  extract_lets f now _ a logged b
  have hb : b.sched.lateLast = now := by
    obtain ⟨irqf, e⟩ := State.guar_shape ({ s with sched := { s.sched with lateCnt := satInc s.sched.lateCnt 1, lateLast := now } }) 2
    rw [show b.sched = a.sched from rfl, show a = _ from e]
  split
  · exact hb
  · rw [State.log_sched, hb]

/-- Where the event of an arrival stands: in its hall's queue, with its applied time. -/
theorem State.arrive_puts (s : State) (h : Fin 8) (src tag org a T : Nat) (k : EvKind) (late : Bool)
    (hlate : late = (decide (T < a + s.lead) || decide (T < s.openAt))) :
    ∃ e ∈ ((s.arrive h src tag org a T k).1.halls.get h).queue, e.src = src ∧ e.tag = tag ∧ e.req = T ∧ e.kind = k ∧ e.late = late ∧
      e.time = if late then max T s.openAt else T := by
  subst hlate
  unfold State.arrive
  extract_lets late at' e _ u v
  have hin : e ∈ (v.halls.get h).queue := by
    have hget : (v.halls.get h).queue = evInsert e (s.halls.get h).queue := congrArg Hall.queue (Tab.get_upd_same _ h _)
    rw [hget]
    exact mem_evInsert ..
  refine ⟨e, ?_, rfl, rfl, rfl, rfl, rfl, rfl⟩
  clear_value v
  dsimp only
  split
  · obtain ⟨-, -, hqueue, -⟩ := v.noteLate_notes h src org
    rw [hqueue]
    exact hin
  · exact hin

/-! ### A mapped event at SCHED -/

/-- A mapped event that its hall cannot take is dropped and counted. -/
theorem State.forwardOne_drops {s : State} {m : Mapped} {h : Fin 8} (hh : h = hallIx m.hall)
    (hno : (s.halls.get h).alive = false ∨ s.hallFenced h = true ∨ s.timeOk m.time = false ∨ s.queueRoom h = false) :
    s.forwardOne m = s.updTrg (Fin.ofNat 8 m.trig) fun g => { g with drop := satInc g.drop 1 } := by
  have hd : ∃ c, s.deliver h 1 m.tag m.trig m.stamp m.time m.kind = (s, c) ∧ 1 < c := by
    unfold State.deliver
    split
    · exact ⟨_, rfl, by decide⟩
    next h1 =>
    split
    · exact ⟨_, rfl, by decide⟩
    next h2 =>
    split
    · exact ⟨_, rfl, by decide⟩
    next h3 =>
    rcases hno with h' | h' | h' | h'
    · exact absurd (.inl h') h1
    · exact absurd (.inr h') h1
    · exact absurd h' h2
    · exact absurd h' h3
  obtain ⟨c, hd, hc⟩ := hd
  unfold State.forwardOne
  rw [← hh, hd, if_neg (by dsimp only; omega)]
  rfl

/-- One that it takes arrives. -/
theorem State.forwardOne_arrives {s : State} {m : Mapped} {h : Fin 8} (hh : h = hallIx m.hall) (halive : (s.halls.get h).alive = true)
    (hf : s.hallFenced h = false) (ht : s.timeOk m.time = true) (hq : s.queueRoom h = true) :
    s.forwardOne m = (s.arrive h 1 m.tag m.trig m.stamp m.time m.kind).1 := by
  have hd : s.deliver h 1 m.tag m.trig m.stamp m.time m.kind =
      ((s.arrive h 1 m.tag m.trig m.stamp m.time m.kind).1, if (s.arrive h 1 m.tag m.trig m.stamp m.time m.kind).2.2 then 1 else 0) := by
    unfold State.deliver
    rw [if_neg (by simp [halive, hf]), if_neg (by simp [ht]), if_neg (by simp [hq])]
  unfold State.forwardOne
  rw [← hh, hd, if_pos (by dsimp only; split <;> decide)]

/-- What an accepted mapped event leaves and brings. -/
theorem State.arrive_mapped (s : State) (m : Mapped) (h : Fin 8) (t : State)
    (ht : t = (s.arrive h 1 m.tag m.trig m.stamp m.time m.kind).1) :
    t.time = s.time ∧ t.voices = s.voices ∧ (∀ j, j ≠ h → t.halls.get j = s.halls.get j) ∧
    (t.halls.get h).queue.length = (s.halls.get h).queue.length + 1 ∧
    ∃ e ∈ (t.halls.get h).queue, e.src = 1 ∧ e.tag = m.tag ∧ e.req = m.time ∧ e.kind = m.kind ∧
      (m.stamp + s.lead ≤ m.time → s.openAt ≤ m.time → e.time = m.time ∧ e.late = false ∧ t.sched.lateCnt = s.sched.lateCnt) ∧
      (m.time < m.stamp + s.lead ∨ m.time < s.openAt → e.time = max m.time s.openAt ∧ e.late = true ∧
        t.sched.lateCnt = satInc s.sched.lateCnt 1 ∧ t.sched.lateLast = word (2 ^ 19 + h.val * 2 ^ 16 + m.trig % 2 ^ 16)) := by
  obtain ⟨e, hin, hsrc, htag, hreq, hkind, hlate, htime⟩ := s.arrive_puts h 1 m.tag m.trig m.stamp m.time m.kind _ rfl
  obtain ⟨v, hv, heq⟩ := s.arrive_queued h 1 m.tag m.trig m.stamp m.time m.kind _ rfl
  obtain ⟨_, _, _, _, _, hshape⟩ := s.arrive_shape h 1 m.tag m.trig m.stamp m.time m.kind
  obtain ⟨hcnt, -, hqueue, -, hothers⟩ := v.noteLate_notes h 1 m.trig
  rw [← ht] at hin hshape
  have hkept : t.time = s.time ∧ t.voices = s.voices := by
    rw [hshape]
    exact ⟨rfl, rfl⟩
  have ht' := ht.trans (congrArg Prod.fst heq)
  by_cases hl : (decide (m.time < m.stamp + s.lead) || decide (m.time < s.openAt)) = true
  · rw [hl] at hlate htime ht'
    have htv : t = v.noteLate h 1 m.trig := ht'
    have hlate' : m.time < m.stamp + s.lead ∨ m.time < s.openAt := by simpa using hl
    refine ⟨hkept.1, hkept.2, fun j hj => ?_, ?_, e, hin, hsrc, htag, hreq, hkind, fun h1 h2 => ?_, fun _ => ⟨htime, hlate, ?_, ?_⟩⟩
    · rw [htv, hothers j hj, hv.others j hj]
    · rw [htv, hqueue, hv.queue]
    · omega
    · rw [htv, hcnt, hv.lateCnt]
    · rw [htv, State.noteLate_lateLast, Nat.one_mul]
  · have hl' := Bool.eq_false_iff.mpr hl
    rw [hl'] at hlate htime ht'
    have htv : t = v := ht'
    have hontime : ¬ (m.time < m.stamp + s.lead ∨ m.time < s.openAt) := by simpa using hl
    refine ⟨hkept.1, hkept.2, fun j hj => ?_, ?_, e, hin, hsrc, htag, hreq, hkind, fun _ _ => ⟨htime, hlate, ?_⟩, fun h' => absurd h' hontime⟩
    · rw [htv, hv.others j hj]
    · rw [htv, hv.queue]
    · rw [htv, hv.lateCnt]

/-! ### Which events arrive -/

/-- Where no event is due, none arrives. -/
theorem State.forward_early {s : State} (h : ∀ m ∈ s.sched.mapped, s.time.et ≤ m.stamp + mappedDelay) : s.forward = s := by
  have hdue : s.sched.mapped.filter (fun m => decide (m.stamp + mappedDelay < s.time.et)) = [] :=
    List.filter_eq_nil_iff.mpr fun m hm => by simpa using h m hm
  have hrest : s.sched.mapped.filter (fun m => !decide (m.stamp + mappedDelay < s.time.et)) = s.sched.mapped :=
    List.filter_eq_self.mpr fun m hm => by simpa using h m hm
  unfold State.forward
  dsimp only
  rw [hdue, hrest]
  rfl

/-- The front event arrives alone where no other is due. -/
theorem State.forward_front {s : State} {m : Mapped} {ms : List Mapped} (hm : s.sched.mapped = m :: ms)
    (hdue : m.stamp + mappedDelay < s.time.et) (hrest : ∀ x ∈ ms, s.time.et ≤ x.stamp + mappedDelay) :
    s.forward = { s with sched := { s.sched with mapped := ms } }.forwardOne m := by
  have hfront : s.sched.mapped.filter (fun m => decide (m.stamp + mappedDelay < s.time.et)) = [m] := by
    rw [hm, List.filter_cons_of_pos (by simpa using hdue), List.filter_eq_nil_iff.mpr fun x hx => by simpa using hrest x hx]
  have hlater : s.sched.mapped.filter (fun m => !decide (m.stamp + mappedDelay < s.time.et)) = ms := by
    rw [hm, List.filter_cons_of_neg (by simpa using hdue), List.filter_eq_self.mpr fun x hx => by simpa using hrest x hx]
  unfold State.forward
  dsimp only
  rw [hfront, hlater]
  rfl

/-! ### The order of arrival (R431) -/

theorem Mapped.before_iff (a b : Mapped) : a.before b = true ↔ a.stamp < b.stamp ∨ a.stamp = b.stamp ∧ a.trig < b.trig := by
  simp [Mapped.before]

theorem Mapped.not_before_iff (a b : Mapped) : a.before b = false ↔ b.stamp < a.stamp ∨ b.stamp = a.stamp ∧ b.trig ≤ a.trig := by
  rw [Bool.eq_false_iff, ne_eq, Mapped.before_iff]
  omega

theorem mem_mappedInsert {m x : Mapped} {xs : List Mapped} : x ∈ mappedInsert m xs ↔ x = m ∨ x ∈ xs := by
  induction xs with
  | nil => exact List.mem_cons
  | cons y ys ih =>
    rw [mappedInsert]
    split
    · exact List.mem_cons
    · rw [List.mem_cons, ih, List.mem_cons]
      exact or_left_comm

theorem mappedInsert_length (m : Mapped) (xs : List Mapped) : (mappedInsert m xs).length = xs.length + 1 := by
  induction xs with
  | nil => rfl
  | cons y ys ih =>
    rw [mappedInsert]
    split
    · rfl
    · rw [List.length_cons, ih, List.length_cons]

theorem mappedInsert_sorted {m : Mapped} {xs : List Mapped} (h : xs.Pairwise fun a b => b.before a = false) :
    (mappedInsert m xs).Pairwise fun a b => b.before a = false := by
  induction xs with
  | nil => exact List.pairwise_singleton ..
  | cons y ys ih =>
    obtain ⟨hy, hys⟩ := List.pairwise_cons.mp h
    rw [mappedInsert]
    split
    · next hm =>
      refine List.pairwise_cons.mpr ⟨fun z hz => ?_, h⟩
      rw [Mapped.before_iff] at hm
      rw [Mapped.not_before_iff]
      rcases List.mem_cons.mp hz with rfl | hz
      · omega
      · have hzy := (Mapped.not_before_iff ..).mp (hy z hz)
        omega
    · next hm =>
      refine List.pairwise_cons.mpr ⟨fun z hz => ?_, ih hys⟩
      rcases mem_mappedInsert.mp hz with rfl | hz
      · simpa using hm
      · exact hy z hz

/-! ### REFCLK (R419) -/

/-- A word clock that is gone asserts MUTE_n. -/
theorem State.wclkGone_mutes (s : State) : s.wclkGone.out.wclkOk = false ∧ s.wclkGone.dac.mute = true := by
  obtain ⟨ch, e⟩ := s.trackOff_leaves
  generalize hu : ({ s with
    out := { s.out with trk := none, ch := ch, wclkOk := false, locked := false },
    dac := { s.dac with wclkOk := false }, tdm := { s.tdm with running := false } } : State) = u
  have hgone : s.wclkGone = ((u.outErr 1).dacErr 2).muteNow := by
    rw [State.wclkGone, e, ← hu]
  obtain ⟨irqf, e1⟩ := u.outErr_shape 1
  obtain ⟨dac, irqf', e2, -, hmute, -⟩ := State.dacClockGone (s := u.outErr 1) (by rw [e1, ← hu])
  rw [hgone, e2, e1, ← hu]
  exact ⟨rfl, hmute⟩

/-- In master mode the word clock goes with REFCLK's edges. -/
theorem State.edgesGone_master {s : State} (hm : s.out.master = true) (hok : s.out.wclkOk = true) :
    s.edgesGone.out.wclkOk = false ∧ s.edgesGone.dac.mute = true := by
  unfold State.edgesGone
  dsimp only
  rw [if_pos ⟨hm, hok⟩]
  exact State.wclkGone_mutes _

/-- REFCLK that is no longer good is counted, flagged and logged (R419). -/
theorem State.refBad_shape (s : State) (still : Bool) : ∃ nv mgmt irqf, s.refBad still = { s with
    time := { s.time with refclk := still, ok := false, lossCnt := satInc s.time.lossCnt 1, err := setFlag s.time.err 0 },
    nv := nv, mgmt := mgmt, irqf := irqf } ∧ ∃ e ∈ mgmt.volLog, e.code = 0x0701 := by
  generalize ha : ({ s with time := { s.time with refclk := still, ok := false, lossCnt := satInc s.time.lossCnt 1 } } : State) = a
  have hbad : s.refBad still = (a.timeErr 0).log 0x0701 none [] := by rw [← ha, State.refBad]
  obtain ⟨irqf, e1⟩ := State.timeErr_flag a 0
  obtain ⟨nv, mgmt, e2, -⟩ := (a.timeErr 0).log_shape 0x0701 none []
  obtain ⟨pre, e, hlog, hcode, -⟩ := (a.timeErr 0).log_last 0x0701 none (data := []) (by decide)
  refine ⟨nv, mgmt, irqf, by rw [hbad, e2, e1, ← ha], e, ?_, hcode⟩
  rw [e2] at hlog
  rw [show mgmt.volLog = pre ++ [e] from hlog]
  exact List.mem_append_right _ (List.mem_singleton_self e)

/-- What a REFCLK that is lost or off its frequency brings; which of the two it is, is free. -/
theorem exec_refclkLost {s : State} (hr : s.time.refclk = true) : ∃ t : State, exec .refclkLost s = .next t ∧ t.time.ok = false ∧
    t.time.rclk = s.time.rclk ∧ t.time.et = s.time.et ∧ t.halls = s.halls ∧ t.voices = s.voices ∧ t.fresh = s.fresh + 1 ∧
    t.time.refclk = Config.refclkStill s.fresh ∧
    (s.time.ok = true ∨ Config.refclkStill s.fresh = false → t.time.lossCnt = satInc s.time.lossCnt 1 ∧ bit t.time.err 0 = true ∧
      ∃ e ∈ t.mgmt.volLog, e.code = 0x0701) ∧
    (Config.refclkStill s.fresh = false → s.out.master = true → s.out.wclkOk = true → t.out.wclkOk = false ∧ t.dac.mute = true) := by
  refine ⟨_, next_when hr, ?_⟩
  extract_lets still u v
  have hu : u = { s with fresh := s.fresh + 1 } := rfl
  clear_value u
  subst hu
  change _ ∧ _ ∧ _ ∧ _ ∧ _ ∧ _ ∧ _ = still ∧ (_ ∨ still = false → _) ∧ (still = false → _)
  clear_value still
  by_cases hgood : s.time.ok = false ∧ still = true
  · obtain ⟨hok, hstill⟩ := hgood
    rw [if_pos ⟨hok, hstill⟩]
    exact ⟨hok, rfl, rfl, rfl, rfl, rfl, hr.trans hstill.symm, fun h => by simp [hok, hstill] at h, fun h => by simp [hstill] at h⟩
  · rw [if_neg hgood]
    obtain ⟨nv, mgmt, irqf, hv, hlog⟩ := State.refBad_shape { s with fresh := s.fresh + 1 } still
    have hv' : v = _ := hv
    clear_value v
    subst hv'
    cases still with
    | true => exact ⟨rfl, rfl, rfl, rfl, rfl, rfl, rfl, fun _ => ⟨rfl, bit_setFlag_same _ (by decide), hlog⟩, fun h => Bool.noConfusion h⟩
    | false =>
      rw [if_neg Bool.false_ne_true]
      generalize hw : ({ s with
        fresh := s.fresh + 1, nv := nv, mgmt := mgmt, irqf := irqf
        time := { s.time with refclk := false, ok := false, lossCnt := satInc s.time.lossCnt 1, err := setFlag s.time.err 0 } } : State) = w
      obtain ⟨_, _, _, _, e⟩ := w.edgesGone_shape
      have hmaster := State.edgesGone_master (s := w)
      rw [e] at hmaster ⊢
      subst hw
      exact ⟨rfl, rfl, rfl, rfl, rfl, rfl, rfl, fun _ => ⟨rfl, bit_setFlag_same _ (by decide), hlog⟩, fun _ => hmaster⟩

end Sys2Proof.Machine
end

section
/-! PROOF. REFCLK restored, the debugger, the edges of triggers and their stamps (spec/15_timebase_timers_triggers.md R419–R431,
spec/13_command_set.md R386). -/
namespace Sys2Proof.Machine

/-! ### REFCLK restored, the debugger (R419, R424, R503) -/

theorem TimeBlk.edges_refclk (t : TimeBlk) (k : Nat) : (t.edges k).1.refclk = t.refclk := by
  cases hr : t.refclk with
  | false => rw [TimeBlk.edges, if_pos (.inl hr), hr]
  | true =>
    cases hc : t.counting with
    | false => rw [TimeBlk.edges, if_pos (.inr (.inl hc)), hr]
    | true =>
      obtain ⟨_, _, _, e⟩ := TimeBlk.edges_shape hr hc k
      rw [e, hr]

theorem State.wclkBack_shape (s : State) : ∃ out dac tdm, s.wclkBack = { s with out := out, dac := dac, tdm := tdm } := by
  unfold State.wclkBack
  split
  · exact ⟨_, _, _, rfl⟩
  · exact ⟨s.out, s.dac, s.tdm, rfl⟩

theorem exec_refclkRestored {s : State} (hbad : s.time.refclk = false ∨ s.time.ok = false) (hbank : s.bankOn .sys = true)
    (harm : s.time.armed = false) : ∃ t : State, exec .refclkRestored s = .next t ∧ t.time.refclk = true ∧ t.time.ok = true ∧
      (s.time.counting = true → t.time.rclk = s.time.rclk + s.edgesUs 1000) ∧ (s.sched.mapped = [] → t.halls = s.halls) ∧
      t.voices = s.voices := by
  obtain ⟨out, dac, tdm, hx⟩ : ∃ out dac tdm, (if s.time.refclk = true then ({ s with time := { s.time with refclk := true } } : State)
      else ({ s with time := { s.time with refclk := true } } : State).wclkBack) =
        { s with time := { s.time with refclk := true }, out := out, dac := dac, tdm := tdm } := by
    split
    · exact ⟨s.out, s.dac, s.tdm, rfl⟩
    · exact State.wclkBack_shape _
  refine ⟨_, next_when (by rcases hbad with h | h <;> simp [h, hbank]), ?_⟩
  dsimp only
  rw [hx]
  generalize s.edgesUs 1000 = k
  generalize hu : ({ s with time := { s.time with refclk := true }, out := out, dac := dac, tdm := tdm } : State) = u
  have hkept : u.time.refclk = true ∧ u.time.counting = s.time.counting ∧ u.time.armed = false ∧ u.time.rclk = s.time.rclk ∧
      u.sched.mapped = s.sched.mapped ∧ u.halls = s.halls ∧ u.voices = s.voices := by
    rw [← hu]
    exact ⟨rfl, rfl, harm, rfl, rfl, rfl, rfl⟩
  clear hu hx
  obtain ⟨hr, hc, harm', hrclk, hmapped, hhalls, hvoices⟩ := hkept
  rw [State.pass, State.advance_eq_edges (.inl harm')]
  have hreceived := State.Received.forward (u.edges k)
  obtain ⟨_, _, _, _, _, _, e⟩ := hreceived.shape
  refine ⟨?_, rfl, fun hcount => ?_, fun hnone => ?_, ?_⟩
  · rw [e]
    exact (TimeBlk.edges_refclk ..).trans hr
  · obtain ⟨_, _, _, _, he⟩ := State.edges_shape hr (hc.trans hcount) k
    rw [e, he]
    exact congrArg (· + k) hrclk
  · rw [State.forward_of_mapped_nil (show (u.edges k).sched.mapped = [] from hmapped.trans hnone)]
    exact hhalls
  · rw [e]
    exact hvoices

/-- A debugger in SERVICE halts a core. -/
theorem exec_debugHalt_service {s : State} (cp : Fin 2) (hbank : s.bankOn .sys = true) (hlife : s.nv.life = .service)
    (hp : s.pwr.on pdCtrl = true) : exec (.debugHalt cp) s =
      .next { s with time := { s.time with dbg := s.time.dbg.put cp true }, pins := { s.pins with tap := .debug } } := by
  have htap : s.tapInstr .debug = { s with pins := { s.pins with tap := .debug } } := by
    rw [State.tapInstr, TapInstr.acts, if_pos hlife]
  refine (next_when hbank).trans (next_eq ?_)
  dsimp only
  rw [htap, State.when, if_pos (by simp [hlife, hp])]

/-- Elsewhere the instruction acts as BYPASS. -/
theorem exec_debugHalt_bypass {s : State} (cp : Fin 2) (hbank : s.bankOn .sys = true) (hlife : s.nv.life ≠ .service) :
    exec (.debugHalt cp) s = .next { s with pins := { s.pins with tap := .bypass } } := by
  have htap : s.tapInstr .debug = { s with pins := { s.pins with tap := .bypass } } := by
    rw [State.tapInstr, TapInstr.acts, if_neg hlife]
  refine (next_when hbank).trans (next_eq ?_)
  dsimp only
  rw [htap, State.when, if_neg (by simp [hlife])]

/-- Nothing of REFCLK's return and of the debugger is seen while bank SYS has no supply (R496). -/
theorem exec_sysAbsent {s : State} {x : Instr} (hx : x = .refclkRestored ∨ ∃ cp, x = .debugHalt cp ∨ x = .debugHaltReleased cp)
    (hbank : s.bankOn .sys = false) : exec x s = .next s := by
  rcases hx with rfl | ⟨cp, rfl | rfl⟩
  · exact next_stay (by simp [hbank])
  · exact next_stay hbank
  · exact next_stay hbank

/-! ### The stamp of an accepted edge (R429, R430) -/

/-- A stamp in the FIFO, or an overflow. -/
theorem Trig.push_room {g : Trig} (stamp : Nat) (h : g.fifo.length < 4) : g.push stamp = ({ g with fifo := g.fifo ++ [stamp] }, false) :=
  if_neg (by omega)

theorem Trig.push_full {g : Trig} (stamp : Nat) (h : 4 ≤ g.fifo.length) : g.push stamp = ({ g with ovf := true }, true) := if_pos h

/-- The stamp, its flag and its interrupts; then the mapping. -/
theorem State.trigStamp_eq (s : State) (k : Fin 8) (rising : Bool) (stamp : Nat) : ∃ err irqf, s.trigStamp k rising stamp =
    State.trigEvent { s with time := { s.time with trg := s.time.trg.upd k fun _ => ((s.time.trg.get k).push stamp).1, err := err }, irqf := irqf }
      k rising stamp ∧ (4 ≤ (s.time.trg.get k).fifo.length → bit err 2 = true) := by
  unfold State.trigStamp
  extract_lets r a b
  have hb : ∃ err irqf, b = { a with time := { a.time with err := err }, irqf := irqf } ∧ (r.2 = true → bit err 2 = true) := by
    simp only [b]
    split
    · obtain ⟨irqf, e⟩ := a.timeErr_flag 2
      exact ⟨_, irqf, e, fun _ => bit_setFlag_same _ (by decide)⟩
    · next h => exact ⟨a.time.err, a.irqf, rfl, fun h' => absurd h' h⟩
  clear_value b
  obtain ⟨err, irqf, rfl, herr⟩ := hb
  obtain ⟨irqf', e⟩ := State.raiseIf_shape ({ a with time := { a.time with err := err }, irqf := irqf } : State)
    (bit (Tab.get a.time.trg k).ctrl 30) (192 + k.val)
  refine ⟨err, irqf', congrArg (fun u => State.trigEvent u k rising stamp) e, fun hfull => herr ?_⟩
  simp only [r]
  rw [Trig.push_full stamp hfull]

/-! ### The mapping (R386) -/

/-- The checks of a made event look at no trigger, no flag and no interrupt. -/
theorem State.checkMade_trig (s : State) (trg : Tab Trig 8) (err hits : Word) (irqf : Irqf) (h : Fin 8) (t op : Nat) (template : List Byte) :
    State.checkMade { s with time := { s.time with trg := trg, err := err, hits := hits }, irqf := irqf } h t op template =
      s.checkMade h t op template := rfl

theorem State.checkMade_ok {s : State} {h : Fin 8} {t op : Nat} {template : List Byte} (hf : s.hallFenced h = false)
    (hlen : templateLen op = some template.length) (hc : firstFail (s.evChecks h op (leBytes 8 t ++ template)) = none) :
    s.checkMade h t op template = .ok (evKindOf op (leBytes 8 t ++ template)) := by
  unfold State.checkMade
  dsimp only
  rw [if_neg (by simp [hf]), hlen]
  dsimp only
  rw [if_neg (fun h => h rfl), hc]

theorem State.checkMade_error {s : State} {h : Fin 8} {t op : Nat} {template : List Byte}
    (hno : s.hallFenced h = true ∨ templateLen op ≠ some template.length ∨ firstFail (s.evChecks h op (leBytes 8 t ++ template)) ≠ none) :
    ∃ st, s.checkMade h t op template = .error st := by
  unfold State.checkMade
  dsimp only
  split
  · exact ⟨_, rfl⟩
  next hf =>
  split
  · exact ⟨_, rfl⟩
  next n hn =>
  split
  · exact ⟨_, rfl⟩
  next hlen =>
  split
  · exact ⟨_, rfl⟩
  next hc =>
    rcases hno with h' | h' | h'
    · exact absurd h' hf
    · exact absurd (hn.trans (congrArg some (Decidable.not_not.mp hlen).symm)) h'
    · exact absurd hc h'

section Mapping
variable {s : State} {k : Fin 8} {rising : Bool} {stamp : Nat} {m : TrigMap}

theorem State.trigEvent_unmapped (hm : (s.time.trg.get k).map = none) : s.trigEvent k rising stamp = s := by
  rw [State.trigEvent, hm]

theorem State.trigEvent_otherEdge (hm : (s.time.trg.get k).map = some m) (hedge : m.edges.testBit (if rising then 0 else 1) = false) :
    s.trigEvent k rising stamp = s := by
  rw [State.trigEvent, hm]
  exact if_pos hedge

theorem State.trigEvent_fails {st : Nat} (hm : (s.time.trg.get k).map = some m)
    (hedge : m.edges.testBit (if rising then 0 else 1) = true)
    (hc : s.checkMade (hallIx m.hall) (stamp + m.offset) m.opcode m.template = .error st) :
    s.trigEvent k rising stamp = s.updTrg k fun g => { g with drop := satInc g.drop 1 } := by
  rw [State.trigEvent, hm]
  dsimp only
  rw [if_neg (by simp [hedge]), hc]

theorem State.trigEvent_sends {kind : EvKind} (hm : (s.time.trg.get k).map = some m)
    (hedge : m.edges.testBit (if rising then 0 else 1) = true)
    (hc : s.checkMade (hallIx m.hall) (stamp + m.offset) m.opcode m.template = .ok kind) :
    s.trigEvent k rising stamp = { s with sched := { s.sched with
      mapped := mappedInsert ⟨k.val, m.hall, m.tag, stamp, stamp + m.offset, kind⟩ s.sched.mapped } } := by
  rw [State.trigEvent, hm]
  dsimp only
  rw [if_neg (by simp [hedge]), hc]

/-- Whatever comes of the mapping, only SCHED's list and the trigger's count of drops change. -/
theorem State.trigEvent_shape (s : State) (k : Fin 8) (rising : Bool) (stamp : Nat) : ∃ sched trg, s.trigEvent k rising stamp =
    { s with sched := sched, time := { s.time with trg := trg } } ∧
    trg.get k = { s.time.trg.get k with drop := (trg.get k).drop } := by
  cases hm : (s.time.trg.get k).map with
  | none => exact ⟨s.sched, s.time.trg, State.trigEvent_unmapped hm, rfl⟩
  | some m =>
    cases hedge : m.edges.testBit (if rising then 0 else 1) with
    | false => exact ⟨s.sched, s.time.trg, State.trigEvent_otherEdge hm hedge, rfl⟩
    | true =>
      cases hc : s.checkMade (hallIx m.hall) (stamp + m.offset) m.opcode m.template with
      | error st =>
        refine ⟨s.sched, _, State.trigEvent_fails hm hedge hc, ?_⟩
        rw [Tab.get_upd_same]
      | ok kind => exact ⟨_, s.time.trg, State.trigEvent_sends hm hedge hc, rfl⟩

end Mapping

/-! ### An edge of a trigger (R428–R430) -/

/-- A trigger with its accepted edge. -/
def Trig.accepted (g : Trig) (rising : Bool) (now : Nat) : Trig := { g with level := rising, cap := satInc g.cap 1, last := some now }

/-- An accepted edge: counted, the last one, and a tick for the timers of its trigger. -/
def State.edgeAccepted (s : State) (k : Fin 8) (rising : Bool) (now : Nat) : State :=
  ((s.updTrg k fun x => { x with level := rising }).updTrg k fun x => { x with cap := satInc x.cap 1, last := some now }).trigTick k

theorem State.edgeAccepted_shape (s : State) (k : Fin 8) (rising : Bool) (now : Nat) : ∃ trg, s.edgeAccepted k rising now =
    { s with time := { s.time with trg := trg, hits := setFlag s.time.hits k.val } } ∧
    trg.get k = (s.time.trg.get k).accepted rising now := by
  refine ⟨_, rfl, (Tab.get_upd_same ..).trans ?_⟩
  exact congrArg (fun x : Trig => { x with cap := satInc x.cap 1, last := some now })
    (Tab.get_upd_same s.time.trg k fun x : Trig => { x with level := rising })

/-- What the stamp of an accepted edge brings: its place in the FIFO, the mapped event on its way. -/
structure State.Stamped (s : State) (k : Fin 8) (rising : Bool) (g : Trig) (stamp : Nat) (t : State) : Prop where
  shape : ∃ sched trg err irqf, t = { s with sched := sched, time := { s.time with trg := trg, err := err }, irqf := irqf }
  trig : t.time.trg.get k = { (g.push stamp).1 with drop := (t.time.trg.get k).drop }
  full : 4 ≤ g.fifo.length → bit t.time.err 2 = true
  unmapped : g.map = none → t.sched = s.sched ∧ (t.time.trg.get k).drop = g.drop
  otherEdge : ∀ m, g.map = some m → m.edges.testBit (if rising then 0 else 1) = false → t.sched = s.sched ∧ (t.time.trg.get k).drop = g.drop
  fails : ∀ m st, g.map = some m → m.edges.testBit (if rising then 0 else 1) = true →
    s.checkMade (hallIx m.hall) (stamp + m.offset) m.opcode m.template = .error st →
    t.sched = s.sched ∧ (t.time.trg.get k).drop = satInc g.drop 1
  sends : ∀ m kind, g.map = some m → m.edges.testBit (if rising then 0 else 1) = true →
    s.checkMade (hallIx m.hall) (stamp + m.offset) m.opcode m.template = .ok kind → (t.time.trg.get k).drop = g.drop ∧
    t.sched = { s.sched with mapped := mappedInsert ⟨k.val, m.hall, m.tag, stamp, stamp + m.offset, kind⟩ s.sched.mapped }

/-- A stamp keeps everything of the trigger but its FIFO. -/
theorem Trig.push_keeps (g : Trig) (stamp : Nat) : ∃ fifo ovf, (g.push stamp).1 = { g with fifo := fifo, ovf := ovf } := by
  unfold Trig.push
  split
  · exact ⟨g.fifo, true, rfl⟩
  · exact ⟨_, g.ovf, rfl⟩

theorem State.trigStamp_stamped (s : State) (k : Fin 8) (rising : Bool) (stamp : Nat) :
    s.Stamped k rising (s.time.trg.get k) stamp (s.trigStamp k rising stamp) := by
  obtain ⟨err, irqf, e, herr⟩ := s.trigStamp_eq k rising stamp
  generalize hg : s.time.trg.get k = g at *
  generalize hu : ({ s with time := { s.time with trg := s.time.trg.upd k fun _ => (g.push stamp).1, err := err }, irqf := irqf } : State) = u
    at e
  have hget : u.time.trg.get k = (g.push stamp).1 := by
    rw [← hu]
    exact Tab.get_upd_same ..
  obtain ⟨fifo, ovf, hpush⟩ := g.push_keeps stamp
  have hmap : (u.time.trg.get k).map = g.map := by rw [hget, hpush]
  have hdrop : (u.time.trg.get k).drop = g.drop := by rw [hget, hpush]
  have hsched : u.sched = s.sched := by rw [← hu]
  have hcheck : ∀ h T op p, u.checkMade h T op p = s.checkMade h T op p := by
    rw [← hu]
    exact fun _ _ _ _ => rfl
  obtain ⟨sched, trg, eshape, htrg⟩ := u.trigEvent_shape k rising stamp
  rw [e]
  refine ⟨⟨sched, trg, err, irqf, by rw [eshape, ← hu]⟩, ?_, fun hfull => ?_, fun hm => ?_, fun m hm hedge => ?_, fun m st hm hedge hc => ?_,
    fun m kind hm hedge hc => ?_⟩
  · rw [eshape]
    exact htrg.trans (by rw [hget])
  · rw [eshape, ← hu]
    exact herr hfull
  · rw [State.trigEvent_unmapped (hmap.trans hm)]
    exact ⟨hsched, hdrop⟩
  · rw [State.trigEvent_otherEdge (hmap.trans hm) hedge]
    exact ⟨hsched, hdrop⟩
  · rw [State.trigEvent_fails (hmap.trans hm) hedge ((hcheck ..).trans hc)]
    refine ⟨hsched, (congrArg Trig.drop (Tab.get_upd_same ..)).trans ?_⟩
    exact congrArg (satInc · 1) hdrop
  · rw [State.trigEvent_sends (hmap.trans hm) hedge ((hcheck ..).trans hc)]
    exact ⟨hdrop, by rw [← hsched]⟩

/-- A trigger that is on, with REFCLK counting, sees edges. -/
theorem State.edgeSeen {s : State} {g : Trig} (hen : bit g.ctrl 31 = true) (hc : s.time.counting = true) (hr : s.time.refclk = true) :
    ¬ (bit g.ctrl 31 = false ∨ s.time.counting = false ∨ s.time.refclk = false) := by simp [hen, hc, hr]

section Edge
variable {s : State} {k : Fin 8} {rising : Bool} {ns : Nat} {half : Bool} {g : Trig} {now : Nat} {at' : Int}
  (hg : g = s.time.trg.get k) (hnow : now = (g.crossing (2 * s.time.rclk) half).toNat) (hat : at' = g.crossing s.time.et half)
  (hbank : s.bankOn .sys = true) (hen : bit g.ctrl 31 = true) (hc : s.time.counting = true) (hr : s.time.refclk = true)
include hg hnow hbank hen hc hr

/-- An edge in the dead time of the one before is only counted. -/
theorem exec_triggerEdge_dead (hdead : g.dead s.ref882 now = true) : exec (.triggerEdge k rising ns half) s =
    .next ((s.updTrg k fun x => { x with level := rising }).updTrg k fun x => { x with miss := satInc x.miss 1 }) := by
  subst hg hnow
  refine (next_when hbank).trans (next_eq ?_)
  dsimp only
  refine (if_neg (State.edgeSeen hen hc hr)).trans ?_
  exact if_pos hdead

/-- One of another polarity, or that does not hold, is none. -/
theorem exec_triggerEdge_ignored (hdead : g.dead s.ref882 now = false) (hno : g.selects rising = false ∨ g.holds s.ref882 ns = false) :
    exec (.triggerEdge k rising ns half) s = .next (s.updTrg k fun x => { x with level := rising }) := by
  subst hg hnow
  refine (next_when hbank).trans (next_eq ?_)
  dsimp only
  refine (if_neg (State.edgeSeen hen hc hr)).trans ?_
  rw [if_neg (fun h => Bool.noConfusion (h.symm.trans hdead)), if_pos hno]

include hat in
/-- One that is accepted is counted, ticks the timers of its trigger, and is stamped once engine time runs. -/
theorem exec_triggerEdge_accepted (hdead : g.dead s.ref882 now = false) (hsel : g.selects rising = true) (hholds : g.holds s.ref882 ns = true) :
    exec (.triggerEdge k rising ns half) s = .next (if s.time.running = true ∧ 0 ≤ at' then
      (s.edgeAccepted k rising now).trigStamp k rising at'.toNat else s.edgeAccepted k rising now) := by
  subst hg hnow hat
  refine (next_when hbank).trans (next_eq ?_)
  dsimp only
  refine (if_neg (State.edgeSeen hen hc hr)).trans ?_
  rw [if_neg (fun h => Bool.noConfusion (h.symm.trans hdead)), if_neg (by simp [hsel, hholds])]
  rfl

end Edge

/-! ### A read of a stamp (R430) -/

theorem State.updTrg_congr {s : State} {k : Fin 8} {f f' : Trig → Trig} (h : f (s.time.trg.get k) = f' (s.time.trg.get k)) :
    s.updTrg k f = s.updTrg k f' := congrArg (fun trg => ({ s with time := { s.time with trg := trg } } : State)) (Tab.upd_congr h)

theorem State.readTrg_oldest {s : State} {k : Fin 8} {x : Nat} {xs : List Nat} (h : (s.time.trg.get k).fifo = x :: xs) :
    s.readTrg k = (s.updTrg k fun g => { g with fifo := xs, hi := 0x80000000#32 ||| word (x / 2 ^ 32 % 2 ^ 25) }, word x) := by
  unfold State.readTrg Trig.readLo
  rw [h]
  exact congrArg (·, word x) (State.updTrg_congr rfl)

theorem State.readTrg_none {s : State} {k : Fin 8} (h : (s.time.trg.get k).fifo = []) :
    s.readTrg k = (s.updTrg k fun g => { g with hi := 0#32 }, 0#32) := by
  have hlo : (s.time.trg.get k).readLo = (0#32, { s.time.trg.get k with hi := 0#32 }) := by
    unfold Trig.readLo
    split
    · rfl
    · next h' => exact absurd (h.symm.trans h') (List.cons_ne_nil _ _).symm
  unfold State.readTrg
  rw [hlo]
  exact congrArg (·, 0#32) (State.updTrg_congr rfl)

theorem State.busRead_trgTs {s : State} (i : Initiator) (k : Fin 8) :
    s.busRead i (0x40800808 + k.val * 0x20) = (s.readTrg k).1.answer (s.readTrg k).2 := by
  have hreach : s.reach i (0x40800808 + k.val * 0x20) = .ok (.trg k) 8 := by
    refine State.reach_ok i ?_ ?_ ?_ rfl rfl
    · omega
    · revert k
      decide
    · revert k
      decide
  rw [State.busRead, hreach]
  rfl

/-- Settles O54, row by row. -/
theorem referenceClockAndTriggers : Obligations.ReferenceClockAndTriggers := by
  intro s
  refine ⟨exec_refclkLost, exec_refclkRestored, fun cp hbank => ⟨exec_debugHalt_service cp hbank, exec_debugHalt_bypass cp hbank,
    next_when hbank⟩, fun x hx hbank => exec_sysAbsent hx hbank, fun k rising ns half g now at' hg hnow hat hbank hen hc hr => ?_,
    fun m h t hh ht => ⟨fun hno => ?_, fun halive hf hok hq => ?_⟩, State.forward_early, fun m ms hm hdue hrest => State.forward_front hm hdue hrest,
    fun m xs hsorted => ⟨mem_mappedInsert.mpr (.inl rfl), fun x hx => mem_mappedInsert.mpr (.inr hx), mappedInsert_length m xs,
      mappedInsert_sorted hsorted⟩, fun i k x xs hfifo => ?_, fun i k hfifo => ?_⟩
  · cases hdead : g.dead s.ref882 now with
    | true =>
      refine ⟨_, exec_triggerEdge_dead hg hnow hbank hen hc hr hdead, ?_⟩
      have hget : (((s.updTrg k fun x => { x with level := rising }).updTrg k fun x => { x with miss := satInc x.miss 1 }).time.trg.get k) =
          { g with level := rising, miss := satInc g.miss 1 } := by
        rw [hg]
        exact (Tab.get_upd_same ..).trans (congrArg (fun x : Trig => { x with miss := satInc x.miss 1 })
          (Tab.get_upd_same s.time.trg k fun x : Trig => { x with level := rising }))
      rw [hget]
      exact ⟨rfl, rfl, rfl, rfl, fun _ => ⟨rfl, rfl, rfl⟩, fun h => Bool.noConfusion h, fun h => Bool.noConfusion h⟩
    | false =>
      by_cases haccept : g.selects rising = true ∧ g.holds s.ref882 ns = true
      · obtain ⟨hsel, hholds⟩ := haccept
        refine ⟨_, exec_triggerEdge_accepted hg hnow hat hbank hen hc hr hdead hsel hholds, ?_⟩
        obtain ⟨trg, hA, htrg⟩ := s.edgeAccepted_shape k rising now
        rw [← hg] at htrg
        by_cases hstamp : s.time.running = true ∧ 0 ≤ at'
        · rw [if_pos hstamp]
          have hS := (s.edgeAccepted k rising now).trigStamp_stamped k rising at'.toNat
          generalize (s.edgeAccepted k rising now).trigStamp k rising at'.toNat = t at hS ⊢
          have hcheck : ∀ h T op p, (s.edgeAccepted k rising now).checkMade h T op p = s.checkMade h T op p := by
            rw [hA]
            exact fun _ _ _ _ => rfl
          have hget : (s.edgeAccepted k rising now).time.trg.get k = g.accepted rising now := by
            rw [hA]
            exact htrg
          rw [hget] at hS
          obtain ⟨_, _, err, _, ht⟩ := hS.shape
          rw [hA] at ht
          have hkept : t.voices = s.voices ∧ t.time.rclk = s.time.rclk ∧ t.time.et = s.time.et ∧ t.halls = s.halls ∧
              t.time.hits = setFlag s.time.hits k.val := by
            rw [ht]
            exact ⟨rfl, rfl, rfl, rfl, rfl⟩
          have hsched : (s.edgeAccepted k rising now).sched = s.sched := by rw [hA]
          clear ht hA
          obtain ⟨hvoices, hrclk, het, hhalls, hhits⟩ := hkept
          obtain ⟨fifo, ovf, hpush⟩ := (g.accepted rising now).push_keeps at'.toNat
          have htrig := hS.trig
          have hfields : (t.time.trg.get k).level = rising ∧ (t.time.trg.get k).cap = satInc g.cap 1 ∧ (t.time.trg.get k).last = some now := by
            rw [htrig, hpush]
            exact ⟨rfl, rfl, rfl⟩
          obtain ⟨hlevel, hcap, hlast⟩ := hfields
          have hlate : ¬ (s.time.running = false ∨ at' < 0) := by
            rintro (h | h)
            · exact Bool.noConfusion (h.symm.trans hstamp.1)
            · omega
          refine ⟨hlevel, hvoices, hrclk, het, fun h => Bool.noConfusion h, fun _ h => absurd h (by simp [hsel, hholds]), fun _ _ _ =>
            ⟨hcap, hlast, hhits ▸ bit_setFlag_same _ (by omega), fun h => absurd h hlate, fun _ _ hroom => ?_, fun _ _ hfull => ?_,
              hhalls, fun _ _ hm => hsched ▸ hS.unmapped hm, fun m h T pay _ _ hm hh hT hpay =>
                ⟨fun hedge => hsched ▸ hS.otherEdge m hm hedge, fun hedge hno => ?_, fun hedge hf hlen hc' => ?_⟩⟩⟩
          · rw [htrig, Trig.push_room (g := g.accepted rising now) _ hroom]
            rfl
          · rw [htrig, Trig.push_full (g := g.accepted rising now) _ hfull]
            exact ⟨rfl, rfl, hS.full hfull⟩
          · subst hh hT hpay
            obtain ⟨st, hst⟩ := State.checkMade_error hno
            exact hsched ▸ hS.fails m st hm hedge ((hcheck ..).trans hst)
          · subst hh hT hpay
            exact hsched ▸ hS.sends m _ hm hedge ((hcheck ..).trans (State.checkMade_ok hf hlen hc'))
        · rw [if_neg hstamp, hA]
          have hearly : s.time.running = true → ¬ 0 ≤ at' := fun h h' => hstamp ⟨h, h'⟩
          have hhits : bit (setFlag s.time.hits k.val) k.val = true := bit_setFlag_same _ (by omega)
          refine ⟨congrArg Trig.level htrg, rfl, rfl, rfl, fun h => Bool.noConfusion h, fun _ h => absurd h ?_, fun _ _ _ =>
            ⟨congrArg Trig.cap htrg, congrArg Trig.last htrg, hhits, fun _ => ⟨(congrArg Trig.fifo htrg).trans rfl, rfl⟩,
              fun h h' => absurd h' (hearly h),
              fun h h' => absurd h' (hearly h), rfl, fun h h' => absurd h' (hearly h), fun m h T pay hrun h' => absurd h' (hearly hrun)⟩⟩
          simp [hsel, hholds]
      · have hno : g.selects rising = false ∨ g.holds s.ref882 ns = false := by
          simpa only [Decidable.not_and_iff_not_or_not, Bool.not_eq_true] using haccept
        refine ⟨_, exec_triggerEdge_ignored hg hnow hbank hen hc hr hdead hno, ?_, rfl, rfl, rfl, fun h => Bool.noConfusion h,
          fun _ _ => rfl, fun _ hsel hholds => absurd ⟨hsel, hholds⟩ haccept⟩
        exact congrArg Trig.level (Tab.get_upd_same ..)
  · rw [ht, State.forwardOne_drops hh hno]
  · exact State.arrive_mapped s m h t (ht.trans (State.forwardOne_arrives hh halive hf hok hq))
  · refine ⟨_, next_eq (State.busRead_trgTs i k), ?_⟩
    rw [State.readTrg_oldest hfifo]
    refine ⟨rfl, ?_, ?_, rfl⟩
    · exact congrArg Trig.fifo (Tab.get_upd_same ..)
    · exact congrArg Trig.hi (Tab.get_upd_same ..)
  · exact next_eq ((State.busRead_trgTs i k).trans (by rw [State.readTrg_none hfifo]; rfl))

end Sys2Proof.Machine
end

section
/-! PROOF. MIDI and DMX are served (spec/14_serial_show_ports.md R400–R406). -/
namespace Sys2Proof.Machine

/-! ### The hall of a port's role (R28), its traffic (R400) -/

theorem State.serHall_congr {s t : State} {n : Fin 4} (hrole : (t.ser.get n).role = (s.ser.get n).role)
    (haddr : (t.ser.get n).addr = (s.ser.get n).addr)
    (hhalls : ∀ h, (t.halls.get h).binding = (s.halls.get h).binding ∧ (t.halls.get h).alive = (s.halls.get h).alive) :
    t.serHall n = s.serHall n := by
  unfold State.serHall Hall.ser?
  simp only [hrole, haddr, hhalls]

/-- The hall of a role exists. -/
theorem State.serHall_alive {s : State} {n : Fin 4} {h : Fin 8} (hh : s.serHall n = some h) : (s.halls.get h).alive = true := by
  have hfound := List.find?_some hh
  unfold Hall.ser? at hfound
  cases halive : (s.halls.get h).alive with
  | true => rfl
  | false => simp [halive] at hfound

/-- A hall of which only the keepalive may differ. -/
def Hall.Heard (x y : Hall) : Prop := ∃ kaLast kaLapsed kaSusp, y = { x with kaLast := kaLast, kaLapsed := kaLapsed, kaSusp := kaSusp }

/-- Traffic restarts the keepalive of the hall bound to the role. -/
structure State.Heard (s : State) (n : Fin 4) (t : State) : Prop where
  shape : ∃ halls, t = { s with halls := halls }
  kept : ∀ h, (s.halls.get h).Heard (t.halls.get h)
  restarted : ∀ h, s.serHall n = some h → (t.halls.get h).kaLast = s.time.rclk ∧ (t.halls.get h).kaLapsed = false
  unbound : s.serHall n = none → t = s
  bound : ∀ h, s.serHall n = some h → t = s.traffic h

theorem State.serTraffic_heard (s : State) (n : Fin 4) : s.Heard n (s.serTraffic n) := by
  unfold State.serTraffic
  cases hh : s.serHall n with
  | none => exact ⟨⟨s.halls, rfl⟩, fun h => ⟨_, _, _, rfl⟩, fun h h' => by simp [hh] at h', fun _ => rfl, fun h h' => by simp [hh] at h'⟩
  | some h =>
    have hget : ((s.traffic h).halls.get h) = { s.halls.get h with kaLast := s.time.rclk, kaLapsed := false, kaSusp := false } :=
      Tab.get_upd_same ..
    refine ⟨⟨_, rfl⟩, fun k => ?_, fun k hk => ?_, fun h' => by simp [hh] at h', fun k hk => ?_⟩
    · by_cases hkh : h = k
      · subst hkh
        exact ⟨_, _, _, hget⟩
      · exact ⟨_, _, _, Tab.get_upd_ne _ _ hkh⟩
    · rw [← Option.some.inj (hh.symm.trans hk)]
      dsimp only
      rw [hget]
      exact ⟨rfl, rfl⟩
    · rw [Option.some.inj (hh.symm.trans hk)]

/-- The hall bound to the role stays so. -/
theorem State.Heard.serHall {s t : State} {n : Fin 4} (h : s.Heard n t) : t.serHall n = s.serHall n := by
  obtain ⟨halls, e⟩ := h.shape
  refine State.serHall_congr (by rw [e]) (by rw [e]) fun k => ?_
  obtain ⟨_, _, _, hk⟩ := h.kept k
  rw [hk]
  exact ⟨rfl, rfl⟩

/-! ### MIDI (R401, R402) -/

theorem State.serDrop_port (s : State) (n : Fin 4) : ∃ err, (s.serDrop n).ser.get n =
    { s.ser.get n with dropCnt := satInc (s.ser.get n).dropCnt 1, err := err } ∧ bit err 6 = true := by
  obtain ⟨irqf, e⟩ := s.serDrop_shape n
  refine ⟨(s.ser.get n).err ||| word 64, ?_, by simp [bit, word]⟩
  rw [e]
  exact Tab.get_upd_same ..

/-- What an event of a MIDI message may change. -/
structure State.MidiMade (s : State) (n : Fin 4) (t : State) : Prop where
  shape : ∃ sched halls irqf nv mgmt ser, t = { s with sched := sched, halls := halls, irqf := irqf, nv := nv, mgmt := mgmt, ser := ser }
  halls : ∀ h, (s.halls.get h).Received (t.halls.get h)
  midi : (t.ser.get n).midi = (s.ser.get n).midi

theorem State.MidiMade.drop (s : State) (n : Fin 4) : s.MidiMade n (s.serDrop n) := by
  obtain ⟨err, hport, -⟩ := s.serDrop_port n
  obtain ⟨irqf, e⟩ := s.serDrop_shape n
  refine ⟨⟨_, _, _, _, _, _, e⟩, fun h => ?_, by rw [hport]⟩
  rw [e]
  exact .refl _

theorem State.midiMake_made (s : State) (n : Fin 4) (ts : Nat) (k : EvKind) : s.MidiMade n (s.midiMake n ts k) := by
  unfold State.midiMake
  split
  · exact .drop s n
  next h _ =>
  split
  · exact .drop s n
  extract_lets tag r
  have hr := State.Received.deliver s h 2 tag n.val ts (ts + s.lead) k
  obtain ⟨_, _, _, _, _, e⟩ := s.deliver_shape h 2 tag n.val ts (ts + s.lead) k
  split
  · exact .drop s n
  · refine ⟨⟨_, _, _, _, _, _, by rw [show r.1 = _ from e]; rfl⟩, hr.halls, ?_⟩
    have hser : r.1.ser = s.ser := by rw [show r.1 = _ from e]
    exact (congrArg Ser.midi (Tab.get_upd_same ..)).trans (by rw [hser])

/-- A message of a port that no hall has is dropped. -/
theorem State.midiMake_unbound {s : State} {n : Fin 4} (hh : s.serHall n = none) (ts : Nat) (k : EvKind) :
    s.midiMake n ts k = s.serDrop n := by
  unfold State.midiMake
  rw [hh]

/-- One that the bound hall takes is queued and counted. -/
theorem State.midiMake_arrives {s : State} {n : Fin 4} {h : Fin 8} {ts : Nat} {k : EvKind} (hh : s.serHall n = some h)
    (hok : s.midiOk h k = true) (hf : s.hallFenced h = false) (ht : s.timeOk (ts + s.lead) = true) (hq : s.queueRoom h = true) :
    s.midiMake n ts k = (s.arrive h 2 ((s.ser.get n).mapped % 65536) n.val ts (ts + s.lead) k).1.updSer n fun q =>
      { q with mapped := q.mapped + 1, msgCnt := satInc q.msgCnt 1 } := by
  have hdeliver : s.deliver h 2 ((s.ser.get n).mapped % 65536) n.val ts (ts + s.lead) k =
      ((s.arrive h 2 ((s.ser.get n).mapped % 65536) n.val ts (ts + s.lead) k).1,
        if (s.arrive h 2 ((s.ser.get n).mapped % 65536) n.val ts (ts + s.lead) k).2.2 then 1 else 0) := by
    unfold State.deliver
    rw [if_neg (by simp [State.serHall_alive hh, hf]), if_neg (by simp [ht]), if_neg (by simp [hq])]
  unfold State.midiMake
  rw [hh]
  dsimp only
  rw [if_neg (by simp [hok]), hdeliver]
  refine if_neg ?_
  dsimp only
  split <;> decide

/-- The state that a message's event finds: the message taken, the keepalive restarted. -/
def State.midiTaken (s : State) (n : Fin 4) (x : MidiMsg) (xs : List MidiMsg) : State :=
  (s.updSer n fun q => { q with midi := { ((s.ser.get n).midi.event x).1 with ready := xs } }).serTraffic n

theorem exec_midiMessage {s : State} {n : Fin 4} {x : MidiMsg} {xs : List MidiMsg} (hcp : s.cp1Runs = true) (hrole : (s.ser.get n).role = 1)
    (hready : (s.ser.get n).midi.ready = x :: xs) : exec (.midiMessage n) s = .next (match ((s.ser.get n).midi.event x).2 with
      | some k => (s.midiTaken n x xs).midiMake n x.ts k
      | none => s.midiTaken n x xs) := by
  change Host.Outcome.next _ = _
  rw [hready]
  exact next_when (by simp [hcp, hrole])

/-- A message taken: the port, and the hall bound to its role. -/
theorem State.midiTaken_heard (s : State) (n : Fin 4) (x : MidiMsg) (xs : List MidiMsg) :
    (s.updSer n fun q => { q with midi := { ((s.ser.get n).midi.event x).1 with ready := xs } }).Heard n (s.midiTaken n x xs) ∧
    (s.midiTaken n x xs).ser.get n = { s.ser.get n with midi := { ((s.ser.get n).midi.event x).1 with ready := xs } } ∧
    (s.updSer n fun q => { q with midi := { ((s.ser.get n).midi.event x).1 with ready := xs } }).serHall n = s.serHall n := by
  have hport : (s.updSer n fun q => { q with midi := { ((s.ser.get n).midi.event x).1 with ready := xs } }).ser.get n =
      { s.ser.get n with midi := { ((s.ser.get n).midi.event x).1 with ready := xs } } := Tab.get_upd_same ..
  have hheard := State.serTraffic_heard (s.updSer n fun q => { q with midi := { ((s.ser.get n).midi.event x).1 with ready := xs } }) n
  obtain ⟨halls, e⟩ := hheard.shape
  refine ⟨hheard, ?_, State.serHall_congr (by rw [hport]; rfl) (by rw [hport]) fun h => ⟨rfl, rfl⟩⟩
  rw [State.midiTaken, e]
  exact hport

/-- A start by MIDI names its program by the index. -/
theorem Midi.event_start {m : Midi} {x : MidiMsg} {k : EvKind} (hs : x.status / 16 = 9) (hk : (m.event x).2 = some k) (hv : x.d2 ≠ 0) :
    ∃ y : StartSpec, k = .start y ∧ 65536 ≤ y.handle := by
  unfold Midi.event at hk
  simp only [hs, hv, if_false] at hk
  exact ⟨_, (Option.some.inj hk).symm, Nat.le_add_right ..⟩

/-- A start whose index holds no program is dropped when it takes effect (R402). -/
theorem State.place_noProgram {s : State} {n : Fin 4} {F : Nat} {e : Ev} {y : StartSpec} (hprog : (s.hall e.hall).startProg? y.handle = none)
    (hser : (s.hall e.hall).ser? = some n) (hindex : 65536 ≤ y.handle) :
    s.place F e y = (s.updSer n fun q => { q with dropCnt := satInc q.dropCnt 1 }).serErr n 64 := by
  unfold State.place
  dsimp only
  rw [hprog]
  dsimp only
  rw [hser]
  exact if_neg (by omega)

/-! ### DMX (R403–R406) -/

/-- What the values of a packet may change: the counts of the port, controllers, flags. -/
structure State.DmxApplied (n : Fin 4) (s t : State) : Prop where
  shape : ∃ ser sched halls irqf, t = { s with ser := ser, sched := sched, halls := halls, irqf := irqf }
  port : ∃ dropCnt err, t.ser.get n = { s.ser.get n with dropCnt := dropCnt, err := err }
  halls : ∀ h, ∃ ctl, t.halls.get h = { s.halls.get h with ctl := ctl }

namespace State.DmxApplied

theorem refl (n : Fin 4) (s : State) : s.DmxApplied n s := ⟨⟨_, _, _, _, rfl⟩, ⟨_, _, rfl⟩, fun _ => ⟨_, rfl⟩⟩

theorem trans {n : Fin 4} {s t u : State} (h1 : s.DmxApplied n t) (h2 : t.DmxApplied n u) : s.DmxApplied n u := by
  obtain ⟨_, _, _, _, e1⟩ := h1.shape
  obtain ⟨_, _, _, _, e2⟩ := h2.shape
  obtain ⟨_, _, p1⟩ := h1.port
  obtain ⟨_, _, p2⟩ := h2.port
  refine ⟨⟨_, _, _, _, by rw [e2, e1]⟩, ⟨_, _, by rw [p2, p1]⟩, fun h => ?_⟩
  obtain ⟨_, k1⟩ := h1.halls h
  obtain ⟨_, k2⟩ := h2.halls h
  exact ⟨_, by rw [k2, k1]⟩

theorem foldl {β : Type} {n : Fin 4} {f : State → β → State} (hf : ∀ (u : State) x, u.DmxApplied n (f u x)) (l : List β) (s : State) :
    s.DmxApplied n (l.foldl f s) := by
  induction l generalizing s with
  | nil => exact refl n s
  | cons x l ih => exact (hf s x).trans (ih _)

end State.DmxApplied

/-- The ramp that a patched value sets (R170, R174). -/
def State.dmxLine (s : State) (T : Nat) (e : Patch) (v : Int) : LineEv :=
  { src := .dmx, key := cpKey T 0, t := T, ramp := true, v := v, dur := (rdiv ((e.smooth * feHz s.fe882 * 512 : Nat) : Int) 1000).toNat }

/-- A ramp of a controller (R170, R174, R405). -/
theorem State.dmxRamp_shape (s : State) (T : Nat) (e : Patch) (v : Int) : ∃ irqf, s.dmxRamp T e v =
    { s.updHall (hallIx e.hall) fun h =>
        { h with ctl := h.ctl.upd (Fin.ofNat 32 e.ctl) fun c => (c.1, lineInsert (s.dmxLine T e v) c.2) } with
      sched := { s.sched with guar := setFlag s.sched.guar 5 }, irqf := irqf } := State.guar_shape _ 5

theorem State.dmxRamp_ctl (s : State) (T : Nat) (e : Patch) (v : Int) : ((s.dmxRamp T e v).halls.get (hallIx e.hall)).ctl =
    (s.halls.get (hallIx e.hall)).ctl.upd (Fin.ofNat 32 e.ctl) fun c => (c.1, lineInsert (s.dmxLine T e v) c.2) := by
  obtain ⟨irqf, h⟩ := s.dmxRamp_shape T e v
  rw [h]
  exact congrArg Hall.ctl (Tab.get_upd_same ..)

theorem State.dmxRamp_applied (n : Fin 4) (s : State) (T : Nat) (e : Patch) (v : Int) : s.DmxApplied n (s.dmxRamp T e v) := by
  obtain ⟨irqf, h⟩ := s.dmxRamp_shape T e v
  rw [h]
  refine ⟨⟨_, _, _, _, rfl⟩, ⟨_, _, rfl⟩, fun k => ?_⟩
  by_cases hk : hallIx e.hall = k
  · subst hk
    exact ⟨_, Tab.get_upd_same ..⟩
  · exact ⟨_, Tab.get_upd_ne _ _ hk⟩

theorem State.dmxApply_applied (n : Fin 4) (old new : Dmx) (T : Nat) (s : State) (e : Patch) : s.DmxApplied n (s.dmxApply n old new T e) := by
  unfold State.dmxApply
  split
  · exact .refl n s
  split
  · obtain ⟨err, hport, -⟩ := s.serDrop_port n
    obtain ⟨irqf, h⟩ := s.serDrop_shape n
    exact ⟨⟨_, _, _, _, h⟩, ⟨_, _, hport⟩, fun k => ⟨_, by rw [h]; rfl⟩⟩
  · exact State.dmxRamp_applied ..

/-- The slots of the role after a packet, the packet taken. -/
def Dmx.taken (d : Dmx) (x : Nat × List Byte) (xs : List (Nat × List Byte)) : Dmx := { d.take x.1 x.2 with ready := xs }

/-- A packet changes a patched value. -/
def Dmx.changes (d : Dmx) (x : Nat × List Byte) (xs : List (Nat × List Byte)) : Bool := d.patch.any fun e => d.value e != (d.taken x xs).value e

theorem Dmx.taken_value (d : Dmx) (x : Nat × List Byte) (xs : List (Nat × List Byte)) (e : Patch) :
    (d.taken x xs).value e = (d.take x.1 x.2).value e := rfl

/-- The port with the packet taken and counted. -/
def Ser.dmxTaken (p : Ser) (x : Nat × List Byte) (xs : List (Nat × List Byte)) : Ser :=
  { p with dmx := p.dmx.taken x xs, pktCnt := satInc p.pktCnt 1, mapped := p.mapped + (if p.dmx.changes x xs then 1 else 0),
           msgCnt := satInc p.msgCnt (if p.dmx.changes x xs then 1 else 0) }

/-- The state that a packet's values find: the packet taken and counted, the keepalive restarted. -/
def State.dmxTaken (s : State) (n : Fin 4) (x : Nat × List Byte) (xs : List (Nat × List Byte)) : State :=
  (s.updSer n fun p => { p with dmx := (s.ser.get n).dmx.taken x xs, pktCnt := satInc p.pktCnt 1,
                                mapped := p.mapped + (if (s.ser.get n).dmx.changes x xs then 1 else 0),
                                msgCnt := satInc p.msgCnt (if (s.ser.get n).dmx.changes x xs then 1 else 0) }).serTraffic n

theorem exec_dmxPacket {s : State} {n : Fin 4} {x : Nat × List Byte} {xs : List (Nat × List Byte)} (hcp : s.cp1Runs = true)
    (hrole : (s.ser.get n).role = 2) (hready : (s.ser.get n).dmx.ready = x :: xs) : exec (.dmxPacket n) s =
      .next ((s.ser.get n).dmx.patch.foldl
        (fun u e => u.dmxApply n (s.ser.get n).dmx ((s.ser.get n).dmx.taken x xs) (u.dmxPoint x.1) e) (s.dmxTaken n x xs)) := by
  change Host.Outcome.next _ = _
  rw [hready]
  exact next_when (by simp [hcp, hrole])

/-- A packet taken: the port, and the hall bound to its role. -/
theorem State.dmxTaken_heard (s : State) (n : Fin 4) (x : Nat × List Byte) (xs : List (Nat × List Byte)) :
    (s.dmxTaken n x xs).ser.get n = (s.ser.get n).dmxTaken x xs ∧ (∃ ser halls, s.dmxTaken n x xs = { s with ser := ser, halls := halls }) ∧
    (∀ h, (s.halls.get h).Heard ((s.dmxTaken n x xs).halls.get h)) ∧
    ∀ h, s.serHall n = some h → ((s.dmxTaken n x xs).halls.get h).kaLast = s.time.rclk ∧ ((s.dmxTaken n x xs).halls.get h).kaLapsed = false := by
  unfold State.dmxTaken
  generalize hu : s.updSer n _ = u
  have hport : u.ser.get n = (s.ser.get n).dmxTaken x xs := by
    rw [← hu]
    exact Tab.get_upd_same ..
  obtain ⟨ser, hser⟩ : ∃ ser, u = { s with ser := ser } := ⟨_, hu.symm⟩
  have hall : u.serHall n = s.serHall n := by
    refine State.serHall_congr (by rw [hport]; rfl) (by rw [hport]; rfl) fun h => ?_
    rw [hser]
    exact ⟨rfl, rfl⟩
  have hheard := u.serTraffic_heard n
  have hrestarted := hheard.restarted
  have hkept := hheard.kept
  obtain ⟨halls, e⟩ := hheard.shape
  rw [hall] at hrestarted
  clear hu
  subst hser
  exact ⟨by rw [e]; exact hport, ⟨_, halls, e⟩, hkept, hrestarted⟩

theorem State.dmxApply_same {s : State} {n : Fin 4} {old new : Dmx} {T : Nat} {e : Patch} (h : old.value e = new.value e) :
    s.dmxApply n old new T e = s := if_pos h

/-- A changed value of a hall that is there and not fenced is ramped to. -/
theorem State.dmxApply_ramps {s : State} {n : Fin 4} {old new : Dmx} {T : Nat} {e : Patch} (h : old.value e ≠ new.value e)
    (halive : (s.hall e.hall).alive = true) (hf : s.hallFenced (hallIx e.hall) = false) :
    s.dmxApply n old new T e = s.dmxRamp T e (new.value e) := by
  unfold State.dmxApply
  rw [if_neg h, if_neg (by simp [halive, hf])]

/-- A packet that changes no patched value reaches no hall's controllers. -/
theorem dmxApply_unchanged {l : List Patch} {n : Fin 4} {old new : Dmx} {at_ : State → Nat} (h : ∀ e ∈ l, old.value e = new.value e) (s : State) :
    l.foldl (fun u e => u.dmxApply n old new (at_ u) e) s = s := by
  induction l with
  | nil => rfl
  | cons e l ih =>
    rw [List.foldl_cons, State.dmxApply_same (h e List.mem_cons_self)]
    exact ih fun e' he' => h e' (List.mem_cons_of_mem _ he')

/-- 1.25 s without a packet (R406). -/
theorem exec_dmxLoss {s : State} {n : Fin 4} (hrun : s.time.running = true) (hrole : (s.ser.get n).role = 2)
    (hloss : (s.ser.get n).dmx.loss = false) (hlate : (s.ser.get n).dmx.last + 640 * feHz s.fe882 ≤ s.time.et) :
    ∃ t : State, exec (.dmxLoss n) s = .next t ∧ (t.ser.get n).dmx = { (s.ser.get n).dmx with loss := true } ∧ bit (t.ser.get n).err 7 = true ∧
      (∃ e ∈ t.mgmt.volLog, e.code = 0x0603) ∧ t.halls = s.halls ∧ t.voices = s.voices := by
  refine ⟨_, next_when (by simp [hrun, hrole, hloss, hlate]), ?_⟩
  generalize ((s.serHall n).map (·.val)) = hall
  generalize hu : (s.updSer n fun p => { p with dmx := { p.dmx with loss := true } }) = u
  have hport : u.ser.get n = { s.ser.get n with dmx := { (s.ser.get n).dmx with loss := true } } := by
    rw [← hu]
    exact Tab.get_upd_same ..
  have hkept : u.halls = s.halls ∧ u.voices = s.voices := by
    rw [← hu]
    exact ⟨rfl, rfl⟩
  obtain ⟨irqf, e⟩ := u.serErr_shape n 128
  have hser : (u.serErr n 128).ser.get n = { u.ser.get n with err := (u.ser.get n).err ||| word 128 } := by
    rw [e]
    exact Tab.get_upd_same ..
  obtain ⟨nv, mgmt, hlog, -⟩ := (u.serErr n 128).log_shape 0x0603 hall [byte n.val]
  obtain ⟨pre, ent, hlast, hcode, -⟩ := (u.serErr n 128).log_last 0x0603 hall (data := [byte n.val]) (by simp)
  refine ⟨?_, ?_, ⟨ent, ?_, hcode⟩, ?_, ?_⟩
  · rw [hlog]
    exact (congrArg Ser.dmx hser).trans (by rw [hport])
  · rw [hlog]
    exact (congrArg (fun p : Ser => bit p.err 7) hser).trans (by simp [bit, word])
  · rw [hlast]
    exact List.mem_append_right _ (List.mem_singleton_self ent)
  · rw [hlog, e]
    exact hkept.1
  · rw [hlog, e]
    exact hkept.2

end Sys2Proof.Machine
end

section
/-! PROOF. The RDM responder (spec/14_serial_show_ports.md R407–R409), and the serial roles together. -/
namespace Sys2Proof.Machine

/-! ### RDM (R407, R408) -/

/-- A request takes nothing from the list of requests. -/
theorem State.rdmDo_rdm (s : State) (n : Fin 4) (d : Dmx) (r : RdmReq) : (s.rdmDo n d r).1.rdm = d.rdm := by
  unfold State.rdmDo
  extract_lets known v16
  clear_value known v16
  split
  case h_9 => split <;> rfl
  case h_11 => split <;> rfl
  all_goals rfl

/-- GET of the start address. -/
theorem State.rdmDo_getStart {s : State} {n : Fin 4} {d : Dmx} {r : RdmReq} (hcc : r.cc = 0x20) (hpid : r.pid = 0x00F0) :
    s.rdmDo n d r = (d, .ack (bigEnd 2 d.start)) := by
  unfold State.rdmDo
  rw [hcc, hpid]
  rfl

/-- SET of the start address. -/
theorem State.rdmDo_setStart {s : State} {n : Fin 4} {d : Dmx} {r : RdmReq} {v : Nat} (hcc : r.cc = 0x30) (hpid : r.pid = 0x00F0)
    (hlen : r.data.length = 2) (hv : v = beNat r.data) (h1 : 1 ≤ v) (h512 : v ≤ 512) (hfoot : v + d.foot ≤ 513)
    (hfit : slotsFit v d.patch = true) : s.rdmDo n d r = ({ d with start := v }, .ack []) := by
  have htake : beNat (r.data.take 2) = v := by rw [← hlen, List.take_length, hv]
  unfold State.rdmDo
  rw [hcc, hpid, htake]
  exact if_pos ⟨hlen, h1, h512, hfoot, hfit⟩

/-- What a request changes: the ports, the log; of its own port's role, the data that the request has left. -/
structure State.RdmServed (s : State) (n : Fin 4) (d : Dmx) (t : State) : Prop where
  shape : ∃ ser nv mgmt fresh, t = { s with ser := ser, nv := nv, mgmt := mgmt, fresh := fresh }
  dmx : (t.ser.get n).dmx = d

theorem State.rdmServe_served (s : State) (n : Fin 4) (r : RdmReq) : s.RdmServed n (s.rdmDo n (s.ser.get n).dmx r).1 (s.rdmServe n r) := by
  unfold State.rdmServe
  extract_lets d
  generalize s.rdmDo n d r = x
  obtain ⟨d', a⟩ := x
  dsimp -zeta only
  extract_lets u v
  have hserved : s.RdmServed n d' u := ⟨⟨_, _, _, _, rfl⟩, congrArg Ser.dmx (Tab.get_upd_same ..)⟩
  clear_value u
  have hlogged : s.RdmServed n d' v := by
    simp only [v]
    split
    · obtain ⟨_, _, e, -⟩ := u.log_shape 0x0605 none [byte n.val, if d'.ident then 1#8 else 0#8]
      obtain ⟨_, _, _, _, eu⟩ := hserved.shape
      rw [e]
      exact ⟨⟨_, _, _, _, by rw [eu]⟩, hserved.dmx⟩
    · exact hserved
  clear_value v
  split
  · split
    · exact hlogged
    · obtain ⟨_, _, _, _, ev⟩ := hlogged.shape
      refine ⟨⟨_, _, _, _, by rw [ev]; rfl⟩, (congrArg Ser.dmx (Tab.get_upd_same ..)).trans hlogged.dmx⟩
  · exact hlogged

theorem State.us64_mono (s : State) {a b : Nat} (h : a ≤ b) : s.us64 a ≤ s.us64 b := by
  unfold State.us64 State.edgesUs
  exact Nat.mul_le_mul_left _ (Nat.div_le_div_right (Nat.add_le_add_right (Nat.mul_le_mul_right _ h) _))

/-- A response begins between 200 µs and 400 µs after its request (R408). -/
theorem State.rdmSend_sends (s : State) (n : Fin 4) (bs : List Byte) (found : Bool) : ((s.rdmSend n bs found).ser.get n).sent = bs ∧
    s.line64 false + s.us64 200 ≤ ((s.rdmSend n bs found).ser.get n).txFrom + s.us64 4 ∧
    ((s.rdmSend n bs found).ser.get n).txFrom + s.us64 4 ≤ s.line64 false + s.us64 400 := by
  have hdelay : Config.rdmDelay s.fresh % 201 ≤ 200 := Nat.le_of_lt_succ (Nat.mod_lt _ (by decide))
  have hport : ((s.rdmSend n bs found).ser.get n).sent = bs ∧
      ((s.rdmSend n bs found).ser.get n).txFrom = s.line64 false + s.us64 (200 + Config.rdmDelay s.fresh % 201) - s.us64 4 := by
    unfold State.rdmSend
    extract_lets start first
    have hget := Tab.get_upd_same s.ser n fun p => { p with
      sent := bs, txFrom := start - s.us64 4, txTo := start + first + bs.length * p.charBits * p.div + s.us64 4 }
    exact ⟨congrArg Ser.sent hget, congrArg Ser.txFrom hget⟩
  generalize Config.rdmDelay s.fresh % 201 = delay at hdelay hport
  have h4 := s.us64_mono (show 4 ≤ 200 by decide)
  have hlo := s.us64_mono (show 200 ≤ 200 + delay by omega)
  have hhi := s.us64_mono (show 200 + delay ≤ 400 by omega)
  exact ⟨hport.1, by omega, by omega⟩

/-- GET of the start address is answered with it. -/
theorem State.rdmServe_getStart {s : State} {n : Fin 4} {r : RdmReq} (hcc : r.cc = 0x20) (hpid : r.pid = 0x00F0) (hcast : r.bcast = false)
    (hrx : (s.ser.get n).rx ≠ .fenced) (hbank : s.bankOn .ser = true) :
    s.rdmServe n r = s.rdmSend n (s.rdmPacket n r 0 (bigEnd 2 (s.ser.get n).dmx.start)) false := by
  have hsame : (s.updSer n fun p => { p with dmx := (s.ser.get n).dmx }) = s :=
    congrArg (fun ser => { s with ser := ser }) (Tab.upd_eq_self _ _ rfl)
  unfold State.rdmServe
  dsimp only
  rw [State.rdmDo_getStart hcc hpid]
  rw [hsame, if_neg (fun h => by simp [hcc] at h), State.rdmAnswer, hcast]
  dsimp only
  rw [if_neg Bool.false_ne_true]
  dsimp only
  rw [if_neg (by simp [hrx, hbank])]
  rfl

/-- The oldest request is taken; what comes of it. -/
theorem exec_rdmRequest {s : State} {n : Fin 4} {x : Nat × List Byte} {xs : List (Nat × List Byte)} (hcp : s.cp1Runs = true)
    (hrole : (s.ser.get n).role = 2) (hready : (s.ser.get n).dmx.rdm = x :: xs) : ∃ u : State,
    u = (s.updSer n fun p => { p with dmx := { p.dmx with rdm := xs } }) ∧
    (rdmBad x.2 = true → exec (.rdmRequest n) s = .next (u.serDrop n)) ∧
    (rdmBad x.2 = false → s.rdmReq n x.2 = none → exec (.rdmRequest n) s = .next u) ∧
    ∀ r, rdmBad x.2 = false → s.rdmReq n x.2 = some r → exec (.rdmRequest n) s = .next (u.rdmServe n r) := by
  refine ⟨_, rfl, ?_⟩
  have hexec : exec (.rdmRequest n) s = .next (
      let u := s.updSer n fun p => { p with dmx := { p.dmx with rdm := xs } }
      if rdmBad x.2 then u.serDrop n else match u.rdmReq n x.2 with
        | some r => u.rdmServe n r
        | none => u) := by
    change Host.Outcome.next _ = _
    rw [hready]
    exact next_when (by simp [hcp, hrole])
  have hreq : (s.updSer n fun p => { p with dmx := { p.dmx with rdm := xs } }).rdmReq n x.2 = s.rdmReq n x.2 := rfl
  refine ⟨fun hbad => ?_, fun hgood hnone => ?_, fun r hgood hr => ?_⟩
  · exact hexec.trans (next_eq (if_pos hbad))
  · refine hexec.trans (next_eq ((if_neg (fun h => Bool.noConfusion (hgood.symm.trans h))).trans ?_))
    rw [hreq, hnone]
  · refine hexec.trans (next_eq ((if_neg (fun h => Bool.noConfusion (hgood.symm.trans h))).trans ?_))
    rw [hreq, hr]

/-! ### The roles together -/

theorem State.MidiMade.leaves {s t : State} {n : Fin 4} (h : s.MidiMade n t) : t.time = s.time ∧ t.voices = s.voices := by
  obtain ⟨_, _, _, _, _, _, e⟩ := h.shape
  rw [e]
  exact ⟨rfl, rfl⟩

/-- A MIDI message at work. -/
theorem exec_midiMessage_serves {s : State} {n : Fin 4} {p : Ser} {x : MidiMsg} {xs : List MidiMsg} (hp : p = s.ser.get n)
    (hcp : s.cp1Runs = true) (hrole : p.role = 1) (hready : p.midi.ready = x :: xs) : ∃ t : State, exec (.midiMessage n) s = .next t ∧
      (t.ser.get n).midi.ready = xs ∧ t.time = s.time ∧ t.voices = s.voices ∧
      (∀ h, s.serHall n = some h → (t.halls.get h).kaLast = s.time.rclk ∧ (t.halls.get h).kaLapsed = false) ∧
      (s.serHall n = none → (p.midi.event x).2.isSome = true →
        (t.ser.get n).dropCnt = satInc p.dropCnt 1 ∧ bit (t.ser.get n).err 6 = true ∧ t.halls = s.halls) ∧
      (∀ h k u, s.serHall n = some h → (p.midi.event x).2 = some k →
        u = (s.updSer n fun q => { q with midi := { (p.midi.event x).1 with ready := xs } }).traffic h →
        u.midiOk h k = true → u.hallFenced h = false → u.timeOk (x.ts + u.lead) = true → u.queueRoom h = true →
        t = (u.arrive h 2 (p.mapped % 65536) n.val x.ts (x.ts + u.lead) k).1.updSer n fun q =>
          { q with mapped := q.mapped + 1, msgCnt := satInc q.msgCnt 1 }) ∧
      ((p.midi.event x).2 = none → (t.ser.get n).dropCnt = p.dropCnt ∧ (t.ser.get n).mapped = p.mapped) := by
  subst hp
  obtain ⟨hheard, hport, hhall⟩ := s.midiTaken_heard n x xs
  have hbound := hheard.serHall.trans hhall
  have hexec := exec_midiMessage hcp hrole hready
  generalize s.midiTaken n x xs = u at hheard hport hbound hexec
  have hkept : u.time = s.time ∧ u.voices = s.voices := by
    obtain ⟨_, e⟩ := hheard.shape
    rw [e]
    exact ⟨rfl, rfl⟩
  have hrestarted : ∀ h, s.serHall n = some h → (u.halls.get h).kaLast = s.time.rclk ∧ (u.halls.get h).kaLapsed = false :=
    fun h hh => hheard.restarted h (hhall.trans hh)
  refine ⟨_, hexec, ?_⟩
  cases hk : ((s.ser.get n).midi.event x).2 with
  | none =>
    refine ⟨by rw [hport], hkept.1, hkept.2, hrestarted, fun _ h => by simp at h, fun h k u' _ h => by simp at h, fun _ => ?_⟩
    rw [hport]
    exact ⟨rfl, rfl⟩
  | some k =>
    have hmade := u.midiMake_made n x.ts k
    refine ⟨?_, hmade.leaves.1.trans hkept.1, hmade.leaves.2.trans hkept.2, fun h hh => ?_, fun hh _ => ?_, fun h k' u' hh hk' hu' hok hf ht hq => ?_,
      fun h => by simp at h⟩
    · rw [hmade.midi, hport]
    · obtain ⟨_, _, _, _, e⟩ := hmade.halls h
      dsimp only
      rw [e]
      exact hrestarted h hh
    · obtain ⟨err, hdrop, herr⟩ := u.serDrop_port n
      have hhalls : (u.serDrop n).halls = s.halls := by
        obtain ⟨irqf, e⟩ := u.serDrop_shape n
        rw [e, hheard.unbound (hhall.trans hh)]
        rfl
      dsimp only
      rw [State.midiMake_unbound (hbound.trans hh), hdrop, hport]
      exact ⟨rfl, herr, hhalls⟩
    · obtain rfl : k = k' := Option.some.inj hk'
      obtain rfl : u = u' := (hheard.bound h (hhall.trans hh)).trans hu'.symm
      dsimp only
      rw [State.midiMake_arrives (hbound.trans hh) hok hf ht hq, hport]

/-- A DMX packet at work. -/
theorem exec_dmxPacket_serves {s : State} {n : Fin 4} {p : Ser} {x : Nat × List Byte} {xs : List (Nat × List Byte)} (hp : p = s.ser.get n)
    (hcp : s.cp1Runs = true) (hrole : p.role = 2) (hready : p.dmx.ready = x :: xs) : ∃ t : State, exec (.dmxPacket n) s = .next t ∧
      (t.ser.get n).dmx = { p.dmx.take x.1 x.2 with ready := xs } ∧ (t.ser.get n).pktCnt = satInc p.pktCnt 1 ∧
      t.time = s.time ∧ t.voices = s.voices ∧
      (∀ h, s.serHall n = some h → (t.halls.get h).kaLast = s.time.rclk ∧ (t.halls.get h).kaLapsed = false) ∧
      ((∀ e ∈ p.dmx.patch, p.dmx.value e = (p.dmx.take x.1 x.2).value e) → (t.ser.get n).mapped = p.mapped ∧ t.irqf = s.irqf ∧
        ∀ h : Fin 8, (t.halls.get h).ctl = (s.halls.get h).ctl) ∧
      (∀ e, p.dmx.patch = [e] → p.dmx.value e ≠ (p.dmx.take x.1 x.2).value e → (s.hall e.hall).alive = true →
        s.hallFenced (hallIx e.hall) = false → (t.ser.get n).mapped = p.mapped + 1 ∧
        (t.halls.get (hallIx e.hall)).ctl = ((s.dmxRamp (s.dmxPoint x.1) e ((p.dmx.take x.1 x.2).value e)).halls.get (hallIx e.hall)).ctl) := by
  subst hp
  obtain ⟨hport, ⟨ser, halls, hshape⟩, hheard, hrestarted⟩ := s.dmxTaken_heard n x xs
  have hexec := exec_dmxPacket hcp hrole hready
  generalize s.dmxTaken n x xs = u at hport hshape hheard hrestarted hexec
  refine ⟨_, hexec, ?_⟩
  have happlied := State.DmxApplied.foldl (n := n)
    (fun u e => State.dmxApply_applied n (s.ser.get n).dmx ((s.ser.get n).dmx.taken x xs) (u.dmxPoint x.1) u e) (s.ser.get n).dmx.patch u
  obtain ⟨_, _, hfinal⟩ := happlied.port
  have hkept : u.time = s.time ∧ u.voices = s.voices ∧ u.irqf = s.irqf := by
    rw [hshape]
    exact ⟨rfl, rfl, rfl⟩
  refine ⟨?_, ?_, ?_, ?_, fun h hh => ?_, fun hsame => ?_, fun e hpatch hdiff halive hf => ?_⟩
  · rw [hfinal, hport]
    rfl
  · rw [hfinal, hport]
    rfl
  · obtain ⟨_, _, _, _, e⟩ := happlied.shape
    rw [e]
    exact hkept.1
  · obtain ⟨_, _, _, _, e⟩ := happlied.shape
    rw [e]
    exact hkept.2.1
  · obtain ⟨_, e⟩ := happlied.halls h
    rw [e]
    exact hrestarted h hh
  · have hnone : (s.ser.get n).dmx.changes x xs = false := by
      refine List.any_eq_false.mpr fun e he => ?_
      rw [Dmx.taken_value, hsame e he]
      simp
    rw [dmxApply_unchanged (new := (s.ser.get n).dmx.taken x xs) (at_ := fun u => u.dmxPoint x.1) hsame, hport, Ser.dmxTaken, hnone]
    refine ⟨rfl, hkept.2.2, fun h => ?_⟩
    obtain ⟨_, _, _, e⟩ := hheard h
    rw [e]
  · have hone : (s.ser.get n).dmx.changes x xs = true := by
      rw [Dmx.changes, hpatch]
      simpa [Dmx.taken_value] using hdiff
    have hctl : (u.halls.get (hallIx e.hall)).ctl = (s.halls.get (hallIx e.hall)).ctl := by
      obtain ⟨_, _, _, e⟩ := hheard (hallIx e.hall)
      rw [e]
    have halive' : (u.hall e.hall).alive = true := by
      obtain ⟨_, _, _, eh⟩ := hheard (hallIx e.hall)
      rw [State.hall, eh]
      exact halive
    have hf' : u.hallFenced (hallIx e.hall) = false := by
      obtain ⟨_, _, _, eh⟩ := hheard (hallIx e.hall)
      rw [State.hallFenced, eh]
      rw [hshape]
      exact hf
    refine ⟨?_, ?_⟩
    · rw [hfinal, hport, Ser.dmxTaken, hone]
      rfl
    · rw [hpatch]
      change ((State.dmxApply u n _ _ (u.dmxPoint x.1) e).halls.get (hallIx e.hall)).ctl = _
      rw [State.dmxApply_ramps (new := (s.ser.get n).dmx.taken x xs) hdiff halive' hf', State.dmxRamp_ctl, State.dmxRamp_ctl, hctl, hshape]
      rfl

theorem State.RdmServed.leaves {s t : State} {n : Fin 4} {d : Dmx} (h : s.RdmServed n d t) :
    t.halls = s.halls ∧ t.voices = s.voices ∧ t.mem = s.mem := by
  obtain ⟨_, _, _, _, e⟩ := h.shape
  rw [e]
  exact ⟨rfl, rfl, rfl⟩

/-- Settles O48, row by row. -/
theorem serialRolesAreServed : Obligations.SerialRolesAreServed := by
  refine ⟨fun s n p hp => ⟨fun x xs => exec_midiMessage_serves hp, fun x k => Midi.event_start, fun F e y => State.place_noProgram,
    fun x xs => exec_dmxPacket_serves hp, fun e T v k hk => ⟨_, rfl, ?_, ?_⟩, fun hrun hrole hloss hlate => ?_⟩,
    fun s n p x xs hp hcp hrole hready => ?_⟩
  · rw [hk]
    exact State.dmxRamp_ctl ..
  · obtain ⟨irqf, h⟩ := s.dmxRamp_shape T e v
    rw [h]
    exact bit_setFlag_same _ (by decide)
  · subst hp
    exact exec_dmxLoss hrun hrole hloss hlate
  · subst hp
    obtain ⟨u, hu, hdropped, hother, hserved⟩ := exec_rdmRequest hcp hrole hready
    have hport : u.ser.get n = { s.ser.get n with dmx := { (s.ser.get n).dmx with rdm := xs } } := by
      rw [hu]
      exact Tab.get_upd_same ..
    have hkept : u.halls = s.halls ∧ u.voices = s.voices ∧ u.mem = s.mem := by
      rw [hu]
      exact ⟨rfl, rfl, rfl⟩
    obtain ⟨hhalls, hvoices, hmem⟩ := hkept
    cases hbad : rdmBad x.2 with
    | true =>
      obtain ⟨err, hdrop, -⟩ := u.serDrop_port n
      obtain ⟨irqf, e⟩ := u.serDrop_shape n
      refine ⟨_, hdropped hbad, ?_, ?_, ?_, ?_, fun _ => ?_, fun h => Bool.noConfusion h, fun r h => Bool.noConfusion h,
        fun r v h => Bool.noConfusion h⟩
      · rw [hdrop, hport]
      · rw [e]
        exact hhalls
      · rw [e]
        exact hvoices
      · rw [e]
        exact hmem
      · rw [hdrop, hport]
        exact ⟨rfl, rfl⟩
    | false =>
      cases hreq : s.rdmReq n x.2 with
      | none =>
        exact ⟨u, hother hbad hreq, by rw [hport], hhalls, hvoices, hmem, fun h => Bool.noConfusion h, fun _ _ => hu,
          fun r _ h => by simp at h, fun r v _ h => by simp at h⟩
      | some r =>
        have hserve := u.rdmServe_served n r
        obtain ⟨hh, hv, hm⟩ := hserve.leaves
        refine ⟨_, hserved r hbad hreq, ?_, hh.trans hhalls, hv.trans hvoices, hm.trans hmem, fun h => Bool.noConfusion h,
          fun _ h => by simp at h, fun r' _ hr hcast hcc hpid hrx hbank => ?_, fun r' v _ hr hcc hpid hlen hv h1 h512 hfoot hfit => ?_⟩
        · rw [hserve.dmx, State.rdmDo_rdm, hport]
        · obtain rfl : r = r' := Option.some.inj hr
          have hbank' : u.bankOn .ser = true := by
            rw [hu]
            exact hbank
          have hdmx := hserve.dmx
          rw [State.rdmDo_getStart hcc hpid] at hdmx
          rw [State.rdmServe_getStart hcc hpid hcast (by rw [hport]; exact hrx) hbank'] at hdmx ⊢
          obtain ⟨hsent, hfrom, hto⟩ := u.rdmSend_sends n (u.rdmPacket n r 0 (bigEnd 2 (u.ser.get n).dmx.start)) false
          refine ⟨hsent.trans ?_, hdmx.trans (by rw [hport]), ?_, ?_⟩
          · rw [hport, hu]
            rfl
          · rw [hu] at hfrom ⊢
            exact hfrom
          · rw [hu] at hto ⊢
            exact hto
        · obtain rfl : r = r' := Option.some.inj hr
          rw [hserve.dmx, State.rdmDo_setStart hcc hpid hlen hv h1 h512 (by rw [hport]; exact hfoot) (by rw [hport]; exact hfit), hport]

end Sys2Proof.Machine
end
